-- ==== Sys2Proof/Word.lean ====
section
/-! DEFINITION. The word types of the X3-H and the two finite-map types that State is made of. -/

namespace Sys2Proof

/-- A 64-bit scalar value (R30). -/
abbrev Word := BitVec 64

/-- One byte of memory (R2). -/
abbrev Byte := BitVec 8

/-- One 32-bit value of a vector register in one lane (R30). -/
abbrev Lane := BitVec 32

/-- A set of lanes: bit l stands for lane l (R2, R30). -/
abbrev LaneMask := BitVec 32

/-- A finite map from numbers to `w`-bit values in canonical form: keys rise strictly and no listed
value is zero, so that an unlisted key reads as zero and equal maps are equal lists. -/
abbrev SMap (w : Nat) := List (Nat × BitVec w)

/-- A finite map from numbers to records, keys rising strictly. An unlisted key holds nothing. -/
abbrev KMap (α : Type) := List (Nat × α)

end Sys2Proof
end

