-- ==== Sys2Proof/Machine/Flags.lean ====
section
/-! DEFINITION. The sticky flags of `sflags` (R128, R133, R134). -/

namespace Sys2Proof.Machine

/-- The seven flags, bit 0 SAT to bit 6 POISON (R133). -/
abbrev Flags := BitVec 7

def fSAT : Flags := 1
def fINV : Flags := 2
def fDZ : Flags := 4
def fOVF : Flags := 8
def fUNF : Flags := 16
def fINX : Flags := 32
def fPOISON : Flags := 64

/-- `f` where the condition holds, else no flag. -/
def flagIf (c : Bool) (f : Flags) : Flags := if c then f else 0

/-- Hardware only sets flag bits (R134). -/
def orFlags (sf : BitVec 64) (f : Flags) : BitVec 64 := sf ||| f.zeroExtend 64

/-- The flags set and armed: bits [6:0] AND bits [14:8] (R135, R334). -/
def armedFlags (sf : BitVec 64) : Flags := sf.extractLsb' 0 7 &&& sf.extractLsb' 8 7

/-- The writable bits of `sflags` (R133): reserved bits 7 and 15 to 63 are ignored and read zero (R410). -/
def sflagsMask : BitVec 64 := 0x7F7F

end Sys2Proof.Machine
end

