-- ==== Sys2Proof/Machine/Maps.lean ====
section
/-! DEFINITION. Finite maps in canonical form, sets of numbers, bit fields and byte strings: the
helpers every other file of the machine uses (R2). -/

namespace Sys2Proof

/-- The record under key `k`, if any. -/
def kget {α : Type} : KMap α → Nat → Option α
  | [], _ => none
  | (a, x) :: r, k => if a = k then some x else kget r k

/-- The map with `x` under key `k`. -/
def kset {α : Type} : KMap α → Nat → α → KMap α
  | [], k, x => [(k, x)]
  | (a, y) :: r, k, x =>
    if a < k then (a, y) :: kset r k x
    else if a = k then (k, x) :: r
    else (k, x) :: (a, y) :: r

/-- The map with nothing under key `k`. -/
def kdel {α : Type} (m : KMap α) (k : Nat) : KMap α := m.filter (fun e => e.1 != k)

/-- The value under key `k`; zero where nothing is listed. -/
def sget {w : Nat} : SMap w → Nat → BitVec w
  | [], _ => 0
  | (a, x) :: r, k => if a = k then x else sget r k

/-- The map whose value under key `k` is `x`; a zero is not listed. -/
def sset {w : Nat} (m : SMap w) (k : Nat) (x : BitVec w) : SMap w :=
  if x = 0 then kdel m k else kset m k x

/-- Writing many values, in order. -/
def ssets {w : Nat} (m : SMap w) (l : List (Nat × BitVec w)) : SMap w :=
  l.foldl (fun m e => sset m e.1 e.2) m

/-- The canonical form: keys rise strictly and no value is zero. -/
def SMap.wf {w : Nat} (m : SMap w) : Bool :=
  (m.map (·.1)).Pairwise (· < ·) && m.all (fun e => e.2 != 0)

/-- Keys rise strictly. -/
def KMap.wf {α : Type} (m : KMap α) : Bool := (m.map (·.1)).Pairwise (· < ·)

/-- Inserts a number into a rising list. -/
def nins : List Nat → Nat → List Nat
  | [], k => [k]
  | a :: r, k => if a < k then a :: nins r k else if a = k then a :: r else k :: a :: r

/-- Removes a number. -/
def ndel (l : List Nat) (k : Nat) : List Nat := l.filter (· != k)

/-- Bits hi:lo of a number (R2). -/
def bits (x hi lo : Nat) : Nat := (x >>> lo) % 2 ^ (hi + 1 - lo)

/-- Bits hi:lo of a bit vector, as a number (R2). -/
def fld {w : Nat} (x : BitVec w) (hi lo : Nat) : Nat := bits x.toNat hi lo

/-- `x` with its `n` bits from `lo` replaced by the low `n` bits of `v`. -/
def setFld {w : Nat} (x : BitVec w) (lo n v : Nat) : BitVec w :=
  let m := BitVec.ofNat w ((2 ^ n - 1) <<< lo)
  (x &&& ~~~m) ||| (BitVec.ofNat w (v <<< lo) &&& m)

/-- A word put together from fields: each is its low bit, its width and its value. -/
def pack (w : Nat) (l : List (Nat × Nat × Nat)) : BitVec w :=
  l.foldl (fun acc e => acc ||| BitVec.ofNat w ((e.2.2 % 2 ^ e.2.1) <<< e.1)) 0

/-- Two's-complement value of the low `w` bits. -/
def toSigned (w x : Nat) : Int :=
  let y := x % 2 ^ w
  if 2 * y < 2 ^ w then (y : Int) else (y : Int) - 2 ^ w

/-- The `n` low bytes of a number, lowest first (R2). -/
def toBytes : Nat → Nat → List Byte
  | 0, _ => []
  | n + 1, x => BitVec.ofNat 8 x :: toBytes n (x / 256)

/-- The number whose bytes, lowest first, are given (R2). -/
def ofBytes : List Byte → Nat
  | [] => 0
  | b :: r => b.toNat + 256 * ofBytes r

/-- The lanes of a mask, ascending. -/
def lanesOf (m : BitVec 32) : List Nat := (List.range 32).filter (fun l => m.getLsbD l)

/-- The mask that holds lane `l` alone. -/
def laneBit (l : Nat) : BitVec 32 := BitVec.ofNat 32 (2 ^ l)

/-- The mask of the listed lanes. -/
def maskOf (l : List Nat) : BitVec 32 := l.foldl (fun m i => m ||| laneBit i) 0

/-- Set bits of a mask of any width, ascending. -/
def setBits {w : Nat} (m : BitVec w) : List Nat := (List.range w).filter (fun l => m.getLsbD l)

/-- Number of set bits. -/
def popCount {w : Nat} (m : BitVec w) : Nat := (setBits m).length

/-- Rounds up to a multiple. -/
def alignUp (x n : Nat) : Nat := (x + n - 1) / n * n

end Sys2Proof
end

