-- ==== Sys2Proof/Syntax.lean ====
section
/-! DEFINITION. The instructions and steps of the X3-H: operand records of the seven word formats
(R143 to R155), the requests and inputs of the other agents, and `Instr`, one constructor for each
row of the opcode table. -/

namespace Sys2Proof

/-- The value types of R147. -/
inductive Typ
  | i8 | n8 | i16 | n16 | i32 | n32 | i64 | n64
  | i16x2 | n16x2 | i8x4 | n8x4
  | f32 | f16 | bf16 | e4m3 | e5m2 | bf16x2 | f16x2 | q4e
deriving DecidableEq, Repr

/-- The rounding modes of R127. -/
inductive Rnd
  | rne | rtz | rup | rdn
deriving DecidableEq, Repr

/-- The scopes of R96. -/
inductive Scope
  | lane | group | team | core | cluster | package | node
deriving DecidableEq, Repr

/-- The orderings of R152. -/
inductive Ord
  | rlx | acq | rel | acqrel | sc
deriving DecidableEq, Repr

/-- The atomic operations of R243. -/
inductive Aop
  | add | min | max | and | or | xor | exch | cas | fadd
deriving DecidableEq, Repr

/-- The addressing modes of R152: vector addresses, one scalar address, a scalar base with lane stride. -/
inductive AddrMode
  | vec | scalar | stride
deriving DecidableEq, Repr

/-- Cache hints (R152); timing only. -/
inductive Hint
  | none | stream | l2
deriving DecidableEq, Repr

/-- Bits above LEN and OP of the common header (R143): waypoint bit and guard. -/
structure Hdr where
  w  : Bool := false
  g  : BitVec 3 := 0
  gn : Bool := false
deriving DecidableEq, Repr

/-- The second source of format K, as BK gives it (R146). -/
inductive Src2
  | reg (r : BitVec 8)
  | bcast (r : BitVec 8)
  | imm32 (x : BitVec 32)
  | imm64 (x : BitVec 64)
deriving DecidableEq, Repr

/-- The fields of format K (R145). -/
structure KOps where
  d   : BitVec 8
  a   : BitVec 8 := 0
  b   : Src2 := .reg 0
  c   : BitVec 8 := 0
  t   : Typ := .i8
  sat : Bool := false
  rm  : Rnd := .rne
  sub : BitVec 6 := 0
deriving DecidableEq, Repr

/-- The fields of format J (R149). -/
structure JOps where
  disp : BitVec 32 := 0
  bar  : BitVec 3 := 0
  d    : BitVec 8 := 0
deriving DecidableEq, Repr

/-- The fields of format Y (R150). -/
structure YOps where
  imm  : BitVec 16 := 0
  spec : BitVec 8 := 0
  f    : Bool := false
  b    : BitVec 8 := 0
  a    : BitVec 8 := 0
  d    : BitVec 8 := 0
deriving DecidableEq, Repr

/-- The fields of format M (R152). -/
structure MOps where
  d     : BitVec 8 := 0
  a     : BitVec 8 := 0
  b     : BitVec 8 := 0
  am    : AddrMode := .vec
  t     : Typ := .n32
  ord   : Ord := .rlx
  scope : Scope := .lane
  qos   : Bool := false
  hint  : Hint := .none
  peer  : BitVec 5 := 0
  aop   : Aop := .add
  disp  : Option (BitVec 32) := none
deriving DecidableEq, Repr

/-- The fields of format X (R153). -/
structure XOps where
  disp : BitVec 32 := 0
  code : BitVec 8 := 0
  d    : BitVec 8 := 0
deriving DecidableEq, Repr

/-- The fields of format T (R154). `pairA` is AS, 1 where A is a scalar pair that names A-space; `regB` is BS, 1
where B is a run of vector registers. -/
structure TOps where
  ta   : Typ := .i8
  tb   : Typ := .i8
  pairA : Bool := false
  regB : Bool := false
  tile : BitVec 4 := 0
  mb   : BitVec 5 := 0
  ma   : BitVec 5 := 0
  br   : BitVec 8 := 0
  ar   : BitVec 8 := 0
deriving DecidableEq, Repr

/-- The spaces an engine command names (R155). -/
inductive Space
  | global | ownA | ownW | peerA | peerW | net | storage
deriving DecidableEq, Repr

/-- The fields of format E (R155). `arrive` is RVE with RVP and the arrival's scope. -/
structure EOps where
  d      : BitVec 8 := 0
  a      : BitVec 8 := 0
  b      : BitVec 8 := 0
  c      : BitVec 8 := 0
  peer   : BitVec 5 := 0
  ssp    : Space := .global
  dsp    : Space := .global
  sub    : BitVec 6 := 0
  arrive : Option (BitVec 5 × Scope) := none
  imm    : Option (BitVec 32) := none
deriving DecidableEq, Repr

/-- One RPC request (R351 to R353): its session, its 16-byte header and its body slots. -/
structure Rpc where
  session : Nat
  hdr     : BitVec 128
  body    : List (BitVec 64)
deriving DecidableEq, Repr

/-- The kinds of access that page translation tests (R325, R329); `xfetch` is a hart's instruction fetch. -/
inductive Access
  | load | store | atomic | fetch | engRead | engWrite | innRead | innWrite | pref | xfetch
deriving DecidableEq, Repr

/-- What an RV64 memory access does (R98, R117, R259); a fence says whether its predecessor set holds reads and writes,
and whether its successor set holds reads. -/
inductive HartOp
  | load | store | lr | sc | amo (op : Aop) | fence (predR predW succR : Bool) | fetch
deriving DecidableEq, Repr

/-- An RV64 memory access: register operands by number, whether a load extends the sign, whether a minimum or maximum is unsigned,
`aq` and `rl` bits, whether the data register is one of f0 to f31, and whether its word is a compressed one (R340). -/
structure HartAcc where
  hart : Nat
  op   : HartOp
  va   : BitVec 64
  size : Nat
  rd   : BitVec 5 := 0
  rs   : BitVec 5 := 0
  sext : Bool := false
  uns  : Bool := false
  aq   : Bool := false
  rl   : Bool := false
  fp   : Bool := false
  comp : Bool := false
deriving DecidableEq, Repr

/-- A storage structure in which an ECC or parity error is found (R401, R426, R427, R431, R440). Parity: `tag` an instruction cache, `l1Tag`
an entry of the tags of an L1, `tlb` an entry of a TLB, `loop` the loop buffer of a scheduler. -/
inductive EccSite
  | regfile (gk : Nat)
  | space (core : Nat) (wSpace : Bool) (sector : Nat)
  | tile (core sector : Nat)
  | l1 (core sector : Nat)
  | tag (core : Nat)
  | l1Tag (core idx : Nat)
  | tlb (cluster idx : Nat)
  | loop (core sched : Nat)
  | l2 (sector : Nat)
  | dir (sector : Nat)
  | dram (sector : Nat)
  | lease (sector : Nat)
  | leaseBase (slice : Nat)
  | rlog (core idx : Nat)
  | tsec (core idx : Nat)
  | signature (slice : Nat)
  | trace (cluster idx : Nat)
  | history (engine : Nat)
deriving DecidableEq, Repr

/-- A unit that the Porter removes (R405, R440, R444). -/
inductive UnitName
  | core (c : Nat)
  | slice (i : Nat)
  | stack (m : Nat)
  | channel (c : Nat)
  | port (i : Nat)
  | appCore (i : Nat)
  | decomp (i : Nat)
  | cluster (i : Nat) (withStop : Bool)
deriving DecidableEq, Repr

/-- What an operation packet of a peer package asks for: an atomic (R92), with its window if it is a NODE-scope release (R116), a row of
`rlen` sectors (R311), or the update of a row by the sums of a peer's SCADD, of BF16 or FP32 elements (R316). -/
inductive PacketOp
  | atomic (op : Aop) (release : Option Nat)
  | row (rlen : Nat)
  | rowAdd (bf : Bool) (sums : List (BitVec 32))
deriving DecidableEq, Repr

/-- One constructor for each row of spec/opcode_table.json. The first part is the
instructions of groups; the others are steps of harts, engines and the other agents, whose
arguments say which agent moves and carry what comes from outside the package. -/
inductive Instr
  -- format J and Y (R204 to R232)
  | nop (h : Hdr) (bytes : Nat)
  | bra (h : Hdr) (o : JOps) | brx (h : Hdr) (o : JOps) | jmp (h : Hdr) (o : JOps)
  | call (h : Hdr) (o : JOps) | ret (h : Hdr) (o : JOps)
  | enrol (h : Hdr) (o : JOps) | rejoin (h : Hdr) (o : JOps)
  | yield (h : Hdr) (o : JOps) | exit (h : Hdr) (o : JOps) | wait (h : Hdr) (o : JOps)
  | rvinit (h : Hdr) (o : YOps) | rvarrive (h : Hdr) (o : YOps) | rvwait (h : Hdr) (o : YOps)
  | monitor (h : Hdr) (o : YOps) | mwait (h : Hdr) (o : YOps)
  | mwaitWake (gk : Nat) | mwaitTimeout (gk : Nat)
  | fetchw (h : Hdr) (o : YOps) | switchv (h : Hdr) (o : YOps)
  | variantSwitch (tk : Nat)
  | xacq (h : Hdr) (o : YOps) | xrel (h : Hdr) (o : YOps)
  | svcOstler (h : Hdr) (o : YOps) | svcApp (h : Hdr) (o : YOps)
  | trap (h : Hdr) (o : YOps) | hret (h : Hdr) (o : YOps)
  | srd (h : Hdr) (o : YOps) | swr (h : Hdr) (o : YOps) | wmark (h : Hdr) (o : YOps)
  | sflagSet (h : Hdr) (o : YOps) | sflagClr (h : Hdr) (o : YOps)
  -- format K (R172 to R203)
  | sadd (h : Hdr) (k : KOps) | ssub (h : Hdr) (k : KOps) | smul (h : Hdr) (k : KOps)
  | smulh (h : Hdr) (k : KOps) | sdiv (h : Hdr) (k : KOps) | srem (h : Hdr) (k : KOps)
  | smin (h : Hdr) (k : KOps) | smax (h : Hdr) (k : KOps) | sand (h : Hdr) (k : KOps)
  | sor (h : Hdr) (k : KOps) | sxor (h : Hdr) (k : KOps) | sshl (h : Hdr) (k : KOps)
  | sshr (h : Hdr) (k : KOps) | ssra (h : Hdr) (k : KOps) | scmp (h : Hdr) (k : KOps)
  | ssel (h : Hdr) (k : KOps) | smovi (h : Hdr) (k : KOps) | slea (h : Hdr) (k : KOps)
  | sclz (h : Hdr) (k : KOps) | spop (h : Hdr) (k : KOps) | sbfx (h : Hdr) (k : KOps)
  | sbfi (h : Hdr) (k : KOps)
  | vadd (h : Hdr) (k : KOps) | vsub (h : Hdr) (k : KOps) | vmul (h : Hdr) (k : KOps)
  | vmulh (h : Hdr) (k : KOps) | vmad (h : Hdr) (k : KOps) | vdiv (h : Hdr) (k : KOps)
  | vmin (h : Hdr) (k : KOps) | vmax (h : Hdr) (k : KOps) | vabs (h : Hdr) (k : KOps)
  | vneg (h : Hdr) (k : KOps) | vand (h : Hdr) (k : KOps) | vor (h : Hdr) (k : KOps)
  | vxor (h : Hdr) (k : KOps) | vnot (h : Hdr) (k : KOps) | vshl (h : Hdr) (k : KOps)
  | vshr (h : Hdr) (k : KOps) | vsra (h : Hdr) (k : KOps) | vrot (h : Hdr) (k : KOps)
  | vcmp (h : Hdr) (k : KOps) | vsel (h : Hdr) (k : KOps) | vpop (h : Hdr) (k : KOps)
  | vclz (h : Hdr) (k : KOps) | vbfx (h : Hdr) (k : KOps) | vbfi (h : Hdr) (k : KOps)
  | vmov (h : Hdr) (k : KOps) | vmovi (h : Hdr) (k : KOps) | vdot4 (h : Hdr) (k : KOps)
  | pkadd (h : Hdr) (k : KOps) | pksub (h : Hdr) (k : KOps) | pkmul (h : Hdr) (k : KOps)
  | pkmad (h : Hdr) (k : KOps) | pksad (h : Hdr) (k : KOps) | pkavg (h : Hdr) (k : KOps)
  | pkmin (h : Hdr) (k : KOps) | pkmax (h : Hdr) (k : KOps) | pknar (h : Hdr) (k : KOps)
  | pkwid (h : Hdr) (k : KOps) | permb (h : Hdr) (k : KOps) | lxch (h : Hdr) (k : KOps)
  | lprev (h : Hdr) (k : KOps) | lscan (h : Hdr) (k : KOps) | lred (h : Hdr) (k : KOps)
  | lpoll (h : Hdr) (k : KOps)
  | fadd (h : Hdr) (k : KOps) | fsub (h : Hdr) (k : KOps) | fmul (h : Hdr) (k : KOps)
  | ffma (h : Hdr) (k : KOps) | fmin (h : Hdr) (k : KOps) | fmax (h : Hdr) (k : KOps)
  | fabs (h : Hdr) (k : KOps) | fneg (h : Hdr) (k : KOps) | fcmp (h : Hdr) (k : KOps)
  | fclass (h : Hdr) (k : KOps) | frnd (h : Hdr) (k : KOps) | fdiv (h : Hdr) (k : KOps)
  | fsqrt (h : Hdr) (k : KOps) | exp2 (h : Hdr) (k : KOps) | log2 (h : Hdr) (k : KOps)
  | rcp (h : Hdr) (k : KOps) | rsq (h : Hdr) (k : KOps) | cvt (h : Hdr) (k : KOps)
  | pand (h : Hdr) (k : KOps) | por (h : Hdr) (k : KOps) | pxor (h : Hdr) (k : KOps)
  | pnot (h : Hdr) (k : KOps) | pmov (h : Hdr) (k : KOps)
  -- format M (R233 to R246) and the retires of accesses
  | ld (h : Hdr) (o : MOps) | st (h : Hdr) (o : MOps) | lda (h : Hdr) (o : MOps)
  | sta (h : Hdr) (o : MOps) | ldw (h : Hdr) (o : MOps) | ldx (h : Hdr) (o : MOps)
  | stx (h : Hdr) (o : MOps) | pref (h : Hdr) (o : MOps) | fence (h : Hdr) (o : MOps)
  | atom (h : Hdr) (o : MOps) | atoma (h : Hdr) (o : MOps)
  | loadRetire (gk id : Nat) | storeRetire (gk id : Nat)
  | atomicPerform (gk id : Nat) | nodeReleasePerform (gk id : Nat)
  -- format X and transactions (R247 to R260, R293 to R304)
  | txbegin (h : Hdr) (o : XOps) | txend (h : Hdr) (o : XOps)
  | txabort (h : Hdr) (o : XOps) | txstat (h : Hdr) (o : XOps)
  | txB (rd : BitVec 5) | txE (rd : BitVec 5) | txA (rs : BitVec 5) | txS (rd : BitVec 5)
  | custom0Illegal (w : BitVec 32)
  | ticketRequest | groupCommitDecision | hartCommitPublish | serialTokenGrant
  -- format T and E (R262 to R290) and their retires
  | mma (h : Hdr) (o : TOps) | mmas (h : Hdr) (o : TOps) | mmab (h : Hdr) (o : TOps)
  | ldmeta (h : Hdr) (o : TOps) | tkacq (h : Hdr) (o : TOps) | tkrel (h : Hdr) (o : TOps)
  | accld (h : Hdr) (o : TOps) | accst (h : Hdr) (o : TOps) | accz (h : Hdr) (o : TOps)
  | opfence (h : Hdr) (o : TOps)
  | matrixOpRetire (core : Nat)
  | copy (h : Hdr) (o : EOps) | copyt (h : Hdr) (o : EOps) | gather (h : Hdr) (o : EOps)
  | scadd (h : Hdr) (o : EOps) | decomp (h : Hdr) (o : EOps) | nput (h : Hdr) (o : EOps)
  | nget (h : Hdr) (o : EOps) | natom (h : Hdr) (o : EOps) | sread (h : Hdr) (o : EOps)
  | engineCommandRetire (core entry : Nat) (data : List (BitVec 8))
  | scarabRowRequest (core entry : Nat) | scarabBurst (core entry : Nat)
  | scaddRowUpdate (core entry : Nat)
  | networkCommandFail (core entry : Nat) (written : List (BitVec 8)) (syndrome : BitVec 16)
  | storageCompletion (core entry : Nat) (status : BitVec 16) (data : List (BitVec 8))
  | storageTimeout (core entry : Nat)
  -- the RPC service (R351 to R357, R365 to R384)
  | partCreate (r : Rpc) | partDestroy (r : Rpc) | imageLoad (r : Rpc) | imageUnload (r : Rpc)
  | residentStart (r : Rpc) | memExpose (r : Rpc) | memUnexpose (r : Rpc)
  | queueCreate (r : Rpc) | queueDestroy (r : Rpc)
  | queryPartitionState (r : Rpc) | queryQueueIndices (r : Rpc)
  | queryErrorCounters (r : Rpc) | querySpareStatus (r : Rpc)
  | peerSet (r : Rpc) | storageSet (r : Rpc) | swap (r : Rpc)
  | mgmtPowercap (r : Rpc) | mgmtGate (r : Rpc) | mgmtUngate (r : Rpc)
  | mgmtVcweight (r : Rpc) | mgmtWindow (r : Rpc)
  | mgmtAdminlistAdd (r : Rpc) | mgmtAdminlistRemove (r : Rpc)
  | mgmtGrandmaster (r : Rpc) | mgmtClearcnt (r : Rpc) | mgmtImage (r : Rpc)
  | debugAttach (r : Rpc) | debugDetach (r : Rpc) | debugLogSetup (r : Rpc)
  | debugLogOn (r : Rpc) | debugLogOff (r : Rpc) | debugHalt (r : Rpc)
  | debugResume (r : Rpc) | debugAdvance (r : Rpc) | debugReverse (r : Rpc)
  | debugSolo (r : Rpc)
  | debugBreakSet (r : Rpc) | debugBreakClear (r : Rpc) | debugWaitev (r : Rpc)
  | debugGread (r : Rpc) | debugGwrite (r : Rpc)
  | traceSetup (r : Rpc) | traceEnable (r : Rpc) | traceDrain (r : Rpc) | traceStatus (r : Rpc)
  | replaySetup (r : Rpc) | replayList (r : Rpc) | replayRun (r : Rpc)
  | replayRelease (r : Rpc) | badopRequest (r : Rpc)
  -- the Innkeeper (R44 to R69)
  | innkeeperGrant | tailLineWrite (part queue : Nat)
  | dependenceCounterChange (part queue : Nat) | workgroupRetire (tk : Nat)
  | upshiftQuantumExpiry (tk : Nat) | switchGraceExpiry (core : Nat)
  | allocationSpill (tk : Nat) | groupRestore (core : Nat)
  -- traps, stops and the Ostler (R334 to R350, R399, R406 to R423)
  | userTrapEntry (gk : Nat) (cause : Nat) | preciseStop (gk : Nat)
  | executionFreeze (gk event subc op : Nat) (lanes : LaneMask)
  | partitionViolation (gk id : Nat)
  | watchdogPendingStop (gk : Nat) | watchdogNoWaypoint (gk : Nat)
  | eventQueueEntryWrite (core : Nat)
  | gctlResume (gk : Nat) (ord : BitVec 16) (lanes : LaneMask)
  | gctlStep (gk : Nat) (ord : BitVec 16) (lanes : LaneMask)
  | gctlHalt (gk : Nat) | engctlResume (tk : Nat) | engctlDiscard (tk : Nat)
  | windowMap (core : Nat) (idx : Nat) (entry : BitVec 64)
  | windowMapValid (cluster idx : Nat)
  | windowUnmap (core : Nat) (idx : Nat) (entry : BitVec 64)
  | windowLineWriteback (cluster idx : Nat)
  | upost (core : Nat) (v : BitVec 64) | xvuint (hart : Nat) (v : BitVec 64)
  | xvwake (hart : Nat) (v : BitVec 64) | xvfreeze (hart : Nat) (v : BitVec 64)
  | xvshootPage (hart : Nat) (v : BitVec 64) | xvshootAll (hart : Nat) (v : BitVec 64)
  | shootdownComplete (hart : Nat)
  | ostlerRegisterWrite (core : Nat) (off : Nat) (bytes : List (BitVec 8))
  | pageWalk (die part : Nat) (va : BitVec 64) (acc : Access)
  | ringHeadAdvance (part : Nat)
  -- coherence and the node (R86 to R94, R359 to R361, R437)
  | directoryRead (core sector : Nat) | directoryOwnership (core sector : Nat)
  | directoryWriteBack (core sector : Nat) | l2Eviction (line : Nat)
  | visibilityWindowStart | leaseRebase (slice : Nat) | packetPromotion
  | peerLineRead (sector : Nat)
  | peerWriteThrough (pkg pa : Nat) (data : List (BitVec 8)) (release : Option Nat)
  | operationPacket (pkg pa : Nat) (op : PacketOp) (t : Typ) (x y : BitVec 64)
  | windowMarker (link lc : Nat) (n : Nat)
  | nodeLinkFlit (link : Nat) (f : BitVec 2048) | flitResendTimeout (link : Nat)
  | linkRetrain (link lanesOk : Nat) | linkDown (link : Nat)
  | ptpSync (offset : Nat)
  -- the Porter (R16, R17, R401 to R405, R443 to R446)
  | softErrorDetect (site : EccSite) (correctable : Bool)
  | memoryScrub (sector : Nat) (found : Nat)
  | unitRemoval (u : UnitName)
  | thermalSample (die temp : Nat) | thermalHoldExpiry | coolantFlowLoss
  | powerCapExceeded (watts : Nat) | clockRaiseTimer
  | clusterPowerGate (cluster : Nat)
  | packageReset
  -- trace, swap, undo log (R347, R366 to R382)
  | fireflyTag (core sched : Nat) | fireflyRecord (core sched : Nat)
  | traceBufferDrain (cluster : Nat)
  | partitionSwapExchange (part : Nat) | windowAdvanceSnapshot (part : Nat)
  | logAutoAdvance (part : Nat)
  -- sessions, time limits, host RDMA, harts, power (R351, R354, R358, R377, R379, R384, R439, R445)
  | rpcSendOversize (session : Nat) | rpcSessionLoss (session : Nat)
  | soloTimeout (session : Nat) | waitevTimeout (session : Nat) | replayRunTimeout (replay : Nat)
  | rdmaRead (rkey : BitVec 32) (va : BitVec 64) (len : Nat)
  | rdmaWrite (rkey : BitVec 32) (va : BitVec 64) (data : List (BitVec 8))
  | rdmaAtomic (rkey : BitVec 32) (va : BitVec 64) (cas : Bool) (x y : BitVec 64)
  | rv64MemoryAccess (a : HartAcc) | hartInterrupt (hart : Nat)
  | rpcSessionOpen (session : Nat) (gid : BitVec 128) (port : Nat)
  | rcRetransmitTimeout (core entry : Nat)
  | powerFailure (write : Option Rpc)
deriving DecidableEq, Repr

end Sys2Proof
end

