-- ==== Sys2Proof/Machine/Integer.lean ====
section
/-! DEFINITION. Integer formats and arithmetic (R121 to R123, R180 to R189). -/

namespace Sys2Proof

/-- Width of a type, or of one element of a packed type (R121, R122, R124). -/
def Typ.width : Typ → Nat
  | .i8 | .n8 | .i8x4 | .n8x4 | .e4m3 | .e5m2 => 8
  | .i16 | .n16 | .i16x2 | .n16x2 | .f16 | .bf16 | .bf16x2 | .f16x2 => 16
  | .i32 | .n32 | .f32 => 32
  | .i64 | .n64 => 64
  | .q4e => 4

/-- Bytes of an access of the type (R233). -/
def Typ.bytes (t : Typ) : Nat := t.width / 8

/-- Elements of a packed word; 1 for the other types (R122). -/
def Typ.elems : Typ → Nat
  | .i8x4 | .n8x4 => 4
  | .i16x2 | .n16x2 | .bf16x2 | .f16x2 => 2
  | _ => 1

/-- Whether the type, or its elements, are signed integers (R121). -/
def Typ.signed : Typ → Bool
  | .i8 | .i16 | .i32 | .i64 | .i16x2 | .i8x4 => true
  | _ => false

def Typ.isInt : Typ → Bool
  | .i8 | .n8 | .i16 | .n16 | .i32 | .n32 | .i64 | .n64 => true
  | _ => false

def Typ.isPackedInt : Typ → Bool
  | .i16x2 | .n16x2 | .i8x4 | .n8x4 => true
  | _ => false

def Typ.is64 : Typ → Bool
  | .i64 | .n64 => true
  | _ => false

/-- A float type of a single value. -/
def Typ.isFloat : Typ → Bool
  | .f32 | .f16 | .bf16 | .e4m3 | .e5m2 => true
  | _ => false

namespace Machine

/-- The value of the low bits of a register under an integer type (R121). -/
def intVal (t : Typ) (x : Nat) : Int := if t.signed then toSigned t.width x else ((x % 2 ^ t.width : Nat) : Int)

/-- The least value of an integer type. -/
def intMin (t : Typ) : Int := if t.signed then -(2 ^ (t.width - 1)) else 0
/-- The greatest value of an integer type. -/
def intMax (t : Typ) : Int := if t.signed then 2 ^ (t.width - 1) - 1 else 2 ^ t.width - 1

/-- The w-bit pattern of an integer (R123). -/
def intPat (w : Nat) (x : Int) : Nat := (x % (2 ^ w : Int)).toNat

/-- Narrowing of an exact result: wrap, or the nearest bound and SAT (R123, R182). -/
def narrow (t : Typ) (sat : Bool) (x : Int) : Nat × Flags :=
  if sat && (x < intMin t || intMax t < x) then
    (intPat t.width (if x < intMin t then intMin t else intMax t), fSAT)
  else (intPat t.width x, 0)

/-- A w-bit pattern extended into a register of `n` bits under its type (R121). -/
def extendTo (n : Nat) (t : Typ) (x : Nat) : BitVec n := BitVec.ofInt n (intVal t x)

/-- An integer operation on raw operand bits: result pattern of the type's width, and flags. -/
abbrev IntOp := Typ → Bool → Nat → Nat → Nat → Nat × Flags

/-- The operation of R182 whose exact result is `f a b c`. -/
def exactOp (f : Int → Int → Int → Int) : IntOp := fun t sat a b c =>
  narrow t sat (f (intVal t a) (intVal t b) (intVal t c))

def iAdd : IntOp := exactOp (fun a b _ => a + b)
def iSub : IntOp := exactOp (fun a b _ => a - b)
def iMul : IntOp := exactOp (fun a b _ => a * b)
def iMad : IntOp := exactOp (fun a b c => a * b + c)
def iMin : IntOp := exactOp (fun a b _ => min a b)
def iMax : IntOp := exactOp (fun a b _ => max a b)
def iAbs : IntOp := exactOp (fun a _ _ => if a < 0 then -a else a)
def iNeg : IntOp := exactOp (fun a _ _ => -a)
def iAvg : IntOp := exactOp (fun a b _ => (a + b + 1) / 2)

/-- floor(a * b / 2^w) (R180, R181). -/
def iMulh : IntOp := fun t _ a b _ => narrow t false (intVal t a * intVal t b / 2 ^ t.width)

/-- Division with the exceptional cases of R123; other quotients round towards zero. -/
def iDiv : IntOp := fun t sat a b _ =>
  let x := intVal t a
  let y := intVal t b
  if y = 0 then (intPat t.width (if t.signed then -1 else intMax t), fDZ)
  else narrow t sat (x.tdiv y)

/-- Remainder with the exceptional cases of R123; its sign is the dividend's. -/
def iRem : IntOp := fun t _ a b _ =>
  let x := intVal t a
  let y := intVal t b
  if y = 0 then (intPat t.width x, fDZ) else narrow t false (x.tmod y)

/-- Bitwise on the w-bit patterns (R180). -/
def iAnd : IntOp := fun t _ a b _ => ((a &&& b) % 2 ^ t.width, 0)
def iOr : IntOp := fun t _ a b _ => ((a ||| b) % 2 ^ t.width, 0)
def iXor : IntOp := fun t _ a b _ => ((a ^^^ b) % 2 ^ t.width, 0)
def iNot : IntOp := fun t _ a _ _ => (2 ^ t.width - 1 - a % 2 ^ t.width, 0)

/-- Shifts and rotation by bits [7:0] of b (R183). -/
def iShl : IntOp := fun t sat a b _ => narrow t sat (intVal t a * 2 ^ (b % 256))
def iShr : IntOp := fun t _ a b _ => (a % 2 ^ t.width / 2 ^ (b % 256), 0)
def iSra : IntOp := fun t _ a b _ => (intPat t.width (toSigned t.width a / 2 ^ (b % 256)), 0)
def iRot : IntOp := fun t _ a b _ =>
  let n := b % 256 % t.width
  let p := a % 2 ^ t.width
  ((p * 2 ^ n + p / 2 ^ (t.width - n)) % 2 ^ t.width, 0)

/-- a if c is not zero, else b (R180). -/
def iSel : IntOp := fun t _ a b c => ((if c % 2 ^ t.width ≠ 0 then a else b) % 2 ^ t.width, 0)
/-- a unchanged. -/
def iMov : IntOp := fun t _ a _ _ => (a % 2 ^ t.width, 0)

/-- Leading zeros of a w-bit pattern; w if zero (R180). -/
def clz (w x : Nat) : Nat := if x % 2 ^ w = 0 then w else w - 1 - Nat.log2 (x % 2 ^ w)
/-- Ones of a w-bit pattern (R180). -/
def pop (w x : Nat) : Nat := ((List.range w).filter (fun i => x.testBit i)).length

def iClz : IntOp := fun t _ a _ _ => (clz t.width a, 0)
def iPop : IntOp := fun t _ a _ _ => (pop t.width a, 0)

/-- Width of the field that b names in a w-bit pattern (R184). -/
def fieldWidth (w b : Nat) : Nat := if b % 64 < w then min (b / 256 % 128) (w - b % 64) else 0

/-- Bit-field extraction (R184). -/
def iBfx : IntOp := fun t _ a b _ =>
  let wf := fieldWidth t.width b
  let f := a % 2 ^ t.width / 2 ^ (b % 64) % 2 ^ wf
  if wf = 0 then (0, 0)
  else (if t.signed then intPat t.width (toSigned wf f) else f, 0)

/-- Bit-field insertion of the low bits of c (R184). -/
def iBfi : IntOp := fun t _ a b c =>
  let wf := fieldWidth t.width b
  let p := b % 64
  let x := a % 2 ^ t.width
  if wf = 0 then (x, 0)
  else (x % 2 ^ p + c % 2 ^ wf * 2 ^ p + x / 2 ^ (p + wf) * 2 ^ (p + wf), 0)

/-- Integer comparison by the SUB codes 0 to 5 of R148. -/
def cmpInt (code : Nat) (a b : Int) : Bool :=
  match code with
  | 0 => a == b
  | 1 => a != b
  | 2 => a < b
  | 3 => a ≤ b
  | 4 => b < a
  | _ => b ≤ a

/-- Element e of a packed word (R122). -/
def elem (t : Typ) (x e : Nat) : Nat := x / 2 ^ (t.width * e) % 2 ^ t.width

/-- The element type of a packed integer type. -/
def Typ.elemOf : Typ → Typ
  | .i16x2 => .i16 | .n16x2 => .n16 | .i8x4 => .i8 | .n8x4 => .n8
  | .bf16x2 => .bf16 | .f16x2 => .f16
  | t => t

/-- The type twice as wide, of the same signedness. -/
def Typ.widen : Typ → Typ
  | .i8 => .i16 | .n8 => .n16 | .i16 => .i32 | .n16 => .n32 | t => t

/-- A packed word from its elements, and the OR of their flags (R122). -/
def packElems (t : Typ) (f : Nat → Nat × Flags) : Nat × Flags :=
  (List.range t.elems).foldl (fun acc e => (acc.1 + (f e).1 % 2 ^ t.width * 2 ^ (t.width * e), acc.2 ||| (f e).2)) (0, 0)

/-- An element-wise packed instruction (R188). -/
def packedOp (op : IntOp) : IntOp := fun t sat a b c =>
  packElems t (fun e => op (Typ.elemOf t) sat (elem t a e) (elem t b e) (elem t c e))

/-- VDOT4 (R186): the sum over elements of a * b, plus c, narrowed to 32 bits. -/
def iDot4 : IntOp := fun t sat a b c =>
  let et := Typ.elemOf t
  let rt : Typ := if t.signed then .i32 else .n32
  narrow rt sat ((List.range t.elems).foldl
    (fun acc e => acc + intVal et (elem t a e) * intVal et (elem t b e)) (intVal rt c))

/-- PKSAD (R187): c plus the sum of absolute differences, modulo 2^32. -/
def iSad : IntOp := fun t _ a b c =>
  let et := Typ.elemOf t
  (intPat 32 ((List.range t.elems).foldl
    (fun acc e => acc + ((intVal et (elem t a e) - intVal et (elem t b e)).natAbs : Int)) (c % 2 ^ 32 : Nat)), 0)

/-- PKNAR (R189): two words narrowed into one; TYPE names the destination. -/
def iNar : IntOp := fun t sat a b _ =>
  let et := Typ.elemOf t
  let st := Typ.widen et
  let half := t.elems / 2
  packElems t (fun e =>
    let x := if e < half then a else b
    narrow et sat (intVal st (x / 2 ^ (st.width * (e % half)))))

/-- PKWID (R189): half a word widened; TYPE names the source. -/
def iWid (hi : Bool) : IntOp := fun t _ a _ _ =>
  let et := Typ.elemOf t
  let st := Typ.widen et
  let half := t.elems / 2
  ((List.range half).foldl (fun acc e =>
    acc + intPat st.width (intVal et (elem t a (e + if hi then half else 0))) * 2 ^ (st.width * e)) 0, 0)

end Machine
end Sys2Proof
end

