-- ==== Sys2Proof/Machine/Fields.lean ====
section
/-! DEFINITION. Codes of the field values, and which fields each opcode uses and which values it refuses
(R143 to R156, R177 to R203, R206, R232, R233, R261, R264, R280, R292). -/

namespace Sys2Proof

/-! ### Codes -/

/-- The type codes of R147. -/
def Typ.code : Typ → Nat
  | .i8 => 0x00 | .n8 => 0x01 | .i16 => 0x02 | .n16 => 0x03 | .i32 => 0x04 | .n32 => 0x05
  | .i64 => 0x06 | .n64 => 0x07 | .i16x2 => 0x08 | .n16x2 => 0x09 | .i8x4 => 0x0A | .n8x4 => 0x0B
  | .f32 => 0x10 | .f16 => 0x11 | .bf16 => 0x12 | .e4m3 => 0x13 | .e5m2 => 0x14 | .bf16x2 => 0x15
  | .f16x2 => 0x16 | .q4e => 0x17

/-- The type of a code, if it is assigned (R147). -/
def typOfCode : Nat → Option Typ
  | 0x00 => some .i8 | 0x01 => some .n8 | 0x02 => some .i16 | 0x03 => some .n16 | 0x04 => some .i32 | 0x05 => some .n32
  | 0x06 => some .i64 | 0x07 => some .n64 | 0x08 => some .i16x2 | 0x09 => some .n16x2 | 0x0A => some .i8x4 | 0x0B => some .n8x4
  | 0x10 => some .f32 | 0x11 => some .f16 | 0x12 => some .bf16 | 0x13 => some .e4m3 | 0x14 => some .e5m2 | 0x15 => some .bf16x2
  | 0x16 => some .f16x2 | 0x17 => some .q4e | _ => none

/-- The rounding codes of R127. -/
def Rnd.code : Rnd → Nat
  | .rne => 0 | .rtz => 1 | .rup => 2 | .rdn => 3
def rndOfCode : Nat → Rnd
  | 0 => .rne | 1 => .rtz | 2 => .rup | _ => .rdn

/-- The scope codes of R96. -/
def Scope.code : Scope → Nat
  | .lane => 0 | .group => 1 | .team => 2 | .core => 3 | .cluster => 4 | .package => 5 | .node => 6
def scopeOfCode : Nat → Option Scope
  | 0 => some .lane | 1 => some .group | 2 => some .team | 3 => some .core | 4 => some .cluster | 5 => some .package
  | 6 => some .node | _ => none

/-- The codes of ORD, AM, HINT and AOP (R152). -/
def Ord.code : Ord → Nat
  | .rlx => 0 | .acq => 1 | .rel => 2 | .acqrel => 3 | .sc => 4
def ordOfCode : Nat → Option Ord
  | 0 => some .rlx | 1 => some .acq | 2 => some .rel | 3 => some .acqrel | 4 => some .sc | _ => none
def AddrMode.code : AddrMode → Nat
  | .vec => 0 | .scalar => 1 | .stride => 2
def amOfCode : Nat → Option AddrMode
  | 0 => some .vec | 1 => some .scalar | 2 => some .stride | _ => none
def Hint.code : Hint → Nat
  | .none => 0 | .stream => 1 | .l2 => 2
def hintOfCode : Nat → Option Hint
  | 0 => some .none | 1 => some .stream | 2 => some .l2 | _ => Option.none
def Aop.code : Aop → Nat
  | .add => 0 | .min => 1 | .max => 2 | .and => 3 | .or => 4 | .xor => 5 | .exch => 6 | .cas => 7 | .fadd => 8
def aopOfCode : Nat → Option Aop
  | 0 => some .add | 1 => some .min | 2 => some .max | 3 => some .and | 4 => some .or | 5 => some .xor | 6 => some .exch
  | 7 => some .cas | 8 => some .fadd | _ => none

/-- The space codes of format E (R155). -/
def Space.code : Space → Nat
  | .global => 0 | .ownA => 1 | .ownW => 2 | .peerA => 3 | .peerW => 4 | .net => 5 | .storage => 6
def spaceOfCode : Nat → Option Space
  | 0 => some .global | 1 => some .ownA | 2 => some .ownW | 3 => some .peerA | 4 => some .peerW | 5 => some .net
  | 6 => some .storage | _ => none

/-! ### How an instruction uses a register field (R144) -/

/-- What a field of 8 bits names: nothing (reserved), a vector register (even for a 64-bit type), `n` vector
registers from it, a scalar register up to a bound, a predicate, or a number of which `n` bits are used. -/
inductive FieldUse
  | none | v (even : Bool) | run (n : Nat) | s (max : Nat) | p | num (n : Nat)
deriving DecidableEq, Repr

/-- Whether the field's value is accepted. -/
def FieldUse.ok (u : FieldUse) (x : BitVec 8) : Bool :=
  match u with
  | .none => true
  | .v even => !even || x.toNat % 2 == 0
  | .run n => x.toNat + n ≤ 256
  | .s m => x.toNat ≤ m
  | .p => x.toNat ≤ 7
  | .num _ => true

/-- The value with its reserved bits cleared. -/
def FieldUse.norm (u : FieldUse) (x : BitVec 8) : BitVec 8 :=
  match u with
  | .none => 0
  | .num n => BitVec.ofNat 8 (x.toNat % 2 ^ n)
  | _ => x

/-! ### Format K (R145 to R148, R175 to R203) -/

/-- What an opcode of format K uses and accepts. No types: TYPE is reserved. -/
structure KRow where
  bks   : List Nat
  types : List Typ := []
  sat   : Bool := false
  rm    : Bool := false
  sub   : Nat := 0
  d     : FieldUse
  a     : FieldUse := .none
  b     : FieldUse := .none
  c     : FieldUse := .none
  bad   : Bool := false
deriving DecidableEq, Repr

def intTypes : List Typ := [.i8, .n8, .i16, .n16, .i32, .n32]
def wideTypes : List Typ := intTypes ++ [.i64, .n64]
def pkTypes : List Typ := [.i16x2, .n16x2, .i8x4, .n8x4]
def fpTypes : List Typ := [.f32, .f16, .bf16, .bf16x2, .f16x2]

/-- BK of the second source (R146). -/
def Src2.bk : Src2 → Nat
  | .reg _ => 0 | .bcast _ => 1 | .imm32 _ => 2 | .imm64 _ => 3

/-- The rows of R180; a packed or floating-point TYPE is refused on each (R203). -/
def scalarRow (op : Nat) (k : KOps) : KRow :=
  let s := FieldUse.s 63
  let odd := (pkTypes ++ fpTypes ++ [Typ.e4m3, .e5m2]).contains k.t
  if op = 0x30 then { bks := [3], d := s, bad := odd }
  else if op = 0x31 then { bks := [0, 2], d := s, a := s, b := s, c := .num 6, bad := odd }
  else if op = 0x32 || op = 0x33 then { bks := [0], types := wideTypes, d := s, a := s }
  else
    { bks := [0, 2], types := wideTypes, sat := [0x20, 0x21, 0x22, 0x24, 0x2B].contains op, sub := if op = 0x2E then 3 else 0,
      d := s, a := s, b := s, c := if op = 0x2F || op = 0x35 then s else .none, bad := op = 0x2E && 5 < k.sub.toNat % 8 }

/-- The rows of R181 and R185. -/
def vintRow (op : Nat) (k : KOps) : KRow :=
  let v := FieldUse.v k.t.is64
  let types := if [0x40, 0x41, 0x46, 0x47, 0x4E, 0x4F, 0x50, 0x51, 0x52, 0x53, 0x58].contains op then wideTypes
    else if 0x4A ≤ op && op ≤ 0x4D then wideTypes ++ pkTypes
    else if op = 0x59 then [.n32, .i64, .n64]
    else if op = 0x5A then pkTypes else intTypes
  let sat := [0x40, 0x41, 0x42, 0x44, 0x45, 0x48, 0x49, 0x4E, 0x5A].contains op
  if op = 0x58 then
    { bks := [0, 1], types := types, d := v, a := if k.b.bk = 0 && k.c = 0 then v else .none,
      b := if k.b.bk = 1 then .s 63 else .none, c := .num 8, bad := 3 < k.c.toNat || (k.c != 0 && (k.b.bk != 0 || k.t != .n32)) }
  else if op = 0x59 then { bks := [2], types := types, d := v }
  else if [0x48, 0x49, 0x4D, 0x54, 0x55].contains op then { bks := [0], types := types, sat := sat, d := v, a := v }
  else
    { bks := [0, 1, 2], types := types, sat := sat, sub := if op = 0x52 then 3 else 0, d := if op = 0x52 then .p else v, a := v, b := v,
      c := if [0x44, 0x53, 0x57, 0x5A].contains op then v else .none, bad := op = 0x52 && 5 < k.sub.toNat % 8 }

/-- The rows of R187. -/
def packedRow (op : Nat) : KRow :=
  let v := FieldUse.v false
  if op = 0x69 then { bks := [0], types := pkTypes, sub := 1, d := v, a := v }
  else
    { bks := [0, 1, 2], types := pkTypes, sat := [0x60, 0x61, 0x62, 0x63, 0x68].contains op, d := v, a := v, b := v,
      c := if op = 0x63 || op = 0x64 then v else .none }

/-- The rows of R190 to R194. -/
def laneRow (op : Nat) (k : KOps) : KRow :=
  let v := FieldUse.v false
  let wide := FieldUse.v k.t.is64
  let f := k.sub.toNat % 8
  if op = 0x6A then { bks := [1], sub := 1, d := v, a := v, b := .s 62 }
  else if op = 0x6B then { bks := [0, 1, 2], types := [.n32, .n64], sub := 2, d := wide, a := wide, b := wide }
  else if op = 0x6C then { bks := [1], d := v, a := v, b := .s 63, c := .num 8, bad := k.c = 0 || 4 < k.c.toNat }
  else if op = 0x6F then { bks := [0], sub := 2, d := if f % 4 < 2 then .p else .s 63, a := v }
  else
    { bks := [0], types := [.i32, .n32, .f32], sat := f = 0, sub := if op = 0x6D then 4 else 3, d := if op = 0x6D then v else .s 63, a := v,
      bad := f = 7 || (f = 6) != (k.t = .f32) }

/-- The rows of R195. -/
def floatRow (op : Nat) : KRow :=
  let v := FieldUse.v false
  let types := if op ≤ 0x77 || op = 0x7A then fpTypes else if op ≤ 0x79 then [.f32, .f16, .bf16] else [.f32]
  let rm := op ≤ 0x73 || 0x7A ≤ op
  if [0x76, 0x77, 0x79, 0x7A, 0x7C, 0x7D, 0x7E, 0x7F, 0x80].contains op then { bks := [0], types := types, rm := rm, d := v, a := v }
  else
    { bks := [0, 1, 2], types := types, rm := rm, sub := if op = 0x78 then 3 else 0, d := if op = 0x78 then .p else v, a := v, b := v,
      c := if op = 0x73 then v else .none }

/-- Types that CVT converts from (R201). -/
def cvtFrom : List Typ := wideTypes ++ [.f32, .f16, .bf16, .e4m3, .e5m2]

/-- The row of R201. The pair form has an X2 destination. Where a 64-bit type is named, every register field is even (R175). -/
def cvtRow (k : KOps) : KRow :=
  let src := (typOfCode (k.c.toNat % 32)).getD .q4e
  let pair := [Typ.i16x2, .n16x2, .bf16x2, .f16x2].contains k.t
  let v := FieldUse.v (k.t.is64 || src.is64)
  { bks := [0], types := cvtFrom ++ [Typ.i16x2, .n16x2, .bf16x2, .f16x2], rm := true,
    sat := wideTypes.contains src && (wideTypes ++ [Typ.i16x2, Typ.n16x2]).contains k.t,
    d := v, a := v, b := if pair then v else .none, c := .num 5, bad := !cvtFrom.contains src }

/-- The rows of R202. -/
def predRow (op : Nat) : KRow := { bks := [0], d := .p, a := .p, b := if op ≤ 0x8A then .p else .none }

/-- The row of an opcode of format K. -/
def kRow (op : Nat) (k : KOps) : KRow :=
  if op < 0x40 then scalarRow op k
  else if op < 0x60 then vintRow op k
  else if op < 0x6A then packedRow op
  else if op < 0x70 then laneRow op k
  else if op < 0x81 then floatRow op
  else if op = 0x81 then cvtRow k
  else predRow op

/-- Use of the register that B holds: a broadcast register is scalar. -/
def KRow.bUse (r : KRow) (b : Src2) : FieldUse :=
  match b, r.b with
  | .bcast _, .s m => .s m
  | .bcast _, _ => .s 63
  | _, u => u

/-- A value that the opcode refuses (R146, R147, R203). -/
def kBad (op : Nat) (k : KOps) : Bool :=
  let r := kRow op k
  !r.bks.contains k.b.bk || (!r.types.isEmpty && !r.types.contains k.t) || r.bad
    || !r.d.ok k.d || !r.a.ok k.a || !r.c.ok k.c
    || (match k.b with
        | .reg x | .bcast x => !(r.bUse k.b).ok x
        | _ => false)

/-- The fields with every reserved one cleared. -/
def kNorm (op : Nat) (k : KOps) : KOps :=
  let r := kRow op k
  { d := r.d.norm k.d, a := r.a.norm k.a, c := r.c.norm k.c,
    b := match k.b with
      | .reg x => .reg ((r.bUse k.b).norm x)
      | .bcast x => .bcast ((r.bUse k.b).norm x)
      | y => y,
    t := if r.types.isEmpty then .i8 else k.t, sat := r.sat && k.sat, rm := if r.rm then k.rm else .rne,
    sub := BitVec.ofNat 6 (k.sub.toNat % 2 ^ r.sub) }

/-! ### Format J (R149, R206, R232) -/

def jBad (op : Nat) (h : Hdr) (o : JOps) : Bool :=
  (op = 0x03 && (h.g != 0 || h.gn)) || ([0x01, 0x03, 0x04].contains op && o.disp.toNat % 4 != 0)

def jNorm (op : Nat) (o : JOps) : JOps :=
  { disp := if [0x01, 0x03, 0x04].contains op then o.disp else if op = 0x0A then BitVec.ofNat 32 (o.disp.toNat % 2 ^ 24) else 0,
    bar := if op = 0x06 || op = 0x07 then o.bar else 0,
    d := if [0x02, 0x04, 0x05].contains op then o.d else if op = 0x06 then BitVec.ofNat 8 (o.d.toNat % 8) else 0 }

/-! ### Format Y (R150, R151, R206, R232, R410) -/

def yBad (op : Nat) (o : YOps) : Bool :=
  ([0x10, 0x11, 0x12].contains op && 23 < o.spec.toNat) || (op = 0x10 && o.imm = 0) || (op = 0x16 && 255 < o.imm.toNat)
    || ((op = 0x17 || op = 0x18) && (o.spec = 0 || 3 < o.spec.toNat)) || ((op = 0x1C || op = 0x1D) && 0x10 < o.spec.toNat)
    || ([0x13, 0x14, 0x19, 0x1D].contains op && 63 < o.a.toNat) || (op = 0x19 && 63 < o.b.toNat)
    || (op = 0x1C && o.spec != 0 && 63 < o.d.toNat)

/-- SFLAG's mask bit 7 and IMM16[15] are ignored and never fault (R410), so they stay in the instruction. -/
def yNorm (op : Nat) (o : YOps) : YOps :=
  { imm := if [0x10, 0x16, 0x19, 0x1A, 0x1F].contains op then o.imm else 0,
    spec := if [0x10, 0x11, 0x12, 0x17, 0x18, 0x1C, 0x1D].contains op then o.spec else 0,
    f := if [0x12, 0x19, 0x1F].contains op then o.f else false,
    b := if op = 0x19 then o.b else 0,
    a := if [0x13, 0x14, 0x19, 0x1D].contains op then o.a else 0,
    d := if op = 0x1C then o.d else 0 }

/-! ### Format M (R152, R233, R234, R244, R261) -/

def mIsAtomic (op : Nat) : Bool := op = 0x99 || op = 0x9A
/-- LD, LDA, LDW, LDX, ATOM and ATOMA have a destination; ST, STA, STX and the atomics have data in B. -/
def mHasD (op : Nat) : Bool := [0x90, 0x92, 0x94, 0x95].contains op || mIsAtomic op
def mHasB (op : Nat) : Bool := [0x91, 0x93, 0x96].contains op || mIsAtomic op
def mHasHint (op : Nat) : Bool := [0x90, 0x91, 0x97].contains op
/-- SCOPE names a scope on every atomic and where ORD is not RLX (R96). -/
def mHasScope (op : Nat) (o : MOps) : Bool := mIsAtomic op || o.ord != .rlx

/-- The orderings that an opcode permits (R152, R233). -/
def mOrds (op : Nat) : List Ord :=
  if op = 0x90 || op = 0x92 then [.rlx, .acq] else if op = 0x91 || op = 0x93 then [.rlx, .rel]
  else if mIsAtomic op then [.rlx, .acq, .rel, .acqrel] else if op = 0x98 then [.acq, .rel, .acqrel, .sc] else [.rlx]

/-- Use of A (R234): a pair of vector registers for a global address. -/
def mAUse (op : Nat) (o : MOps) : FieldUse :=
  if op = 0x98 then .none
  else if o.am = .vec then (if [0x90, 0x91, 0x97, 0x99].contains op then .run 2 else .v false) else .s 63
/-- Use of D, and of B with its CAS operands (R234, R244). -/
def mDUse (op : Nat) (o : MOps) : FieldUse :=
  if !mHasD op then .none else if o.am = .scalar then .s 63 else .v o.t.is64
def mBUse (op : Nat) (o : MOps) : FieldUse :=
  let cas := mIsAtomic op && o.aop = .cas
  if !mHasB op then .none
  else if o.am = .scalar then .s (if cas then 62 else 63)
  else if cas then .run (if o.t.is64 then 4 else 2) else .v o.t.is64

def mBad (op : Nat) (o : MOps) : Bool :=
  !(mOrds op).contains o.ord
    || (op != 0x98 &&
      ((op = 0x97 && o.am = .stride) || (op != 0x97 && !(if mIsAtomic op then (if o.aop = .fadd then [.f32] else [.i32, .n32, .i64, .n64]) else wideTypes).contains o.t)
      || !(mAUse op o).ok o.a || !(mDUse op o).ok o.d || !(mBUse op o).ok o.b
      || (o.am != .scalar && o.t.is64 && mHasB op && o.b.toNat % 2 != 0)))

def mNorm (op : Nat) (o : MOps) : MOps :=
  if op = 0x98 then { ord := o.ord, scope := o.scope, t := .i8 }
  else
    { d := (mDUse op o).norm o.d, a := o.a, b := (mBUse op o).norm o.b, am := o.am, t := if op = 0x97 then .i8 else o.t, ord := o.ord,
      scope := if mHasScope op o then o.scope else .lane, qos := o.qos, hint := if mHasHint op then o.hint else .none,
      peer := if op = 0x95 || op = 0x96 then o.peer else 0, aop := if mIsAtomic op then o.aop else .add, disp := o.disp }

/-! ### Format X (R153, R261) -/

def xBad (op : Nat) (o : XOps) : Bool := op = 0x9C && o.disp.toNat % 4 != 0
def xNorm (op : Nat) (o : XOps) : XOps :=
  { disp := if op = 0x9C then o.disp else 0, code := if op = 0x9E then o.code else 0, d := if op = 0x9F then o.d else 0 }

/-! ### Format T (R154, R262, R264, R267, R278, R292) -/

def matFloat : List Typ := [.bf16, .f16, .e4m3, .e5m2, .q4e]
/-- Pairings of TA and TB (R264). -/
def matPair (op : Nat) (ta tb : Typ) : Bool :=
  if op = 0xA2 then (ta = .i8 && [Typ.i8, .n8].contains tb) || (ta = .i16 && [Typ.i8, .n8, .i16, .n16].contains tb)
  else (matFloat.contains ta && matFloat.contains tb) || ([Typ.i8, .n8].contains ta && [Typ.i8, .n8].contains tb)
/-- K, the length of the shared dimension (R264). -/
def matK (ta tb : Typ) : Nat := if [ta, tb].any (fun t => t = .bf16 || t = .f16) || ta = .i16 then 32 else 64
/-- Bits of an element as a line holds it. -/
def matBits : Typ → Nat
  | .i16 | .n16 | .bf16 | .f16 => 16
  | .q4e => 4
  | _ => 8
/-- Registers of an operand in vector registers (R267). -/
def matRegs (ta tb t : Typ) : Nat := 2 * (matK ta tb * matBits t / 32)

def tBad (op : Nat) (o : TOps) : Bool :=
  if op ≤ 0xA2 then
    !matPair op o.ta o.tb || (o.ta = .q4e && !o.pairA) || (o.tb = .q4e && o.regB) || (op = 0xA1 && (!o.pairA || o.regB))
      || !(if o.pairA then FieldUse.s 62 else .run (matRegs o.ta o.tb o.ta)).ok o.ar
      || !(if o.regB then FieldUse.run (matRegs o.ta o.tb o.tb) else .s 62).ok o.br
  else (op = 0xA3 && 63 < o.ar.toNat) || ((op = 0xA6 || op = 0xA7) && 128 < o.ar.toNat)

def tNorm (op : Nat) (o : TOps) : TOps :=
  if op ≤ 0xA2 then { o with ma := if op = 0xA1 then o.ma else 0, mb := if op = 0xA1 then o.mb else 0 }
  else
    { ta := .i8, tb := .i8, tile := if [0xA4, 0xA5, 0xA6, 0xA7, 0xA8].contains op then o.tile else 0,
      ma := if op = 0xA3 then o.ma else 0, ar := if [0xA3, 0xA6, 0xA7].contains op then o.ar else 0 }

/-! ### Format E (R155, R280, R292) -/

def eSsp (op : Nat) : List Space :=
  if op ≤ 0xB1 then [.global, .ownA, .ownW, .peerA, .peerW] else if op = 0xB6 then [.net] else if op = 0xB8 then [.storage] else [.global, .ownA]
def eDsp (op : Nat) : List Space :=
  if op = 0xB0 then [.global, .ownA, .ownW, .peerA, .peerW] else if op = 0xB1 then [.ownA, .ownW, .peerA, .peerW]
  else if op = 0xB2 || op = 0xB4 then [.global, .ownA, .ownW] else if op = 0xB5 || op = 0xB7 then [.net] else [.global, .ownA]
/-- Bits of SUB that an opcode uses (R155). -/
def eSub (op : Nat) : Nat := if op = 0xB1 || op = 0xB7 then 4 else if op = 0xB3 then 1 else if op = 0xB4 || op = 0xB8 then 2 else 0
def Space.isPeer (s : Space) : Bool := s = .peerA || s = .peerW

def eBad (op : Nat) (o : EOps) : Bool :=
  let sub := o.sub.toNat % 2 ^ eSub op
  !(eSsp op).contains o.ssp || !(eDsp op).contains o.dsp
    || (op = 0xB1 && (4 < sub % 8 || o.imm.isSome)) || (op = 0xB4 && (sub = 0 || sub = 3)) || (op = 0xB8 && sub = 3)
    || (op = 0xB7 && ((sub != 0 && sub != 7) || o.imm.isSome))
    || (match o.arrive with
        | some (n, _) => decide (23 < n.toNat)
        | none => false)
    || 63 < o.d.toNat || 63 < o.a.toNat || (op != 0xB0 && 63 < o.c.toNat)
    || (o.imm.isNone && (if op = 0xB7 && sub = 7 then 62 else 63) < o.b.toNat)

/-- The fields that a command of format E uses; the rest are zero. `COPYT` has no length, and R155 does not call its B reserved: its
values 0 to 63 are kept and not used, and 64 and above are no scalar register (R144; DESIGN CHOICE, log 83). -/
def eNorm (op : Nat) (o : EOps) : EOps :=
  { o with c := if op = 0xB0 then 0 else o.c, b := if o.imm.isSome then 0 else o.b,
           peer := if o.ssp.isPeer || o.dsp.isPeer then o.peer else 0, sub := BitVec.ofNat 6 (o.sub.toNat % 2 ^ eSub op) }

/-! ### The opcode map (R156) -/

/-- An instruction as its format lays it out: opcode, header, fields. `hart` is a word of an RV64 hart; `step` has
no word. -/
inductive View
  | nop (h : Hdr) (n : Nat)
  | j (op : Nat) (h : Hdr) (o : JOps)
  | y (op : Nat) (h : Hdr) (o : YOps)
  | k (op : Nat) (h : Hdr) (o : KOps)
  | m (op : Nat) (h : Hdr) (o : MOps)
  | x (op : Nat) (h : Hdr) (o : XOps)
  | t (op : Nat) (h : Hdr) (o : TOps)
  | e (op : Nat) (h : Hdr) (o : EOps)
  | hart (funct3 : Nat) (rd rs : BitVec 5)
  | other (w : BitVec 32)
  | step
deriving DecidableEq, Repr

/-- Opcode, header and fields of each instruction (R156). -/
def Instr.view : Instr → View
  | .nop h n => .nop h n
  | .bra h o => .j 0x01 h o
  | .brx h o => .j 0x02 h o
  | .jmp h o => .j 0x03 h o
  | .call h o => .j 0x04 h o
  | .ret h o => .j 0x05 h o
  | .enrol h o => .j 0x06 h o
  | .rejoin h o => .j 0x07 h o
  | .yield h o => .j 0x08 h o
  | .exit h o => .j 0x09 h o
  | .wait h o => .j 0x0A h o
  | .rvinit h o => .y 0x10 h o
  | .rvarrive h o => .y 0x11 h o
  | .rvwait h o => .y 0x12 h o
  | .monitor h o => .y 0x13 h o
  | .mwait h o => .y 0x14 h o
  | .fetchw h o => .y 0x15 h o
  | .switchv h o => .y 0x16 h o
  | .xacq h o => .y 0x17 h o
  | .xrel h o => .y 0x18 h o
  | .svcOstler h o => .y 0x19 h o
  | .svcApp h o => .y 0x19 h o
  | .trap h o => .y 0x1A h o
  | .hret h o => .y 0x1B h o
  | .srd h o => .y 0x1C h o
  | .swr h o => .y 0x1D h o
  | .wmark h o => .y 0x1E h o
  | .sflagSet h o => .y 0x1F h o
  | .sflagClr h o => .y 0x1F h o
  | .sadd h o => .k 0x20 h o
  | .ssub h o => .k 0x21 h o
  | .smul h o => .k 0x22 h o
  | .smulh h o => .k 0x23 h o
  | .sdiv h o => .k 0x24 h o
  | .srem h o => .k 0x25 h o
  | .smin h o => .k 0x26 h o
  | .smax h o => .k 0x27 h o
  | .sand h o => .k 0x28 h o
  | .sor h o => .k 0x29 h o
  | .sxor h o => .k 0x2A h o
  | .sshl h o => .k 0x2B h o
  | .sshr h o => .k 0x2C h o
  | .ssra h o => .k 0x2D h o
  | .scmp h o => .k 0x2E h o
  | .ssel h o => .k 0x2F h o
  | .smovi h o => .k 0x30 h o
  | .slea h o => .k 0x31 h o
  | .sclz h o => .k 0x32 h o
  | .spop h o => .k 0x33 h o
  | .sbfx h o => .k 0x34 h o
  | .sbfi h o => .k 0x35 h o
  | .vadd h o => .k 0x40 h o
  | .vsub h o => .k 0x41 h o
  | .vmul h o => .k 0x42 h o
  | .vmulh h o => .k 0x43 h o
  | .vmad h o => .k 0x44 h o
  | .vdiv h o => .k 0x45 h o
  | .vmin h o => .k 0x46 h o
  | .vmax h o => .k 0x47 h o
  | .vabs h o => .k 0x48 h o
  | .vneg h o => .k 0x49 h o
  | .vand h o => .k 0x4A h o
  | .vor h o => .k 0x4B h o
  | .vxor h o => .k 0x4C h o
  | .vnot h o => .k 0x4D h o
  | .vshl h o => .k 0x4E h o
  | .vshr h o => .k 0x4F h o
  | .vsra h o => .k 0x50 h o
  | .vrot h o => .k 0x51 h o
  | .vcmp h o => .k 0x52 h o
  | .vsel h o => .k 0x53 h o
  | .vpop h o => .k 0x54 h o
  | .vclz h o => .k 0x55 h o
  | .vbfx h o => .k 0x56 h o
  | .vbfi h o => .k 0x57 h o
  | .vmov h o => .k 0x58 h o
  | .vmovi h o => .k 0x59 h o
  | .vdot4 h o => .k 0x5A h o
  | .pkadd h o => .k 0x60 h o
  | .pksub h o => .k 0x61 h o
  | .pkmul h o => .k 0x62 h o
  | .pkmad h o => .k 0x63 h o
  | .pksad h o => .k 0x64 h o
  | .pkavg h o => .k 0x65 h o
  | .pkmin h o => .k 0x66 h o
  | .pkmax h o => .k 0x67 h o
  | .pknar h o => .k 0x68 h o
  | .pkwid h o => .k 0x69 h o
  | .permb h o => .k 0x6A h o
  | .lxch h o => .k 0x6B h o
  | .lprev h o => .k 0x6C h o
  | .lscan h o => .k 0x6D h o
  | .lred h o => .k 0x6E h o
  | .lpoll h o => .k 0x6F h o
  | .fadd h o => .k 0x70 h o
  | .fsub h o => .k 0x71 h o
  | .fmul h o => .k 0x72 h o
  | .ffma h o => .k 0x73 h o
  | .fmin h o => .k 0x74 h o
  | .fmax h o => .k 0x75 h o
  | .fabs h o => .k 0x76 h o
  | .fneg h o => .k 0x77 h o
  | .fcmp h o => .k 0x78 h o
  | .fclass h o => .k 0x79 h o
  | .frnd h o => .k 0x7A h o
  | .fdiv h o => .k 0x7B h o
  | .fsqrt h o => .k 0x7C h o
  | .exp2 h o => .k 0x7D h o
  | .log2 h o => .k 0x7E h o
  | .rcp h o => .k 0x7F h o
  | .rsq h o => .k 0x80 h o
  | .cvt h o => .k 0x81 h o
  | .pand h o => .k 0x88 h o
  | .por h o => .k 0x89 h o
  | .pxor h o => .k 0x8A h o
  | .pnot h o => .k 0x8B h o
  | .pmov h o => .k 0x8C h o
  | .ld h o => .m 0x90 h o
  | .st h o => .m 0x91 h o
  | .lda h o => .m 0x92 h o
  | .sta h o => .m 0x93 h o
  | .ldw h o => .m 0x94 h o
  | .ldx h o => .m 0x95 h o
  | .stx h o => .m 0x96 h o
  | .pref h o => .m 0x97 h o
  | .fence h o => .m 0x98 h o
  | .atom h o => .m 0x99 h o
  | .atoma h o => .m 0x9A h o
  | .txbegin h o => .x 0x9C h o
  | .txend h o => .x 0x9D h o
  | .txabort h o => .x 0x9E h o
  | .txstat h o => .x 0x9F h o
  | .mma h o => .t 0xA0 h o
  | .mmas h o => .t 0xA1 h o
  | .mmab h o => .t 0xA2 h o
  | .ldmeta h o => .t 0xA3 h o
  | .tkacq h o => .t 0xA4 h o
  | .tkrel h o => .t 0xA5 h o
  | .accld h o => .t 0xA6 h o
  | .accst h o => .t 0xA7 h o
  | .accz h o => .t 0xA8 h o
  | .opfence h o => .t 0xA9 h o
  | .copy h o => .e 0xB0 h o
  | .copyt h o => .e 0xB1 h o
  | .gather h o => .e 0xB2 h o
  | .scadd h o => .e 0xB3 h o
  | .decomp h o => .e 0xB4 h o
  | .nput h o => .e 0xB5 h o
  | .nget h o => .e 0xB6 h o
  | .natom h o => .e 0xB7 h o
  | .sread h o => .e 0xB8 h o
  | .txB rd => .hart 0 rd 0
  | .txE rd => .hart 1 rd 0
  | .txA rs => .hart 2 0 rs
  | .txS rd => .hart 3 rd 0
  | .custom0Illegal w => .other w
  | _ => .step

/-- The instruction of an opcode of each format (R156). -/
def jMake (op : Nat) (h : Hdr) (o : JOps) : Option Instr :=
  match op with
  | 0x01 => some (.bra h o)
  | 0x02 => some (.brx h o)
  | 0x03 => some (.jmp h o)
  | 0x04 => some (.call h o)
  | 0x05 => some (.ret h o)
  | 0x06 => some (.enrol h o)
  | 0x07 => some (.rejoin h o)
  | 0x08 => some (.yield h o)
  | 0x09 => some (.exit h o)
  | 0x0A => some (.wait h o)
  | _ => none

def yMake (op : Nat) (h : Hdr) (o : YOps) : Option Instr :=
  match op with
  | 0x10 => some (.rvinit h o)
  | 0x11 => some (.rvarrive h o)
  | 0x12 => some (.rvwait h o)
  | 0x13 => some (.monitor h o)
  | 0x14 => some (.mwait h o)
  | 0x15 => some (.fetchw h o)
  | 0x16 => some (.switchv h o)
  | 0x17 => some (.xacq h o)
  | 0x18 => some (.xrel h o)
  | 0x19 => if o.f then some (.svcApp h o) else some (.svcOstler h o)
  | 0x1A => some (.trap h o)
  | 0x1B => some (.hret h o)
  | 0x1C => some (.srd h o)
  | 0x1D => some (.swr h o)
  | 0x1E => some (.wmark h o)
  | 0x1F => if o.f then some (.sflagClr h o) else some (.sflagSet h o)
  | _ => none

def kMake (op : Nat) (h : Hdr) (o : KOps) : Option Instr :=
  match op with
  | 0x20 => some (.sadd h o)
  | 0x21 => some (.ssub h o)
  | 0x22 => some (.smul h o)
  | 0x23 => some (.smulh h o)
  | 0x24 => some (.sdiv h o)
  | 0x25 => some (.srem h o)
  | 0x26 => some (.smin h o)
  | 0x27 => some (.smax h o)
  | 0x28 => some (.sand h o)
  | 0x29 => some (.sor h o)
  | 0x2A => some (.sxor h o)
  | 0x2B => some (.sshl h o)
  | 0x2C => some (.sshr h o)
  | 0x2D => some (.ssra h o)
  | 0x2E => some (.scmp h o)
  | 0x2F => some (.ssel h o)
  | 0x30 => some (.smovi h o)
  | 0x31 => some (.slea h o)
  | 0x32 => some (.sclz h o)
  | 0x33 => some (.spop h o)
  | 0x34 => some (.sbfx h o)
  | 0x35 => some (.sbfi h o)
  | 0x40 => some (.vadd h o)
  | 0x41 => some (.vsub h o)
  | 0x42 => some (.vmul h o)
  | 0x43 => some (.vmulh h o)
  | 0x44 => some (.vmad h o)
  | 0x45 => some (.vdiv h o)
  | 0x46 => some (.vmin h o)
  | 0x47 => some (.vmax h o)
  | 0x48 => some (.vabs h o)
  | 0x49 => some (.vneg h o)
  | 0x4A => some (.vand h o)
  | 0x4B => some (.vor h o)
  | 0x4C => some (.vxor h o)
  | 0x4D => some (.vnot h o)
  | 0x4E => some (.vshl h o)
  | 0x4F => some (.vshr h o)
  | 0x50 => some (.vsra h o)
  | 0x51 => some (.vrot h o)
  | 0x52 => some (.vcmp h o)
  | 0x53 => some (.vsel h o)
  | 0x54 => some (.vpop h o)
  | 0x55 => some (.vclz h o)
  | 0x56 => some (.vbfx h o)
  | 0x57 => some (.vbfi h o)
  | 0x58 => some (.vmov h o)
  | 0x59 => some (.vmovi h o)
  | 0x5A => some (.vdot4 h o)
  | 0x60 => some (.pkadd h o)
  | 0x61 => some (.pksub h o)
  | 0x62 => some (.pkmul h o)
  | 0x63 => some (.pkmad h o)
  | 0x64 => some (.pksad h o)
  | 0x65 => some (.pkavg h o)
  | 0x66 => some (.pkmin h o)
  | 0x67 => some (.pkmax h o)
  | 0x68 => some (.pknar h o)
  | 0x69 => some (.pkwid h o)
  | 0x6A => some (.permb h o)
  | 0x6B => some (.lxch h o)
  | 0x6C => some (.lprev h o)
  | 0x6D => some (.lscan h o)
  | 0x6E => some (.lred h o)
  | 0x6F => some (.lpoll h o)
  | 0x70 => some (.fadd h o)
  | 0x71 => some (.fsub h o)
  | 0x72 => some (.fmul h o)
  | 0x73 => some (.ffma h o)
  | 0x74 => some (.fmin h o)
  | 0x75 => some (.fmax h o)
  | 0x76 => some (.fabs h o)
  | 0x77 => some (.fneg h o)
  | 0x78 => some (.fcmp h o)
  | 0x79 => some (.fclass h o)
  | 0x7A => some (.frnd h o)
  | 0x7B => some (.fdiv h o)
  | 0x7C => some (.fsqrt h o)
  | 0x7D => some (.exp2 h o)
  | 0x7E => some (.log2 h o)
  | 0x7F => some (.rcp h o)
  | 0x80 => some (.rsq h o)
  | 0x81 => some (.cvt h o)
  | 0x88 => some (.pand h o)
  | 0x89 => some (.por h o)
  | 0x8A => some (.pxor h o)
  | 0x8B => some (.pnot h o)
  | 0x8C => some (.pmov h o)
  | _ => none

def mMake (op : Nat) (h : Hdr) (o : MOps) : Option Instr :=
  match op with
  | 0x90 => some (.ld h o)
  | 0x91 => some (.st h o)
  | 0x92 => some (.lda h o)
  | 0x93 => some (.sta h o)
  | 0x94 => some (.ldw h o)
  | 0x95 => some (.ldx h o)
  | 0x96 => some (.stx h o)
  | 0x97 => some (.pref h o)
  | 0x98 => some (.fence h o)
  | 0x99 => some (.atom h o)
  | 0x9A => some (.atoma h o)
  | _ => none

def xMake (op : Nat) (h : Hdr) (o : XOps) : Option Instr :=
  match op with
  | 0x9C => some (.txbegin h o)
  | 0x9D => some (.txend h o)
  | 0x9E => some (.txabort h o)
  | 0x9F => some (.txstat h o)
  | _ => none

def tMake (op : Nat) (h : Hdr) (o : TOps) : Option Instr :=
  match op with
  | 0xA0 => some (.mma h o)
  | 0xA1 => some (.mmas h o)
  | 0xA2 => some (.mmab h o)
  | 0xA3 => some (.ldmeta h o)
  | 0xA4 => some (.tkacq h o)
  | 0xA5 => some (.tkrel h o)
  | 0xA6 => some (.accld h o)
  | 0xA7 => some (.accst h o)
  | 0xA8 => some (.accz h o)
  | 0xA9 => some (.opfence h o)
  | _ => none

def eMake (op : Nat) (h : Hdr) (o : EOps) : Option Instr :=
  match op with
  | 0xB0 => some (.copy h o)
  | 0xB1 => some (.copyt h o)
  | 0xB2 => some (.gather h o)
  | 0xB3 => some (.scadd h o)
  | 0xB4 => some (.decomp h o)
  | 0xB5 => some (.nput h o)
  | 0xB6 => some (.nget h o)
  | 0xB7 => some (.natom h o)
  | 0xB8 => some (.sread h o)
  | _ => none

/-- Format and permitted lengths in bytes of an opcode (R156). -/
inductive Form
  | nop | j | y | k | m | x | t | e
deriving DecidableEq, Repr

def formOf (op : Nat) : Option Form :=
  if op = 0 then some .nop
  else if op ≤ 0x0A then some .j
  else if 0x10 ≤ op && op ≤ 0x1F then some .y
  else if (0x20 ≤ op && op ≤ 0x35) || (0x40 ≤ op && op ≤ 0x5A) || (0x60 ≤ op && op ≤ 0x81) || (0x88 ≤ op && op ≤ 0x8C) then some .k
  else if 0x90 ≤ op && op ≤ 0x9A then some .m
  else if 0x9C ≤ op && op ≤ 0x9F then some .x
  else if 0xA0 ≤ op && op ≤ 0xA9 then some .t
  else if 0xB0 ≤ op && op ≤ 0xB8 then some .e
  else none

/-- A custom-0 word that is one of TX.B, TX.E, TX.A and TX.S (R257, R260): by funct3, register and unused fields. -/
def hartMake (f rd rs : Nat) : Option Instr :=
  match f with
  | 0 => some (.txB (BitVec.ofNat 5 rd))
  | 1 => some (.txE (BitVec.ofNat 5 rd))
  | 2 => some (.txA (BitVec.ofNat 5 rs))
  | 3 => some (.txS (BitVec.ofNat 5 rd))
  | _ => none

end Sys2Proof
end

