-- ==== Sys2Proof/Machine/Float.lean ====
section
/-! DEFINITION. Floating-point formats, rounding, flags and operations (R124 to R132, R193, R195 to R201). -/

namespace Sys2Proof.Machine

/-- A binary format: exponent bits, fraction bits, bias, and whether it has infinities (R124). -/
structure Fmt where
  eb   : Nat
  fb   : Nat
  bias : Nat
  inf  : Bool
deriving DecidableEq, Repr

/-- The format of a float type (R124). -/
def Fmt.of : Typ → Fmt
  | .f16 | .f16x2 => ⟨5, 10, 15, true⟩
  | .bf16 | .bf16x2 => ⟨8, 7, 127, true⟩
  | .e4m3 => ⟨4, 3, 7, false⟩
  | .e5m2 => ⟨5, 2, 15, true⟩
  | _ => ⟨8, 23, 127, true⟩

/-- An exact value: a NaN (signalling or not), an infinity, or (-1)^neg * m * 2^e. -/
inductive FVal
  | nan (sig : Bool)
  | inf (neg : Bool)
  | fin (neg : Bool) (m : Nat) (e : Int)
deriving DecidableEq, Repr

/-- Sign, exponent and fraction fields. -/
def Fmt.sgn (f : Fmt) (x : Nat) : Bool := x.testBit (f.eb + f.fb)
def Fmt.exp (f : Fmt) (x : Nat) : Nat := x / 2 ^ f.fb % 2 ^ f.eb
def Fmt.frac (f : Fmt) (x : Nat) : Nat := x % 2 ^ f.fb

/-- Decodes a pattern (R124, R125): NaNs of the 8-bit formats are quiet. -/
def Fmt.decode (f : Fmt) (x : Nat) : FVal :=
  let e := f.exp x
  let m := f.frac x
  let top := e == 2 ^ f.eb - 1
  if f.inf && top then
    if m = 0 then .inf (f.sgn x) else .nan (f.fb > 2 && !m.testBit (f.fb - 1))
  else if !f.inf && top && m == 2 ^ f.fb - 1 then .nan false
  else if e = 0 then .fin (f.sgn x) m (1 - f.bias - f.fb)
  else .fin (f.sgn x) (2 ^ f.fb + m) ((e : Int) - f.bias - f.fb)

/-- The canonical NaN (R124, R125). -/
def Fmt.cnan (f : Fmt) : Nat :=
  if f.inf then (2 ^ f.eb - 1) * 2 ^ f.fb + (if f.fb = 2 then 2 else 2 ^ (f.fb - 1)) else 2 ^ (f.eb + f.fb) - 1

/-- Sign bit in place. -/
def Fmt.signBit (f : Fmt) (neg : Bool) : Nat := if neg then 2 ^ (f.eb + f.fb) else 0
/-- Largest finite pattern, without sign (R124). -/
def Fmt.maxFin (f : Fmt) : Nat :=
  if f.inf then (2 ^ f.eb - 1) * 2 ^ f.fb - 1 else 2 ^ (f.eb + f.fb) - 2
/-- Infinity, without sign. -/
def Fmt.infPat (f : Fmt) : Nat := (2 ^ f.eb - 1) * 2 ^ f.fb
/-- Exponent of the smallest normal. -/
def Fmt.emin (f : Fmt) : Int := 1 - f.bias
/-- Significand and exponent of the largest finite value. -/
def Fmt.maxM (f : Fmt) : Nat := 2 ^ f.fb + f.maxFin % 2 ^ f.fb
def Fmt.maxE (f : Fmt) : Int := (f.maxFin / 2 ^ f.fb : Nat) - f.bias - f.fb

/-- Rounds m * 2^e, plus a positive excess below one unit of m when `sticky`, to a multiple of 2^q:
the multiple, and whether it is inexact (R127). -/
def roundAt (mode : Rnd) (neg : Bool) (m : Nat) (e : Int) (sticky : Bool) (q : Int) : Nat × Bool :=
  if q ≤ e then
    let n := m * 2 ^ (e - q).toNat
    (if sticky && ((mode == .rup && !neg) || (mode == .rdn && neg)) then n + 1 else n, sticky)
  else
    let k := (q - e).toNat
    let n := m / 2 ^ k
    let r := m % 2 ^ k
    let inexact := r ≠ 0 || sticky
    let up := match mode with
      | .rne => 2 * r > 2 ^ k || (2 * r == 2 ^ k && (sticky || n % 2 == 1))
      | .rtz => false
      | .rup => inexact && !neg
      | .rdn => inexact && neg
    (if up then n + 1 else n, inexact)

/-- Compares n * 2^q with m * 2^e: whether the first is greater. -/
def gtScaled (n : Nat) (q : Int) (m : Nat) (e : Int) : Bool :=
  if q ≤ e then n > m * 2 ^ (e - q).toNat else n * 2 ^ (q - e).toNat > m

/-- Packs n * 2^q, already rounded to the format (n has at most fb + 1 bits, or is 2^(fb+1)). -/
def Fmt.put (f : Fmt) (neg : Bool) (n : Nat) (q : Int) : Nat :=
  let (n, q) := if n = 2 ^ (f.fb + 1) then (2 ^ f.fb, q + 1) else (n, q)
  f.signBit neg + (if n < 2 ^ f.fb then n else (q + f.fb + f.bias).toNat * 2 ^ f.fb + (n - 2 ^ f.fb))

/-- Rounds an exact non-zero value into the format: pattern and flags OVF, UNF, INX (R127, R128).
With `conv` a value out of range gives the largest finite value with SAT and INX (R129). -/
def Fmt.round (f : Fmt) (mode : Rnd) (conv : Bool) (neg : Bool) (m : Nat) (e : Int) (sticky : Bool) : Nat × Flags :=
  if m = 0 && !sticky then (f.signBit neg, 0) else
  let q1 : Int := (Nat.log2 m : Int) + e - f.fb
  let q : Int := max q1 (f.emin - f.fb)
  let u := roundAt mode neg m e sticky q1
  let r := roundAt mode neg m e sticky q
  if gtScaled u.1 q1 f.maxM f.maxE then
    if conv then (f.signBit neg + f.maxFin, fSAT ||| fINX)
    else
      let toInf := match mode with
        | .rne => true
        | .rtz => false
        | .rup => !neg
        | .rdn => neg
      (f.signBit neg + (if toInf then f.infPat else f.maxFin), fOVF ||| fINX)
  else
    let tiny := gtScaled 1 f.emin u.1 q1
    (f.put neg r.1 q, flagIf r.2 fINX ||| flagIf (tiny && r.2) fUNF)

/-- A NaN result: canonical, INV if asked (R125). -/
def Fmt.nanRes (f : Fmt) (inv : Bool) : Nat × Flags := (f.cnan, flagIf inv fINV)

def FVal.isNan : FVal → Bool
  | .nan _ => true
  | _ => false
def FVal.isSig : FVal → Bool
  | .nan true => true
  | _ => false
def FVal.isZero : FVal → Bool
  | .fin _ 0 _ => true
  | _ => false
def FVal.neg : FVal → Bool
  | .inf n => n
  | .fin n _ _ => n
  | .nan _ => false

/-- Signed significand. -/
def signedM (neg : Bool) (m : Nat) : Int := if neg then -(m : Int) else m

/-- A value scaled to exponent e0, at or below its own. -/
def scaleTo (neg : Bool) (m : Nat) (e e0 : Int) : Int := signedM neg m * 2 ^ (e - e0).toNat

/-- Sum of two finite values, rounded: an exact zero sum of opposite signs is +0, or -0 under RDN (R127). -/
def Fmt.addFin (f : Fmt) (mode : Rnd) (n1 : Bool) (m1 : Nat) (e1 : Int) (n2 : Bool) (m2 : Nat) (e2 : Int) : Nat × Flags :=
  let e0 := min e1 e2
  let x := scaleTo n1 m1 e1 e0 + scaleTo n2 m2 e2 e0
  if x = 0 then (f.signBit (if m1 = 0 && m2 = 0 && n1 == n2 then n1 else mode == .rdn), 0)
  else f.round mode false (x < 0) x.natAbs e0 false

/-- Fused a * b + c on decoded operands (R127, R196). -/
def Fmt.fmaV (f : Fmt) (mode : Rnd) (a b c : FVal) : Nat × Flags :=
  let sig := a.isSig || b.isSig || c.isSig
  let bad := match a, b with
    | .inf _, .fin _ 0 _ => true
    | .fin _ 0 _, .inf _ => true
    | _, _ => false
  if a.isNan || b.isNan || c.isNan then f.nanRes (sig || bad)
  else if bad then f.nanRes true
  else
    let pn := a.neg != b.neg
    match a, b, c with
    | .fin n1 m1 e1, .fin n2 m2 e2, .fin n3 m3 e3 =>
      f.addFin mode (n1 != n2) (m1 * m2) (e1 + e2) n3 m3 e3
    | .fin _ _ _, .fin _ _ _, c => (f.signBit c.neg + f.infPat, 0)
    | _, _, .inf n => if n == pn then (f.signBit n + f.infPat, 0) else f.nanRes true
    | _, _, _ => (f.signBit pn + f.infPat, 0)

/-- A float operation on patterns of one element: format, mode, a, b, c. -/
abbrev FloatOp := Fmt → Rnd → Nat → Nat → Nat → Nat × Flags

def opFfma : FloatOp := fun f r a b c => f.fmaV r (f.decode a) (f.decode b) (f.decode c)

/-- Addition of decoded operands. -/
def Fmt.addV (f : Fmt) (r : Rnd) (x y : FVal) : Nat × Flags :=
  if x.isNan || y.isNan then f.nanRes (x.isSig || y.isSig)
  else match x, y with
    | .fin n1 m1 e1, .fin n2 m2 e2 => f.addFin r n1 m1 e1 n2 m2 e2
    | .inf n1, .inf n2 => if n1 == n2 then (f.signBit n1 + f.infPat, 0) else f.nanRes true
    | .inf n, _ => (f.signBit n + f.infPat, 0)
    | _, y => (f.signBit y.neg + f.infPat, 0)

/-- The value with its sign inverted; NaNs as they are. -/
def FVal.flip : FVal → FVal
  | .inf n => .inf !n
  | .fin n m e => .fin (!n) m e
  | x => x

def opFadd : FloatOp := fun f r a b _ => f.addV r (f.decode a) (f.decode b)
def opFsub : FloatOp := fun f r a b _ => f.addV r (f.decode a) (f.decode b).flip

def opFmul : FloatOp := fun f r a b _ =>
  let x := f.decode a
  let y := f.decode b
  let n := x.neg != y.neg
  if x.isNan || y.isNan then f.nanRes (x.isSig || y.isSig)
  else match x, y with
    | .fin _ m1 e1, .fin _ m2 e2 => f.round r false n (m1 * m2) (e1 + e2) false
    | .inf _, .fin _ m _ => if m = 0 then f.nanRes true else (f.signBit n + f.infPat, 0)
    | .fin _ m _, .inf _ => if m = 0 then f.nanRes true else (f.signBit n + f.infPat, 0)
    | _, _ => (f.signBit n + f.infPat, 0)

/-- Quotient m1 * 2^e1 / (m2 * 2^e2) with 64 bits beyond those needed, rounded once. -/
def Fmt.divFin (f : Fmt) (r : Rnd) (n : Bool) (m1 : Nat) (e1 : Int) (m2 : Nat) (e2 : Int) : Nat × Flags :=
  let k := 64 + Nat.log2 m2
  f.round r false n (m1 * 2 ^ k / m2) (e1 - e2 - k) (m1 * 2 ^ k % m2 != 0)

/-- FDIV (R130, R196): division by zero of a finite non-zero value sets DZ. -/
def opFdiv : FloatOp := fun f r a b _ =>
  let x := f.decode a
  let y := f.decode b
  let n := x.neg != y.neg
  if x.isNan || y.isNan then f.nanRes (x.isSig || y.isSig)
  else match x, y with
    | .inf _, .inf _ => f.nanRes true
    | .inf _, _ => (f.signBit n + f.infPat, 0)
    | _, .inf _ => (f.signBit n, 0)
    | .fin _ m1 e1, .fin _ m2 e2 =>
      if m2 = 0 then (if m1 = 0 then f.nanRes true else (f.signBit n + f.infPat, fDZ))
      else if m1 = 0 then (f.signBit n, 0)
      else f.divFin r n m1 e1 m2 e2
    | _, _ => f.nanRes false

/-- Newton's steps towards the integer square root, from above. -/
def isqrtGo (n : Nat) : Nat → Nat → Nat
  | 0, x => x
  | k + 1, x =>
    let y := (x + n / x) / 2
    if y < x then isqrtGo n k y else x

/-- Floor of the square root. -/
def isqrt (n : Nat) : Nat := if n = 0 then 0 else isqrtGo n (Nat.log2 n + 4) (2 ^ (Nat.log2 n / 2 + 1))

/-- Square root of m * 2^e, m > 0, rounded once. -/
def Fmt.sqrtFin (f : Fmt) (r : Rnd) (m : Nat) (e : Int) : Nat × Flags :=
  let e' := if e % 2 = 0 then e - 128 else e - 129
  let x := m * 2 ^ (e - e').toNat
  let s := isqrt x
  f.round r false false s (e' / 2) (s * s != x)

/-- FSQRT (R130). -/
def opFsqrt : FloatOp := fun f r a _ _ =>
  match f.decode a with
  | .nan sig => f.nanRes sig
  | .inf n => if n then f.nanRes true else (f.infPat, 0)
  | .fin n m e => if m = 0 then (f.signBit n, 0) else if n then f.nanRes true else f.sqrtFin r m e

/-- RCP (R130). -/
def opRcp : FloatOp := fun f r a _ _ =>
  match f.decode a with
  | .nan sig => f.nanRes sig
  | .inf n => (f.signBit n, 0)
  | .fin n m e => if m = 0 then (f.signBit n + f.infPat, fDZ) else f.divFin r n 1 0 m e

/-- RSQ (R130): the square root of the reciprocal, rounded once. -/
def opRsq : FloatOp := fun f r a _ _ =>
  match f.decode a with
  | .nan sig => f.nanRes sig
  | .inf n => if n then f.nanRes true else (0, 0)
  | .fin n m e =>
    if m = 0 then (f.signBit n + f.infPat, fDZ)
    else if n then f.nanRes true
    else
      -- 1 / sqrt(m * 2^e) with e made even: floor(sqrt(2^(2k) / m)) * 2^(-k - e/2)
      let m' := if e % 2 = 0 then m else 2 * m
      let e' := if e % 2 = 0 then e else e - 1
      let k := 128 + Nat.log2 m'
      let s := isqrt (2 ^ (2 * k) / m')
      f.round r false false s (-(k : Int) - e' / 2) (s * s * m' != 2 ^ (2 * k))

/-- The product over the set bits i of the fraction (bit 149 is 1/2) of 2^(2^-i), in 256 fraction bits. -/
def exp2Go (fr : Nat) : Nat → Nat → Nat → Nat
  | 0, _, acc => acc
  | k + 1, root, acc =>
    let root' := isqrt (root * 2 ^ 256)
    exp2Go fr k root' (if fr.testBit k then acc * root' / 2 ^ 256 else acc)

/-- EXP2 (R130). The argument is a multiple of 2^-149; 256 fraction bits leave every rounding decided. -/
def opExp2 : FloatOp := fun f r a _ _ =>
  match f.decode a with
  | .nan sig => f.nanRes sig
  | .inf n => (if n then 0 else f.infPat, 0)
  | .fin n m e =>
    let x : Int := scaleTo n m e (-149)
    if x = 0 then f.round r false false 1 0 false
    else if x ≥ 2000 * 2 ^ 149 then f.round r false false 1 2000 true
    else if x ≤ -2000 * 2 ^ 149 then f.round r false false 1 (-2000) true
    else
      let fl := x / 2 ^ 149
      let fr := (x % 2 ^ 149).toNat
      if fr = 0 then f.round r false false 1 fl false
      else f.round r false false (exp2Go fr 149 (2 ^ 257) (2 ^ 256) / 2 ^ 16) (fl - 240) true

/-- Fraction bits of log2 of a value in [1, 2) held with 512 fraction bits. -/
def log2Go : Nat → Nat → Nat → Nat
  | 0, _, acc => acc
  | k + 1, x, acc =>
    let y := x * x / 2 ^ 512
    if y ≥ 2 ^ 513 then log2Go k (y / 2) (2 * acc + 1) else log2Go k y (2 * acc)

/-- LOG2 (R130), with 220 fraction bits. -/
def opLog2 : FloatOp := fun f r a _ _ =>
  match f.decode a with
  | .nan sig => f.nanRes sig
  | .inf n => if n then f.nanRes true else (f.infPat, 0)
  | .fin n m e =>
    if m = 0 then (f.signBit true + f.infPat, fDZ)
    else if n then f.nanRes true
    else
      let l := Nat.log2 m
      let ex : Int := e + l
      if m = 2 ^ l then (if ex = 0 then (0, 0) else f.round r false (ex < 0) ex.natAbs 0 false)
      else
        let tot : Int := ex * 2 ^ 220 + log2Go 220 (m * 2 ^ (512 - l)) 0
        if tot ≥ 0 then f.round r false false tot.natAbs (-220) true
        else f.round r false true (tot.natAbs - 1) (-220) true

/-- Order of two non-NaN values, with -0 below +0 when `zeros`. -/
def FVal.lt (zeros : Bool) (x y : FVal) : Bool :=
  match x, y with
  | .inf n1, .inf n2 => n1 && !n2
  | .inf n, _ => n
  | _, .inf n => !n
  | .fin n1 m1 e1, .fin n2 m2 e2 =>
    let e0 := min e1 e2
    let a := scaleTo n1 m1 e1 e0
    let b := scaleTo n2 m2 e2 e0
    a < b || (zeros && a == b && a == 0 && n1 && !n2)
  | _, _ => false

/-- FMIN and FMAX (R197). -/
def opFminmax (mx : Bool) : FloatOp := fun f _ a b _ =>
  let x := f.decode a
  let y := f.decode b
  let inv := flagIf (x.isSig || y.isSig) fINV
  if x.isNan && y.isNan then (f.cnan, inv)
  else if x.isNan then (b, inv)
  else if y.isNan then (a, inv)
  else (if (if mx then y.lt true x else x.lt true y) then a else b, 0)

/-- FABS and FNEG (R197). -/
def opFabs : FloatOp := fun f _ a _ _ =>
  if (f.decode a).isNan then (f.cnan, 0) else (a % 2 ^ (f.eb + f.fb), 0)
def opFneg : FloatOp := fun f _ a _ _ =>
  if (f.decode a).isNan then (f.cnan, 0) else (a ^^^ 2 ^ (f.eb + f.fb), 0)

/-- FCMP by the SUB codes of R148: the bit and the flags (R198). -/
def cmpFloat (f : Fmt) (code : Nat) (a b : Nat) : Bool × Flags :=
  let x := f.decode a
  let y := f.decode b
  let nan := x.isNan || y.isNan
  let inv := x.isSig || y.isSig || (nan && 2 ≤ code && code ≤ 5)
  let lt := x.lt false y
  let gt := y.lt false x
  let v := match code with
    | 0 => !nan && !lt && !gt
    | 1 => nan || lt || gt
    | 2 => !nan && lt
    | 3 => !nan && !gt
    | 4 => !nan && gt
    | 5 => !nan && !lt
    | 6 => !nan
    | _ => nan
  (v, flagIf inv fINV)

/-- FCLASS (R199). -/
def fclass (f : Fmt) (a : Nat) : Nat :=
  match f.decode a with
  | .inf n => if n then 1 else 2 ^ 7
  | .nan sig => if sig then 2 ^ 8 else 2 ^ 9
  | .fin n m _ =>
    if m = 0 then (if n then 2 ^ 3 else 2 ^ 4)
    else if f.exp a = 0 then (if n then 2 ^ 2 else 2 ^ 5)
    else (if n then 2 else 2 ^ 6)

/-- FRND (R200): rounds to an integral value, keeps the sign of zero, sets no INX. -/
def opFrnd : FloatOp := fun f r a _ _ =>
  match f.decode a with
  | .nan sig => f.nanRes sig
  | .inf _ => (a, 0)
  | .fin n m e =>
    if m = 0 || 0 ≤ e then (a, 0)
    else
      let v := roundAt r n m e false 0
      if v.1 = 0 then (f.signBit n, 0) else ((f.round r false n v.1 0 false).1, 0)

/-- A float pattern converted into another float format (R129). -/
def cvtFF (src dst : Fmt) (r : Rnd) (a : Nat) : Nat × Flags :=
  match src.decode a with
  | .nan sig => dst.nanRes sig
  | .inf n => if dst.inf then (dst.signBit n + dst.infPat, 0) else (dst.signBit n + dst.maxFin, fSAT)
  | .fin n m e => if m = 0 then (dst.signBit n, 0) else dst.round r true n m e false

/-- Float to integer (R129). -/
def cvtFI (src : Fmt) (t : Typ) (r : Rnd) (a : Nat) : Nat × Flags :=
  match src.decode a with
  | .nan _ => (0, fINV)
  | .inf n => (intPat t.width (if n then intMin t else intMax t), fSAT)
  | .fin n m e =>
    let v := roundAt r n m e false 0
    let x := signedM n v.1
    if x < intMin t then (intPat t.width (intMin t), fSAT)
    else if intMax t < x then (intPat t.width (intMax t), fSAT)
    else (intPat t.width x, flagIf v.2 fINX)

/-- Integer to float (R129). -/
def cvtIF (t : Typ) (dst : Fmt) (r : Rnd) (a : Nat) : Nat × Flags :=
  let x := intVal t a
  if x = 0 then (0, 0) else dst.round r true (x < 0) x.natAbs 0 false

/-- CVT of one value from type `t` to type `u` (R129, R201). -/
def cvt (t u : Typ) (sat : Bool) (r : Rnd) (a : Nat) : Nat × Flags :=
  if t.isFloat then
    if u.isFloat then
      if t = u then (if ((Fmt.of t).decode a).isNan then ((Fmt.of t).nanRes ((Fmt.of t).decode a).isSig) else (a % 2 ^ t.width, 0))
      else cvtFF (Fmt.of t) (Fmt.of u) r a
    else cvtFI (Fmt.of t) u r a
  else if u.isFloat then cvtIF t (Fmt.of u) r a
  else narrow u sat (intVal t a)

/-- An operation element by element on a type's word (R122, R127). -/
def floatOp (op : FloatOp) (t : Typ) (r : Rnd) (a b c : Nat) : Nat × Flags :=
  packElems t (fun e => op (Fmt.of t) r (elem t a e) (elem t b e) (elem t c e))

/-- The value of an E8M0 scale byte as a power of two; none is NaN (R124). -/
def e8m0 (x : Nat) : Option Int := if x = 0xFF then none else some ((x : Int) - 127)

/-- A value times a block scale (R132, R269): a scale of 0xFF gives a quiet NaN. -/
def FVal.scale (v : FVal) (s : Option Int) : FVal :=
  match s with
  | none => .nan false
  | some k => match v with
    | .fin n m e => .fin n m (e + k)
    | x => x

/-- Decodes the codes of one Q4E group from slot `i` on (R132, R412): values, and whether an invalid
marker was met. `k` is how many slots of an excursion are still to be skipped. -/
def q4eGo (nib : Nat → Nat) : Nat → Nat → Nat → List FVal × Nat
  | 0, _, _ => ([], 0)
  | n + 1, i, k =>
    let zero : FVal := .fin false 0 0
    if k > 0 then
      let r := q4eGo nib n (i + 1) (k - 1)
      (zero :: r.1, r.2)
    else if nib i = 8 then
      if i ≥ 6 then
        let r := q4eGo nib n (i + 1) 0
        (zero :: r.1, r.2 + 1)
      else
        let r := q4eGo nib n (i + 1) 2
        ((Fmt.of .e4m3).decode (nib (i + 1) * 16 + nib (i + 2)) :: r.1, r.2)
    else
      let r := q4eGo nib n (i + 1) 0
      let x := toSigned 4 (nib i)
      (.fin (x < 0) x.natAbs 0 :: r.1, r.2)

/-- One Q4E group: eight scaled values and the number of invalid markers (R131, R132, R412). -/
def q4eGroup (word scale : Nat) : List FVal × Nat :=
  let r := q4eGo (fun i => word / 16 ^ i % 16) 8 0 0
  (r.1.map (fun v => v.scale (e8m0 scale)), r.2)

/-- Number of non-zero radix-4 Booth digits of an n-bit two's-complement pattern (R139). -/
def boothNz (n x : Nat) : Nat :=
  let bit := fun (i : Nat) => if x.testBit i then (1 : Int) else 0
  ((List.range (n / 2)).filter (fun j =>
    -2 * bit (2 * j + 1) + bit (2 * j) + (if j = 0 then 0 else bit (2 * j - 1)) ≠ 0)).length

/-- One slice of a floating-point matrix element (R136, R137): the accumulator pattern and the products'
factors, giving the new pattern and flags. -/
def sliceFloat (acc : Nat) (terms : List (FVal × FVal)) : Nat × Flags :=
  let f := Fmt.of .f32
  let c := f.decode acc
  let nan := c.isNan || terms.any (fun t => t.1.isNan || t.2.isNan)
  let sig := c.isSig || terms.any (fun t => t.1.isSig || t.2.isSig)
  let isInf := fun (v : FVal) => match v with
    | .inf _ => true
    | _ => false
  let bad := terms.any (fun t => (isInf t.1 && t.2.isZero) || (t.1.isZero && isInf t.2))
  let infs := (if isInf c then [c.neg] else []) ++
    (terms.filter (fun t => isInf t.1 || isInf t.2)).map (fun t => t.1.neg != t.2.neg)
  if nan then f.nanRes sig
  else if bad || (infs.contains true && infs.contains false) then f.nanRes true
  else match infs with
    | n :: _ => (f.signBit n + f.infPat, 0)
    | [] =>
      let fins := (match c with
        | .fin n m e => [(n, m, e)]
        | _ => []) ++ terms.filterMap (fun t => match t.1, t.2 with
        | .fin n1 m1 e1, .fin n2 m2 e2 => some (n1 != n2, m1 * m2, e1 + e2)
        | _, _ => none)
      let e0 := fins.foldl (fun e t => min e t.2.2) 0
      let x : Int := fins.foldl (fun x t => x + scaleTo t.1 t.2.1 t.2.2 e0) 0
      if x = 0 then (f.signBit (fins.all (fun t => t.1 && t.2.1 == 0)), 0)
      else f.round .rne false (x < 0) x.natAbs e0 false

/-- One slice of an integer matrix element (R138). -/
def sliceInt (acc : Nat) (terms : List (Int × Int)) : Nat × Flags :=
  narrow .i32 true (terms.foldl (fun x t => x + t.1 * t.2) (intVal .i32 acc))

end Sys2Proof.Machine
end

