-- ==== Sys2Proof/Config.lean ====
section
/-! DEFINITION. What one X3-H fixes, and the free values: constants without a body, of which no proof
can know a value. -/

namespace Sys2Proof.Config

/-- Free value number n: stands for a value the spec leaves open. (DESIGN CHOICE, log 4) -/
opaque freeValue : Nat → BitVec 64

/-- What another agent does at turn n, where nothing is laid out for the machine to do. (DESIGN CHOICE, log 3) -/
opaque freeStep : Nat → Option Instr

/-- Whether a firmware image verifies: ECDSA P-384 over SHA-384 under the public key of the boot ROM
(R445). The key is not in the spec. (DESIGN CHOICE, log 11) -/
opaque firmwareVerifies : List (BitVec 8) → Bool

/-- The firmware image that the package holds when it is first reset, the admin list that an image sets (R351, R445), and the
GIDs in the fuses (R446). No file of spec/ gives them. (DESIGN CHOICE, log 11) -/
opaque firmwareImage : List (BitVec 8)
opaque firmwareAdmins : List (BitVec 8) → List (BitVec 128)
opaque fuseGids : List (BitVec 128)

/-- What fixes the physical numbers of the two spare cores of a cluster (R5): each package has its own. (DESIGN CHOICE, log 4) -/
opaque spareSeed : Nat → Nat
/-- The two spare cores of a cluster: distinct numbers of 0 to 33 in ascending order, any pair of them (R5). -/
def spares (c : Nat) : List Nat :=
  let x := spareSeed c % 34
  let y := (x + 1 + spareSeed c / 34 % 33) % 34
  [min x y, max x y]

/-- The reply slots of an operation whose results the spec names and does not lay out: the operation's number and its results,
in order (R355, R377, R382 to R384). (DESIGN CHOICE, log 4) -/
opaque replyLayout : Nat → List Nat → List (BitVec 64)

/-- What software appended to a capture block (R383): its page count, and an entry's address, size and PTE. The spec names the
fields and gives no layout. (DESIGN CHOICE, log 4) -/
opaque capturePages : BitVec 2048 → Nat
opaque captureEntry : BitVec 512 → Nat × Nat × BitVec 64

/-- The 256-byte header of a capture block (R383): sequence number, image id, image handle, `wiid`, item, ARGLEN and page
count. The spec gives its fields and no layout. (DESIGN CHOICE, log 4) -/
opaque captureHeader : Nat → BitVec 32 → Nat → BitVec 32 → BitVec 1024 → Nat → Nat → BitVec 2048

/-- A message on a node link: 0 a window marker with its number, 1 an UNSYNC (R360, R428); and whether the payload of a flit of LC0
holds an UNSYNC. The spec names these messages and gives no layout. (DESIGN CHOICE, log 58) -/
opaque linkMessage : Nat → Nat → List (BitVec 8)
opaque isUnsync : List (BitVec 8) → Bool

/-- Length, in units of 64 bytes, of the private chunk of a snapshot (R372). (DESIGN CHOICE, log 4) -/
opaque privateBlocks : Nat

/-- Schedulers, lanes and slots of a core (R19). -/
def lanes : Nat := 32
/-- Group slots of a core (R19). -/
def groupSlots : Nat := 64
/-- Team slots of a core (R14). -/
def teamSlots : Nat := 16
/-- Register blocks of a core (R30). -/
def blocks : Nat := 96
/-- A-space bytes of a core (R73). -/
def aBytes : Nat := 512 * 1024
/-- W-space bytes of a core (R73). -/
def wBytes : Nat := 768 * 1024
/-- Read-log entries of a core (R247). -/
def rlogEntries : Nat := 2048
/-- Transactional sectors of a core (R247). -/
def txSectors : Nat := 1024
/-- Matrix unit queue entries (R276). -/
def mqEntries : Nat := 16
/-- Engine queue entries (R281). -/
def eqEntries : Nat := 64
/-- Range scoreboard entries (R82). -/
def rsbEntries : Nat := 64
/-- Shadow storage bytes of a core (R1). -/
def shadowBytes : Nat := 1024 * 1024
/-- Feature mask of every core (R165). -/
def features : BitVec 64 := 0x1FF
/-- Entries of an RV64 TLB (R323 names it and gives no size). (DESIGN CHOICE, log 4) -/
opaque rvTlbEntries : Nat
/-- Cluster TLB, I/O-die TLB and package TLB slice entries (R323); from 64 on, the TLB of RV64 hart n - 64. -/
def tlbEntries (die : Nat) : Nat := if die < 8 then 4096 else if die < 10 then 512 else if die < 64 then 8192 else rvTlbEntries
/-- Sets and ways of an L1 (R84), and lines of an L2 slice (R1, R86). -/
def l1Sets : Nat := 256
def l1Ways : Nat := 16
def l2Lines : Nat := 32768

end Sys2Proof.Config
end

