-- ==== Sys2Proof/Machine/State.lean ====
section
/-! DEFINITION. The state of one X3-H package as plain data, the reasons a step can stop, and the
state after reset. Rules are cited by number; INVENTORY.md lists every field with its rule. -/

namespace Sys2Proof.Machine

/-- Why the machine stops. No meaning of this model raises a fault: a fault of the spec parks a group,
freezes a queue, traps a hart, or refuses a request, and each of these is a next state. -/
inductive Fault
  /-- Raised by nothing: kept so that the type is not empty. Safe. -/
  | none
deriving DecidableEq, Repr

/-- Why a step has no meaning here. No meaning of this model refuses, and no step does. -/
inductive Refusal
  /-- An instruction of the table without a meaning in this model; raised by nothing. Safe. -/
  | notModelled (mnemonic : String)
deriving DecidableEq, Repr

/-- Where a byte lies: physical memory, or a local space of a core (R71, R73). -/
inductive Place
  | glob (pa : Nat)
  | aspc (core off : Nat)
  | wspc (core off : Nat)
deriving DecidableEq, Repr

/-- A group's watch (R216). `bound`: the snapshot is read. `lanes`: lanes still in the region in which they executed the
MONITOR; `keep`: lanes that a region-entry stop sent back to the entry of that region, whose re-executed MONITOR of the same
line keeps the snapshot (R41, R217). `home` is the physical line, or the A-space line, watched. -/
structure Watch where
  armed : Bool := false
  loc   : Bool := false
  trig  : Bool := false
  bound : Bool := false
  lanes : LaneMask := 0
  keep  : LaneMask := 0
  line  : BitVec 56 := 0
  home  : Place := .glob 0
  snap  : BitVec 512 := 0
deriving DecidableEq, Repr

/-- What an access in flight does when it is performed (R98). -/
inductive OpKind
  | load | store | release | atomic | snapshot
deriving DecidableEq, Repr

/-- One lane's access (R98): where, how wide, the store data, atomic operand or comparand, and the new
value of a compare-and-swap. `done`: a transactional load, whose value was bound at issue. -/
structure Acc where
  lane  : Nat
  va    : BitVec 64 := 0
  place : Place
  size  : Nat
  data  : BitVec 64 := 0
  new   : BitVec 64 := 0
  done  : Bool := false
deriving DecidableEq, Repr

/-- An access instruction in flight (R237): its lanes' accesses, destination, type, ordering and scope, `exe`,
the next offset, the region-entry ordinals of its lanes, opcode and offset at issue, and whether it has HINT `.L2` (R240). `sent`: window in which a NODE release
left the core (R116). -/
structure MemOp where
  id     : Nat
  kind   : OpKind
  accs   : List Acc
  dst    : Nat := 0
  scalar : Bool := false
  t      : Typ := .n32
  ord    : Ord := .rlx
  scope  : Scope := .lane
  aop    : Aop := .add
  exe    : LaneMask := 0
  next   : BitVec 32 := 0
  ords   : SMap 16 := []
  opc    : Nat := 0
  at_    : Nat := 0
  sent   : Option Nat := none
  l2     : Bool := false
deriving DecidableEq, Repr

/-- The kind of a role (R21, R22); the lodge group counts as one. -/
inductive RoleKind
  | copy | matrix | general | lodge
deriving DecidableEq, Repr

/-- GCTL STATE (R343). -/
inductive RunState
  | running | parked | halted
deriving DecidableEq, Repr

/-- A translation fault (R329): cause, access, level, entry, companion word, page range, lanes. -/
structure FaultInfo where
  cause : Nat
  acc   : Access
  level : Nat
  pte   : BitVec 64
  comp  : BitVec 64
  va    : BitVec 64
  lanes : LaneMask := 0
deriving DecidableEq, Repr

/-- A group of 32 lanes (R18, R30). Vector registers are keyed by 32 * register + lane, per-lane
values by lane, rejoin masks by barrier. `stopEv`: the EVENT of a region-entry stop under way, 0 for a page whose wake has come already: it waits for the decision of a TXEND (R252), and then until no access
is in flight (R41);
`fetchAt`: lanes and next offset of a FETCHW that waits, `fetchw` once its grant is delivered; `breakReq`: a breakpoint met while a lane is in a
transaction, held as R255 gives, and whether it stops all. -/
structure Group where
  part     : Nat
  image    : Nat
  var      : Nat
  kind     : RoleKind
  budget   : Nat := 1
  grpid    : Nat := 0
  tslot    : Nat
  v        : SMap 32 := []
  held     : BitVec 4 := 1
  s        : SMap 64 := []
  p        : SMap 32 := []
  lc       : Nat := 0
  sc       : Nat := 0
  cc       : Nat := 0
  tc       : Nat := 0
  pcv      : SMap 32 := []
  epcv     : SMap 32 := []
  hpcv     : SMap 32 := []
  sepcv    : SMap 32 := []
  rmask    : SMap 32 := []
  rwait    : SMap 32 := []
  exited   : LaneMask := 0
  mwait    : LaneMask := 0
  yielded  : LaneMask := 0
  mwaitEnd : Option Nat := none
  sflags   : BitVec 64 := 0
  cause    : BitVec 64 := 0
  flagCode : BitVec 7 := 0
  flagAt   : Option (BitVec 32) := none
  hmask    : LaneMask := 0
  handler  : Bool := false
  txcause  : BitVec 64 := 0
  intx     : LaneMask := 0
  serial   : LaneMask := 0
  doomed   : LaneMask := 0
  txLabel  : SMap 32 := []
  txCount  : SMap 4 := []
  txStatus : SMap 32 := []
  txend    : Option (LaneMask × LaneMask × BitVec 32) := none
  watch    : Watch := {}
  ops      : List MemOp := []
  nextOp   : Nat := 0
  st       : RunState := .running
  event    : Nat := 0
  ord      : BitVec 16 := 0
  lmask    : LaneMask := 0
  xfault   : BitVec 128 := 0
  fault    : List FaultInfo := []
  haltReq  : Option Nat := none
  stopEv   : Option Nat := none
  breakReq : Option Bool := none
  stepReq  : Bool := false
  stepped  : Bool := true
  quiet    : Bool := false
  since    : Nat := 0
  lastWp   : Nat := 0
  pendAge  : Nat := 0
  stamp    : Option (Nat × Nat) := none
  arrived  : Option Nat := none
  oldv     : KMap (BitVec 32) := []
  lastIss  : Nat := 0
  fenceWin : Option Nat := none
  fetchw   : Option (LaneMask × BitVec 32) := none
  fetchAt  : Option (LaneMask × BitVec 32) := none
  atOff    : Nat := 0
  atOp     : Nat := 0
deriving DecidableEq, Repr

/-- A team placed in a team slot (R18, R57, R60). `bind` holds the 32 words of R76, `rv` the 24 words of
R211; `later`: the switch request was posted while the team did not run whole (R63); `freeSince`: since when the resources of
each better variant have stayed free (R65); `frozen` is the engine-queue freeze: SUBC and the first failed
command's entry (R398); `out` says whether A-space, W-space, and tiles with metadata registers are spilled (R68). -/
structure Team where
  part      : Nat
  image     : Nat
  var       : Nat
  wiid      : BitVec 32 := 0
  wgx       : Nat := 0
  wgy       : Nat := 0
  wgz       : Nat := 0
  argp      : BitVec 56 := 0
  queue     : Nat := 0
  item      : Nat := 0
  abase     : Nat := 0
  asize     : Nat := 1
  wbase     : Nat := 0
  wsize     : Nat := 0
  tiles     : BitVec 16 := 0
  mbase     : List Nat := []
  pool      : Nat := 0
  poolFree  : Nat := 0
  ngrp      : Nat := 0
  bind      : SMap 64 := []
  rv        : SMap 64 := []
  request   : Option Nat := none
  later     : Bool := false
  reserved  : List Nat := []
  partial_  : Bool := false
  vmask     : BitVec 4 := 0
  grantSeq  : Nat := 0
  basePrio  : Nat := 0
  freeSince : KMap Nat := []
  frozen    : Option (Nat × Nat) := none
  out       : BitVec 3 := 0
deriving DecidableEq, Repr

/-- An entry of the range scoreboard (R82), rounded to 64 bytes; `cmd` is the engine-queue entry, or
none while a window write-back holds the range (R81). -/
structure RsbEntry where
  wSpace : Bool
  tk     : Nat
  lo     : Nat
  hi     : Nat
  dest   : Bool
  cmd    : Option (Nat × Nat)
deriving DecidableEq, Repr

/-- A read-log entry (R296); `va` is the address by which it was translated (R303). -/
structure RlogEntry where
  gslot : Nat
  lane  : Nat
  va    : Nat := 0
  word  : Nat
  mask  : BitVec 8
  value : BitVec 64
  bad   : Bool := false
deriving DecidableEq, Repr

/-- A transactional sector (R296); `va` is the address by which it was translated (R303). -/
structure TxSector where
  gslot : Nat
  lane  : Nat
  va    : Nat := 0
  sector : Nat
  mask  : BitVec 64
  data  : BitVec 512
  bad   : Bool := false
deriving DecidableEq, Repr

/-- The matrix instructions that enter the matrix unit's queue (R276). -/
inductive MatKind
  | mma | mmas | mmab | ldmeta
deriving DecidableEq, Repr

/-- An accepted matrix operation (R270, R273, R274). `regs`, `aOld` and `wOld` are the operand registers and the
core's local spaces as they stood at acceptance, `old` the words before writes that lacked an OPFENCE, `pick` the
first free value of its choices between old and new words (R112); `eaten` the poisoned sectors consumed (R400); `stalls` the
ranges of local bytes, true for W-space, on which a command's destination held its reads (R83). `bmA` and `bmB` are the bitmaps of an
MMAS whose metadata register a later LDMETA has overwritten meanwhile (R274, R275). -/
structure MatOp where
  kind   : MatKind
  gk     : Nat
  tk     : Nat
  tile   : Nat := 0
  tname  : Nat := 0
  ta     : Typ := .i8
  tb     : Typ := .i8
  exe    : LaneMask := 0
  aReg   : Option Nat := none
  bReg   : Option Nat := none
  aPair  : BitVec 64 × BitVec 64 := (0, 0)
  bPair  : BitVec 64 × BitVec 64 := (0, 0)
  ma     : Nat := 0
  mb     : Nat := 0
  regs   : SMap 32 := []
  old    : KMap (BitVec 32) := []
  blocks : BitVec 4 := 0
  aOld   : SMap 8 := []
  wOld   : SMap 8 := []
  issued : Nat := 0
  pick   : Nat := 0
  slice  : Nat := 0
  flags  : BitVec 7 := 0
  marked : Bool := false
  eaten  : List Place := []
  stopped : Bool := false
  stalls : List (Bool × Nat × Nat) := []
  bmA    : Option (BitVec 2048) := none
  bmB    : Option (BitVec 2048) := none
deriving DecidableEq, Repr

/-- The engine commands (R280). -/
inductive EngKind
  | copy | copyt | gather | scadd | decomp | nput | nget | natom | sread
deriving DecidableEq, Repr

/-- One end of an engine command, sampled at acceptance: global address, or a range of a local space
with the base and size of the allocation it lies in (R281, R282). -/
inductive End
  | glob (va : BitVec 64)
  | loc (wSpace : Bool) (core base size : Nat) (off : Nat)
  | net (va : BitVec 64)
  | stor (off : BitVec 64)
deriving DecidableEq, Repr

/-- What a GATHER or SCADD sampled from its directory entry (R309). -/
structure TableSample where
  entry   : Nat := 0
  odd     : Bool := false
  base    : Nat := 0
  rows    : Nat := 0
  rlen    : Nat := 0
  defrow  : BitVec 56 := 0
deriving DecidableEq, Repr

/-- A burst of a row on its way to the destination rows (R314), with partition and engine command number; `own`: no burst of a
Scarab, but the engine's own write of the default row for invalid indices (R310, R311). -/
structure Burst where
  part   : Nat
  cmd    : Nat
  batch  : Nat
  chunk  : Nat
  pos    : BitVec 8
  poison : Bool
  own    : Bool := false
  data   : BitVec 512
deriving DecidableEq, Repr

/-- An accumulator of an SCADD at a Scarab (R315): its contributions, its FP32 words, at most 1,024, when it was last used, and its
place in the spill area while it is parked. A row of more words takes two, numbered 2 * row and 2 * row + 1 (DEDUCED, log 86). -/
structure Acum where
  n    : Nat
  vals : List (BitVec 32)
  used : Nat := 0
  slot : Option Nat := none
deriving DecidableEq, Repr

/-- An engine command from acceptance to retire (R281): operands and samples, progress in batches and bytes, the
accumulators of an SCADD by row (R315), flags so far, time and place in the order of acceptance, decompression
engine, and whether that engine's history buffer has failed (R440). `grp` is the `grpid` of the issuing group; `failed` says that the
command failed and froze its queue (R398), `dropped` that it was discarded and has only its table's counter to correct (R399, R432);
`asked` are the bytes that it has asked of a network peer or a storage target (R289, R363). -/
structure EngCmd where
  entry   : Nat
  kind    : EngKind
  gk      : Nat
  tk      : Nat
  part    : Nat
  src     : End
  dst     : End
  len     : Nat := 0
  sub     : BitVec 6 := 0
  b       : BitVec 64 := 0
  b2      : BitVec 64 := 0
  c       : BitVec 64 := 0
  desc    : BitVec 512 := 0
  arrive  : Option (Nat × Scope) := none
  wpord   : Nat := 0
  table   : Option TableSample := none
  batch   : Nat := 0
  bursts  : List Burst := []
  defRow  : Option (List (BitVec 8) × Bool) := none
  nsubst  : Nat := 0
  npoison : Nat := 0
  written : Nat := 0
  got     : List (BitVec 8) := []
  hold    : Option FaultInfo := none
  grp     : Nat := 0
  failed  : Bool := false
  dropped : Bool := false
  asked   : Nat := 0
  retries : Nat := 0
  issued  : Nat := 0
  accs    : KMap Acum := []
  flags   : BitVec 7 := 0
  since   : Nat := 0
  seq     : Nat := 0
  unit    : Option Nat := none
  torn    : Bool := false
deriving DecidableEq, Repr

/-- An instruction that Firefly tagged (R381): group, offset and opcode, its record as far as it is known at issue, its place `id` in
the group's issue order, the farthest memory that it has reached, and whether a stop cancelled it. -/
structure FireTag where
  gk     : Nat
  off    : Nat
  op     : Nat
  data   : BitVec 512
  id     : Nat := 0
  tk     : Nat := 0
  lvl    : Nat := 0
  cancel : Bool := false
deriving DecidableEq, Repr

/-- A compute core (R19, R30, R73, R82, R247, R276, R281, R341). `loops` are the ranges that the loop buffers hold (R43), by
scheduler; `lastBack` the backward branches that a group took at its last issue of them. Accumulator words are keyed by
4096 * tile + 64 * row + column, poisoned sectors by sector number (of 16 words in the accumulator store). -/
structure Core where
  a        : SMap 8 := []
  w        : SMap 8 := []
  acc      : SMap 32 := []
  metar    : SMap 2048 := []
  apoison  : List Nat := []
  wpoison  : List Nat := []
  tpoison  : List Nat := []
  token    : KMap Nat := []
  mq       : List MatOp := []
  eq       : List EngCmd := []
  rsb      : List RsbEntry := []
  rlog     : List RlogEntry := []
  tsec     : List TxSector := []
  reqq     : SMap 512 := []
  reqHead  : Nat := 0
  reqTail  : Nat := 0
  evq      : SMap 64 := []
  evHead   : Nat := 0
  evTail   : Nat := 0
  evPend   : List (Nat × Nat) := []
  mapIdx   : Nat := 0
  mapBusy  : Bool := false
  mapErr   : Bool := false
  mapDone  : Bool := false
  loops    : KMap (Nat × Nat × Nat × Nat) := []
  lastBack : KMap (List Nat) := []
  gone     : Bool := false
  fireGap  : SMap 16 := []
  fireArm  : List Nat := []
  fireTag  : List FireTag := []
  iss      : Nat := 0
deriving DecidableEq, Repr

/-- A compute cluster (R4, R79, R329, R382). `old` keeps the entry of a window while its write-back goes on (R81). -/
structure Cluster where
  map      : SMap 64 := []
  old      : SMap 64 := []
  setting  : KMap (List Nat) := []
  clearing : KMap (List Nat) := []
  hold     : List (Nat × BitVec 512) := []
  trace    : List (Nat × BitVec 512) := []
  gated    : Bool := false
  gateReq  : Bool := false
  removed  : Bool := false
deriving DecidableEq, Repr

/-- A TLB entry (R323): partition, level, page number, PTE, the physical address of the leaf entry, whether it was filled
for a write (R322), and the core it was filled for. -/
structure TlbEnt where
  part : Nat
  lvl  : Nat
  page : Nat
  pte  : BitVec 64
  leaf : Nat
  wr   : Bool
  core : Nat := 0
deriving DecidableEq, Repr

/-- One waypoint of an image (R168). KIND 0 E, 1 S, 2 T. -/
structure Waypoint where
  offs  : Nat
  kind  : Nat
  sword : Nat
  live  : BitVec 384 := 0
deriving DecidableEq, Repr

/-- A role of a variant (R21, R167). -/
structure Role where
  kind   : RoleKind
  count  : Nat
  budget : Nat
deriving DecidableEq, Repr

/-- A variant of an image (R167). -/
structure Variant where
  code    : Nat
  csz     : Nat
  handler : Option Nat
  wps     : List Waypoint
  abytes  : Nat
  wbytes  : Nat
  carry   : Nat
  pool    : Nat
  tiles   : Nat
  metas   : Nat
  ngrp    : Nat
  roles   : List Role
  rings   : List (BitVec 64) := []
deriving DecidableEq, Repr

/-- A loaded image (R166). `base` is the partition's virtual address of its first byte. -/
structure Image where
  base   : Nat
  size   : Nat
  imgid  : BitVec 32
  feat   : BitVec 64
  vars   : List Variant
  switch : List (List Nat)
  const  : Nat := 0
deriving DecidableEq, Repr

/-- A work item between head and tail that the Innkeeper has read (R49 to R54): its 128 bytes; `unpaid` until its
completion counter has its increment, sent in window `sent` where the counter is a peer's; `order` says which of two items
retired first; `feat` that the record of R418 was made for it. -/
structure Item where
  idx      : Nat
  raw      : BitVec 1024
  ready    : Bool := false
  placed   : Nat := 0
  retired  : Nat := 0
  rejected : Bool := false
  order    : Nat := 0
  unpaid   : Bool := false
  sent     : Option Nat := none
  feat     : Bool := false
deriving DecidableEq, Repr

/-- A work queue (R47, R48, R55); `stale` while its head line is still to be written, `faulted` while its tail line, item or
dependence counter could not be read (R326). -/
structure Queue where
  ring     : Nat
  log2     : Nat
  headLine : Nat
  tailLine : Nat
  prio     : Nat
  head     : Nat := 0
  place    : Nat := 0
  tail     : Nat := 0
  readyAt  : Option Nat := none
  items    : List Item := []
  stale    : Bool := false
  faulted  : Bool := false
deriving DecidableEq, Repr

/-- A region exposed to host RDMA (R358). -/
structure Region where
  base : Nat
  len  : Nat
  bits : BitVec 3
  rkey : BitVec 32
deriving DecidableEq, Repr

/-- A window of the undo log (R368). -/
structure LogWindow where
  num     : BitVec 32
  snapOff : Nat
  recOff  : Nat
  nrec    : Nat := 0
  npeer   : Nat := 0
  nstor   : Nat := 0
  nnet    : Nat := 0
  nrpc    : Nat := 0
  sealed  : Bool := false
deriving DecidableEq, Repr

/-- A group evicted or swapped out (R67, R347): its key, order of eviction, whether it went to shadow storage, and its place
in the spill area. Its matrix operations keep their places in the core's list, stopped (R274). -/
structure Saved where
  gk     : Nat
  ord    : Nat
  shadow : Bool
  spill  : Option Nat := none
  grp    : Group
deriving DecidableEq, Repr

/-- Allocations of a team in the spill area (R68), with their place there, and the tokens of spilled tiles with their holders (R67, R277). -/
structure TeamSpill where
  off   : Nat
  a     : SMap 8 := []
  w     : SMap 8 := []
  abad  : List Nat := []
  wbad  : List Nat := []
  tbad  : List Nat := []
  acc   : SMap 32 := []
  metar : SMap 2048 := []
  token : KMap Nat := []
deriving DecidableEq, Repr

/-- Accumulator tiles and tokens that a swap took out of a core (R347). -/
structure TilesOut where
  part  : Nat
  core  : Nat
  acc   : SMap 32
  bad   : List Nat
  token : KMap Nat
deriving DecidableEq, Repr

/-- What a snapshot holds (R372): groups, teams, local spaces, tiles, tokens (core, tile, holder) and matrix operations as
loaded back by REVERSE, and the Innkeeper's state of the partition. -/
structure Snapshot where
  window : BitVec 32
  groups : KMap Group
  teams  : KMap Team
  local_ : KMap TeamSpill
  tokens : List (Nat × Nat × Nat)
  ops    : List MatOp
  saved  : List Saved
  swapped : List Saved := []
  spilled : KMap TeamSpill
  spillUse : KMap Nat
  queues : KMap Queue
  rr     : Nat
deriving DecidableEq, Repr

/-- Who writes memory (R95, R301, R369, R370): partition, KIND and SRC of an undo record, whether a hart,
variant and region-entry ordinal, the writer's own transaction slot, the virtual address where one was
used, and whether the write is one that the undo log records. -/
structure Writer where
  part  : Nat
  kind  : Nat := 0
  src   : Nat := 0x3FFF
  hart  : Bool := false
  var   : Nat := 0
  wpord : Nat := 0
  own   : Option Nat := none
  va    : Option Nat := none
  undo  : Bool := true
deriving DecidableEq, Repr

/-- An undo record (R370): its window, its place in the data area, sector address, MASK and old bytes. -/
structure UndoRec where
  win    : BitVec 32
  off    : Nat
  sector : Nat
  mask   : BitVec 16
  old    : BitVec 512
deriving DecidableEq, Repr

/-- A write held at its home for want of log space (R374): the sector and the bytes by offset in it. -/
structure HeldWrite where
  by_ : Writer
  pa  : Nat
  ws  : List (Nat × Byte)
deriving DecidableEq, Repr

/-- The undo log of a partition (R366, R367). -/
structure UndoLog where
  base     : Nat
  size     : Nat
  policy   : Nat
  auto     : Nat
  on       : Bool := false
  full     : Bool := false
  stopped  : Bool := false
  tail     : Nat := 0
  wins     : List LogWindow := []
  recycled : BitVec 64 := 0
  snaps    : List Snapshot := []
  recs     : List UndoRec := []
  heldWr   : List HeldWrite := []
  advReq   : Bool := false
  autoReq  : Bool := false
deriving DecidableEq, Repr

/-- A breakpoint (R378). -/
structure Break where
  image   : Nat
  var     : Nat
  ord     : Nat
  skip    : Nat
  enable  : Bool
  allstop : Bool
deriving DecidableEq, Repr

/-- A ring in partition memory that the hardware posts to: address and log2 of the slots (R225, R328, R382). -/
structure Ring where
  base : Nat
  n    : Nat
deriving DecidableEq, Repr

/-- A captured work item (R383). -/
structure Capture where
  seqno  : Nat
  image  : Nat
  wiid   : BitVec 32
  item   : List (BitVec 8)
  args   : List (BitVec 8)
  off    : Nat
deriving DecidableEq, Repr

/-- A partition (R13, R355). `swapOut`: the partition to swap in while a swap is under way; `outCores`: cores from which it
is swapped out (R347); `solo`: its session steps one group (R377); `scratch`, `diverged`: of a replay (R384); `featRec`: the
record of R418 was made for it. -/
structure Part where
  owners   : List (BitVec 128) := []
  cores    : List Nat := []
  slots    : KMap (List Nat) := []
  apps     : BitVec 16 := 0
  ports    : BitVec 16 := 0
  prio     : Nat := 0
  root     : Nat := 0
  quota    : Nat := 0
  fring    : Ring := ⟨0, 6⟩
  fseq     : Nat := 0
  ovfPend  : Nat := 0
  sring    : Option Ring := none
  tring    : Option Ring := none
  drop     : Nat := 0
  tdBase   : Nat := 0
  tdCount  : Nat := 0
  pool     : List Nat := []
  pbase    : Nat := 0
  psize    : Nat := 0
  spill    : Nat := 0
  spillSz  : Nat := 0
  spillUse : KMap Nat := []
  ageStep  : Nat := 65536
  grace    : Nat := 20000
  quantum  : Nat := 200000
  retry    : Nat := 4
  queues   : KMap Queue := []
  rr       : Nat := 0
  images   : KMap Image := []
  resident : Option Nat := none
  exposed  : KMap Region := []
  peers    : KMap (BitVec 512) := []
  peerErr  : List Nat := []
  stor     : KMap (BitVec 512) := []
  poisoned : Nat := 0
  markers  : Nat := 0
  streams  : Nat := 0
  unlogged : Nat := 0
  log      : Option UndoLog := none
  breaks   : KMap Break := []
  session  : Option Nat := none
  fire     : Bool := false
  capture  : Option (Nat × Nat × Nat × Nat) := none
  captures : List Capture := []
  halted   : Bool := false
  swapOut  : Option Nat := none
  outCores : List Nat := []
  solo     : Bool := false
  dying    : Option Rpc := none
  scratch  : Bool := false
  diverged : Option Nat := none
  featRec  : Bool := false
deriving DecidableEq, Repr

/-- RV64 privilege modes (R340). -/
inductive Mode
  | m | s | u
deriving DecidableEq, Repr

/-- What a hart transaction restores on abort (R258). -/
structure Checkpoint where
  x    : SMap 64
  f    : SMap 64
  fcsr : BitVec 64
  next : BitVec 64
  rd   : Nat
deriving DecidableEq, Repr

/-- An RV64 hart: an application core or an Ostler (R117, R257 to R259, R330, R340). `sie` to `mpp` and `fs` are fields of mstatus,
`mier` and `mipr` the registers mie and mip (its bits that software writes). `txVas` are the addresses by which the
transaction's accesses were translated (R303), `bufVa` those by which the sectors in its write buffer were written. -/
structure Hart where
  x      : SMap 64 := []
  f      : SMap 64 := []
  fcsr   : BitVec 64 := 0
  pc     : BitVec 64 := 0
  mode   : Mode := .m
  mprv   : Bool := false
  sie    : Bool := false
  mie    : Bool := false
  spie   : Bool := false
  mpie   : Bool := false
  spp    : Bool := false
  mpp    : Mode := .u
  fs     : BitVec 2 := 0
  sum    : Bool := false
  mxr    : Bool := false
  tvm    : Bool := false
  tw     : Bool := false
  tsr    : Bool := false
  satp   : BitVec 64 := 0
  medeleg : BitVec 64 := 0
  mideleg : BitVec 64 := 0
  mier   : BitVec 64 := 0
  mipr   : BitVec 64 := 0
  mtvec  : BitVec 64 := 0
  mepc   : BitVec 64 := 0
  mcause : BitVec 64 := 0
  mtval  : BitVec 64 := 0
  mscratch : BitVec 64 := 0
  mcounteren : BitVec 32 := 0
  stvec  : BitVec 64 := 0
  sepc   : BitVec 64 := 0
  scause : BitVec 64 := 0
  stval  : BitVec 64 := 0
  sscratch : BitVec 64 := 0
  scounteren : BitVec 32 := 0
  part   : Option Nat := none
  ckpt   : Option Checkpoint := none
  slot   : Option Nat := none
  slices : BitVec 32 := 0
  wbuf   : KMap (BitVec 64 × BitVec 512) := []
  txVas  : List Nat := []
  bufVa  : KMap Nat := []
  count  : BitVec 4 := 0
  status : BitVec 32 := 0
  serial : Bool := false
  ending : Option Nat := none
  endRd  : Nat := 0
  resv   : Option Nat := none
  sentPeer : Bool := false
  busy   : Bool := false
  shoot  : BitVec 64 := 0
  relWin : Option Nat := none
deriving DecidableEq, Repr

/-- Who asks the ticket unit (R294): a group by key, or a hart. -/
inductive TxAgent
  | group (gk : Nat)
  | hart (h : Nat)
deriving DecidableEq, Repr

/-- A wait at the ticket unit: agent and the mesh cycle of arrival. -/
structure TixReq where
  who : TxAgent
  at_ : Nat
deriving DecidableEq, Repr

/-- The ticket unit, serial token and hart signatures (R294 to R304). `ready` is the first mesh cycle in which it may issue the
next ticket. Signatures are keyed by
64 * slot + 2 * slice + (1 for write). -/
structure Tix where
  next    : BitVec 48 := 0
  ready   : Nat := 0
  decided : BitVec 48 := 0
  reqs    : List TixReq := []
  out     : List (BitVec 48 × TxAgent) := []
  token   : Option TxAgent := none
  tokReqs : List TixReq := []
  slots   : KMap Nat := []
  sigs    : SMap 2048 := []
deriving DecidableEq, Repr

/-- A directory entry (R86). State: 0 I, 1 S, 2 E, 3 O, 4 M, 5 WINDOW. -/
structure DirEnt where
  state   : Nat := 0
  sharers : BitVec 8 := 0
  owner   : Nat := 0
  watch   : Bool := false
deriving DecidableEq, Repr

/-- A lease copy (R88, R89). -/
structure Lease where
  data  : BitVec 512
  off   : BitVec 16
  early : Bool
deriving DecidableEq, Repr

/-- The name of a line in an L1 (R84, R85): partition and line number of its virtual address, and its physical line number. -/
structure L1Line where
  part  : Nat
  vline : Nat
  pline : Nat
deriving DecidableEq, Repr

/-- Directories, caches' tags, lease copies, windows (R80, R84 to R91, R313). L1 sector states are keyed
by 2^46 * core + sector: 1 S, 2 E, 3 O, 4 M; `tags` holds the names of the lines in each core's L1, and with them the reverse
map of its cluster. `rows` holds the rows that the Scarabs keep (R313), by stack, most recent first, each as the list of its sectors. -/
structure Coh where
  dir      : KMap DirEnt := []
  l1       : KMap Nat := []
  tags     : KMap (List L1Line) := []
  lines    : KMap Unit := []
  leases   : KMap Lease := []
  base     : SMap 64 := []
  winLines : KMap (Nat × Nat) := []
  rows     : KMap (List (List Nat)) := []
deriving DecidableEq, Repr

/-- Physical memory of the node (R71): bytes, poisoned sectors (R400), partition tags of lines (R15),
frames that are gone (R405, R425) as ranges. -/
structure Mem where
  bytes  : List Host.Cell := []
  poison : List Nat := []
  tags   : KMap Nat := []
  gone   : List (Nat × Nat) := []
deriving DecidableEq, Repr

/-- Time and place (R10, R114, R361, R428), the count of free values drawn, a count that orders waits and
grants, and `syncAt`, from when the next Sync may come. -/
structure Clock where
  now    : Nat := 0
  winLen : Nat := 512
  pkgid  : Nat := 0
  present : BitVec 8 := 1
  unsync : Bool := false
  good   : Nat := 0
  offset : Nat := 0
  gm     : Nat := 0
  fabric : Option (BitVec 64 × Nat) := none
  syncAt : Nat := 0
  free   : Nat := 0
  seqno  : Nat := 0
deriving DecidableEq, Repr

/-- A waiting FETCHW (R46). -/
structure Fetch where
  gk  : Nat
  at_ : Nat
deriving DecidableEq, Repr

/-- The shortfall that an outranking item has on a core for its workgroup `wg`, since when, and whether a switch was requested (R64,
R66). -/
structure Press where
  core  : Nat
  part  : Nat
  queue : Nat
  item  : Nat
  wg    : Nat := 0
  since : Nat
  asked : Bool := false
deriving DecidableEq, Repr

/-- The Innkeeper's package-wide state (R46, R64 to R69, R347). `grants` is the first mesh cycle in which it may decide
the next grant. -/
structure Inn where
  fetch  : List Fetch := []
  grants : Nat := 0
  press  : List Press := []
  saved  : List Saved := []
  swapped : List Saved := []
  spilled : KMap TeamSpill := []
  tiles  : List TilesOut := []
deriving DecidableEq, Repr

/-- An error record (R403). -/
structure ErrRec where
  seqno  : Nat
  time   : Nat
  kind   : Nat
  sev    : Nat
  cls    : Nat
  unit   : Nat
  part   : Option Nat
  addr   : Nat
  count  : Nat
  detail : BitVec 256
deriving DecidableEq, Repr

/-- The Porter (R16, R17, R94, R402 to R405, R443 to R446). Counters are keyed by 2^16 * CLASS + UNIT. `above`: power is
not below the cap, else below since `powerAt`; `watts` is the last reading of power; `hot`: a die is at 95 °C or more, else all below since `coolAt`; `therm`: the
clock was lowered for heat; `hotAt`: since when a die is at 115 °C at 1.3 GHz. `staged`: firmware bytes
received; `off`: physical cores of a cluster that are not enabled (R5); `torn`: power failed while the image was written (R445). -/
structure Porter where
  recs     : List ErrRec := []
  nrecs    : Nat := 0
  ce       : SMap 32 := []
  ue       : SMap 32 := []
  cap      : Nat := 2800
  mhz      : Nat := 2600
  above    : Bool := false
  powerAt  : Nat := 0
  watts    : Nat := 0
  hot      : Bool := false
  coolAt   : Nat := 0
  therm    : Bool := false
  hotAt    : Option Nat := none
  temps    : KMap Nat := []
  vc1      : Nat := 3
  vc2      : Nat := 1
  image    : List (BitVec 8) := Config.firmwareImage
  staged   : List (BitVec 8) := []
  torn     : Bool := false
  recovery : Bool := false
  off      : KMap (List Nat) := (List.range 8).map (fun c => (c, Config.spares c))
  removed  : List (Nat × Nat) := []
  admins   : List (BitVec 128) := Config.firmwareAdmins Config.firmwareImage
deriving DecidableEq, Repr

/-- A node link (R359, R360, R437): `unack` are the flits sent that wait for their ACK, `inbox` the payload bytes accepted on each
channel, one message after another. -/
structure Link where
  up     : Bool := true
  width  : Nat := 4
  txSeq  : BitVec 12 := 0
  rxSeq  : BitVec 12 := 0xFFF
  unack  : List (BitVec 2048) := []
  resends : Nat := 0
  resentAt : Nat := 0
  lastRx : Nat := 0
  ackAt  : Nat := 0
  cred   : SMap 8 := []
  mark1  : Nat := 0
  mark2  : Nat := 0
  inbox  : KMap (List (BitVec 8)) := []
deriving DecidableEq, Repr

/-- A message to a network peer or storage target, as sent (R289, R290, R362, R363), with the operation of an atomic; `bad` lists
the offsets of its poisoned bytes (R400). -/
structure NetMsg where
  entry : Nat
  kind  : EngKind
  addr  : BitVec 64
  len   : Nat
  data  : List (BitVec 8) := []
  bad   : List Nat := []
  aop   : Aop := .add
  x     : BitVec 64 := 0
  y     : BitVec 64 := 0
deriving DecidableEq, Repr

/-- A release held at its home after its group stopped (R40, R116): who wrote it, the window in which it was
sent, and its accesses. -/
structure HeldRel where
  gk   : Nat
  id   : Nat
  sent : Nat
  by_  : Writer
  op   : MemOp
deriving DecidableEq, Repr

/-- Node links and network (R10, R11, R92, R116, R360, R438): `answers` are the results of operation packets, by package. -/
structure Node where
  links   : KMap Link := []
  lost    : BitVec 8 := 0
  sent    : List NetMsg := []
  held    : List HeldRel := []
  answers : List (Nat × Nat) := []
deriving DecidableEq, Repr

/-- An RPC session (R351). -/
structure Session where
  gid   : BitVec 128
  port  : Nat
  err   : Bool := false
deriving DecidableEq, Repr

/-- A reply SEND (R352, R353). -/
structure Reply where
  session : Nat
  hdr     : BitVec 128
  body    : List (BitVec 64)
deriving DecidableEq, Repr

/-- A request that waits for its effect to complete (R354): WAITEV, SOLO, TRACE DRAIN, SWAP, REVERSE,
ADVANCE, UNEXPOSE, REPLAY RUN; `until_` is a time limit, or the time of its reply, `res` results known already, `recs` the trace records that were written before
a DRAIN (R382). -/
structure Waiting where
  req   : Rpc
  until_ : Option Nat := none
  dbg   : Nat := 0
  res   : List (BitVec 64) := []
  recs  : List (Nat × BitVec 512) := []
deriving DecidableEq, Repr

/-- The RPC service (R351 to R354), and the answers to host RDMA (R358): 0 with data, 1 the remote-access-error NAK, 2 the
remote-operational-error NAK, 3 an RNR NAK (R441). -/
structure RpcSt where
  sessions : KMap Session := []
  replies  : List Reply := []
  waiting  : List Waiting := []
  queue    : List Rpc := []
  rdmaOut  : List (Nat × List (BitVec 8)) := []
deriving DecidableEq, Repr

/-- A debug session (R365, R376, R377, R379). Events are code, coreid, slot, ordinal; `want` while a halt is awaited. -/
structure DbgSession where
  parts  : List Nat
  halted : Bool := false
  want   : Bool := false
  events : List (Nat × Nat × Nat × Nat) := []
  lost   : Nat := 0
  solo   : Option (Nat × Nat × Nat) := none
  rev    : Option (BitVec 32) := none
deriving DecidableEq, Repr

/-- A replay (R384): the partition it was asked of, its scratch partition, and its time limit; `done_` once it has been
answered. -/
structure Replay where
  orig   : Nat
  tag    : Nat
  req    : Rpc
  until_ : Nat
  done_  : Bool := false
deriving DecidableEq, Repr

/-- Debug sessions and replays. -/
structure Dbg where
  sessions : KMap DbgSession := []
  replays  : List Replay := []
deriving DecidableEq, Repr

/-- Which agent's instruction `exec` performs. -/
inductive Agent
  | none
  | group (gk : Nat)
  | hart (h : Nat)
deriving DecidableEq, Repr

/-- One turn of the agenda: a group issues, a hart executes, a request reaches the RPC service, another
agent makes its step, or time passes. -/
inductive Turn
  | group (gk : Nat)
  | hart (h : Nat)
  | rpc (r : Rpc)
  | event (i : Instr)
  | elapse (ns : Nat)
deriving DecidableEq, Repr

end Sys2Proof.Machine

namespace Sys2Proof.Machine

/-- The state of the package. -/
structure State where
  agenda   : List Turn
  cur      : Agent
  clock    : Clock
  mem      : Mem
  coh      : Coh
  tlbs     : KMap (List TlbEnt)
  groups   : KMap Group
  teams    : KMap Team
  cores    : KMap Core
  clusters : KMap Cluster
  parts    : KMap Part
  harts    : KMap Hart
  tix      : Tix
  inn      : Inn
  porter   : Porter
  node     : Node
  rpc      : RpcSt
  dbg      : Dbg
deriving DecidableEq, Repr

/-- The machine right after package reset (R445): counters, records and tickets cleared, no partition,
group or session. -/
def State.reset : State :=
  { agenda := [], cur := .none, clock := {}, mem := {}, coh := {}, tlbs := [], groups := [], teams := [],
    cores := [], clusters := [], parts := [], harts := [], tix := {}, inn := {}, porter := {}, node := {},
    rpc := {}, dbg := {} }

end Sys2Proof.Machine
end

