-- ==== Sys2Proof/Machine/Access.lean ====
section
/-! DEFINITION. Reading and updating the parts of State, and the raw contents of memory and of the
local spaces (R71 to R75, R80, R400, R425). -/

namespace Sys2Proof.Machine

/-- The core, in its initial state where nothing changed it. -/
def State.core (s : State) (c : Nat) : Core := (kget s.cores c).getD {}
def State.setCore (s : State) (c : Nat) (x : Core) : State := { s with cores := kset s.cores c x }
def State.modCore (s : State) (c : Nat) (f : Core → Core) : State := s.setCore c (f (s.core c))

def State.group? (s : State) (gk : Nat) : Option Group := kget s.groups gk
def State.setGroup (s : State) (gk : Nat) (g : Group) : State := { s with groups := kset s.groups gk g }
def State.delGroup (s : State) (gk : Nat) : State := { s with groups := kdel s.groups gk }
def State.modGroup (s : State) (gk : Nat) (f : Group → Group) : State :=
  match s.group? gk with
  | some g => s.setGroup gk (f g)
  | none => s

def State.team? (s : State) (tk : Nat) : Option Team := kget s.teams tk
def State.setTeam (s : State) (tk : Nat) (t : Team) : State := { s with teams := kset s.teams tk t }
def State.delTeam (s : State) (tk : Nat) : State := { s with teams := kdel s.teams tk }
def State.modTeam (s : State) (tk : Nat) (f : Team → Team) : State :=
  match s.team? tk with
  | some t => s.setTeam tk (f t)
  | none => s

def State.part? (s : State) (p : Nat) : Option Part := kget s.parts p
def State.setPart (s : State) (p : Nat) (x : Part) : State := { s with parts := kset s.parts p x }
def State.modPart (s : State) (p : Nat) (f : Part → Part) : State :=
  match s.part? p with
  | some x => s.setPart p (f x)
  | none => s

def State.cluster (s : State) (c : Nat) : Cluster := (kget s.clusters c).getD {}
def State.modCluster (s : State) (c : Nat) (f : Cluster → Cluster) : State :=
  { s with clusters := kset s.clusters c (f (s.cluster c)) }

def State.hart (s : State) (h : Nat) : Hart := (kget s.harts h).getD {}
def State.setHart (s : State) (h : Nat) (x : Hart) : State := { s with harts := kset s.harts h x }
def State.modHart (s : State) (h : Nat) (f : Hart → Hart) : State := s.setHart h (f (s.hart h))

def State.setMem (s : State) (m : Mem) : State := { s with mem := m }
def State.setCoh (s : State) (c : Coh) : State := { s with coh := c }
def State.setClock (s : State) (c : Clock) : State := { s with clock := c }
def State.setTix (s : State) (t : Tix) : State := { s with tix := t }
def State.setInn (s : State) (x : Inn) : State := { s with inn := x }
def State.setPorter (s : State) (x : Porter) : State := { s with porter := x }
def State.setNode (s : State) (x : Node) : State := { s with node := x }
def State.setRpc (s : State) (x : RpcSt) : State := { s with rpc := x }
def State.setDbg (s : State) (x : Dbg) : State := { s with dbg := x }
def State.setTlb (s : State) (d : Nat) (l : List TlbEnt) : State := { s with tlbs := kset s.tlbs d l }

/-- Draws a fresh free value (log 4). -/
def State.draw (s : State) : BitVec 64 × State :=
  (Config.freeValue s.clock.free, s.setClock { s.clock with free := s.clock.free + 1 })

/-- coreid, group slot, cluster and team key of a group key; a lodge group belongs to no team (R20). -/
def coreOf (gk : Nat) : Nat := gk / 64
def slotOf (gk : Nat) : Nat := gk % 64
def clusterOf (core : Nat) : Nat := core / 32
def Group.tk (g : Group) (gk : Nat) : Nat := (if g.kind == .lodge then 4096 else 0) + coreOf gk * 16 + g.tslot

/-- Mesh cycles since time 0: the mesh clock runs at 2.0 GHz (R6). -/
def State.meshNow (s : State) : Nat := 2 * s.clock.now
/-- The current visibility window (R114). -/
def State.window (s : State) : Nat := s.clock.now / s.clock.winLen

/-- Package of a physical address (R71). -/
def pkgOf (pa : Nat) : Nat := bits pa 51 49
/-- HBM4E and capacity ranges of a local address (R71). -/
def inHbm (pa : Nat) : Bool := bits pa 48 0 < 0x8000000000
def inCap (pa : Nat) : Bool := 0x10000000000 ≤ bits pa 48 0 && bits pa 48 0 < 0x20000000000
/-- The memory stop of a physical address: stack of HBM4E, or half the channel (R72). -/
def stopOf (pa : Nat) : Nat := if inHbm pa then bits pa 14 12 else bits pa 15 12 / 2
/-- The home slice (R72), before removals. -/
def sliceOf (pa : Nat) : Nat := 4 * stopOf pa + bits pa 11 10
/-- The home slice with removed slices replaced (R405). -/
def State.homeSlice (s : State) (pa : Nat) : Nat :=
  let i := sliceOf pa
  let gone := fun j => s.porter.removed.contains (2, j)
  if !gone i then i else if !gone (i ^^^ 1) then i ^^^ 1 else i ^^^ 2
/-- The mesh plane of a line (R8). -/
def planeOf (pa : Nat) : Nat := bits pa 9 8

/-- Memory that is absent: outside the populated ranges, removed, or of a package that is absent or lost
(R71, R405, R425, R438). -/
def State.isGone (s : State) (pa : Nat) : Bool :=
  !(inHbm pa || inCap pa) || s.mem.gone.any (fun r => r.1 ≤ pa && pa < r.2)
    || (pkgOf pa != s.clock.pkgid && (!s.clock.present.getLsbD (pkgOf pa) || s.node.lost.getLsbD (pkgOf pa)))
    || s.porter.removed.any (fun r =>
        pkgOf pa == s.clock.pkgid && ((r.1 == 3 && inHbm pa && stopOf pa == r.2) || (r.1 == 4 && inCap pa && bits pa 15 12 == r.2)))

/-- Fields of a mapping-table entry (R79). -/
def mapCore (cluster : Nat) (e : BitVec 64) : Nat := 32 * cluster + fld e 14 10
def mapIsW (e : BitVec 64) : Bool := e.getLsbD 9

/-- Where a physical byte is held: a WINDOW line is forwarded to the scratchpad (R80). -/
def State.locate (s : State) (pa : Nat) : Place :=
  match kget s.coh.winLines (pa / 256) with
  | some (key, off) =>
    let c := s.cluster (key / 256)
    let e := (kget c.old (key % 256)).getD (sget c.map (key % 256))
    let o := off + pa % 256
    if mapIsW e then .wspc (mapCore (key / 256) e) o else .aspc (mapCore (key / 256) e) o
  | none => .glob pa

/-- The raw byte at a place, poison aside. -/
def State.rawByte (s : State) : Place → Byte
  | .glob pa => if s.isGone pa then 0 else sget s.mem.bytes pa
  | .aspc c o => sget (s.core c).a o
  | .wspc c o => sget (s.core c).w o

/-- Whether the byte's 64-byte sector is poisoned (R400), or names no memory (R425). -/
def State.isPoison (s : State) : Place → Bool
  | .glob pa => s.isGone pa || s.mem.poison.contains (pa / 64)
  | .aspc c o => (s.core c).apoison.contains (o / 64)
  | .wspc c o => (s.core c).wpoison.contains (o / 64)

/-- The place `n` bytes on. -/
def Place.add : Place → Nat → Place
  | .glob a, n => .glob (a + n)
  | .aspc c o, n => .aspc c (o + n)
  | .wspc c o, n => .wspc c (o + n)

/-- The byte a reader receives: zero from a poisoned sector (R400). -/
def State.readByte (s : State) (p : Place) : Byte := if s.isPoison p then 0 else s.rawByte p

/-- `n` bytes from a place, as a reader receives them. -/
def State.readBytes (s : State) (p : Place) (n : Nat) : List Byte :=
  (List.range n).map (fun i => s.readByte (p.add i))

/-- Whether any of `n` bytes is poisoned. -/
def State.anyPoison (s : State) (p : Place) (n : Nat) : Bool :=
  (List.range n).any (fun i => s.isPoison (p.add i))

/-- Puts one byte, with no other effect. -/
def State.putByte (s : State) (p : Place) (b : Byte) : State :=
  match p with
  | .glob pa => if s.isGone pa then s else s.setMem { s.mem with bytes := sset s.mem.bytes pa b }
  | .aspc c o => s.modCore c (fun k => { k with a := sset k.a o b })
  | .wspc c o => s.modCore c (fun k => { k with w := sset k.w o b })

/-- Puts bytes from a place on, with no other effect. -/
def State.putBytes (s : State) (p : Place) : List Byte → State
  | [] => s
  | b :: r => (s.putByte p b).putBytes (p.add 1) r

/-- Marks or clears the poison of the sector of a place (R400). -/
def State.setPoison (s : State) (p : Place) (on : Bool) : State :=
  match p with
  | .glob pa => s.setMem { s.mem with poison := if on then nins s.mem.poison (pa / 64) else ndel s.mem.poison (pa / 64) }
  | .aspc c o => s.modCore c (fun k => { k with apoison := if on then nins k.apoison (o / 64) else ndel k.apoison (o / 64) })
  | .wspc c o => s.modCore c (fun k => { k with wpoison := if on then nins k.wpoison (o / 64) else ndel k.wpoison (o / 64) })

/-- Sector number of a place within its space (64 bytes). -/
def Place.sector : Place → Place
  | .glob a => .glob (a / 64 * 64)
  | .aspc c o => .aspc c (o / 64 * 64)
  | .wspc c o => .wspc c (o / 64 * 64)

/-- Offset of a place in its 64-byte sector. -/
def Place.inSector : Place → Nat
  | .glob a => a % 64
  | .aspc _ o => o % 64
  | .wspc _ o => o % 64

/-- Whether an error folds into a record of the last 1 ms: a corrected error of the same unit (R404), poison of the same sector (R400),
any access to memory that is gone (R425), any refused stream (R440). -/
def ErrRec.folds (r : ErrRec) (now kind cls unit addr : Nat) : Bool :=
  r.kind == kind && now < r.time + 1000000 && (match kind with
    | 1 | 2 => r.cls == cls && r.unit == unit
    | 5 => r.cls == cls && r.unit == unit && r.addr == addr
    | 22 | 26 => true
    | _ => false)

/-- Adds one error record of `n` events (R403): at most 4,096 are kept. -/
def State.record (s : State) (kind sev cls unit : Nat) (part : Option Nat) (addr n : Nat) (detail : BitVec 256) : State :=
  let fold := fun (r : ErrRec) => r.folds s.clock.now kind cls unit addr
  let counted := fun (m : SMap 32) =>
    let k := 65536 * cls + unit
    sset m k (BitVec.ofNat 32 (min (2 ^ 32 - 1) ((sget m k).toNat + n)))
  let p := s.porter
  let p := if kind == 1 || kind == 2 then { p with ce := counted p.ce }
    else if kind == 3 || kind == 4 then { p with ue := counted p.ue } else p
  if p.recs.any fold then
    s.setPorter { p with recs := p.recs.map (fun r => if fold r then { r with count := r.count + n } else r) }
  else
    s.setPorter { p with nrecs := p.nrecs + 1,
                         recs := (({ seqno := p.nrecs, time := s.clock.now, kind := kind, sev := sev, cls := cls,
                                     unit := unit, part := part, addr := addr, count := n, detail := detail } : ErrRec) :: p.recs).take 4096 }

/-- UNIT of a compute core in an error record: cluster * 64 + physical core (R5, R403). Logical numbers follow the physical
ones of the enabled cores. -/
def State.coreUnit (s : State) (core : Nat) : Nat :=
  let off := (kget s.porter.off (clusterOf core)).getD []
  clusterOf core * 64 + ((List.range 34).filter (fun p => !off.contains p)).getD (core % 32) (core % 32)

/-- Draws 256 free bits: the DETAIL of a record whose KIND has no layout in the spec (log 4). -/
def State.drawWide (s : State) : BitVec 256 × State :=
  let a := s.draw
  let b := a.2.draw
  let c := b.2.draw
  let d := c.2.draw
  (pack 256 [(0, 64, a.1.toNat), (64, 64, b.1.toNat), (128, 64, c.1.toNat), (192, 64, d.1.toNat)], d.2)
/-- A record with such a DETAIL. -/
def State.note (s : State) (kind sev cls unit : Nat) (part : Option Nat) (addr n : Nat) : State :=
  let x := s.drawWide
  x.2.record kind sev cls unit part addr n x.1

/-- The Porter removes a unit (R405), with a record of KIND 6. -/
def State.markRemoved (s : State) (cls unit : Nat) : State :=
  (s.setPorter { s.porter with removed := s.porter.removed ++ [(cls, unit)] }).note 6 3 cls unit none 0 1

/-- CLASS and UNIT of the memory that holds a place (R403). -/
def State.unitOf (s : State) : Place → Nat × Nat
  | .glob pa => if inCap pa then (4, bits pa 15 12) else (3, stopOf pa)
  | .aspc c _ => (0, s.coreUnit c)
  | .wspc c _ => (0, s.coreUnit c)

/-- One consumption of poison by partition `part` (R400, R404, R425). -/
def State.consume (s : State) (part : Nat) (p : Place) : State :=
  let gone := match p with
    | .glob pa => s.isGone pa
    | _ => false
  let addr := match p.sector with
    | .glob pa => pa
    | _ => 0
  let u := s.unitOf p
  (s.modPart part (fun x => { x with poisoned := min (2 ^ 32 - 1) (x.poisoned + 1) })).note
    (if gone then 22 else 5) 1 u.1 u.2 (if part < 64 then some part else none) addr 1

end Sys2Proof.Machine
end

