-- ==== Sys2Proof/Machine/Home.lean ====
section
/-! DEFINITION. The home of a sector: its directory entry and the L1 states (R84 to R87), the signatures of hart transactions
(R299 to R303), write notices (R218), the rows that Scarabs keep (R313), and a read or write performed there. -/

namespace Sys2Proof.Machine

/-! ### Directories and L1 sector states -/

/-- Key of an L1 sector state. -/
def l1Key (core sector : Nat) : Nat := 2 ^ 46 * core + sector
def State.dirEnt (s : State) (sec : Nat) : DirEnt := (kget s.coh.dir sec).getD {}
def State.setDir (s : State) (sec : Nat) (d : DirEnt) : State := s.setCoh { s.coh with dir := kset s.coh.dir sec d }
def State.l1 (s : State) (core sec : Nat) : Nat := (kget s.coh.l1 (l1Key core sec)).getD 0
def State.setL1 (s : State) (core sec st : Nat) : State :=
  s.setCoh { s.coh with l1 := if st = 0 then kdel s.coh.l1 (l1Key core sec) else kset s.coh.l1 (l1Key core sec) st }
/-- Invalidates every L1 copy of a sector but that of `keep` (R87). -/
def State.dropCopies (s : State) (sec : Nat) (keep : Option Nat) : State :=
  s.setCoh { s.coh with l1 := s.coh.l1.filter (fun e => e.1 % 2 ^ 46 != sec || some (e.1 / 2 ^ 46) == keep) }

/-- An owner's copy goes to S, or to `st`; a core that let an E copy go silently ignores it (R87). -/
def State.downgrade (s : State) (core sec : Nat) (st : Nat := 1) : State := if s.l1 core sec = 0 then s else s.setL1 core sec st

/-- Whether an L1 holds a copy of a sector. -/
def State.anyCopy (s : State) (sector : Nat) : Bool := s.coh.l1.any (fun e => e.1 % 2 ^ 46 == sector)

/-- A copy leaves an L1: an M or O copy is written back, and its directory entry keeps the S copies that others hold; an E or S
copy leaves silently, and the directory keeps its entry (R87). -/
def State.l1Drop (s : State) (core sector : Nat) : State :=
  match s.l1 core sector with
  | 0 => s
  | 1 | 2 => s.setL1 core sector 0
  | _ =>
    let s := s.setL1 core sector 0
    s.setDir sector { s.dirEnt sector with state := if s.anyCopy sector then 1 else 0, owner := 0 }

/-- A write notice: every group whose bound watch names the line sets TRIG (R218). -/
def State.notice (s : State) (home : Place) : State :=
  { s with groups := s.groups.map (fun e =>
      if e.2.watch.armed && e.2.watch.bound && e.2.watch.home == home then (e.1, { e.2 with watch := { e.2.watch with trig := true } }) else e) }

def State.isPeer (s : State) (pa : Nat) : Bool := pkgOf pa != s.clock.pkgid

/-- A lease copy goes, with its L1 copies (R89). -/
def State.leaseDrop (s : State) (sec : Nat) : State :=
  s.setCoh { s.coh with leases := kdel s.coh.leases sec, l1 := s.coh.l1.filter (fun e => e.1 % 2 ^ 46 != sec) }

/-- An M or E owner is downgraded with its data (R87, R297). -/
def State.dirShare (s : State) (sec : Nat) : State :=
  let d := s.dirEnt sec
  match d.state with
  | 2 => (s.setDir sec { d with state := 1 }).downgrade d.owner sec
  | 4 => (s.setDir sec { d with state := 3 }).downgrade d.owner sec 3
  | _ => s

/-! ### Hart transactions: signatures and aborts -/

/-- Bit numbers of a sector in a signature (R299). -/
def sigBits (pa : Nat) : List Nat :=
  let v := bits pa 51 16 * 16 + bits pa 9 6
  let h := fun c => v * c % 2 ^ 40 / 2 ^ 31
  [h 0x9E3779B97F, 512 + h 0xC2B2AE3D27, 1024 + h 0x165667B19F, 1536 + h 0x27D4EB2F15]

def sigHas (x : BitVec 2048) (pa : Nat) : Bool := (sigBits pa).all (fun i => x.getLsbD i)
def sigAdd (x : BitVec 2048) (pa : Nat) : BitVec 2048 := (sigBits pa).foldl (fun x i => x ||| BitVec.ofNat 2048 (2 ^ i)) x

/-- Key of a slot's signature at a slice. -/
def sigKey (slot slice : Nat) (wr : Bool) : Nat := 64 * slot + 2 * slice + if wr then 1 else 0

/-- Slots whose signature an access hits: a read the write signature, a write either (R301). -/
def State.sigHits (s : State) (own : Option Nat) (pa : Nat) (wr : Bool) : List (Nat × Nat) :=
  let sl := s.homeSlice pa
  s.tix.slots.filter (fun e => some e.1 != own &&
    (sigHas (sget s.tix.sigs (sigKey e.1 sl true)) pa || (wr && sigHas (sget s.tix.sigs (sigKey e.1 sl false)) pa)))

/-- The status word of a transaction (R253). -/
def txWord (cause code count : Nat) (intx serial committed : Bool) : BitVec 32 :=
  pack 32 [(0, 8, cause), (8, 8, code), (16, 4, count), (20, 1, intx.toNat), (21, 1, serial.toNat), (22, 1, committed.toNat)]

/-- Frees a transaction slot and clears its signatures (R300). -/
def State.freeSlot (s : State) (slot : Nat) : State :=
  s.setTix { s.tix with slots := kdel s.tix.slots slot, sigs := s.tix.sigs.filter (fun e => e.1 / 64 != slot) }

/-- A hart gives the serial token back, or its place in the wait for it, and its ticket request (R256). -/
def State.hartToken (s : State) (h : Nat) : State :=
  s.setTix { s.tix with token := if s.tix.token = some (.hart h) then none else s.tix.token,
                        reqs := s.tix.reqs.filter (fun r => r.who != .hart h), tokReqs := s.tix.tokReqs.filter (fun r => r.who != .hart h) }

/-- Aborts the transaction of a hart (R258): buffered writes and signatures go, the checkpoint returns, rd takes
the status word, and the hart resumes after the TX.B. -/
def State.abortHart (s : State) (h cause code : Nat) : State :=
  let k := s.hart h
  match k.ckpt with
  | none => s
  | some c =>
    let n := if cause = 9 then k.count.toNat else min 15 (k.count.toNat + 1)
    let st := txWord cause code n false false false
    let s := match k.slot with
      | some slot => s.freeSlot slot
      | none => s
    let s := s.hartToken h
    s.setHart h { k with
      x := if c.rd = 0 then c.x else sset c.x c.rd (st.zeroExtend 64), f := c.f, fcsr := c.fcsr, pc := c.next,
      ckpt := none, slot := none, slices := 0, wbuf := [], txVas := [], bufVa := [], count := BitVec.ofNat 4 n, status := st, serial := false, ending := none }

/-- An access waits where a transaction would abort the holder of the serial token (R301). -/
def State.sigWaits (s : State) (own : Option Nat) (pa : Nat) (wr : Bool) : Bool :=
  (s.sigHits own pa wr).any (fun e => s.tix.token == some (.hart e.2))

/-- Aborts with CONFLICT every hart whose signature the access hits (R301). -/
def State.conflict (s : State) (own : Option Nat) (pa : Nat) (wr : Bool) : State :=
  (s.sigHits own pa wr).foldl (fun s e => s.abortHart e.2 13 0) s

/-! ### A read and a write performed at the home -/

/-- Whether the bytes written cover a whole sector (R400). -/
def covers (ws : List (Nat × Byte)) : Bool := (List.range 64).all (fun i => ws.any (fun e => e.1 == i))

def State.putSector (s : State) (p : Place) (ws : List (Nat × Byte)) : State :=
  let s := ws.foldl (fun s e => s.putByte (p.add e.1) e.2) s
  if covers ws then s.setPoison p false else s

/-- A write or ownership request invalidates the cached rows that hold the sector (R313). -/
def State.rowsDrop (s : State) (sec : Nat) : State :=
  s.setCoh { s.coh with rows := s.coh.rows.map (fun e => (e.1, e.2.filter (fun r => !r.contains sec))) }

/-- A read that an agent without an L1 makes at the home (R87, R301, R324). -/
def State.homeRead (s : State) (own : Option Nat) (pa : Nat) : State :=
  if s.isGone pa || s.isPeer pa then s else (s.conflict own pa false).dirShare (pa / 64)

/-- The bytes of a write arrive in a sector: reservations of other harts end (R98), kept rows go (R313), and a watched line sends its
notice (R218). -/
def State.landed (s : State) (w : Writer) (sec : Nat) (ws : List (Nat × Byte)) : State :=
  let s := { s with harts := s.harts.map (fun (e : Nat × Hart) => if e.2.resv == some sec && !(w.hart && w.src == e.1) then (e.1, { e.2 with resv := none }) else e) }
  let s := (s.rowsDrop sec).putSector (.glob (sec * 64)) ws
  if (s.dirEnt sec).watch then s.notice (.glob (sec * 64)) else s

/-- Every L1 copy of a sector goes, and the home alone holds it (R92, R297). -/
def State.homeTake (s : State) (sec : Nat) : State :=
  let d := s.dirEnt sec
  if d.state = 0 || d.state = 5 then s
  else (s.dropCopies sec none).setDir sec { d with state := 0, sharers := 0, owner := 0 }

end Sys2Proof.Machine
end

