-- ==== Sys2Proof/Machine/Translate.lean ====
section
/-! DEFINITION. Page tables, walks, TLBs and the permission test (R319 to R325, R429). -/

namespace Sys2Proof.Machine

/-- Whether an access writes (R322, R325). -/
def isWrite : Access → Bool
  | .store | .atomic | .engWrite | .innWrite => true
  | _ => false

/-- The ACCESS code of a fault record (R329). -/
def accCode : Access → Nat
  | .load | .pref => 0
  | .store => 1
  | .atomic => 2
  | .fetch | .xfetch => 3
  | .engRead => 4
  | .engWrite => 5
  | .innRead => 6
  | .innWrite => 7

/-- Lowest virtual address bit of an index at a level, which is also log2 of a leaf's size there (R319). -/
def lvlShift : Nat → Nat
  | 0 => 16 | 1 => 21 | 2 => 29 | _ => 38
/-- Entries of a table at a level (R319). -/
def lvlEntries : Nat → Nat
  | 0 => 32 | 1 => 256 | 2 => 512 | _ => 262144

/-- Fields of a PTE (R321). -/
def pteAddr (p : BitVec 64) : Nat := fld p 56 14 * 512
def pteV (p : BitVec 64) : Bool := p.getLsbD 0
def pteLeaf (p : BitVec 64) : Bool := p.getLsbD 1
def pteR (p : BitVec 64) : Bool := p.getLsbD 2
def pteW (p : BitVec 64) : Bool := p.getLsbD 3
def pteXO (p : BitVec 64) : Bool := p.getLsbD 4
def pteG (p : BitVec 64) : Bool := p.getLsbD 5
def pteCFT (p : BitVec 64) : Bool := p.getLsbD 6
def pteNR (p : BitVec 64) : Bool := p.getLsbD 7
def pteCAPD (p : BitVec 64) : Bool := p.getLsbD 8
def pteMIG (p : BitVec 64) : Bool := p.getLsbD 9
/-- HOME of a fault record: HKIND and HPKG of a leaf (R329). -/
def pteHome (p : BitVec 64) : Nat := fld p 13 10

/-- Whether HKIND and HPKG agree with the memory that ADDR names (R322). -/
def homeAgrees (p : BitVec 64) : Bool :=
  let a := pteAddr p
  (if p.getLsbD 13 then inCap a else inHbm a) && fld p 12 10 == pkgOf a

/-- The cause for which a leaf refuses an access, if any (R325). -/
def refused (acc : Access) (p : BitVec 64) : Option Nat :=
  if pteCFT p && !pteCAPD p then some 4
  else if pteNR p then some 1
  else if acc == .xfetch then (if pteXO p then none else some 2)
  else if isWrite acc then
    if pteMIG p then some 3 else if !(pteR p && pteW p) then some 2 else none
  else if pteR p then none else some 2

/-- What a walk ends in: a leaf, with its level and the physical address of its entry; or a stop, with the
cause if the entry itself is at fault. -/
inductive WalkEnd
  | leaf (lvl at_ : Nat) (pte comp : BitVec 64)
  | stop (cause lvl : Nat) (pte comp : BitVec 64)
deriving DecidableEq, Repr

/-- Reads a 64-bit word of physical memory. -/
def State.word64 (s : State) (pa : Nat) : BitVec 64 := BitVec.ofNat 64 (ofBytes (s.readBytes (.glob pa) 8))

/-- The walk from the table at `base` of level `lvl` (R319, R321, R324, R429). The reserved bits that make an entry malformed
are those of the PTE: a companion word is meaningful in leaves only and hardware writes it, so its reserved bits (R322) are
neither tested nor cleared (DEDUCED, log 76). -/
def State.walkFrom (s : State) (va : Nat) : Nat → Nat → WalkEnd
  | lvl, base =>
    let at_ := base + 16 * (va / 2 ^ lvlShift lvl % lvlEntries lvl)
    if s.isPoison (.glob at_) then .stop 5 lvl 0 0
    else
      let pte := s.word64 at_
      let comp := s.word64 (at_ + 8)
      if !pteV pte then .stop 1 lvl pte comp
      else if pteLeaf pte then
        if pteCFT pte && !pteCAPD pte then .leaf lvl at_ pte comp
        else if fld pte 63 57 != 0 || 3 ≤ lvl || pteAddr pte % 2 ^ lvlShift lvl != 0
            || (!pteNR pte && !homeAgrees pte) then .stop 5 lvl pte comp
        else .leaf lvl at_ pte comp
      else match lvl with
        | 0 => .stop 5 0 pte comp
        | l + 1 =>
          if fld pte 63 57 != 0 || fld pte 13 2 != 0 || pteAddr pte % (16 * lvlEntries l) != 0
          then .stop 5 (l + 1) pte comp
          else s.walkFrom va l (pteAddr pte)

/-- The walk of a virtual address in the tables of a partition (R319, R320). -/
def State.walk (s : State) (root : Nat) (va : Nat) : WalkEnd := s.walkFrom va 3 root

/-- The entries that a walk reads. -/
def State.walkPas (s : State) (va : Nat) : Nat → Nat → List Nat
  | lvl, base =>
    let at_ := base + 16 * (va / 2 ^ lvlShift lvl % lvlEntries lvl)
    let pte := s.word64 at_
    at_ :: (if s.isPoison (.glob at_) || !pteV pte || pteLeaf pte then []
      else match lvl with
        | 0 => []
        | l + 1 => if fld pte 63 57 != 0 || fld pte 13 2 != 0 || pteAddr pte % (16 * lvlEntries l) != 0 then [] else s.walkPas va l (pteAddr pte))

/-- The walker reads each entry by a coherent read at its home slice (R301, R324). -/
def State.walkReads (s : State) (root va : Nat) : State := (s.walkPas va 3 root).foldl (fun s a => s.homeRead none a) s

/-- Bits that a fill sets in the companion word (R322, R324). -/
def companion (s : State) (die : Nat) (w : Bool) (comp : BitVec 64) : BitVec 64 :=
  comp ||| BitVec.ofNat 64 (2 ^ (16 + s.clock.pkgid)) ||| BitVec.ofNat 64 (2 ^ die) ||| (if w then BitVec.ofNat 64 (2 ^ 32) else 0)

/-- The package TLB slice of an address, numbered after the ten die TLBs (R323). -/
def pkgTlb (va : Nat) : Nat := 16 + (bits va 31 29 ^^^ bits va 34 32)

def State.tlb (s : State) (d : Nat) : List TlbEnt := (kget s.tlbs d).getD []

/-- The entry of a TLB for an address (R323). -/
def tlbFind (l : List TlbEnt) (part va : Nat) : Option TlbEnt :=
  l.find? (fun e => e.part == part && va / 2 ^ lvlShift e.lvl == e.page)

/-- Entries of a TLB filled for a core. -/
def tlbShare (l : List TlbEnt) (core : Nat) : Nat := (l.filter (fun x => x.core == core)).length
/-- The entries of a full TLB that may be replaced by one for `core` (R323): in a cluster TLB no replacement takes an entry of
another core that has 128 or fewer, and a core with fewer than 128 gains one. -/
def tlbVictims (d core : Nat) (l : List TlbEnt) : List TlbEnt :=
  if d < 8 then l.filter (fun x => if x.core == core then 128 ≤ tlbShare l core else 128 < tlbShare l x.core) else l

/-- Adds an entry; a full TLB replaces one entry, which the spec leaves open: a free value chooses (R323). -/
def State.tlbFill (s : State) (d : Nat) (e : TlbEnt) : State :=
  let l := (s.tlb d).filter (fun x => !(x.part == e.part && x.lvl == e.lvl && x.page == e.page))
  if l.length < Config.tlbEntries d then s.setTlb d (e :: l)
  else
    let (r, s) := s.draw
    let v := tlbVictims d e.core l
    match v[r.toNat % v.length]? with
    | some x => s.setTlb d (e :: l.filter (· != x))
    | none => s

/-- What a translation gives. -/
inductive Xlate
  | ok (pa : Nat)
  | bad (f : FaultInfo)
deriving DecidableEq, Repr

/-- Sets companion bits at a leaf, in the same step as the fill (R324, R429): a write at the home, with what every write there does
(R87, R218, R301). What it makes an L1 write back is not translated again (DESIGN CHOICE, log 77). -/
def State.setCompanion (s : State) (die leaf : Nat) (w : Bool) : State :=
  let c := s.word64 (leaf + 8)
  let c' := companion s die w c
  if c' = c || s.isGone leaf then s
  else
    let sec := leaf / 64
    let s := if s.isPeer leaf then s.leaseDrop sec else (s.conflict none leaf true).homeTake sec
    s.landed { part := 64, kind := 3, undo := false } sec ((toBytes 8 c'.toNat).zipIdx.map (fun e => ((leaf + 8) % 64 + e.2, e.1)))

/-- The walk with its fills: only a permitted access sets companion bits or is cached (R324). -/
def State.fill (s : State) (die part root : Nat) (acc : Access) (va : Nat) (core : Nat := 0) : Xlate × State :=
  let s := s.walkReads root va
  match s.walk root va with
  | .stop cause lvl pte comp => (.bad { cause := cause, acc := acc, level := lvl, pte := pte, comp := comp, va := BitVec.ofNat 64 va }, s)
  | .leaf lvl at_ pte comp =>
    match refused acc pte with
    | some cause => (.bad { cause := cause, acc := acc, level := lvl, pte := pte, comp := comp, va := BitVec.ofNat 64 va }, s)
    | none =>
      let s := s.setCompanion die at_ (isWrite acc)
      let e : TlbEnt := { part := part, lvl := lvl, page := va / 2 ^ lvlShift lvl, pte := pte, leaf := at_, wr := isWrite acc, core := core }
      (.ok (pteAddr pte + va % 2 ^ lvlShift lvl), (s.tlbFill (pkgTlb va) e).tlbFill die e)

/-- A cached entry answers an access: refused by its permissions, or translated. -/
def TlbEnt.answer (s : State) (e : TlbEnt) (acc : Access) (va : Nat) : Xlate :=
  match refused acc e.pte with
  | some cause => .bad { cause := cause, acc := acc, level := e.lvl, pte := e.pte, comp := s.word64 (e.leaf + 8), va := BitVec.ofNat 64 va }
  | none => .ok (pteAddr e.pte + va % 2 ^ lvlShift e.lvl)

/-- The I/O die of an engine (R4): the TLB that its translations use and the DIEACC bit that they set. The Innkeeper is on die 0,
the network and storage engine, which also serves host RDMA, on die 1, decompression engines 0 to 3 and 4 to 7 on dies 0 and 1. -/
def ioTlb (die : Nat) : Nat := 8 + die

/-- Translation: the TLB of the die, then the package TLB, then a walk (R323, R324). An entry not yet filled
for a write does not serve a write it permits: the fill sets DIRTY. -/
def State.translate (s : State) (die part root : Nat) (acc : Access) (va : Nat) (core : Nat := 0) : Xlate × State :=
  let serves := fun (e : TlbEnt) => !isWrite acc || e.wr || (refused acc e.pte).isSome
  match tlbFind (s.tlb die) part va with
  | some e => if serves e then (e.answer s acc va, s) else s.fill die part root acc va core
  | none =>
    match tlbFind (s.tlb (pkgTlb va)) part va with
    | some e =>
      if serves e then
        match e.answer s acc va with
        | .ok pa => (.ok pa, (s.setCompanion die e.leaf (isWrite acc)).tlbFill die { e with wr := isWrite acc, core := core })
        | .bad f => (.bad f, s)
      else s.fill die part root acc va core
    | none => s.fill die part root acc va core

/-- Partitions that translate through a root (R320). -/
def State.rootParts (s : State) (root : Nat) : List Nat := (s.parts.filter (fun e => e.2.root == root)).map (·.1)

/-- Whether an address lies in the page that a shoot-down names (R330). -/
def inPage (v : BitVec 64) (all : Bool) (va : Nat) : Bool := all || va % 2 ^ 56 / 2 ^ lvlShift (fld v 57 56) = fld v 55 0 / 2 ^ lvlShift (fld v 57 56)

/-- Whether a shoot-down that is not complete names an address of a partition (R331). -/
def State.shooting (s : State) (part va : Nat) : Bool :=
  s.harts.any (fun e => e.2.busy && inPage e.2.shoot (e.2.shoot.getLsbD 62) va && (match e.2.part.bind s.part?, s.part? part with
    | some p, some q => p.root == q.root
    | _, _ => false))

/-- Translation for a partition by tag; `core` is the core that the entry of a cluster TLB is filled for. -/
def State.xlate (s : State) (die part : Nat) (acc : Access) (va : Nat) (core : Nat := 0) : Xlate × State :=
  s.translate die part ((s.part? part).getD {}).root acc va core

end Sys2Proof.Machine
end

