-- ==== Sys2Proof/Machine/Memory.lean ====
section
/-! DEFINITION. The path of a read and of a write to memory: directories and L1 states (R84 to R87),
lease copies (R88 to R91), hart signatures (R299 to R303), undo records (R366 to R374), watches (R218),
poison (R400), partition tags (R15, R422), and atomics (R92, R243). -/

namespace Sys2Proof.Machine


/-! ### Lines of an L1 and of an L2 slice (R84 to R86) -/

def State.l1Tags (s : State) (core : Nat) : List L1Line := (kget s.coh.tags core).getD []
def State.setTags (s : State) (core : Nat) (l : List L1Line) : State := s.setCoh { s.coh with tags := kset s.coh.tags core l }
/-- Whether an L1 holds a sector of a line. -/
def State.l1Live (s : State) (core : Nat) (x : L1Line) : Bool := (List.range 4).any (fun j => s.l1 core (4 * x.pline + j) != 0)

/-- The write-back of a sector that an L1 holds in M or O is translated by its cluster's TLB as a write (R85, R323). `keep` names a
core that keeps its copy and so writes nothing back. -/
def State.wbXlate (s : State) (sec : Nat) (keep : Option Nat) : State :=
  let d := s.dirEnt sec
  if d.state < 3 || 4 < d.state || keep == some d.owner then s
  else match (s.l1Tags d.owner).find? (fun x => x.pline == sec / 4) with
    | some x => (s.xlate (clusterOf d.owner) x.part .store (256 * x.vline) d.owner).2
    | none => s

/-- A write-back request of a core: an M or O copy goes to L2, its address translated (R85, R87). -/
def State.l1WriteBack (s : State) (core sector : Nat) : State := ((if 3 ≤ s.l1 core sector then s.wbXlate sector none else s).l1Drop core sector)

/-- A line leaves an L1; the write-back of a sector in M or O is translated as a write (R84, R85, R323). -/
def State.l1Evict (s : State) (core : Nat) (x : L1Line) : State :=
  let s := if (List.range 4).any (fun j => 3 ≤ s.l1 core (4 * x.pline + j)) then (s.xlate (clusterOf core) x.part .store (256 * x.vline) core).2 else s
  let s := (List.range 4).foldl (fun s j => s.l1Drop core (4 * x.pline + j)) s
  s.setTags core ((s.l1Tags core).filter (· != x))

/-- A line leaves L2 (R86, R218): every L1 copy of its sectors is invalidated, its directory entries and WATCH go, with a notice
where WATCH was set, and its lease copies are dropped. -/
def State.l2Evict (s : State) (line : Nat) : State :=
  (List.range 4).foldl (fun (s : State) j =>
    let sec := 4 * line + j
    let d := s.dirEnt sec
    if d.state = 5 then s
    else
      let s := (s.wbXlate sec none).dropCopies sec none
      let s := s.setCoh { s.coh with dir := kdel s.coh.dir sec, leases := kdel s.coh.leases sec }
      if d.watch then s.notice (.glob (64 * sec)) else s) (s.setCoh { s.coh with lines := kdel s.coh.lines line })

/-- Lines that an L2 slice holds. -/
def State.l2Held (s : State) (sl : Nat) : List Nat := (s.coh.lines.map (·.1)).filter (fun x => s.homeSlice (256 * x) == sl)
/-- Evicts `n` lines of a slice, which the spec leaves open: free values choose. -/
def State.l2Room (s : State) (sl : Nat) : Nat → State
  | 0 => s
  | n + 1 =>
    let (r, s) := s.draw
    let held := s.l2Held sl
    (match held[r.toNat % held.length]? with
      | some x => s.l2Evict x
      | none => s).l2Room sl n
/-- A line enters its L2 slice: a full slice first evicts lines until one more finds room (R1, R86); a slice that took over
the lines of a removed one can hold more than that (R405). -/
def State.l2Fill (s : State) (line : Nat) : State :=
  if (kget s.coh.lines line).isSome then s
  else
    let sl := s.homeSlice (256 * line)
    let s := s.l2Room sl ((s.l2Held sl).length + 1 - Config.l2Lines)
    s.setCoh { s.coh with lines := kset s.coh.lines line () }

/-- The line of an address gets a way in an L1: it first leaves every L1 of the cluster that holds it under another name (R85);
of 16 lines held in its set one is evicted, which the spec leaves open: a free value chooses (R84). -/
def State.l1Alloc (s : State) (core part va pa : Nat) : State :=
  let x : L1Line := { part := part, vline := va / 256, pline := pa / 256 }
  let s := (List.range 32).foldl (fun s k =>
    let c := 32 * clusterOf core + k
    ((s.l1Tags c).filter (fun y => y.pline == x.pline && y != x)).foldl (fun s y => s.l1Evict c y) s) s
  if (s.l1Tags core).contains x then s
  else
    let live := (s.l1Tags core).filter (s.l1Live core)
    let set := live.filter (fun y => y.vline % Config.l1Sets == x.vline % Config.l1Sets)
    let s := s.setTags core (x :: live)
    if set.length < Config.l1Ways then s
    else
      let (r, s) := s.draw
      s.l1Evict core (set.getD (r.toNat % set.length) x)

/-- Expiry of a lease copy in PTP time (R89). -/
def State.expiry (s : State) (sec : Nat) (l : Lease) : Nat := (sget s.coh.base (s.homeSlice (sec * 64))).toNat + 64 * l.off.toNat
/-- The lease copy that serves a load now, if any (R89). -/
def State.leaseHit (s : State) (sec : Nat) : Option Lease :=
  match kget s.coh.leases sec with
  | some l => if s.clock.now < s.expiry sec l then some l else none
  | none => none
def State.leaseLive (s : State) (sec : Nat) : Bool := (s.leaseHit sec).isSome

/-- The physical address of an access that its L1 serves without a translation (R84, R323): a read of a sector held, or a write
of one in M, so that the write's permission and DIRTY were met when the sector was gained (DEDUCED, log 77). -/
def State.l1Hit (s : State) (core part va : Nat) (wr : Bool) : Option Nat :=
  ((s.l1Tags core).find? (fun x => x.part == part && x.vline == va / 256)).bind (fun x =>
    let pa := 256 * x.pline + va % 256
    let st := s.l1 core (pa / 64)
    if st = 0 || (wr && st != 4) || (s.isPeer pa && !s.leaseLive (pa / 64)) then none else some pa)

/-- Translation of an access of a core's group: an L1 hit needs none; an atomic goes to its home (R92, R323). -/
def State.coreXlate (s : State) (core part : Nat) (acc : Access) (va : Nat) : Xlate × State :=
  match (if acc == .atomic then none else s.l1Hit core part va (isWrite acc)) with
  | some pa => (.ok pa, s)
  | none => s.xlate (clusterOf core) part acc va core

/-! ### Requests at the home directory (R87) -/

/-- A read request of a core at the home directory (R87). States: 0 I, 1 S, 2 E, 3 O, 4 M, 5 WINDOW; L1: 1 S,
2 E, 3 O, 4 M. -/
def State.dirRead (s : State) (core sec : Nat) : State :=
  let s := s.l2Fill (sec / 4)
  let d := s.dirEnt sec
  let bit := BitVec.ofNat 8 (2 ^ clusterOf core)
  let owner := d.owner
  match d.state with
  | 0 =>
    if d.watch then (s.setDir sec { d with state := 1, sharers := d.sharers ||| bit }).setL1 core sec 1
    else (s.setDir sec { d with state := 2, owner := core, sharers := d.sharers ||| bit }).setL1 core sec 2
  | 1 => (s.setDir sec { d with sharers := d.sharers ||| bit }).setL1 core sec 1
  | 2 => if owner == core then s.setL1 core sec 2
    else ((s.setDir sec { d with state := 1, sharers := d.sharers ||| bit }).downgrade owner sec).setL1 core sec 1
  | 4 => if owner == core then s
    else ((s.setDir sec { d with state := 3, sharers := d.sharers ||| bit }).setL1 owner sec 3).setL1 core sec 1
  | 3 => if owner == core then s else (s.setDir sec { d with sharers := d.sharers ||| bit }).setL1 core sec 1
  | _ => s

/-- An ownership request of a core (R87); with WATCH set the write is performed at the home and the requester
holds the sector in S. -/
def State.dirOwn (s : State) (core sec : Nat) : State :=
  let s := (s.l2Fill (sec / 4)).wbXlate sec (some core)
  let s := s.dropCopies sec none
  let d := s.dirEnt sec
  let bit := BitVec.ofNat 8 (2 ^ clusterOf core)
  if d.state = 5 then s
  else if d.watch then (s.setDir sec { d with state := 1, sharers := bit }).setL1 core sec 1
  else (s.setDir sec { d with state := 4, owner := core, sharers := bit }).setL1 core sec 4

/-- The home gains a sector for itself: every L1 copy is invalidated, an M or O one written back first (R85, R92, R297). -/
def State.dirTake (s : State) (sec : Nat) : State := (s.wbXlate sec none).homeTake sec

/-- A cached sector in M or E takes a store in L1 alone (R84). -/
def State.l1Store (s : State) (core sec : Nat) : State :=
  match s.l1 core sec with
  | 4 => s
  | 2 => (s.setL1 core sec 4).setDir sec { s.dirEnt sec with state := 4, owner := core }
  | _ => s.dirOwn core sec

/-! ### Lease copies of peer lines -/

/-- The slice rebased as R90 gives, as often as the time calls for. -/
def State.rebase (s : State) (slice : Nat) : State :=
  let b := (sget s.coh.base slice).toNat
  let n := s.clock.now
  if n < b + 2 ^ 15 * 64 then s
  else
    let k := ((n - b) / 64 - 2 ^ 15) / 2 ^ 14 + 1
    let keep := s.coh.leases.filter (fun e => s.homeSlice (e.1 * 64) != slice || k * 2 ^ 14 ≤ e.2.off.toNat)
    s.setCoh { s.coh with
      base := sset s.coh.base slice (BitVec.ofNat 64 (b + k * 2 ^ 14 * 64)),
      leases := keep.map (fun e => if s.homeSlice (e.1 * 64) = slice then (e.1, { e.2 with off := e.2.off - BitVec.ofNat 16 (k * 2 ^ 14) }) else e),
      l1 := s.coh.l1.filter (fun e => !s.isPeer (64 * (e.1 % 2 ^ 46)) || keep.any (fun l => l.1 == e.1 % 2 ^ 46)) }

/-- Fills a lease copy of one sector (R89, R428); unsynchronised packages fill none. -/
def State.leaseFill (s : State) (sec : Nat) : State :=
  if s.clock.unsync || s.isPoison (.glob (sec * 64)) then s
  else
    let sl := s.homeSlice (sec * 64)
    let s := s.rebase sl
    let w := s.clock.winLen
    let off := ((s.window + 2) * w - (sget s.coh.base sl).toNat) / 64
    let data := BitVec.ofNat 512 (ofBytes ((List.range 64).map (fun i => s.rawByte (.glob (sec * 64 + i)))))
    s.setCoh { s.coh with leases := kset s.coh.leases sec { data := data, off := BitVec.ofNat 16 off, early := s.clock.now % w < 128 } }

/-- A load that misses in L2 fetches the whole line of a peer package and records its lease: each sector of the line that
holds no lease copy gets one, and an expired copy goes first, with its L1 copies (R88, R89). -/
def State.leaseLine (s : State) (line : Nat) : State :=
  (List.range 4).foldl (fun s j => if s.leaseLive (4 * line + j) then s else (s.leaseDrop (4 * line + j)).leaseFill (4 * line + j)) (s.l2Fill line)

/-- A NODE-scope acquire invalidates the lease copies filled before N * W + 128 ns (R91). -/
def State.leaseAcquire (s : State) : State :=
  let lim := (s.window + 2) * s.clock.winLen
  let keep := fun (e : Nat × Lease) => lim < s.expiry e.1 e.2 || (s.expiry e.1 e.2 == lim && !e.2.early)
  s.setCoh { s.coh with leases := s.coh.leases.filter keep, l1 := s.coh.l1.filter (fun e => !s.isPeer (64 * (e.1 % 2 ^ 46)) ||
    s.coh.leases.any (fun l => l.1 == e.1 % 2 ^ 46 && keep l)) }

/-- The store's bytes go into a local lease copy in place (R88). -/
def State.leaseStore (s : State) (sec : Nat) (ws : List (Nat × Byte)) : State :=
  match kget s.coh.leases sec with
  | some l => s.setCoh { s.coh with leases := kset s.coh.leases sec { l with data := ws.foldl (fun d e => setFld d (8 * e.1) 8 e.2.toNat) l.data } }
  | none => s

/-! ### Partition tags -/

/-- The partition whose allocation holds a byte of a local space (R15). -/
def State.localTag (s : State) (core : Nat) (w : Bool) (off : Nat) : Option Nat :=
  (s.teams.find? (fun e => e.1 / 16 == core &&
    (if w then !e.2.out.getLsbD 1 && 4096 * e.2.wbase ≤ off && off < 4096 * (e.2.wbase + e.2.wsize)
     else !e.2.out.getLsbD 0 && 4096 * e.2.abase ≤ off && off < 4096 * (e.2.abase + e.2.asize)))).map (fun e => e.2.part)

/-- The tag of the state that a physical access reaches, if any (R15, R422). -/
def State.tagAt (s : State) : Place → Option Nat
  | .glob pa => kget s.mem.tags (pa / 256)
  | .aspc c o => s.localTag c false o
  | .wspc c o => s.localTag c true o

/-- Whether an access of the partition is a partition violation there (R422). -/
def State.tagBad (s : State) (part : Nat) (pa : Nat) : Bool :=
  match s.tagAt (s.locate pa) with
  | some q => q != part
  | none => false

/-- The line takes the tag of the first partition that touches it (log 13). -/
def State.touchTag (s : State) (part pa : Nat) : State :=
  if 64 ≤ part || s.isPeer pa || (kget s.mem.tags (pa / 256)).isSome || (kget s.coh.winLines (pa / 256)).isSome then s
  else s.setMem { s.mem with tags := kset s.mem.tags (pa / 256) part }

/-! ### The write of a sector at its home -/

/-- MASK of an undo record: the 4-byte words written (R370). -/
def wordMask (ws : List (Nat × Byte)) : BitVec 16 :=
  ws.foldl (fun m e => m ||| BitVec.ofNat 16 (2 ^ (e.1 / 4))) 0

/-- The write itself, once any undo record is made. A store that an L1 takes alone reaches no home slice (R84, R301). -/
def State.commitSector (s : State) (w : Writer) (core : Option Nat) (pa : Nat) (ws : List (Nat × Byte)) : State :=
  let sec := pa / 64
  let s := if s.isPeer pa then s.leaseStore sec ws
    else match core with
      | some c => if s.l1 c sec = 4 || s.l1 c sec = 2 then s.l1Store c sec else (s.conflict w.own pa true).l1Store c sec
      | none => (s.conflict w.own pa true).dirTake sec
  s.landed w sec ws

/-- Distinct elements, first occurrences kept. -/
def dedupPlaces : List Place → List Place
  | [] => []
  | a :: r => a :: (dedupPlaces r).filter (· != a)

/-- The sectors that a list of writes falls in, each with its bytes by offset (R98, R369). -/
def sectorsOf (l : List (Place × List Byte)) : List (Place × List (Nat × Byte)) :=
  let cells := l.flatMap (fun e => (List.range e.2.length).map (fun i => (e.1.add i, e.2.getD i 0)))
  (dedupPlaces (cells.map (fun c => c.1.sector))).map (fun sec => (sec, (cells.filter (fun c => c.1.sector == sec)).map (fun c => (c.1.inSector, c.2))))

/-! ### The undo log -/

/-- Where the log and the rings of a partition are written: translation as an Innkeeper write of I/O die 0. -/
def State.vaOf (s : State) (part va : Nat) (acc : Access := .innWrite) : Option Nat × State :=
  match s.xlate 8 part acc va with
  | (.ok pa, s) => (some pa, s)
  | (.bad _, s) => (none, s)

/-- The hardware's own write of one sector for a partition: no undo record, every other effect of a write (R87, R218, R301, R313,
R369). -/
def State.hwSector (s : State) (part : Nat) (p : Place) (ws : List (Nat × Byte)) : State :=
  match p with
  | .glob pa =>
    match s.locate pa with
    | .glob _ => if s.isGone pa then s.consume part (.glob pa)
      else (s.touchTag part pa).commitSector { part := part, kind := 3, undo := false } none pa ws
    | q => ((s.putSector q ws).notice q).notice (.glob (pa / 64 * 64))
  | q => (s.putSector q ws).notice q

/-- Hardware writes bytes that lie in one page; no undo record. `none`: the address does not translate, or it reaches state of
another partition, where the write is not performed (R12, R15, R422). -/
def State.hwPut (s : State) (part va : Nat) (bs : List Byte) : Option State :=
  match s.vaOf part va with
  | (some pa, s) =>
    if (List.range bs.length).any (fun i => s.tagBad part (pa + i)) then none
    else some ((sectorsOf [(.glob pa, bs)]).foldl (fun s e => s.hwSector part e.1 e.2) s)
  | (none, _) => none

/-- Writes a list of 16-byte units, each at its own address, if all translate. -/
def State.hwPuts (s : State) (part : Nat) : List (Nat × List Byte) → Option State
  | [] => some s
  | e :: r => match s.hwPut part e.1 e.2 with
    | some s => s.hwPuts part r
    | none => none

/-- The data area's size (R366). -/
def UndoLog.area (l : UndoLog) : Nat := l.size - 0x21000
/-- The window being written. -/
def UndoLog.cur (l : UndoLog) : Option LogWindow := l.wins.getLast?
/-- Bytes that the reachable windows hold (R374). -/
def UndoLog.used (l : UndoLog) : Nat := l.tail - ((l.wins.head?.map (·.snapOff)).getD l.tail)

/-- Discards oldest windows under RECYCLE until `n` bytes fit (R374). -/
def recycle (n area tail : Nat) : List LogWindow → Nat → List LogWindow × Nat
  | [], k => ([], k)
  | [w], k => ([w], k)
  | w :: x :: r, k => if tail + n - w.snapOff ≤ area then (w :: x :: r, k) else recycle n area tail (x :: r) (k + 1)

/-- Whether an item of `n` bytes fits the data area (R374). -/
def UndoLog.fits (l : UndoLog) (n : Nat) : Bool := l.used + n ≤ l.area

/-- The log once its policy has made what room it can for an item of `n` bytes: under RECYCLE the oldest windows are discarded until
the item fits or the current window alone is left (R374). -/
def UndoLog.room (l : UndoLog) (n : Nat) : UndoLog :=
  if l.fits n || l.policy = 0 then l
  else
    let (ws, k) := recycle n l.area l.tail l.wins 0
    { l with wins := ws, recycled := BitVec.ofNat 64 (min (2 ^ 64 - 1) (l.recycled.toNat + k)),
             recs := l.recs.filter (fun r => ws.any (fun w => w.num == r.win)) }

/-- The log header (R367). -/
def UndoLog.header (l : UndoLog) : BitVec 512 :=
  let old := l.wins.head?
  let cur := l.cur
  pack 512 [(0, 64, l.tail), (64, 64, (old.map (·.snapOff)).getD 0), (128, 32, (cur.map (·.num.toNat)).getD 0),
    (160, 32, (old.map (·.num.toNat)).getD 0), (192, 32, (cur.map (·.nrec)).getD 0), (224, 2, l.policy),
    (226, 1, l.on.toNat), (227, 1, l.full.toNat), (256, 64, l.recycled.toNat), (320, 64, l.area), (384, 32, l.auto)]

/-- A window directory entry (R368). -/
def LogWindow.entry (w : LogWindow) : BitVec 256 :=
  pack 256 [(0, 12, w.nrpc), (12, 12, w.nnet), (24, 12, w.nstor), (36, 12, w.npeer), (62, 1, w.sealed.toNat), (63, 1, 1),
    (64, 32, w.num.toNat), (96, 32, min (2 ^ 32 - 1) w.nrec), (128, 64, w.recOff), (192, 64, w.snapOff)]

/-- Addresses of `n` bytes of the data area from stream offset `off`, in 16-byte units (R366). -/
def UndoLog.spread (l : UndoLog) (off : Nat) : List Byte → Nat → List (Nat × List Byte)
  | _, 0 => []
  | bs, n + 1 => (l.base + 0x21000 + off % l.area, bs.take 16) :: l.spread (off + 16) (bs.drop 16) n

/-- The directory entries of windows that are no longer reachable are cleared (R374). -/
def State.dropDirs (s : State) (part : Nat) (old new : UndoLog) : State :=
  (old.wins.filter (fun w => !new.wins.contains w)).foldl (fun s w =>
    (s.hwPut part (old.base + 0x1000 + w.num.toNat % 4096 * 32) (toBytes 32 0)).getD s) s

def State.log? (s : State) (part : Nat) : Option UndoLog := (s.part? part).bind (·.log)
def State.setLog (s : State) (part : Nat) (l : UndoLog) : State := s.modPart part (fun p => { p with log := some l })

/-- Writes the header and the current window's directory entry (R367, R368). -/
def State.logHeader (s : State) (part : Nat) : State :=
  match s.log? part with
  | none => s
  | some l =>
    let s := match l.cur with
      | some w => (s.hwPut part (l.base + 0x1000 + w.num.toNat % 4096 * 32) (toBytes 32 w.entry.toNat)).getD s
      | none => s
    (s.hwPut part l.base (toBytes 64 l.header.toNat)).getD s

/-- Changes the current window's counts. -/
def UndoLog.modCur (l : UndoLog) (f : LogWindow → LogWindow) : UndoLog :=
  { l with wins := l.wins.dropLast ++ (l.cur.toList.map f) }

/-- Counts an effect that is not undone and seals the window (R373). -/
def State.sealWindow (s : State) (part : Nat) (f : LogWindow → LogWindow) : State :=
  match s.log? part with
  | some l => if l.on then (s.setLog part (l.modCur (fun w => { f w with sealed := true }))).logHeader part else s
  | none => s

/-- The partitions of the partition's debug session, or itself alone (R365, R373). -/
def State.sessionParts (s : State) (part : Nat) : List Nat :=
  match (s.part? part).bind (·.session) with
  | some i => ((kget s.dbg.sessions i).map (·.parts)).getD [part]
  | none => [part]

/-- The header of an undo record (R370). -/
def undoHeader (w : Writer) (sector : Nat) (mask : BitVec 16) (win : BitVec 32) : BitVec 128 :=
  pack 128 [(0, 31, win.toNat), (31, 1, w.hart.toNat), (32, 16, w.wpord), (48, 2, w.var), (50, 14, w.src), (64, 2, w.kind),
    (66, 16, mask.toNat), (82, 46, sector)]

/-- What becomes of the record of a write: appended or not needed, or the log is full and the write is held. -/
inductive UndoRes
  | go (s : State)
  | full (s : State)

/-- Appends the undo record of one sector write, before the write (R369, R370, R374, R441). -/
def State.undo (s : State) (w : Writer) (pa : Nat) (mask : BitVec 16) : UndoRes :=
  match s.log? w.part with
  | none => .go s
  | some l =>
    if !w.undo || !l.on || l.wins.isEmpty then .go s
    else if (w.va.map (fun v => l.base ≤ v && v < l.base + l.size)).getD false then .go s
    else
      let inside := match kget s.mem.tags (pa / 256) with
        | some q => !s.isPeer pa && (s.sessionParts w.part).contains q
        | none => false
      if !inside then .go (s.sealWindow w.part (fun x => { x with npeer := min 4095 (x.npeer + 1) }))
      else
        if l.full then .full s else
        let l' := l.room 80
        let s := s.dropDirs w.part l l'
        let l := l'
        match (if l.fits 80 then l.cur else none) with
        | some win =>
          let old := BitVec.ofNat 512 (ofBytes ((List.range 64).map (fun i => s.rawByte (.glob (pa + i)))))
          let bs := toBytes 16 (undoHeader w (pa / 64) mask win.num).toNat ++ toBytes 64 old.toNat
          match s.hwPuts w.part (l.spread l.tail bs 5) with
          | some s =>
            let l := { l with recs := { win := win.num, off := l.tail, sector := pa / 64, mask := mask, old := old } :: l.recs, tail := l.tail + 80 }
            let l := l.modCur (fun x => { x with nrec := x.nrec + 1 })
            let l := if l.auto != 0 && 2 ^ l.auto ≤ (l.cur.map (·.nrec)).getD 0 then { l with autoReq := true } else l
            .go ((s.setLog w.part l).logHeader w.part)
          | none => .full (((s.setLog w.part { l with full := true }).logHeader w.part).record 27 2 10 0 (some w.part) 0 1 (BitVec.ofNat 256 win.num.toNat))
        | none => .full ((s.setLog w.part { l with full := true }).logHeader w.part)

/-! ### Writes -/

/-- Writes bytes, given by offset, into one 64-byte sector: window forwarding, absent memory, the undo log and
poison as the rules give (R80, R369, R400, R425). The line takes the writer's tag with the write: the undo log tests the tag that
it carried before (R15, R373). `core` names an L1 through which the write goes. -/
def State.writeSector (s : State) (w : Writer) (core : Option Nat) (p : Place) (ws : List (Nat × Byte)) : State :=
  match p with
  | .glob pa =>
    match s.locate pa with
    | .glob _ =>
      if s.isGone pa then s.consume w.part (.glob pa)
      else
        match s.undo w pa (wordMask ws) with
        | .go s => (s.touchTag w.part pa).commitSector w core pa ws
        | .full s => s.modPart w.part (fun x => { x with log := x.log.map (fun l => { l with heldWr := l.heldWr ++ [{ by_ := w, pa := pa, ws := ws }] }) })
    | q => ((s.putSector q ws).notice q).notice (.glob (pa / 64 * 64))
  | q => (s.putSector q ws).notice q

/-- Whether a write that the full undo log holds back has reached the home of a sector: the home serves the requests for one
sector in order, so that every later access to it waits (R87, R374). -/
def State.logHeld (s : State) (pa : Nat) : Bool :=
  s.parts.any (fun e => (e.2.log.map (fun l => l.heldWr.any (fun h => h.pa / 64 == pa / 64))).getD false)

/-- The writes that full undo logs hold back. -/
def State.heldCount (s : State) : Nat := s.parts.foldl (fun n e => n + ((e.2.log.map (fun l => l.heldWr.length)).getD 0)) 0

/-- Whether the records of several writes that are to be performed as one all find room in the log (R305, R374). -/
def State.logFits (s : State) : List (Writer × Nat) → Bool
  | [] => true
  | (w, pa) :: r => match s.undo w pa 0 with
    | .go s => (s.touchTag w.part pa).logFits r
    | .full _ => false

/-- The log found full by one of the writes: the session halts, and nothing of the whole is performed (R298, R316, R374). -/
def State.logFull (s : State) (l : List (Writer × Nat)) : State :=
  let part := ((l.head?).map (fun e => e.1.part)).getD 64
  match l.findSome? (fun e => match s.undo e.1 e.2 0 with
    | .full t => some t
    | .go _ => none), s.log? part with
  | some t, _ => t
  | none, some l => (s.setLog part { l with full := true }).logHeader part
  | none, none => s

/-- Several writes of one instruction, in lane order: one write per sector (R98, R369). -/
def State.writeAll (s : State) (w : Writer) (core : Option Nat) (l : List (Place × List Byte)) : State :=
  (sectorsOf l).foldl (fun s e => s.writeSector w core e.1 e.2) s

/-- A write of consecutive bytes. -/
def State.write (s : State) (w : Writer) (core : Option Nat) (p : Place) (bs : List Byte) : State := s.writeAll w core [(p, bs)]

/-! ### Reads -/

/-- Coherence effects of a load of one sector (R84, R87, R88, R301): by a core of this package through its L1, or by another
agent at the home slice, which downgrades an M or E owner with its data (R312). -/
def State.loadEffects (s : State) (own : Option Nat) (core : Option Nat) (pa : Nat) : State :=
  match s.locate pa with
  | .glob _ =>
    if s.isGone pa then s
    else if s.isPeer pa then
      let s := if s.leaseLive (pa / 64) then s else s.leaseLine (pa / 256)
      match core with
      | some c => if s.leaseLive (pa / 64) then s.setL1 c (pa / 64) 1 else s
      | none => s
    else match core with
      | some c => if s.l1 c (pa / 64) = 0 then (s.conflict own pa false).dirRead c (pa / 64) else s
      | none => s.homeRead own pa
  | _ => s

/-- Whether an access with HINT `.L2` finds nothing in its core's L1 that would serve it, so that no L1 line is allocated (R240). -/
def State.l2Only (s : State) (l2 : Bool) (core pa : Nat) (wr : Bool) : Bool :=
  l2 && (if wr then s.l1 core (pa / 64) != 4 && s.l1 core (pa / 64) != 2 else s.l1 core (pa / 64) = 0)

/-- A load of a core's group: its line gets its way in L1 first (R84, R85), but with HINT `.L2`, which allocates in L2 only (R240), and
but for an access to a page that a shoot-down names, whose sectors leave every L1 (R331). -/
def State.coreLoad (s : State) (core part va pa : Nat) (l2 : Bool := false) : State :=
  match s.locate pa with
  | .glob _ =>
    if s.isGone pa then s
    else if s.l2Only (l2 || s.shooting part va) core pa false then (if s.isPeer pa then s else s.l2Fill (pa / 256)).loadEffects none none pa
    else (s.l1Alloc core part va pa).loadEffects none (some core) pa
  | _ => s

/-- A store of a core's group to a line homed in this package gains ownership of the sector first (R84, R301); with HINT `.L2` it
is made at the home (R240). -/
def State.coreOwn (s : State) (core part va pa : Nat) (l2 : Bool := false) : State :=
  match s.locate pa with
  | .glob _ =>
    if s.isGone pa || s.isPeer pa then s
    else if s.l2Only (l2 || s.shooting part va) core pa true then s.l2Fill (pa / 256)
    else
      let s := s.l1Alloc core part va pa
      (if s.l1 core (pa / 64) = 4 || s.l1 core (pa / 64) = 2 then s else s.conflict none pa true).l1Store core (pa / 64)
  | _ => s

/-- The bytes a load returns (R88, R89, R400): a valid lease copy first, else the coherent value. -/
def State.loadValue (s : State) (p : Place) (n : Nat) : List Byte :=
  match p with
  | .glob pa =>
    match s.locate pa with
    | .glob _ =>
      if s.isPeer pa then
        match s.leaseHit (pa / 64) with
        | some l => (List.range n).map (fun i => BitVec.ofNat 8 (fld l.data (8 * (pa % 64 + i) + 7) (8 * (pa % 64 + i))))
        | none => s.readBytes (.glob pa) n
      else s.readBytes (.glob pa) n
    | q => s.readBytes q n
  | q => s.readBytes q n

/-- Whether a load meets poison (R400); a lease copy is never poisoned (R427). -/
def State.loadPoison (s : State) (p : Place) (n : Nat) : Bool :=
  match p with
  | .glob pa =>
    match s.locate pa with
    | .glob _ => if s.isPeer pa && (s.leaseHit (pa / 64)).isSome then false else s.anyPoison (.glob pa) n
    | q => s.anyPoison q n
  | q => s.anyPoison q n

/-! ### Atomics -/

/-- The new value of an atomic, and its flags (R243, R245). -/
def atomicNew (op : Aop) (t : Typ) (old b new : Nat) : Option Nat × Flags :=
  match op with
  | .add => (some (iAdd t false old b 0).1, 0)
  | .min => (some (iMin t false old b 0).1, 0)
  | .max => (some (iMax t false old b 0).1, 0)
  | .and => (some (iAnd t false old b 0).1, 0)
  | .or => (some (iOr t false old b 0).1, 0)
  | .xor => (some (iXor t false old b 0).1, 0)
  | .exch => (some (b % 2 ^ t.width), 0)
  | .cas => (if old % 2 ^ t.width = b % 2 ^ t.width then some (new % 2 ^ t.width) else none, 0)
  | .fadd => let r := opFadd (Fmt.of .f32) .rne old b 0; (some r.1, r.2)

/-- What an atomic does to other copies before it is performed: the home gains the sector with every L1 copy invalidated, or the local
lease copy of a peer's sector goes as the packet is sent (R92, R301). -/
def State.atHome (s : State) (own : Option Nat) : Place → State
  | .glob pa =>
    if s.isGone pa then s
    else if s.isPeer pa then s.leaseDrop (pa / 64)
    else ((s.conflict own pa true).rowsDrop (pa / 64)).dirTake (pa / 64)
  | _ => s

/-- A core whose group made an atomic or a store at the home of a sector with WATCH set holds the sector in S (R87, R218). -/
def State.watchHold (s : State) (core part va : Nat) : Place → State
  | .glob pa =>
    if s.isGone pa || s.isPeer pa || !(s.dirEnt (pa / 64)).watch || (s.dirEnt (pa / 64)).state = 5 then s
    else
      let s := s.l1Alloc core part va pa
      let d := s.dirEnt (pa / 64)
      (s.setDir (pa / 64) { d with state := 1, sharers := d.sharers ||| BitVec.ofNat 8 (2 ^ clusterOf core) }).setL1 core (pa / 64) 1
  | _ => s

/-- Performs one atomic at the place of R92: the old value, its flags and whether it met poison (R243, R400). -/
def State.atomicAt (s : State) (w : Writer) (p : Place) (op : Aop) (t : Typ) (b new : Nat) : Nat × Flags × Bool × State :=
  let q := match p with
    | .glob pa => s.locate pa
    | q => q
  let s := s.atHome w.own q
  if s.anyPoison q t.bytes then
    (0, fPOISON, true, s.consume w.part q)
  else
    let old := ofBytes (s.readBytes q t.bytes)
    let r := atomicNew op t old b new
    match r.1 with
    | some x => (old, r.2, false, s.write w none p (toBytes t.bytes x))
    | none => (old, r.2, false, s)

end Sys2Proof.Machine
end

