-- ==== Sys2Proof/Machine/Reply.lean ====
section
/-! DEFINITION. Replies of the RPC service, events of debug sessions, and posting to rings in memory
(R225, R328, R329, R351 to R354, R379, R382, R447). -/

namespace Sys2Proof

/-- Fields of a request header (R352). -/
def Rpc.part (r : Rpc) : Nat := fld r.hdr 5 0
def Rpc.len (r : Rpc) : Nat := fld r.hdr 47 36
def Rpc.opcode (r : Rpc) : Nat := fld r.hdr 63 48
/-- Slot i of the body; 0 beyond its end. -/
def Rpc.slot (r : Rpc) (i : Nat) : BitVec 64 := r.body.getD i 0

end Sys2Proof

namespace Sys2Proof.Machine

/-- DETAIL of a reply that refuses no field (R353). -/
def noDetail : BitVec 64 := 0xFFFFFFFFFFFFFFFF

/-- Sends the reply of a request (R352 to R354, R356), of at most 4,080 body bytes: REQID, OPCODE and PART are echoed. A code other
than 0 puts the session into its error state (R398); a reply to a session that is lost or in its error state is discarded (R354,
R436); a reply for a logging partition is counted (R373). -/
def State.reply (s : State) (r : Rpc) (code : Nat) (detail : BitVec 64) (res : List (BitVec 64)) : State :=
  match kget s.rpc.sessions r.session with
  | none => s
  | some ses =>
    if ses.err then s
    else
    let body := detail :: res.take 509
    let hdr := pack 128 [(64, 64, fld r.hdr 127 64), (48, 16, r.opcode), (36, 12, 8 * body.length), (32, 4, 1), (24, 8, code), (16, 1, 1), (0, 6, r.part)]
    let s := s.setRpc { s.rpc with
      replies := s.rpc.replies ++ [{ session := r.session, hdr := hdr, body := body }],
      sessions := if code = 0 then s.rpc.sessions else kset s.rpc.sessions r.session { ses with err := true } }
    if r.opcode = 0x0001 || r.opcode = 0x0011 then s else s.sealWindow r.part (fun w => { w with nrpc := min 4095 (w.nrpc + 1) })

/-- A reply of success. -/
def State.ok (s : State) (r : Rpc) (res : List (BitVec 64)) : State := s.reply r 0 noDetail res
/-- A field of a request body that starts within a slot, by its byte offset; a number below 4,096 names the field that starts a
slot (R353). -/
def atByte (n : Nat) : Nat := 4096 + n
/-- Byte offset of a field in a request body (R353). -/
def fieldOffset (n : Nat) : Nat := if n < 4096 then 8 * n else n - 4096
/-- DETAIL of a refusal: the byte offset of the refused field (R353). -/
def detailOf (field : Option Nat) : BitVec 64 := (field.map (fun n => BitVec.ofNat 64 (fieldOffset n))).getD noDetail
/-- A refusal: code, and the refused field. -/
def State.refuse (s : State) (r : Rpc) (code : Nat) (field : Option Nat := none) : State := s.reply r code (detailOf field) []

/-- The results of a WAITEV reply: event code, coreid, slot, ordinal, and the events lost (R379). -/
def eventResult (code core slot ord lost : Nat) : List (BitVec 64) :=
  [BitVec.ofNat 64 code, BitVec.ofNat 64 core, BitVec.ofNat 64 slot, BitVec.ofNat 64 ord, BitVec.ofNat 64 lost]

/-- Whether a waiting request is a WAITEV (R379). -/
def Waiting.isWaitev (w : Waiting) : Bool := w.req.opcode == 0x000B && fld (w.req.slot 0) 15 0 == 0x000D

/-- A session event: every waiting WAITEV of the session replies, else the event is queued (R379). -/
def State.sessionEvent (s : State) (ses code core slot ord : Nat) : State :=
  match kget s.dbg.sessions ses with
  | none => s
  | some d =>
    let mine := s.rpc.waiting.filter (fun w => w.isWaitev && w.dbg == ses)
    if mine.isEmpty then
      if d.events.length < 256 then s.setDbg { s.dbg with sessions := kset s.dbg.sessions ses { d with events := d.events ++ [(code, core, slot, ord)] } }
      else s.setDbg { s.dbg with sessions := kset s.dbg.sessions ses { d with lost := d.lost + 1 } }
    else
      let s := s.setRpc { s.rpc with waiting := s.rpc.waiting.filter (fun w => !(w.isWaitev && w.dbg == ses)) }
      let s := s.setDbg { s.dbg with sessions := kset s.dbg.sessions ses { d with lost := 0 } }
      mine.foldl (fun s w => s.ok w.req (eventResult code core slot ord d.lost)) s

/-- An event of the debug session of a partition, if it has one. -/
def State.partEvent (s : State) (part code core slot ord : Nat) : State :=
  match (s.part? part).bind (·.session) with
  | some ses => s.sessionEvent ses code core slot ord
  | none => s

/-- A session event that concerns no group: the spec gives its core, slot and ordinal no value (R379). -/
def State.plainEvent (s : State) (ses code : Nat) : State :=
  let x := s.draw
  x.2.sessionEvent ses code (fld x.1 7 0) (fld x.1 13 8) (fld x.1 31 16)

/-- Whether a waiting request is the sub-operation `n` of DEBUG for a session. -/
def Waiting.isDebug (w : Waiting) (ses n : Nat) : Bool := w.req.opcode == 0x000B && fld (w.req.slot 0) 15 0 == n && w.dbg == ses

/-- Whether every group of the partitions is parked or halted. -/
def State.allStopped (s : State) (parts : List Nat) : Bool := s.groups.all (fun e => !parts.contains e.2.part || e.2.st != .running)

/-- A halt that is awaited is complete once every group of the session has stopped: event 4, and the replies (R376, R379). -/
def State.haltDone (s : State) (part : Nat) : State :=
  match (s.part? part).bind (·.session) with
  | none => s
  | some ses =>
    match kget s.dbg.sessions ses with
    | none => s
    | some d =>
      if !d.want || !s.allStopped d.parts then s
      else
        let s := s.setDbg { s.dbg with sessions := kset s.dbg.sessions ses { d with want := false, halted := true } }
        let mine := s.rpc.waiting.filter (fun w => w.isDebug ses 6)
        let s := s.setRpc { s.rpc with waiting := s.rpc.waiting.filter (fun w => !w.isDebug ses 6) }
        (mine.foldl (fun s w => s.ok w.req []) s).plainEvent ses 4

/-! ### Rings in memory -/

/-- What became of a posting. -/
inductive PostRes
  | posted (s : State)
  | full (s : State)
  | unmapped (s : State)

/-- Reads a 64-bit word by virtual address, if it translates. -/
def State.hwWord (s : State) (part va : Nat) : Option (Nat × State) :=
  match s.vaOf part va .innRead with
  | (some pa, s) => some (ofBytes (s.readBytes (s.locate pa) 8), s)
  | (none, _) => none

/-- Posts one 64-byte record (R225, R329, R382, R447). HEAD lies `headOff` bytes before the header. The
reservation, the record and the advance of TAIL are one step here, so RESV and TAIL stay equal. `resv` says
whether the header has a RESV word. -/
def State.ringPost (s : State) (part : Nat) (r : Ring) (headOff : Nat) (resv : Bool) (rec : Nat → BitVec 512) : PostRes :=
  match s.hwWord part (r.base - headOff) with
  | none => .unmapped s
  | some (head, s1) =>
    match s1.hwWord part r.base with
    | none => .unmapped s
    | some (tail, s2) =>
      if 2 ^ r.n ≤ (tail + 2 ^ 64 - head) % 2 ^ 64 then .full s2
      else
        let hdr := toBytes 8 (tail + 1) ++ (if resv then toBytes 8 (tail + 1) else [])
        match s2.hwPuts part [(r.base + 64 + tail % 2 ^ r.n * 64, toBytes 64 (rec tail).toNat), (r.base, hdr)] with
        | some s3 => .posted s3
        | none => .unmapped s

/-- Sets OVF and adds to OVFCOUNT in the fault ring's header (R328), once it translates (R447). -/
def State.overflow (s : State) (part : Nat) : State :=
  match s.part? part with
  | none => s
  | some p =>
    let n := p.ovfPend
    if n = 0 then s
    else match s.hwWord part (p.fring.base + 16) with
      | none => s
      | some (w, s1) =>
        let c := min (2 ^ 32 - 1) (w % 2 ^ 32 + n)
        match s1.hwPuts part [(p.fring.base + 16, toBytes 4 c), (p.fring.base + 24, [1])] with
        | some s2 => s2.modPart part (fun p => { p with ovfPend := 0 })
        | none => s

/-- Sets SEQ of a fault record (R329). -/
def withSeq (rec : BitVec 512) (n : Nat) : BitVec 512 := setFld rec 448 64 n

/-- Tries to post one fault record. -/
def State.faultPost (s : State) (part : Nat) (rec : BitVec 512) : Bool × State :=
  match s.part? part with
  | none => (true, s)
  | some p =>
    match s.ringPost part p.fring 8 true (fun _ => withSeq rec p.fseq) with
    | .posted s => (true, s.modPart part (fun p => { p with fseq := p.fseq + 1 }))
    | .full s => (false, s)
    | .unmapped s => (false, s)

/-- Posts the held records of one die, in order, each partition's apart (R329). The first 32 are the hold list;
later ones wait for a place and count as held when they get one. -/
def drainHold (die : Nat) : List (Nat × BitVec 512) → List Nat → State → State
  | [], _, s => s
  | (part, rec) :: r, stuck, s =>
    let (ok, s') := if stuck.contains part then (false, s) else s.faultPost part rec
    if ok then drainHold die r stuck s'
    else drainHold die r (part :: stuck) (s'.modCluster die (fun c => { c with hold := c.hold ++ [(part, rec)] }))

/-- The hold list of a die is drained as far as the rings take it (R329, R447): the first 32 are held, and those behind them that
then find a place in the list are held from now on, and counted. -/
def State.drainFaults (s : State) (die : Nat) : State :=
  let l := (s.cluster die).hold
  let s := drainHold die (l.take 32) [] (s.modCluster die (fun c => { c with hold := [] }))
  let left := (s.cluster die).hold
  let s := drainHold die (l.drop 32) (left.map (·.1)) s
  let entered := ((s.cluster die).hold.drop left.length).take (32 - left.length)
  let s := entered.foldl (fun s e => s.modPart e.1 (fun p => { p with ovfPend := p.ovfPend + 1 })) s
  ((l.map (·.1)).dedup).foldl (fun s p => s.overflow p) s

/-- Posts a new fault record of a die, behind those it holds for the same partition (R329). A replay meets a page that is not in
the capture where a page has no entry (R384). -/
def State.postFault (s : State) (die part : Nat) (rec : BitVec 512) : State :=
  let s := s.modPart part (fun p => if p.scratch && p.diverged.isNone && fld rec 135 128 == 1 && !rec.getLsbD 320 then { p with diverged := some (fld rec 55 0) } else p)
  let s := s.drainFaults die
  let held := (s.cluster die).hold
  let (ok, s) := if held.any (fun e => e.1 == part) then (false, s) else s.faultPost part rec
  if ok then s
  else
    let s := s.modCluster die (fun c => { c with hold := c.hold ++ [(part, rec)] })
    if held.length < 32 then (s.modPart part (fun p => { p with ovfPend := p.ovfPend + 1 })).overflow part else s

/-- Adds a record to a cluster's trace buffer (R381, R382, R442): 2 MiB hold 32,768 records; a record that
finds no space drops the oldest, which is counted in DROP. -/
def State.traceRecord (s : State) (cluster part : Nat) (rec : BitVec 512) : State :=
  let s := if (s.cluster cluster).trace.length < 32768 then s
    else match (s.cluster cluster).trace with
      | (p, _) :: r => (s.modCluster cluster (fun c => { c with trace := r })).modPart p (fun x => { x with drop := x.drop + 1 })
      | [] => s
  s.modCluster cluster (fun c => { c with trace := c.trace ++ [(part, rec)] })

end Sys2Proof.Machine
end

