-- ==== Sys2Proof/Machine/Ops.lean ====
section
/-! DEFINITION. Operations on a group that many meanings share: registers, waypoints, barriers, aborts of
transactions, the region-entry stop (R41), parks (R344, R406), entry to and return from the user-trap
handler (R336, R227), the end of a group (R25), rendezvous arrivals (R213), page faults (R326). -/

namespace Sys2Proof.Machine

/-! ### Registers -/

/-- Vector register r in lane l (R30). -/
def Group.vr (g : Group) (r l : Nat) : BitVec 32 := sget g.v (32 * r + l)
/-- Scalar register r. -/
def Group.sr (g : Group) (r : Nat) : BitVec 64 := sget g.s r
/-- Predicate register r; p0 reads all ones (R30). -/
def Group.pr (g : Group) (r : Nat) : LaneMask := if r = 0 then 0xFFFFFFFF else sget g.p r

/-- Writes lanes of vector registers: the values a matrix operation may still read are kept (R112). -/
def Group.putV (g : Group) (l : List (Nat × BitVec 32)) : Group :=
  { g with v := ssets g.v l,
           oldv := l.foldl (fun o e => if (kget o e.1).isSome then o else kset o e.1 (sget g.v e.1)) g.oldv }
def Group.putS (g : Group) (r : Nat) (x : BitVec 64) : Group := { g with s := sset g.s r x }
/-- Writes a predicate register; a write to p0 is discarded (R144). -/
def Group.putP (g : Group) (r : Nat) (x : LaneMask) : Group := if r = 0 then g else { g with p := sset g.p r x }
/-- Sets the value of a per-lane word in the lanes of a mask. -/
def setLanes (m : SMap 32) (mask : LaneMask) (f : Nat → BitVec 32) : SMap 32 := ssets m ((lanesOf mask).map (fun l => (l, f l)))
def Group.addFlags (g : Group) (f : Flags) : Group := { g with sflags := orFlags g.sflags f }

/-- Lanes waiting at a REJOIN. -/
def Group.rejoining (g : Group) : LaneMask := g.rwait.foldl (fun m e => m ||| e.2) 0
/-- Lanes that are eligible (R24). -/
def Group.eligible (g : Group) : LaneMask := ~~~(g.exited ||| g.rejoining ||| g.mwait ||| g.yielded)
def Group.live (g : Group) : LaneMask := ~~~g.exited
def minOf : List Nat → Nat
  | [] => 0
  | [a] => a
  | a :: r => min a (minOf r)
/-- pc_min of R24 over a set of lanes. -/
def Group.pcMin (g : Group) (m : LaneMask) : Nat := minOf ((lanesOf m).map (fun l => (sget g.pcv l).toNat))
/-- Lanes of a set whose counter is `pc`. -/
def Group.lanesAt (g : Group) (m : LaneMask) (pc : Nat) : LaneMask := maskOf ((lanesOf m).filter (fun l => (sget g.pcv l).toNat == pc))

/-! ### Images and waypoints -/

def State.image? (s : State) (part h : Nat) : Option Image := (s.part? part).bind (fun p => kget p.images h)
def State.variant? (s : State) (part img var : Nat) : Option Variant := (s.image? part img).bind (fun i => i.vars[var]?)
def State.gvar? (s : State) (g : Group) : Option Variant := s.variant? g.part g.image g.var

/-- Ordinal and entry of the waypoint at an offset (R33, R168). -/
def findWp : List Waypoint → Nat → Nat → Option (Nat × Waypoint)
  | [], _, _ => none
  | w :: r, n, off => if w.offs = off then some (n, w) else findWp r (n + 1) off
def Variant.wpAt (v : Variant) (off : Nat) : Option (Nat × Waypoint) := findWp v.wps 0 off

/-- Region-entry ordinal of a lane; 0xFFFF where no waypoint stands (R37). -/
def State.regionOrd (s : State) (g : Group) (lane : Nat) : Nat :=
  match (s.gvar? g).bind (fun v => v.wpAt (sget g.epcv lane).toNat) with
  | some (n, _) => n
  | none => 0xFFFF

def lowest (m : LaneMask) : Nat := (lanesOf m).headD 0

/-- The region entry of lanes moves: they leave the region in which they executed a MONITOR (R37, R40, R217). -/
def Group.setEntry (g : Group) (m : LaneMask) (f : Nat → BitVec 32) : Group :=
  { g with epcv := setLanes g.epcv m f, watch := { g.watch with lanes := g.watch.lanes &&& ~~~m, keep := g.watch.keep &&& ~~~m } }

/-- Lanes pass a waypoint: at kind E or S they enter its region (R37). -/
def Group.enterRegion (g : Group) (kind : Nat) (m : LaneMask) (off : Nat) : Group :=
  if kind ≤ 1 then g.setEntry m (fun _ => BitVec.ofNat 32 off) else g

/-- The writer of a group's stores and atomics (R370). -/
def groupWriter (gk : Nat) (g : Group) (wpord : Nat) (va : Option Nat := none) : Writer :=
  { part := g.part, kind := 0, src := coreOf gk * 64 + slotOf gk, var := g.var, wpord := wpord, va := va }

/-- coreid, slot and cluster in a park id (R327). The core's logical number is below 32, so a park id with bit 11 set names no
group and no command. -/
def parkId (gk : Nat) : Nat := clusterOf (coreOf gk) * 4096 + coreOf gk % 32 * 64 + slotOf gk

/-! ### Barriers and waits -/

/-- The release test of R27 for one barrier. -/
def Group.release1 (g : Group) (b : Nat) : Group :=
  let m := sget g.rmask b &&& g.live
  let w := sget g.rwait b
  if m &&& ~~~w = 0 then
    { g with pcv := setLanes g.pcv w (fun l => sget g.pcv l + 8), rwait := sset g.rwait b 0, rmask := sset g.rmask b 0 }
  else { g with rmask := sset g.rmask b m }
/-- The release test of every barrier (R27). -/
def Group.releaseAll (g : Group) : Group := (List.range 8).foldl (fun g b => g.release1 b) g

/-- Ends the wait of the lanes in MWAIT (R219). Where the group then stands elsewhere, it no longer stalls where it stood. -/
def Group.wake (g : Group) : Group :=
  let h : Group := { g with pcv := setLanes g.pcv g.mwait (fun l => sget g.pcv l + 8), mwait := 0, mwaitEnd := none }
  { h with stamp := if h.pcMin h.eligible = g.pcMin g.eligible then g.stamp else none }

/-- Marks lanes exited (R25, R27, R338). -/
def Group.exit (g : Group) (m : LaneMask) : Group :=
  { g with exited := g.exited ||| m, hmask := if g.handler then g.hmask &&& ~~~m else g.hmask,
           mwait := g.mwait &&& ~~~m, yielded := g.yielded &&& ~~~m, rwait := ssets [] (g.rwait.map (fun (e : Nat × BitVec 32) => (e.1, e.2 &&& ~~~m))) }.releaseAll

/-! ### Transactions of lanes -/

/-- Frees the log entries and sectors of a lane (R296). -/
def State.dropTx (s : State) (gk l : Nat) : State :=
  s.modCore (coreOf gk) (fun c => { c with
    rlog := c.rlog.filter (fun e => !(e.gslot == slotOf gk && e.lane == l)),
    tsec := c.tsec.filter (fun e => !(e.gslot == slotOf gk && e.lane == l)) })

/-- The group gives the serial token back once no lane has SERIAL (R250). -/
def State.tokenBack (s : State) (gk : Nat) : State :=
  match s.group? gk with
  | some g => if g.serial = 0 && s.tix.token == some (.group gk) then s.setTix { s.tix with token := none } else s
  | none => if s.tix.token == some (.group gk) then s.setTix { s.tix with token := none } else s

/-- A group that waits for the serial token gives up its place (R256). -/
def State.unask (s : State) (gk : Nat) : State := s.setTix { s.tix with tokReqs := s.tix.tokReqs.filter (fun r => r.who != .group gk) }

/-- abort_lane of R250. -/
def State.abortLane (s : State) (gk l cause code : Nat) : State :=
  (s.dropTx gk l).modGroup gk (fun g =>
    let n := if cause = 9 then (sget g.txCount l).toNat else min 15 ((sget g.txCount l).toNat + 1)
    let b := ~~~laneBit l
    { g with intx := g.intx &&& b, serial := g.serial &&& b, doomed := g.doomed &&& b,
             txCount := sset g.txCount l (BitVec.ofNat 4 n), txStatus := sset g.txStatus l (txWord cause code n false false false),
             pcv := sset g.pcv l (sget g.txLabel l) : Group }.setEntry (laneBit l) (fun _ => sget g.txLabel l))

/-- Aborts lanes at one event: each with its cause and code; `txcause` names them (R253). -/
def State.abortLanes (s : State) (gk : Nat) (l : List (Nat × Nat × Nat)) : State :=
  match l with
  | [] => s
  | a :: _ =>
    let s := l.foldl (fun s e => s.abortLane gk e.1 e.2.1 e.2.2) s
    let s := s.modGroup gk (fun g => { g with txcause := pack 64 [(0, 8, a.2.1), (8, 8, a.2.2), (32, 32, (maskOf (l.map (·.1))).toNat)] })
    s.tokenBack gk

/-! ### Accesses in flight -/

/-- Whether an access in flight reaches state of another partition (R422). -/
def State.opBad (s : State) (g : Group) (o : MemOp) : Bool :=
  o.accs.any (fun a => match a.place with
    | .glob pa => s.tagBad g.part pa
    | _ => false)

/-- The location an access names: a window access names the scratchpad byte (R95). -/
def State.norm (s : State) : Place → Place
  | .glob pa => s.locate pa
  | p => p

/-- Whether two ranges of places share a byte. -/
def overlap (p : Place) (n : Nat) (q : Place) (m : Nat) : Bool :=
  match p, q with
  | .glob a, .glob b => a < b + m && b < a + n
  | .aspc c a, .aspc d b => c == d && a < b + m && b < a + n
  | .wspc c a, .wspc d b => c == d && a < b + m && b < a + n
  | _, _ => false

/-- Lanes in whose program order an access lies (R235). -/
def accMask (o : MemOp) (a : Acc) : LaneMask := if o.scalar || o.accs.length = 1 then o.exe else laneBit a.lane

/-- Whether the range scoreboard of the core that holds the bytes stalls an access (R83); `after` says of a command whether the
access was issued before it, so that it does not wait for the command (R108). -/
def State.scoredAt (s : State) (p : Place) (n : Nat) (store : Bool) (after : EngCmd → Bool) : Bool :=
  let f := fun (core : Nat) (w : Bool) (off : Nat) => (s.core core).rsb.any (fun r =>
    r.wSpace == w && r.lo < off + n && off < r.hi && (r.dest || store) &&
    match r.cmd with
    | none => false
    | some (ic, e) => match (s.core ic).eq.find? (fun c => c.entry == e) with
      | some c => !after c
      | none => false)
  match s.norm p with
  | .glob _ => false
  | .aspc c off => f c false off
  | .wspc c off => f c true off

/-- Whether the range scoreboard stalls an access in flight of a group (R83). -/
def State.scored (s : State) (gk : Nat) (o : MemOp) (a : Acc) (store : Bool) : Bool :=
  s.scoredAt a.place a.size store (fun c => c.gk == gk && o.id < c.issued)

/-- Whether a home still holds the access back: a write before it waits there for log space (R374). -/
def State.homeHolds (s : State) (p : Place) : Bool :=
  match s.norm p with
  | .glob pa => s.logHeld pa
  | _ => false

/-- The accesses of an instruction that fall in a sector. -/
def MemOp.inSector (o : MemOp) (p : Place) : List Acc := o.accs.filter (fun a => a.place.sector == p.sector)

/-- The writer of a sector of an instruction's stores: its lowest lane there (R369, R370). -/
def MemOp.sectorWriter (o : MemOp) (gk : Nat) (g : Group) (p : Place) : Writer :=
  let a := (o.inSector p).head?
  groupWriter gk g ((a.map (fun a => sget o.ords a.lane)).getD 0).toNat (a.map (fun a => a.va.toNat))

/-- One sector of the stores of an instruction: of a line homed in this package the core gains the sector first (R84), but with HINT
`.L2` (R240). Its record names the waypoint, and the address, of the lowest lane that writes the sector (R369, R370). -/
def State.storeSector (s : State) (gk : Nat) (g : Group) (o : MemOp) (p : Place) (ws : List (Nat × Byte)) : State :=
  let a := (o.inSector p).head?
  let w := o.sectorWriter gk g p
  match p with
  | .glob pa =>
    let l2 := s.l2Only (o.l2 || s.shooting g.part ((a.map (fun a => a.va.toNat)).getD 0)) (coreOf gk) pa true
    (s.coreOwn (coreOf gk) g.part ((a.map (fun a => a.va.toNat)).getD 0) pa o.l2).writeSector w (if l2 then none else some (coreOf gk)) p ws
  | p => s.writeSector w none p ws

/-- The farther of two of the memories that LEVEL numbers (R381): the own local spaces, 7, are nearer than the L1. -/
def farther (a b : Nat) : Nat :=
  let d := fun (x : Nat) => if x = 0 then 0 else if x = 7 then 1 else x + 1
  if d a < d b then b else a

/-- The memory that an access of a core reaches (R381): through its L1, or at the home slice (`home`). -/
def State.levelOf (s : State) (core : Nat) (home : Bool) (p : Place) : Nat :=
  match s.norm p with
  | .aspc c _ | .wspc c _ => if c = core then 7 else 2
  | .glob pa =>
    let sec := pa / 64
    if !home && s.l1 core sec != 0 && (!s.isPeer pa || s.leaseLive sec) then 1
    else if !home && (List.range 32).any (fun k => s.l1 (32 * clusterOf core + k) sec != 0) && !s.isPeer pa then 2
    else if s.isPeer pa then (if !home && s.leaseLive sec then 3 else 6)
    else if (kget s.coh.lines (pa / 256)).isSome then 3
    else if inHbm pa then 4 else 5

/-- The farthest memory that an instruction which Firefly tagged has reached (R381). -/
def State.fireLevel (s : State) (gk tk id lvl : Nat) : State :=
  s.modCore (coreOf gk) (fun c => { c with fireTag := c.fireTag.map (fun t => if t.gk = gk && t.tk = tk && t.id = id then { t with lvl := farther t.lvl lvl } else t) })

/-- What the accesses of an instruction reach, noted as they are performed (R381). -/
def State.fireReach (s : State) (gk : Nat) (g : Group) (o : MemOp) (home : Bool) : State :=
  if (s.core (coreOf gk)).fireTag.isEmpty then s
  else s.fireLevel gk (g.tk gk) o.id (o.accs.foldl (fun n a => farther n (s.levelOf (coreOf gk) home a.place)) 0)

/-- Performs the stores of an instruction in ascending lane order (R98, R236), one write per sector (R369). -/
def State.performStore (s : State) (gk : Nat) (g : Group) (o : MemOp) : State :=
  (sectorsOf (o.accs.map (fun a => (a.place, toBytes a.size a.data.toNat)))).foldl (fun s e => s.storeSector gk g o e.1 e.2) (s.fireReach gk g o false)

/-- The accesses in flight at a region-entry stop (R40, R41): a store completes; what the scoreboard (R83) or an earlier
such access holds, and a release that has left the core (R116), is left to complete before the stop has been taken; loads and
uncommitted releases and atomics are discarded, and so is a store to another partition's state (R422). -/
def State.settleOps (s : State) (gk : Nat) (g : Group) : List MemOp → List MemOp → List MemOp × State
  | [], left => (left, s)
  | o :: r, left =>
    match o.kind, o.sent with
    | .store, _ =>
      if s.opBad g o then s.settleOps gk g r left
      else if o.accs.any (fun a => s.scored gk o a true ||
          left.any (fun p => p.accs.any (fun b => overlap (s.norm a.place) a.size (s.norm b.place) b.size)))
      then s.settleOps gk g r (left ++ [o])
      else (s.performStore gk g o).settleOps gk g r left
    | .release, some _ => s.settleOps gk g r (left ++ [o])
    | _, _ => s.settleOps gk g r left

/-- What a region-entry stop does with the accesses in flight: `lc` is 0, and `sc` counts those still to complete. -/
def State.settle (s : State) (gk : Nat) (g : Group) : State :=
  let (left, s) := s.settleOps gk g g.ops []
  let lost := g.ops.filter (fun o => o.kind != .store && !(o.kind == .release && o.sent.isSome))
  let s := s.modCore (coreOf gk) (fun c => { c with fireTag := c.fireTag.map (fun t => if t.gk = gk && t.tk = g.tk gk && lost.any (fun o => o.id == t.id && o.opc == t.op) then { t with cancel := true } else t) })
  s.modGroup gk (fun g => { g with ops := left, lc := 0, sc := left.length })

/-! ### Stops -/

/-- Whether an accepted matrix operation is the group's that stands in slot `gk`, and not that of an evicted group which stood there
(R67, R274). -/
def State.matOf (s : State) (gk : Nat) (m : MatOp) : Bool := m.gk == gk && ((s.group? gk).map (fun g => g.tk gk)) == some m.tk

/-- Matrix operations of a group stop at their next step boundary; an LDMETA never does (R274). Their choices between
old and new words are made anew. -/
def State.stopOps (s : State) (gk : Nat) : State :=
  let n := s.clock.free
  (s.modCore (coreOf gk) (fun c => { c with mq := c.mq.map (fun m =>
    if s.matOf gk m && m.kind != .ldmeta then { m with stopped := true, pick := n } else m) })).setClock { s.clock with free := n + 2 ^ 21 }

/-- Stopped matrix operations go on when their group resumes (R274). -/
def State.resumeOps (s : State) (gk : Nat) : State :=
  s.modCore (coreOf gk) (fun c => { c with mq := c.mq.map (fun m => if s.matOf gk m then { m with stopped := false } else m) })

/-- Writes an event-queue entry, or keeps it waiting while all 64 are unread (R341). -/
def State.queueEvent (s : State) (core slot event : Nat) : State :=
  s.modCore core (fun c =>
    if c.evTail - c.evHead < 64 && c.evPend.isEmpty then
      { c with evq := sset c.evq (c.evTail % 64) (BitVec.ofNat 64 (event * 256 + slot)), evTail := c.evTail + 1 }
    else { c with evPend := c.evPend ++ [(slot, event)] })

/-- Whether the stop of an EVENT is a precise stop at a waypoint, and so the stop that a HALT or a STEP asked for (R344, R345). -/
def atWaypoint (event : Nat) : Bool := event == 2 || event == 3 || event == 6 || event == 7

/-- Parks a group with an EVENT (R344): HALTED for a HALT, else PARKED (R343). BREAK, TRAP and FLAG are events of the
debug session (R379). A HALT or a STEP still to be met stays pending (R345). -/
def State.park (s : State) (gk event : Nat) : State :=
  match s.group? gk with
  | none => s
  | some g =>
    let met := atWaypoint event
    let s := s.setGroup gk { g with
      st := if event = 7 then .halted else .parked, event := event, stamp := none, stopEv := none,
      stepReq := g.stepReq && !met, haltReq := if met then none else g.haltReq }
    let s := (s.unask gk).queueEvent (coreOf gk) (slotOf gk) event
    let code := if event = 2 then 1 else if event = 5 || event = 6 then 5 else 0
    (if code = 0 then s else s.partEvent g.part code (coreOf gk) (slotOf gk) g.lastWp).haltDone g.part

/-- A group ends when all lanes have exited and its counters are zero: its tokens and blocks return (R25, R222). -/
def Group.ended (g : Group) : Bool := g.exited = 0xFFFFFFFF && g.lc = 0 && g.sc = 0 && g.cc = 0 && g.tc = 0

/-- Blocks of a group in use beyond its base block. -/
def Group.extBlocks (g : Group) : Nat := popCount g.held - 1

/-- Removes a group: its tokens and blocks return (R25, R222). -/
def State.endGroup (s : State) (gk : Nat) : State :=
  match s.group? gk with
  | none => s
  | some g =>
    let s := s.modTeam (g.tk gk) (fun t => { t with poolFree := t.poolFree + g.extBlocks })
    let s := s.modCore (coreOf gk) (fun c => { c with token := c.token.filter (fun e => e.2 != gk), lastBack := kdel c.lastBack gk })
    let s := s.setInn { s.inn with fetch := s.inn.fetch.filter (fun f => f.gk != gk) }
    (((s.delGroup gk).unask gk).tokenBack gk).haltDone g.part

/-- The park for a page of a group whose wake came before its state was exact (R327, R344): it goes on at once. -/
def State.parkWoken (s : State) (gk : Nat) : State :=
  ((s.park gk 1).modGroup gk (fun g => { g with st := .running, fault := [], quiet := true, since := 0, pendAge := 0 })).resumeOps gk

/-- A group ends when all lanes have exited and its counters are zero (R25); one that takes a region-entry stop parks once its last
access in flight has completed and its state is exact (R41, R344). -/
def State.maybeEnd (s : State) (gk : Nat) : State :=
  match s.group? gk with
  | some g =>
    if g.ended then s.endGroup gk
    else match g.stopEv with
      | some 0 => if g.txend.isNone && g.ops.isEmpty then s.parkWoken gk else s
      | some e => if g.txend.isNone && g.ops.isEmpty then s.park gk e else s
      | none => s
  | none => s

/-- The region-entry stop of R41; the park of `stopEv` follows as soon as no access is in flight: transactions abort with STOP (R255), every lane not exited
returns to its region entry, waits are cleared, rejoin masks, the watch and all registers are kept. A group whose lanes have all
exited ends once its counters are zero (R25). -/
def State.regionStop (s : State) (gk : Nat) : State :=
  match s.group? gk with
  | none => s
  | some g =>
    let w := g.watch
    let s := s.abortLanes gk ((lanesOf g.intx).map (fun l => (l, 9, 0)))
    let s := match s.group? gk with
      | some g => s.settle gk g
      | none => s
    let s := s.modGroup gk (fun g => { g with
      pcv := setLanes g.pcv g.live (fun l => sget g.epcv l), rwait := [], mwait := 0, mwaitEnd := none, yielded := 0, arrived := none, fenceWin := none,
      watch := { g.watch with lanes := 0, keep := if w.armed && w.bound then w.keep ||| w.lanes else 0 }, stamp := none, fetchw := none, fetchAt := none })
    let s := if (s.core (coreOf gk)).mq.any (s.matOf gk) then s.stopOps gk else s
    (((s.setInn { s.inn with fetch := s.inn.fetch.filter (fun f => f.gk != gk) }).unask gk).tokenBack gk).maybeEnd gk

/-- XFAULT (R407). -/
def xfaultWord (lanes : LaneMask) (subc op event offs : Nat) : BitVec 128 :=
  pack 128 [(0, 32, offs), (32, 8, event), (40, 8, op), (48, 8, subc), (64, 32, lanes.toNat)]

/-- The park of a fault (R406, R407, R419, R424): region-entry stop, XFAULT, park, and one error record. -/
def State.freeze (s : State) (gk event subc op : Nat) (lanes : LaneMask) (offs : Nat) : State :=
  match s.group? gk with
  | none => s
  | some g =>
    let x := xfaultWord lanes subc op event offs
    let s := (s.setGroup gk { g with xfault := x, stopEv := some event }).regionStop gk
    s.record 16 2 0 (s.coreUnit (coreOf gk)) (some g.part) 0 1 (x.zeroExtend 256 ||| BitVec.ofNat 256 (parkId gk * 2 ^ 128))

/-! ### Page faults of groups -/

/-- A fault record without its SEQ (R329). -/
def faultRecord (f : FaultInfo) (park wiid core cv part var wpord : Nat) : BitVec 512 :=
  pack 512 [(0, 56, f.va.toNat), (128, 8, f.cause), (136, 4, accCode f.acc), (144, 2, f.level), (146, 6, part), (152, 8, core),
    (160, 16, park), (176, 1, cv), (192, 32, wiid), (224, 32, f.lanes.toNat),
    (256, 16, if pteV f.pte && pteLeaf f.pte then pteHome f.pte else 0), (272, 16, wpord), (288, 2, var), (320, 64, f.pte.toNat), (384, 64, f.comp.toNat)]

/-- One fault for each translation unit: the range the entry covers, with the lanes that faulted there (R326). -/
def mergeFaults : List FaultInfo → List FaultInfo
  | [] => []
  | f :: r =>
    let u := fun (x : FaultInfo) => (x.level, x.va.toNat / 2 ^ lvlShift x.level)
    let rest := mergeFaults r
    if rest.any (fun x => u x == u f) then
      { f with lanes := (rest.filter (fun x => u x == u f)).foldl (fun m x => m ||| x.lanes) f.lanes } :: rest.filter (fun x => u x != u f)
    else f :: rest

/-- A region-entry stop with its park, which waits while the decision of a TXEND is awaited (R252) and until no access is in flight
(R41). Of a group that takes such a stop already nothing more is asked, but by an error of its registers or its core. -/
def State.stopGroup (s : State) (gk event : Nat) : State :=
  match s.group? gk with
  | some g =>
    let s := if g.stopEv.all (· == 0) || event = 8 || event = 9 then s.setGroup gk { g with stopEv := some event } else s
    if g.txend.isSome then s else s.regionStop gk
  | none => s

/-- A page fault of a group: its records are posted, then it takes a region-entry stop and parks with PAGE (R326). -/
def State.pageFault (s : State) (gk : Nat) (fs : List FaultInfo) : State :=
  match s.group? gk with
  | none => s
  | some g =>
    let wiid := ((s.team? (g.tk gk)).map (fun t => t.wiid.toNat)).getD 0
    let fs := mergeFaults fs
    let s := fs.foldl (fun s f => s.postFault (clusterOf (coreOf gk)) g.part
      (faultRecord f (parkId gk) wiid (coreOf gk) 1 g.part g.var (s.regionOrd g (lowest f.lanes)))) s
    (s.modGroup gk (fun g => { g with fault := fs, stopEv := some 1 })).regionStop gk

/-! ### User traps -/

/-- CODE at entry for a cause (R334). -/
def Group.trapCode (g : Group) (c : Nat) : Nat :=
  match c with
  | 0 => fld g.cause 47 32
  | 1 => g.flagCode.toNat
  | 3 => fld g.cause 31 16
  | _ => 0

/-- CUR, CODE and PEND as entry for a cause writes them (R335, R336). -/
def Group.takeCause (g : Group) (c code : Nat) : Group :=
  let x := setFld (setFld (setFld g.cause 48 16 code) 8 3 c) c 1 0
  { g with cause := if c = 3 then setFld x 16 16 0 else x, flagAt := if c = 1 then none else g.flagAt }

/-- Every lane of `hmask` that has not exited goes to the handler (R336). -/
def Group.toHandler (g : Group) (off : Nat) : Group :=
  let m := g.hmask &&& g.live
  { g with pcv := setLanes g.pcv m (fun _ => BitVec.ofNat 32 off), epcv := setLanes g.epcv m (fun _ => BitVec.ofNat 32 off) }

/-- Entry to the user-trap handler (R336): the resume offsets and region entries are saved, the lanes not exited
become `hmask`, waits are cleared, and the group is in handler mode at the handler. -/
def Group.enterHandler (g : Group) (c code off : Nat) (resume : Nat → BitVec 32) : Group :=
  let g := { g with hpcv := ssets [] ((List.range 32).map (fun l => (l, resume l))), sepcv := g.epcv, hmask := g.live }
  { g.takeCause c code with rwait := [], mwait := 0, mwaitEnd := none, yielded := 0, handler := true, stamp := none }.toHandler off

/-- The lowest pending cause (R334). -/
def Group.pending (g : Group) : Option Nat := (List.range 4).find? (fun c => g.cause.getLsbD c)

/-- Re-entry from HRET for a pending cause (R336). -/
def Group.reenter (g : Group) (c off : Nat) : Group := (g.takeCause c (g.trapCode c)).toHandler off

/-- Return from the handler (R227): lanes of `hmask` resume, the others exit. -/
def Group.leaveHandler (g : Group) : Group :=
  let h := g.hmask
  let g := { g with handler := false, pcv := setLanes g.pcv h (fun l => sget g.hpcv l), epcv := setLanes g.epcv h (fun l => sget g.sepcv l) }
  g.exit (~~~h)

/-- Raises a user-trap cause: PEND is set (R335). A second TRAP keeps the first PCODE. -/
def Group.raise (g : Group) (c code : Nat) : Group :=
  let x := if c = 0 && !g.cause.getLsbD 0 then setFld g.cause 32 16 code
    else if c = 3 then g.cause ||| BitVec.ofNat 64 (code % 2 ^ 16 * 2 ^ 16) else g.cause
  { g with cause := setFld x c 1 1 }

/-- A user-interrupt post to the named groups of a team, wherever they are saved (R339, R349). With handler
`none` the cause is discarded when it falls due (R334). -/
def State.postUint (s : State) (core slot gmask vec : Nat) : State :=
  let hit := fun (gk : Nat) (g : Group) => coreOf gk == core && g.tslot == slot && g.kind != .lodge && gmask.testBit g.grpid
  let up := fun (x : Saved) => if hit x.gk x.grp then { x with grp := x.grp.raise 3 vec } else x
  { s with groups := s.groups.map (fun e => if hit e.1 e.2 then (e.1, e.2.raise 3 vec) else e),
           inn := { s.inn with saved := s.inn.saved.map up, swapped := s.inn.swapped.map up } }

/-! ### Rendezvous points -/

/-- Fields of a point (R211). -/
def rvInit (x : BitVec 64) : Bool := x.getLsbD 33
def rvPhase (x : BitVec 64) : Bool := x.getLsbD 32
def rvWord (count remain : Nat) (phase init : Bool) : BitVec 64 :=
  pack 64 [(0, 16, count), (16, 16, remain), (32, 1, phase.toNat), (33, 1, init.toNat)]

/-- One arrival at an initialised point (R213). -/
def arriveWord (x : BitVec 64) : BitVec 64 :=
  if !rvInit x then x
  else
    let r := fld x 31 16 - 1
    if r = 0 then rvWord (fld x 15 0) (fld x 15 0) (!rvPhase x) true else rvWord (fld x 15 0) r (rvPhase x) true
def State.arrive (s : State) (tk n : Nat) : State := s.modTeam tk (fun t => { t with rv := sset t.rv n (arriveWord (sget t.rv n)) })

/-- Changes a group wherever it is: running, or saved by eviction or swap (R134, R348). -/
def State.modAnyGroup (s : State) (gk tk : Nat) (f : Group → Group) : State :=
  if ((s.group? gk).map (fun g => g.tk gk == tk)).getD false then s.modGroup gk f
  else
    let up := fun (x : Saved) => if x.gk == gk && x.grp.tk gk == tk then { x with grp := f x.grp } else x
    s.setInn { s.inn with saved := s.inn.saved.map up, swapped := s.inn.swapped.map up }

end Sys2Proof.Machine
end

