-- ==== Sys2Proof/Machine/Issue.lean ====
section
/-! DEFINITION. One issue of a group (R24, R205, R406 to R416): who issues, illegal uses, stalls at issue,
the advance of the counters, and what every instruction shares. -/

namespace Sys2Proof.Machine

/-- One issue as R24 sets it up: the group with ended yields, pc_min, `act` and `exe`. -/
structure Issue where
  gk  : Nat
  g   : Group
  pc  : Nat
  act : LaneMask
  exe : LaneMask
deriving DecidableEq, Repr

/-- The issue of the current group, if it can issue (R24). -/
def State.issue? (s : State) (h : Hdr) : Option Issue :=
  match s.cur with
  | .group gk =>
    match s.group? gk with
    | some g =>
      if g.st != .running || g.txend.isSome || g.stopEv.isSome || g.arrived.isSome then none
      else
        let g := if g.eligible = 0 then { g with yielded := 0 } else g
        let e := g.eligible
        if e = 0 then none
        else
          let pc := g.pcMin e
          let act := g.lanesAt e pc
          let p := g.pr h.g.toNat
          some { gk := gk, g := g, pc := pc, act := act, exe := act &&& (if h.gn then ~~~p else p) }
    | none => none
  | _ => none

/-- A fault at issue: event, subcause, lanes (R407 to R411, R420). -/
structure Flt where
  event : Nat := 12
  subc  : Nat
  lanes : LaneMask
deriving DecidableEq, Repr

/-- Several illegal uses at once: the spec orders none of them, so a free value picks the one reported. -/
def State.pickFault (s : State) : List Flt → Option (Flt × State)
  | [] => none
  | [f] => some (f, s)
  | f :: r =>
    let (x, s) := s.draw
    some ((f :: r).getD (x.toNat % (r.length + 1)) f, s)

/-- What an instruction shares with every other: its length and opcode, the roles that may issue it (R22), the
registers it names, whether it acts at every issue, whether a lane in a transaction aborts with ILLEGAL (R249), `one` where it makes
its one access for the lowest lane of `exe`, whose state alone decides (R249), and whether an acquire in flight holds it (R238). -/
structure Spec where
  len    : Nat
  opc    : Nat
  roles  : List RoleKind := [.copy, .matrix, .general, .lodge]
  v      : List Nat := []
  s      : List Nat := []
  always : Bool := false
  noTx   : Bool := false
  one    : Bool := false
  access : Bool := false

/-- The lanes that abort with ILLEGAL, and the lanes that the instruction is then performed for (R249). -/
def Issue.illegal (i : Issue) (sp : Spec) : LaneMask × LaneMask :=
  if !sp.noTx then (0, i.exe)
  else if sp.one then
    let l := maskOf ((lanesOf i.exe).take 1)
    if l &&& i.g.intx = 0 then (0, i.exe) else (l, 0)
  else (i.exe &&& i.g.intx, i.exe &&& ~~~(i.exe &&& i.g.intx))

/-- The lanes a fault reports where its operands name none: `exe`, or `act` where `exe` is empty (R407). -/
def Issue.lanes (i : Issue) : LaneMask := if i.exe = 0 then i.act else i.exe

/-- Role and block faults (R22, R31, R411). -/
def Issue.common (i : Issue) (sp : Spec) : List Flt :=
  (if sp.roles.contains i.g.kind then [] else [{ subc := 1, lanes := i.lanes }]) ++
  (if (i.exe != 0 || sp.always) && sp.v.any (fun r => !i.g.held.getLsbD (r / 64)) then [{ subc := 4, lanes := i.lanes }] else [])

/-- Whether an access in flight still has to write a register that the instruction names (R172, R237). -/
def Issue.waitsReg (i : Issue) (sp : Spec) : Bool :=
  i.g.ops.any (fun o => (o.kind == .load || o.kind == .atomic) &&
    (if o.scalar then sp.s.contains o.dst else sp.v.contains o.dst || (o.t.is64 && sp.v.contains (o.dst + 1))))

/-- Whether an acquire in flight holds every further access (R238). -/
def Group.acquiring (g : Group) : Bool :=
  g.ops.any (fun o => (o.kind == .load || o.kind == .atomic) && (o.ord == .acq || o.ord == .acqrel))

/-- A precise stop, a breakpoint held as R255 gives, or a user interrupt is pending, the last also in handler mode (R415). -/
def Group.stopPending (g : Group) : Bool :=
  g.haltReq.isSome || g.stepReq || g.breakReq.isSome || (!g.handler && g.pending.isSome) || g.cause.getLsbD 3

/-- The group after R24's advance: counters past the instruction, region entries at an E or S waypoint (R37),
the counts of R36 and R415; a FLAG still pending at its waypoint stays due at the next (R255). -/
def State.advance (s : State) (i : Issue) (h : Hdr) (len opc : Nat) : Group :=
  let g := i.g
  let wp := if h.w then (s.gvar? g).bind (fun v => v.wpAt i.pc) else none
  let g := match wp with
    | some (n, w) => { g with lastWp := n }.enterRegion w.kind i.act i.pc
    | none => g
  { g with pcv := setLanes g.pcv i.act (fun _ => BitVec.ofNat 32 (i.pc + len)), yielded := 0, stamp := none, fenceWin := none,
           since := if h.w then 0 else g.since + 1, pendAge := if g.stopPending then g.pendAge + 1 else 0,
           flagAt := if h.w && g.flagAt == some (BitVec.ofNat 32 i.pc) then none else g.flagAt, stepped := true, quiet := false, lastIss := (s.core (coreOf i.gk)).iss + 1,
           atOff := i.pc, atOp := opc }

/-- What Firefly knows of an instruction at its issue (R381). -/
def State.fireRec (s : State) (i : Issue) (g : Group) (opc : Nat) : BitVec 512 :=
  pack 512 [(448, 64, s.clock.now), (416, 32, ((s.image? g.part g.image).map (·.imgid.toNat)).getD 0), (400, 16, g.lastWp), (384, 16, min 0xFFFF g.since),
    (382, 2, g.var), (376, 6, g.part), (368, 8, coreOf i.gk), (366, 2, slotOf i.gk / 16), (360, 6, slotOf i.gk), (352, 8, opc), (320, 32, i.exe.toNat), (184, 8, 1)]

/-- Counts an issue of the core and of its scheduler; an armed scheduler tags it (R19, R381). -/
def State.fireIssue (s : State) (i : Issue) (opc : Nat) : State :=
  s.modCore (coreOf i.gk) (fun k =>
    let n := slotOf i.gk / 16
    let g := (s.group? i.gk).getD i.g
    { k with iss := k.iss + 1, fireGap := sset k.fireGap n (BitVec.ofNat 16 ((sget k.fireGap n).toNat - 1)), fireArm := ndel k.fireArm n,
             fireTag := if k.fireArm.contains n && ((s.part? g.part).map (·.fire)).getD false
               then k.fireTag ++ [{ gk := i.gk, off := i.pc, op := opc, data := s.fireRec i g opc, id := i.g.nextOp, tk := i.g.tk i.gk }] else k.fireTag })

/-- After every issue: release test of the barriers, end of the group (R25, R27). -/
def State.finish (s : State) (gk : Nat) : State := (s.modGroup gk Group.releaseAll).maybeEnd gk

/-- One issue of an instruction: faults first (R416), then stalls (`hold`, R205), then the advance and the effect. An instruction that
reads a register which an access in flight still has to write stalls before what it reads there is tested (R237).
Without an issue nothing happens. -/
def perform (s : State) (h : Hdr) (sp : Spec) (faults : State → Issue → List Flt)
    (hold : State → Issue → Option State) (effect : State → Issue → State) : Host.Outcome State Fault Refusal :=
  match s.issue? h with
  | none => .next s
  | some i0 =>
    let ill := (i0.illegal sp).1
    let i := { i0 with exe := (i0.illegal sp).2 }
    let waits := (i.exe != 0 || sp.always) && i.waitsReg sp
    match s.pickFault (i.common sp ++ (if waits then [] else faults s i)) with
    | some (f, s) => .next (s.freeze i.gk f.event f.subc sp.opc f.lanes i.pc)
    | none =>
      if waits || (sp.access && i.exe != 0 && i.g.acquiring) then .next s
      else match hold s i with
        | some s => .next s
        | none =>
          let s := (s.setGroup i.gk (s.advance i h sp.len sp.opc)).fireIssue i sp.opc
          let s := s.abortLanes i.gk ((lanesOf ill).map (fun l => (l, 6, 0)))
          .next ((effect s i).finish i.gk)

/-- Nothing to check, nothing to wait for. -/
def noFaults (_ : State) (_ : Issue) : List Flt := []
def noHold (_ : State) (_ : Issue) : Option State := none

/-- An effect on the group alone. -/
def onGroup (f : Issue → Group → Group) (s : State) (i : Issue) : State := s.modGroup i.gk (f i)

/-- The commit of a non-repeatable instruction: the region entry of each lane of `m` becomes `off` (R40). -/
def State.commitTo (s : State) (gk : Nat) (m : LaneMask) (off : Nat) : State :=
  s.modGroup gk (fun g => g.setEntry m (fun _ => BitVec.ofNat 32 off))

/-- A stall that keeps its place in the order of waiting (R222, R277). `what` names the thing waited for: a core
tile 0 to 15, 16 an extended block, 17 the Ostler's queue, 18 a grant, 19 the service ring, 20 the counters of a TXEND. -/
def State.stamped (s : State) (gk what : Nat) : State :=
  match s.group? gk with
  | some g => if g.stamp.isSome then s
    else (s.setGroup gk { g with stamp := some (s.clock.seqno, what) }).setClock { s.clock with seqno := s.clock.seqno + 1 }
  | none => s

end Sys2Proof.Machine
end

