-- ==== Sys2Proof/Machine/Operands.lean ====
section
/-! DEFINITION. Operand forms of format K (R146, R157, R174 to R176) and the shapes of the compute
instructions (R172, R173, R178). -/

namespace Sys2Proof

/-- Length of a format-K word in bytes (R146). -/
def KOps.len (k : KOps) : Nat :=
  match k.b with
  | .reg _ | .bcast _ => 8
  | .imm32 _ => 12
  | .imm64 _ => 16

end Sys2Proof

namespace Sys2Proof.Machine

/-- A lane's raw value of a vector operand; a 64-bit type takes a register pair (R175). -/
def Group.vread (g : Group) (t : Typ) (r l : Nat) : Nat :=
  if t.is64 then (g.vr r l).toNat + 2 ^ 32 * (g.vr (r + 1) l).toNat else (g.vr r l).toNat

/-- A 32-bit value as an operand of a type: extended for the 64-bit types (R157, R176). -/
def ext32 (t : Typ) (x : BitVec 32) : Nat :=
  if t.is64 && t.signed then (x.signExtend 64).toNat else x.toNat

/-- The second source of a vector instruction (R176). -/
def Group.vsecond (g : Group) (t : Typ) (b : Src2) (l : Nat) : Nat :=
  match b with
  | .reg r => g.vread t r.toNat l
  | .bcast r => ext32 t ((g.sr r.toNat).truncate 32)
  | .imm32 x => ext32 t x
  | .imm64 x => x.toNat

/-- The second source of a scalar instruction (R157, R180). -/
def Group.ssecond (g : Group) (sgn : Bool) (b : Src2) : Nat :=
  match b with
  | .reg r | .bcast r => (g.sr r.toNat).toNat
  | .imm32 x => if sgn then (x.signExtend 64).toNat else x.toNat
  | .imm64 x => x.toNat

/-- Vector registers that a field of a type names. -/
def vregs (t : Typ) (r : BitVec 8) : List Nat := if t.is64 then [r.toNat, r.toNat + 1] else [r.toNat]
/-- Vector and scalar registers that a vector second source names. -/
def Src2.vregs (t : Typ) : Src2 → List Nat
  | .reg r => Machine.vregs t r
  | _ => []
def Src2.sregs : Src2 → List Nat
  | .bcast r => [r.toNat]
  | _ => []

/-- The register words that a lane's result fills (R121, R174, R175). -/
def vwords (t : Typ) (d l : Nat) (x : Nat) : List (Nat × BitVec 32) :=
  if t.is64 then [(32 * d + l, BitVec.ofNat 32 x), (32 * (d + 1) + l, BitVec.ofNat 32 (x / 2 ^ 32))]
  else [(32 * d + l, if t.isInt then extendTo 32 t x else BitVec.ofNat 32 x)]

/-- Results and flags of the lanes of `exe`: all are computed before any is written (R172, R178). -/
def Group.lanewise (g : Group) (exe : LaneMask) (f : Nat → List (Nat × BitVec 32) × Flags) : Group :=
  let r := (lanesOf exe).map f
  (g.putV (r.flatMap (·.1))).addFlags (r.foldl (fun a e => a ||| e.2) 0)

/-- A vector instruction whose lane result is `f a b c`, of type `rt` (R173, R182). -/
def execVector (opc : Nat) (at_ bt ct rt : Typ) (useB useC : Bool) (f : Nat → Nat → Nat → Nat × Flags)
    (h : Hdr) (k : KOps) (s : State) : Host.Outcome State Fault Refusal :=
  perform s h { len := k.len, opc := opc,
                v := vregs rt k.d ++ vregs at_ k.a ++ (if useB then Src2.vregs bt k.b else []) ++ (if useC then vregs ct k.c else []),
                s := if useB then Src2.sregs k.b else [] }
    noFaults noHold
    (onGroup (fun i g => g.lanewise i.exe (fun l =>
      let r := f (i.g.vread at_ k.a.toNat l) (i.g.vsecond bt k.b l) (i.g.vread ct k.c.toNat l)
      (vwords rt k.d.toNat l r.1, r.2))))

/-- A typed vector-integer or packed instruction (R181, R187). -/
def execVInt (opc : Nat) (useB useC : Bool) (op : IntOp) (h : Hdr) (k : KOps) (s : State) : Host.Outcome State Fault Refusal :=
  execVector opc k.t k.t k.t k.t useB useC (op k.t k.sat) h k s

/-- A floating-point instruction (R195). -/
def execVFloat (opc : Nat) (useB useC : Bool) (op : FloatOp) (h : Hdr) (k : KOps) (s : State) : Host.Outcome State Fault Refusal :=
  execVector opc k.t k.t k.t k.t useB useC (floatOp op k.t k.rm) h k s

/-- A comparison that writes the predicate bits of `exe` (R181, R198). -/
def execCompare (opc : Nat) (f : Nat → Nat → Bool × Flags) (h : Hdr) (k : KOps) (s : State) : Host.Outcome State Fault Refusal :=
  perform s h { len := k.len, opc := opc, v := vregs k.t k.a ++ Src2.vregs k.t k.b, s := Src2.sregs k.b } noFaults noHold
    (onGroup (fun i g =>
      let r := (lanesOf i.exe).map (fun l => (l, f (i.g.vread k.t k.a.toNat l) (i.g.vsecond k.t k.b l)))
      let m := maskOf ((r.filter (fun e => e.2.1)).map (·.1))
      (g.putP k.d.toNat ((i.g.pr k.d.toNat &&& ~~~i.exe) ||| m)).addFlags (r.foldl (fun a e => a ||| e.2.2) 0)))

/-- A scalar instruction, performed once at every issue (R173, R180): result of 64 bits and flags. -/
def execScalar (opc : Nat) (sgn useB useC : Bool) (f : Nat → Nat → Nat → BitVec 64 × Flags) (h : Hdr) (k : KOps) (s : State) :
    Host.Outcome State Fault Refusal :=
  perform s h { len := k.len, opc := opc, always := true,
                s := [k.d.toNat, k.a.toNat] ++ (if useB then (match k.b with | .reg r | .bcast r => [r.toNat] | _ => []) else []) ++ (if useC then [k.c.toNat] else []) }
    noFaults noHold
    (onGroup (fun i g =>
      let r := f (i.g.sr k.a.toNat).toNat (i.g.ssecond sgn k.b) (i.g.sr k.c.toNat).toNat
      (g.putS k.d.toNat r.1).addFlags r.2))

/-- A typed scalar integer instruction (R180, R182). -/
def execSInt (opc : Nat) (useB useC : Bool) (op : IntOp) (h : Hdr) (k : KOps) (s : State) : Host.Outcome State Fault Refusal :=
  execScalar opc k.t.signed useB useC (fun a b c => let r := op k.t k.sat a b c; (extendTo 64 k.t r.1, r.2)) h k s

end Sys2Proof.Machine
end

