-- ==== Sys2Proof/Machine/Arith.lean ====
section
/-! DEFINITION. The compute families of format K: scalar, vector integer, packed, lanes and bytes,
floating point, predicates (R172 to R203). -/

namespace Sys2Proof.Machine

/-! ### Scalar (R180) -/

/-- SADD (R180). -/
def execSadd (h : Hdr) (k : KOps) (s : State) : Host.Outcome State Fault Refusal := execSInt 0x20 true false iAdd h k s

/-- SSUB (R180). -/
def execSsub (h : Hdr) (k : KOps) (s : State) : Host.Outcome State Fault Refusal := execSInt 0x21 true false iSub h k s

/-- SMUL (R180). -/
def execSmul (h : Hdr) (k : KOps) (s : State) : Host.Outcome State Fault Refusal := execSInt 0x22 true false iMul h k s

/-- SMULH (R180). -/
def execSmulh (h : Hdr) (k : KOps) (s : State) : Host.Outcome State Fault Refusal := execSInt 0x23 true false iMulh h k s

/-- SDIV (R123, R180). -/
def execSdiv (h : Hdr) (k : KOps) (s : State) : Host.Outcome State Fault Refusal := execSInt 0x24 true false iDiv h k s

/-- SREM (R123, R180). -/
def execSrem (h : Hdr) (k : KOps) (s : State) : Host.Outcome State Fault Refusal := execSInt 0x25 true false iRem h k s

/-- SMIN (R180). -/
def execSmin (h : Hdr) (k : KOps) (s : State) : Host.Outcome State Fault Refusal := execSInt 0x26 true false iMin h k s

/-- SMAX (R180). -/
def execSmax (h : Hdr) (k : KOps) (s : State) : Host.Outcome State Fault Refusal := execSInt 0x27 true false iMax h k s

/-- SAND (R180). -/
def execSand (h : Hdr) (k : KOps) (s : State) : Host.Outcome State Fault Refusal := execSInt 0x28 true false iAnd h k s

/-- SOR (R180). -/
def execSor (h : Hdr) (k : KOps) (s : State) : Host.Outcome State Fault Refusal := execSInt 0x29 true false iOr h k s

/-- SXOR (R180). -/
def execSxor (h : Hdr) (k : KOps) (s : State) : Host.Outcome State Fault Refusal := execSInt 0x2a true false iXor h k s

/-- SSHL (R183). -/
def execSshl (h : Hdr) (k : KOps) (s : State) : Host.Outcome State Fault Refusal := execSInt 0x2b true false iShl h k s

/-- SSHR (R183). -/
def execSshr (h : Hdr) (k : KOps) (s : State) : Host.Outcome State Fault Refusal := execSInt 0x2c true false iShr h k s

/-- SSRA (R183). -/
def execSsra (h : Hdr) (k : KOps) (s : State) : Host.Outcome State Fault Refusal := execSInt 0x2d true false iSra h k s

/-- SSEL (R180). -/
def execSsel (h : Hdr) (k : KOps) (s : State) : Host.Outcome State Fault Refusal := execSInt 0x2f true true iSel h k s

/-- SCLZ (R180). -/
def execSclz (h : Hdr) (k : KOps) (s : State) : Host.Outcome State Fault Refusal := execSInt 0x32 false false iClz h k s

/-- SPOP (R180). -/
def execSpop (h : Hdr) (k : KOps) (s : State) : Host.Outcome State Fault Refusal := execSInt 0x33 false false iPop h k s

/-- SBFX (R184). -/
def execSbfx (h : Hdr) (k : KOps) (s : State) : Host.Outcome State Fault Refusal := execSInt 0x34 true false iBfx h k s

/-- SBFI (R184). -/
def execSbfi (h : Hdr) (k : KOps) (s : State) : Host.Outcome State Fault Refusal := execSInt 0x35 true true iBfi h k s

/-- SCMP (R148, R180): 1 or 0. -/
def execScmp (h : Hdr) (k : KOps) (s : State) : Host.Outcome State Fault Refusal :=
  execScalar 0x2e k.t.signed true false (fun a b _ => (if cmpInt (fld k.sub 2 0) (intVal k.t a) (intVal k.t b) then 1 else 0, 0)) h k s

/-- SMOVI (R180): the 64-bit immediate. -/
def execSmovi (h : Hdr) (k : KOps) (s : State) : Host.Outcome State Fault Refusal :=
  perform s h { len := k.len, opc := 0x30, s := [k.d.toNat], always := true } noFaults noHold
    (onGroup (fun i g => g.putS k.d.toNat (BitVec.ofNat 64 (i.g.ssecond false k.b))))

/-- SLEA (R180): (a + b * 2^n) modulo 2^64, n in C[5:0]. -/
def execSlea (h : Hdr) (k : KOps) (s : State) : Host.Outcome State Fault Refusal :=
  execScalar 0x31 true true false (fun a b _ => (BitVec.ofNat 64 (a + b * 2 ^ fld k.c 5 0), 0)) h k s

/-! ### Vector integer (R181) -/

/-- VADD (R181). -/
def execVadd (h : Hdr) (k : KOps) (s : State) : Host.Outcome State Fault Refusal := execVInt 0x40 true false iAdd h k s

/-- VSUB (R181). -/
def execVsub (h : Hdr) (k : KOps) (s : State) : Host.Outcome State Fault Refusal := execVInt 0x41 true false iSub h k s

/-- VMUL (R181). -/
def execVmul (h : Hdr) (k : KOps) (s : State) : Host.Outcome State Fault Refusal := execVInt 0x42 true false iMul h k s

/-- VMULH (R181). -/
def execVmulh (h : Hdr) (k : KOps) (s : State) : Host.Outcome State Fault Refusal := execVInt 0x43 true false iMulh h k s

/-- VMAD (R181). -/
def execVmad (h : Hdr) (k : KOps) (s : State) : Host.Outcome State Fault Refusal := execVInt 0x44 true true iMad h k s

/-- VDIV (R123, R181). -/
def execVdiv (h : Hdr) (k : KOps) (s : State) : Host.Outcome State Fault Refusal := execVInt 0x45 true false iDiv h k s

/-- VMIN (R181). -/
def execVmin (h : Hdr) (k : KOps) (s : State) : Host.Outcome State Fault Refusal := execVInt 0x46 true false iMin h k s

/-- VMAX (R181). -/
def execVmax (h : Hdr) (k : KOps) (s : State) : Host.Outcome State Fault Refusal := execVInt 0x47 true false iMax h k s

/-- VABS (R181). -/
def execVabs (h : Hdr) (k : KOps) (s : State) : Host.Outcome State Fault Refusal := execVInt 0x48 false false iAbs h k s

/-- VNEG (R181). -/
def execVneg (h : Hdr) (k : KOps) (s : State) : Host.Outcome State Fault Refusal := execVInt 0x49 false false iNeg h k s

/-- VSHL (R183). -/
def execVshl (h : Hdr) (k : KOps) (s : State) : Host.Outcome State Fault Refusal := execVInt 0x4e true false iShl h k s

/-- VSHR (R183). -/
def execVshr (h : Hdr) (k : KOps) (s : State) : Host.Outcome State Fault Refusal := execVInt 0x4f true false iShr h k s

/-- VSRA (R183). -/
def execVsra (h : Hdr) (k : KOps) (s : State) : Host.Outcome State Fault Refusal := execVInt 0x50 true false iSra h k s

/-- VROT (R183). -/
def execVrot (h : Hdr) (k : KOps) (s : State) : Host.Outcome State Fault Refusal := execVInt 0x51 true false iRot h k s

/-- VSEL (R181). -/
def execVsel (h : Hdr) (k : KOps) (s : State) : Host.Outcome State Fault Refusal := execVInt 0x53 true true iSel h k s

/-- VPOP (R181). -/
def execVpop (h : Hdr) (k : KOps) (s : State) : Host.Outcome State Fault Refusal := execVInt 0x54 false false iPop h k s

/-- VCLZ (R181). -/
def execVclz (h : Hdr) (k : KOps) (s : State) : Host.Outcome State Fault Refusal := execVInt 0x55 false false iClz h k s

/-- VBFX (R184). -/
def execVbfx (h : Hdr) (k : KOps) (s : State) : Host.Outcome State Fault Refusal := execVInt 0x56 true false iBfx h k s

/-- VBFI (R184). -/
def execVbfi (h : Hdr) (k : KOps) (s : State) : Host.Outcome State Fault Refusal := execVInt 0x57 true true iBfi h k s

/-- The type on which a bitwise vector instruction acts: the whole word for the packed types (R181). -/
def bitType (t : Typ) : Typ := if t.isPackedInt then .n32 else t

/-- A bitwise vector instruction (R181). -/
def execBitwise (opc : Nat) (useB : Bool) (op : IntOp) (h : Hdr) (k : KOps) (s : State) : Host.Outcome State Fault Refusal :=
  execVInt opc useB false op h { k with t := bitType k.t } s

/-- VAND (R181). -/
def execVand (h : Hdr) (k : KOps) (s : State) : Host.Outcome State Fault Refusal := execBitwise 0x4a true iAnd h k s

/-- VOR (R181). -/
def execVor (h : Hdr) (k : KOps) (s : State) : Host.Outcome State Fault Refusal := execBitwise 0x4b true iOr h k s

/-- VXOR (R181). -/
def execVxor (h : Hdr) (k : KOps) (s : State) : Host.Outcome State Fault Refusal := execBitwise 0x4c true iXor h k s

/-- VNOT (R181). -/
def execVnot (h : Hdr) (k : KOps) (s : State) : Host.Outcome State Fault Refusal := execBitwise 0x4d false iNot h k s

/-- VCMP (R148, R181). -/
def execVcmp (h : Hdr) (k : KOps) (s : State) : Host.Outcome State Fault Refusal :=
  execCompare 0x52 (fun a b => (cmpInt (fld k.sub 2 0) (intVal k.t a) (intVal k.t b), 0)) h k s

/-- VMOV (R185): register A, a broadcast scalar, or pcv, hpcv, epcv by C. A lane reads its own pcv as the
offset of the VMOV. -/
def execVmov (h : Hdr) (k : KOps) (s : State) : Host.Outcome State Fault Refusal :=
  let plain := k.c = 0
  let isB := match k.b with
    | .reg _ => false
    | _ => true
  perform s h { len := k.len, opc := 0x58, v := vregs k.t k.d ++ (if plain && !isB then vregs k.t k.a else []), s := Src2.sregs k.b }
    noFaults noHold
    (onGroup (fun i g => g.lanewise i.exe (fun l =>
      let x := if plain then (if isB then i.g.vsecond k.t k.b l else (iMov k.t false (i.g.vread k.t k.a.toNat l) 0 0).1)
        else if k.c = 1 then i.pc
        else if k.c = 2 then (sget i.g.hpcv l).toNat
        else (sget g.epcv l).toNat
      (vwords k.t k.d.toNat l x, 0))))

/-- VMOVI (R176, R181). -/
def execVmovi (h : Hdr) (k : KOps) (s : State) : Host.Outcome State Fault Refusal :=
  perform s h { len := k.len, opc := 0x59, v := vregs k.t k.d } noFaults noHold
    (onGroup (fun i g => g.lanewise i.exe (fun l => (vwords k.t k.d.toNat l (i.g.vsecond k.t k.b l), 0))))

/-- VDOT4 (R186). -/
def execVdot4 (h : Hdr) (k : KOps) (s : State) : Host.Outcome State Fault Refusal := execVInt 0x5a true true iDot4 h k s

/-! ### Packed integers (R187 to R189) -/

/-- PKADD (R187, R188). -/
def execPkadd (h : Hdr) (k : KOps) (s : State) : Host.Outcome State Fault Refusal := execVInt 0x60 true false (packedOp iAdd) h k s

/-- PKSUB (R187, R188). -/
def execPksub (h : Hdr) (k : KOps) (s : State) : Host.Outcome State Fault Refusal := execVInt 0x61 true false (packedOp iSub) h k s

/-- PKMUL (R187, R188). -/
def execPkmul (h : Hdr) (k : KOps) (s : State) : Host.Outcome State Fault Refusal := execVInt 0x62 true false (packedOp iMul) h k s

/-- PKMAD (R187, R188). -/
def execPkmad (h : Hdr) (k : KOps) (s : State) : Host.Outcome State Fault Refusal := execVInt 0x63 true true (packedOp iMad) h k s

/-- PKAVG (R187, R188). -/
def execPkavg (h : Hdr) (k : KOps) (s : State) : Host.Outcome State Fault Refusal := execVInt 0x65 true false (packedOp iAvg) h k s

/-- PKMIN (R187, R188). -/
def execPkmin (h : Hdr) (k : KOps) (s : State) : Host.Outcome State Fault Refusal := execVInt 0x66 true false (packedOp iMin) h k s

/-- PKMAX (R187, R188). -/
def execPkmax (h : Hdr) (k : KOps) (s : State) : Host.Outcome State Fault Refusal := execVInt 0x67 true false (packedOp iMax) h k s

/-- PKSAD (R187). -/
def execPksad (h : Hdr) (k : KOps) (s : State) : Host.Outcome State Fault Refusal := execVInt 0x64 true true iSad h k s

/-- PKNAR (R189). -/
def execPknar (h : Hdr) (k : KOps) (s : State) : Host.Outcome State Fault Refusal := execVInt 0x68 true false iNar h k s

/-- PKWID (R189): SUB[0] selects the half. -/
def execPkwid (h : Hdr) (k : KOps) (s : State) : Host.Outcome State Fault Refusal := execVInt 0x69 false false (iWid (k.sub.getLsbD 0)) h k s

/-! ### Lanes and bytes (R190 to R194) -/

/-- The number of the register that BK = 0b01 or 0b00 names in B. -/
def Src2.num : Src2 → Nat
  | .reg r | .bcast r => r.toNat
  | _ => 0

/-- PERMB (R190): bytes of a scalar pair, chosen by the nibbles of A. -/
def execPermb (h : Hdr) (k : KOps) (s : State) : Host.Outcome State Fault Refusal :=
  let b := Src2.num k.b
  perform s h { len := k.len, opc := 0x6a, v := [k.d.toNat, k.a.toNat], s := [b, b + 1] } noFaults noHold
    (onGroup (fun i g => g.lanewise i.exe (fun l =>
      let tab := (i.g.sr b).toNat + 2 ^ 64 * (i.g.sr (b + 1)).toNat
      let a := (i.g.vr k.a.toNat l).toNat
      let sh := if k.sub.getLsbD 0 then 4 else 0
      let x := ofBytes ((List.range 4).map (fun j => BitVec.ofNat 8 (tab / 2 ^ (8 * (a / 2 ^ (8 * j + sh) % 16)))))
      ([(32 * k.d.toNat + l, BitVec.ofNat 32 x)], 0))))

/-- The source lane of LXCH (R191): forms FROM, OFFS, ROT, FLIP. -/
def lxchLane (form l k : Nat) : Nat :=
  match form with
  | 0 => k % 32
  | 1 => let j := (l : Int) + toSigned 32 k; if j < 0 || 31 < j then l else j.toNat
  | 2 => (l + k) % 32
  | _ => l ^^^ (k % 32)

/-- LXCH (R191): the source lane is read whatever its state. -/
def execLxch (h : Hdr) (k : KOps) (s : State) : Host.Outcome State Fault Refusal :=
  perform s h { len := k.len, opc := 0x6b, v := vregs k.t k.d ++ vregs k.t k.a ++ Src2.vregs k.t k.b, s := Src2.sregs k.b } noFaults noHold
    (onGroup (fun i g => g.lanewise i.exe (fun l =>
      (vwords k.t k.d.toNat l (i.g.vread k.t k.a.toNat (lxchLane (fld k.sub 1 0) l (i.g.vsecond k.t k.b l % 2 ^ 32))), 0))))

/-- LPREV (R192): the byte stream of the 32 lanes, n bytes earlier. -/
def execLprev (h : Hdr) (k : KOps) (s : State) : Host.Outcome State Fault Refusal :=
  let n := k.c.toNat
  perform s h { len := k.len, opc := 0x6c, v := [k.d.toNat, k.a.toNat], s := Src2.sregs k.b } noFaults noHold
    (onGroup (fun i g => g.lanewise i.exe (fun l =>
      let prev := if l = 0 then (i.g.sr (Src2.num k.b)).toNat % 2 ^ 32 else (i.g.vr k.a.toNat (l - 1)).toNat
      ([(32 * k.d.toNat + l, BitVec.ofNat 32 ((i.g.vr k.a.toNat l).toNat * 2 ^ (8 * n) + prev / 2 ^ (32 - 8 * n)))], 0))))

/-- Identity and combination of LSCAN and LRED (R193), on 32-bit patterns. -/
def scanIdentity (op : Nat) (t : Typ) : Nat :=
  match op with
  | 1 => intPat 32 (intMax t)
  | 2 => intPat 32 (intMin t)
  | 3 => 0xFFFFFFFF
  | _ => 0
def scanCombine (op : Nat) (t : Typ) (sat : Bool) (a b : Nat) : Nat × Flags :=
  match op with
  | 0 => iAdd t sat a b 0
  | 1 => iMin t false a b 0
  | 2 => iMax t false a b 0
  | 3 => iAnd t false a b 0
  | 4 => iOr t false a b 0
  | 5 => iXor t false a b 0
  | _ => opFadd (Fmt.of .f32) .rne a b 0

/-- The first lane's value as the accumulator takes it: a NaN becomes the canonical one, and a signalling one sets INV (R125, R193). -/
def scanFirst (op x : Nat) : Nat × Flags :=
  let f := Fmt.of .f32
  if 6 ≤ op && (f.decode x).isNan then f.nanRes (f.decode x).isSig else (x, 0)

/-- The scan over the lanes of `exe` (R193): accumulator, whether still before the first lane, prefixes, flags. -/
def scanLanes (op : Nat) (t : Typ) (sat excl : Bool) (val : Nat → Nat) :
    List Nat → Nat → Bool → List (Nat × Nat) → Flags → Nat × List (Nat × Nat) × Flags
  | [], acc, _, out, fl => (acc, out.reverse, fl)
  | l :: r, acc, first, out, fl =>
    let n := if first then scanFirst op (val l) else scanCombine op t sat acc (val l)
    scanLanes op t sat excl val r n.1 false ((l, if excl then acc else n.1) :: out) (fl ||| n.2)

/-- LSCAN (R193). -/
def execLscan (h : Hdr) (k : KOps) (s : State) : Host.Outcome State Fault Refusal :=
  perform s h { len := k.len, opc := 0x6d, v := [k.d.toNat, k.a.toNat] } noFaults noHold
    (onGroup (fun i g =>
      let op := fld k.sub 2 0
      let r := scanLanes op k.t k.sat (k.sub.getLsbD 3) (fun l => (i.g.vr k.a.toNat l).toNat) (lanesOf i.exe) (scanIdentity op k.t) true [] 0
      (g.putV (r.2.1.map (fun e => (32 * k.d.toNat + e.1, BitVec.ofNat 32 e.2)))).addFlags r.2.2))

/-- LRED (R193): the combination of all lanes of `exe`, into a scalar register. -/
def execLred (h : Hdr) (k : KOps) (s : State) : Host.Outcome State Fault Refusal :=
  perform s h { len := k.len, opc := 0x6e, v := [k.a.toNat], s := [k.d.toNat], always := true } noFaults noHold
    (onGroup (fun i g =>
      let op := fld k.sub 2 0
      let r := scanLanes op k.t k.sat false (fun l => (i.g.vr k.a.toNat l).toNat) (lanesOf i.exe) (scanIdentity op k.t) true [] 0
      (g.putS k.d.toNat (if k.t.isInt then extendTo 64 k.t r.1 else BitVec.ofNat 64 r.1)).addFlags r.2.2))

/-- LPOLL (R194): forms SOME, EVERY, MASK, COUNT. -/
def execLpoll (h : Hdr) (k : KOps) (s : State) : Host.Outcome State Fault Refusal :=
  let form := fld k.sub 1 0
  perform s h { len := k.len, opc := 0x6f, v := [k.a.toNat], s := if 2 ≤ form then [k.d.toNat] else [], always := 2 ≤ form } noFaults noHold
    (onGroup (fun i g =>
      let t := maskOf ((lanesOf i.exe).filter (fun l => i.g.vr k.a.toNat l != 0))
      let old := i.g.pr k.d.toNat &&& ~~~i.exe
      match form with
      | 0 => g.putP k.d.toNat (old ||| if t != 0 then i.exe else 0)
      | 1 => g.putP k.d.toNat (old ||| if t = i.exe then i.exe else 0)
      | 2 => g.putS k.d.toNat (t.zeroExtend 64)
      | _ => g.putS k.d.toNat (BitVec.ofNat 64 (popCount t))))

/-! ### Floating point (R195 to R201) -/

/-- FADD (R195). -/
def execFadd (h : Hdr) (k : KOps) (s : State) : Host.Outcome State Fault Refusal := execVFloat 0x70 true false opFadd h k s

/-- FSUB (R195). -/
def execFsub (h : Hdr) (k : KOps) (s : State) : Host.Outcome State Fault Refusal := execVFloat 0x71 true false opFsub h k s

/-- FMUL (R195). -/
def execFmul (h : Hdr) (k : KOps) (s : State) : Host.Outcome State Fault Refusal := execVFloat 0x72 true false opFmul h k s

/-- FFMA (R195). -/
def execFfma (h : Hdr) (k : KOps) (s : State) : Host.Outcome State Fault Refusal := execVFloat 0x73 true true opFfma h k s

/-- FMIN (R195). -/
def execFmin (h : Hdr) (k : KOps) (s : State) : Host.Outcome State Fault Refusal := execVFloat 0x74 true false (opFminmax false) h k s

/-- FMAX (R195). -/
def execFmax (h : Hdr) (k : KOps) (s : State) : Host.Outcome State Fault Refusal := execVFloat 0x75 true false (opFminmax true) h k s

/-- FABS (R195). -/
def execFabs (h : Hdr) (k : KOps) (s : State) : Host.Outcome State Fault Refusal := execVFloat 0x76 false false opFabs h k s

/-- FNEG (R195). -/
def execFneg (h : Hdr) (k : KOps) (s : State) : Host.Outcome State Fault Refusal := execVFloat 0x77 false false opFneg h k s

/-- FRND (R195). -/
def execFrnd (h : Hdr) (k : KOps) (s : State) : Host.Outcome State Fault Refusal := execVFloat 0x7a false false opFrnd h k s

/-- FDIV (R195). -/
def execFdiv (h : Hdr) (k : KOps) (s : State) : Host.Outcome State Fault Refusal := execVFloat 0x7b true false opFdiv h k s

/-- FSQRT (R195). -/
def execFsqrt (h : Hdr) (k : KOps) (s : State) : Host.Outcome State Fault Refusal := execVFloat 0x7c false false opFsqrt h k s

/-- EXP2 (R195). -/
def execExp2 (h : Hdr) (k : KOps) (s : State) : Host.Outcome State Fault Refusal := execVFloat 0x7d false false opExp2 h k s

/-- LOG2 (R195). -/
def execLog2 (h : Hdr) (k : KOps) (s : State) : Host.Outcome State Fault Refusal := execVFloat 0x7e false false opLog2 h k s

/-- RCP (R195). -/
def execRcp (h : Hdr) (k : KOps) (s : State) : Host.Outcome State Fault Refusal := execVFloat 0x7f false false opRcp h k s

/-- RSQ (R195). -/
def execRsq (h : Hdr) (k : KOps) (s : State) : Host.Outcome State Fault Refusal := execVFloat 0x80 false false opRsq h k s

/-- FCMP (R198). -/
def execFcmp (h : Hdr) (k : KOps) (s : State) : Host.Outcome State Fault Refusal :=
  execCompare 0x78 (fun a b => cmpFloat (Fmt.of k.t) (fld k.sub 2 0) a b) h k s

/-- FCLASS (R199): a 32-bit word with one bit set. -/
def execFclass (h : Hdr) (k : KOps) (s : State) : Host.Outcome State Fault Refusal :=
  execVector 0x79 k.t k.t k.t .n32 false false (fun a _ _ => (fclass (Fmt.of k.t) a, 0)) h k s

/-- CVT (R129, R201): the single form, or the pair form with an X2 destination. -/
def execCvt (h : Hdr) (k : KOps) (s : State) : Host.Outcome State Fault Refusal :=
  let u := (typOfCode (fld k.c 4 0)).getD .f32
  let pair := k.t.elems = 2
  execVector 0x81 u u u k.t pair false (fun a b _ =>
    if pair then
      let x := cvt u (Typ.elemOf k.t) k.sat k.rm a
      let y := cvt u (Typ.elemOf k.t) k.sat k.rm b
      (x.1 % 2 ^ 16 + 2 ^ 16 * (y.1 % 2 ^ 16), x.2 ||| y.2)
    else cvt u k.t k.sat k.rm a) h k s

/-! ### Predicates (R202) -/

/-- A predicate instruction: bits of the lanes of `exe` (R202). -/
def execPred (opc : Nat) (f : LaneMask → LaneMask → LaneMask) (h : Hdr) (k : KOps) (s : State) : Host.Outcome State Fault Refusal :=
  perform s h { len := k.len, opc := opc } noFaults noHold
    (onGroup (fun i g =>
      let x := f (i.g.pr k.a.toNat) (i.g.pr (Src2.num k.b))
      g.putP k.d.toNat ((i.g.pr k.d.toNat &&& ~~~i.exe) ||| (x &&& i.exe))))

/-- PAND (R202). -/
def execPand (h : Hdr) (k : KOps) (s : State) : Host.Outcome State Fault Refusal := execPred 0x88 (fun a b => a &&& b) h k s

/-- POR (R202). -/
def execPor (h : Hdr) (k : KOps) (s : State) : Host.Outcome State Fault Refusal := execPred 0x89 (fun a b => a ||| b) h k s

/-- PXOR (R202). -/
def execPxor (h : Hdr) (k : KOps) (s : State) : Host.Outcome State Fault Refusal := execPred 0x8a (fun a b => a ^^^ b) h k s

/-- PNOT (R202). -/
def execPnot (h : Hdr) (k : KOps) (s : State) : Host.Outcome State Fault Refusal := execPred 0x8b (fun a _ => ~~~a) h k s

/-- PMOV (R202). -/
def execPmov (h : Hdr) (k : KOps) (s : State) : Host.Outcome State Fault Refusal := execPred 0x8c (fun a _ => a) h k s

end Sys2Proof.Machine
end

