-- ==== Sys2Proof/Machine/MatUnit.lean ====
section
/-! DEFINITION. The matrix unit: operands in registers and local spaces, slices, steps, the step counter and
retire (R112, R136 to R140, R264 to R276, R412). -/

namespace Sys2Proof.Machine

/-- The swizzle function of R285: z[3] selects the row bit, m = z[2:0]. -/
def swz (a n z : Nat) : Nat := a ^^^ (n / 2 ^ (z / 8 % 2) % 2 ^ (z % 8) * 16)

/-! ### Operand pairs (R268) -/

def pairSC (p : BitVec 64 × BitVec 64) : Bool := p.1.getLsbD 63
def pairSoff (p : BitVec 64 × BitVec 64) : Nat := fld p.1 51 32
def pairBase (p : BitVec 64 × BitVec 64) : Nat := fld p.1 19 0
def pairRot (p : BitVec 64 × BitVec 64) : Nat := fld p.2 35 32
def pairTpitch (p : BitVec 64 × BitVec 64) : Nat := fld p.2 31 16
def pairRpitch (p : BitVec 64 × BitVec 64) : Nat := fld p.2 15 0

/-- A pair that R268 or R271 refuses for an operand of type `t`. -/
def pairBad (t : Typ) (sparse : Bool) (p : BitVec 64 × BitVec 64) : Bool :=
  fld p.1 62 52 != 0 || fld p.1 31 20 != 0 || fld p.2 63 36 != 0 || pairBase p % 16 != 0 || pairTpitch p % 16 != 0 || pairRpitch p % 16 != 0
    || 4 < pairRot p % 8 || (sparse && (pairRpitch p != 0 || pairTpitch p != 0 || pairRot p != 0))
    || (if t = .q4e then !pairSC p else pairSC p && !(t = .e4m3 || t = .e5m2))

/-- The ranges that a dense operand reads in one slice, as offsets of the allocation and lengths (R269). -/
def denseRanges (bits K sl : Nat) (p : BitVec 64 × BitVec 64) : List (Nat × Nat) :=
  (List.range 64).flatMap (fun n =>
    (List.range (4 * bits / 16)).map (fun c => (swz (pairBase p + sl * pairTpitch p + n * pairRpitch p + 16 * c) n (pairRot p), 16))
      ++ (if pairSC p then [(pairSoff p + n * (K / 8) + 4 * sl, 4)] else []))

/-- A byte outside an allocation of `size` bytes (R269, R271): a bounds violation at issue. -/
def pairOut (t : Typ) (K : Nat) (sparse : Bool) (size : Nat) (p : BitVec 64 × BitVec 64) : Bool :=
  if sparse then size ≤ pairBase p || (pairSC p && size < pairSoff p + 8 * K)
  else ((List.range (K / 32)).flatMap (fun sl => denseRanges (matBits t) K sl p)).any (fun e => size < e.1 + e.2)

/-! ### One operand of an accepted operation -/

/-- Side A or B of an operation: its type, its first register or its pair, its space, its bitmap register. -/
structure Side where
  b    : Bool
  t    : Typ
  reg  : Option Nat
  pair : BitVec 64 × BitVec 64
  base : Nat
  size : Nat
  bm   : Option (BitVec 2048)

/-- K of an operation (R264). -/
def MatOp.k (o : MatOp) : Nat := matK o.ta o.tb

/-- The side of an operation on its core, with its team's allocation. -/
def State.matSide (s : State) (core : Nat) (o : MatOp) (b : Bool) : Side :=
  let f := fun (f : Team → Nat) => 4096 * ((s.team? o.tk).map f).getD 0
  { b := b, t := if b then o.tb else o.ta, reg := if b then o.bReg else o.aReg, pair := if b then o.bPair else o.aPair,
    base := if b then f (·.wbase) else f (·.abase), size := if b then f (·.wsize) else f (·.asize),
    bm := if o.kind = .mmas then some ((if b then o.bmB else o.bmA).getD (sget (s.core core).metar (if b then o.mb else o.ma))) else none }

/-- Set bits of a bitmap below bit `i`. -/
def rankOf (bm : BitVec 2048) (i : Nat) : Nat := ((List.range i).filter (fun j => bm.getLsbD j)).length

/-- Bytes of the compressed range of a sparse operand (R271). -/
def Side.need (x : Side) (K : Nat) (bm : BitVec 2048) : Nat := (popCount bm * (matBits x.t * (K / 32)) + 7) / 8

/-- Ranges of local bytes that a side reads in a slice (R269, R271). -/
def Side.ranges (x : Side) (K sl : Nat) : List (Nat × Nat) :=
  match x.reg, x.bm with
  | some _, _ => []
  | none, some bm => [(pairBase x.pair, min (x.need K bm) (x.size - pairBase x.pair))] ++ (if pairSC x.pair then [(pairSoff x.pair, 8 * K)] else [])
  | none, none => denseRanges (matBits x.t) K sl x.pair

def Side.place (x : Side) (core off : Nat) : Place := if x.b then .wspc core (x.base + off) else .aspc core (x.base + off)

/-- Chooses between old and new words: free choice `key` of the operation (R112). -/
def MatOp.choose (o : MatOp) (sl key : Nat) (l : List (BitVec 32)) : BitVec 32 :=
  match l with
  | [] => 0
  | [x] => x
  | x :: r => (x :: r).getD ((Config.freeValue (o.pick + sl * 2 ^ 20 + key)).toNat % (r.length + 1)) x

/-- The distinct values of a list. -/
def distinct : List (BitVec 32) → List (BitVec 32)
  | [] => []
  | a :: r => a :: (distinct r).filter (· != a)

/-- The aligned 32-bit word of a local space that holds byte `off`, in a map of its bytes. -/
def wordIn (m : SMap 8) (off : Nat) : BitVec 32 :=
  BitVec.ofNat 32 (ofBytes ((List.range 4).map (fun j => sget m (off / 4 * 4 + j))))

/-- A byte of a scratchpad operand: zero from a poisoned sector (R400); of a word that changed since the issue, old
or new (R112). -/
def State.matByte (s : State) (core : Nat) (o : MatOp) (x : Side) (sl off : Nat) : Nat :=
  if s.isPoison (x.place core off) then 0
  else
    let c := s.core core
    let a := x.base + off
    let w := o.choose sl ((if x.b then 2 ^ 18 else 0) + a / 4)
      (distinct [wordIn (if x.b then c.w else c.a) a, wordIn (if x.b then o.wOld else o.aOld) a])
    fld w (8 * (a % 4) + 7) (8 * (a % 4))

/-- A word of a register operand: as it stood at issue, as before a write that lacked an OPFENCE, or as written
since (R112). -/
def State.matReg (s : State) (o : MatOp) (sl r lane : Nat) : BitVec 32 :=
  let k := 32 * r + lane
  let now := match (s.group? o.gk).filter (fun g => g.tk o.gk == o.tk) with
    | some g => [sget g.v k]
    | none => []
  o.choose sl (2 ^ 19 + k) (distinct ([sget o.regs k] ++ (kget o.old k).toList ++ now))

/-- Element k of line n as its pattern (R266, R267, R269, R271). -/
def State.matCode (s : State) (core : Nat) (o : MatOp) (x : Side) (n k : Nat) : Nat :=
  let bits := matBits x.t
  let sl := k / 32
  match x.reg with
  | some r =>
    let L := o.k * bits / 32
    (s.matReg o sl (r + n % 2 * L + k * bits / 32) (n / 2)).toNat / 2 ^ (k * bits % 32) % 2 ^ bits
  | none =>
    let get := fun (off sub : Nat) => (ofBytes ((List.range ((bits + 7) / 8)).map (fun j => BitVec.ofNat 8 (s.matByte core o x sl (off + j))))) / 2 ^ sub % 2 ^ bits
    match x.bm with
    | some bm =>
      let per := o.k / 32
      let i := 32 * n + k / per
      if !bm.getLsbD i then 0
      else
        let b := rankOf bm i * (bits * per) + k % per * bits
        if x.size * 8 < pairBase x.pair * 8 + b + bits then 0 else get (pairBase x.pair + b / 8) (b % 8)
    | none =>
      let b := k % 32 * bits
      get (swz (pairBase x.pair + sl * pairTpitch x.pair + n * pairRpitch x.pair + b / 8) n (pairRot x.pair)) (b % 8)

/-- The scale byte of element k of line n, where the operand has scales (R269). -/
def State.matScale (s : State) (core : Nat) (o : MatOp) (x : Side) (n k : Nat) : Option Nat :=
  if x.reg.isNone && pairSC x.pair then some (s.matByte core o x (k / 32) (pairSoff x.pair + n * (o.k / 8) + k / 8)) else none

/-- The 32 values of a line in a slice, and its invalid markers (R131, R132, R269, R412). -/
def State.matLine (s : State) (core : Nat) (o : MatOp) (x : Side) (n sl : Nat) : List FVal × Nat :=
  if x.t = .q4e then
    let gs := (List.range 4).map (fun g =>
      let k := 32 * sl + 8 * g
      q4eGroup ((List.range 8).foldl (fun w i => w + s.matCode core o x n (k + i) * 16 ^ i) 0) ((s.matScale core o x n k).getD 127))
    (gs.flatMap (·.1), (gs.map (·.2)).sum)
  else
    ((List.range 32).map (fun j =>
      let k := 32 * sl + j
      let v := (Fmt.of x.t).decode (s.matCode core o x n k)
      match s.matScale core o x n k with
      | some e => v.scale (e8m0 e)
      | none => v), 0)

/-- The 32 integers of a line in a slice. -/
def State.matInts (s : State) (core : Nat) (o : MatOp) (x : Side) (n sl : Nat) : List Int :=
  (List.range 32).map (fun j => intVal x.t (s.matCode core o x n (32 * sl + j)))

/-! ### Steps (R140, R265, R271, R273) -/

/-- Whether an operation steps k: in MMAS, where a line of A and a line of B both have the cell set. -/
def State.stepped (s : State) (core : Nat) (o : MatOp) (k : Nat) : Bool :=
  match (s.matSide core o false).bm, (s.matSide core o true).bm with
  | some a, some b =>
    let c := k / (o.k / 32)
    (List.range 64).any (fun n => a.getLsbD (32 * n + c)) && (List.range 64).any (fun n => b.getLsbD (32 * n + c))
  | _, _ => true

def maxOf (l : List Nat) : Nat := l.foldl max 0

/-- Steps of one slice (R140, R265, R271). -/
def State.sliceSteps (s : State) (core : Nat) (o : MatOp) (sl : Nat) : Nat :=
  match o.kind with
  | .mmab =>
    let x := s.matSide core o false
    ((List.range 4).flatMap (fun q => (List.range 32).map (fun j =>
      maxOf ((List.range 16).map (fun i => boothNz (matBits o.ta) (s.matCode core o x (16 * q + i) (32 * sl + j))))))).sum
  | .ldmeta => 0
  | _ => ((List.range 32).filter (fun j => s.stepped core o (32 * sl + j))).length

/-- `mseq` of a group (R273). -/
def State.mseq (s : State) (gk tk : Nat) : BitVec 64 :=
  match (s.core (coreOf gk)).mq.find? (fun m => m.gk == gk && m.tk == tk && m.kind != .ldmeta) with
  | none => 0
  | some o =>
    let steps := fun n => ((List.range n).map (s.sliceSteps (coreOf gk) o)).sum
    pack 64 [(0, 11, steps o.slice), (11, 11, steps (o.k / 32)), (22, 4, o.tname), (26, 1, 1)]

/-! ### One slice (R136 to R138, R270) -/

/-- A word of the accumulator store as it is read: zero from a poisoned sector (R400, R401). -/
def Core.accWord (c : Core) (k : Nat) : BitVec 32 := if c.tpoison.contains (k / 16) then 0 else sget c.acc k
/-- Writes words of the accumulator store. Every write covers whole rows, hence whole sectors, and clears their poison. -/
def Core.putAcc (c : Core) (l : List (Nat × BitVec 32)) : Core :=
  { c with acc := ssets c.acc l, tpoison := c.tpoison.filter (fun x => !l.any (fun e => e.1 / 16 == x)) }
/-- The poisoned sectors of the accumulator store among words. -/
def Core.accBad (c : Core) (l : List Nat) : List Nat := c.tpoison.filter (fun x => l.any (fun k => k / 16 == x))
/-- Consumes poisoned sectors of the accumulator store of a core. -/
def State.accConsume (s : State) (core part : Nat) (l : List Nat) : State := l.foldl (fun s _ => s.consume part (.aspc core 0)) s

/-- New words and flags of the rows of `exe`. -/
def State.sliceWords (s : State) (core : Nat) (o : MatOp) : List (Nat × BitVec 32 × Flags) :=
  let a := s.matSide core o false
  let b := s.matSide core o true
  let sl := o.slice
  let ks := (List.range 32).filter (fun j => s.stepped core o (32 * sl + j))
  let acc := fun (i j : Nat) => ((s.core core).accWord (4096 * o.tile + 64 * i + j)).toNat
  let rows := (lanesOf o.exe).flatMap (fun l => [2 * l, 2 * l + 1])
  if o.ta.isInt then
    let cols := (List.range 64).map (fun n => s.matInts core o b n sl)
    rows.flatMap (fun i =>
      let x := s.matInts core o a i sl
      (List.range 64).map (fun j =>
        let r := sliceInt (acc i j) (ks.map (fun k => (x.getD k 0, (cols.getD j []).getD k 0)))
        (4096 * o.tile + 64 * i + j, BitVec.ofNat 32 r.1, r.2)))
  else
    let z : FVal := .fin false 0 0
    let cols := (List.range 64).map (fun n => (s.matLine core o b n sl).1)
    rows.flatMap (fun i =>
      let x := (s.matLine core o a i sl).1
      (List.range 64).map (fun j =>
        let r := sliceFloat (acc i j) (ks.map (fun k => (x.getD k z, (cols.getD j []).getD k z)))
        (4096 * o.tile + 64 * i + j, BitVec.ofNat 32 r.1, r.2)))

/-- Whether an operand of the slice holds an invalid marker (R412). -/
def State.sliceMarked (s : State) (core : Nat) (o : MatOp) : Bool :=
  [false, true].any (fun b =>
    let x := s.matSide core o b
    x.t = .q4e && (List.range 64).any (fun n => (s.matLine core o x n o.slice).2 != 0))

/-- Whether a sparse operand's cells pass the end of the allocation (R271). -/
def State.sliceShort (s : State) (core : Nat) (o : MatOp) : Bool :=
  [false, true].any (fun b =>
    let x := s.matSide core o b
    match x.bm with
    | some bm => x.size - pairBase x.pair < x.need o.k bm
    | none => false)

/-- Poisoned sectors among ranges of local bytes. -/
def State.poisonIn (s : State) (core : Nat) (x : Side) (l : List (Nat × Nat)) : List Place :=
  dedupPlaces ((l.flatMap (fun e => [e.1, e.1 + e.2 - 1].flatMap (fun o => [(x.place core o).sector]) ++
    (List.range (e.2 / 64)).map (fun j => (x.place core (e.1 + 64 * j)).sector))).filter (fun p => s.isPoison p))

/-- The destination entries of the range scoreboard on which an operand read stalls (R83), as ranges of a local space. -/
def State.matStalls (s : State) (core : Nat) (x : Side) (l : List (Nat × Nat)) : List (Bool × Nat × Nat) :=
  ((s.core core).rsb.filter (fun r => r.wSpace == x.b && r.dest && l.any (fun e => r.lo < x.base + e.1 + e.2 && x.base + e.1 < r.hi))).map
    (fun r => (x.b, r.lo, r.hi))

/-- An operation whose reads a command held (R83) reads what that command wrote: the words there are no longer as they stood at
acceptance (R110). -/
def State.matFresh (s : State) (core : Nat) (o : MatOp) : MatOp :=
  if o.stalls.isEmpty then o
  else
    let k := s.core core
    let fresh := fun (w : Bool) (old now : SMap 8) => o.stalls.foldl (fun m e =>
      if e.1 == w then ssets m ((List.range (e.2.2 - e.2.1)).map (fun j => (e.2.1 + j, sget now (e.2.1 + j)))) else m) old
    { o with aOld := fresh false o.aOld k.a, wOld := fresh true o.wOld k.w, stalls := [] }

/-- Stores of the issuing group to a local space of the core, earlier in issue order and still in flight, come first
(R112). -/
def State.matWaits (s : State) (core : Nat) (o : MatOp) : Bool :=
  match (s.group? o.gk).filter (fun g => g.tk o.gk == o.tk) with
  | none => false
  | some g => g.ops.any (fun p => p.id < o.issued && (p.kind == .store || p.kind == .release || p.kind == .atomic) && p.accs.any (fun a =>
      match a.place with
      | .glob pa => (match s.locate pa with
        | .glob _ => false
        | .aspc c _ | .wspc c _ => c == core)
      | .aspc c _ | .wspc c _ => c == core))

/-- Consumes the poisoned sectors that an operation had not met before (R400). -/
def State.matConsume (s : State) (o : MatOp) (l : List Place) : State × MatOp :=
  let new := l.filter (fun p => !o.eaten.contains p)
  let part := ((s.team? o.tk).map (·.part)).getD 64
  (new.foldl (fun s p => s.consume part p) s,
    { o with eaten := o.eaten ++ new, flags := o.flags ||| flagIf (!l.isEmpty) fPOISON })

/-- Whether two entries of the queue are one operation: it is known by its group's slot and team and its place in issue order. -/
def MatOp.same (a b : MatOp) : Bool := a.gk == b.gk && a.tk == b.tk && a.issued == b.issued

/-- Replaces an operation of the queue. -/
def State.putOp (s : State) (core : Nat) (o : MatOp) : State :=
  s.modCore core (fun c => { c with mq := c.mq.map (fun m => if m.same o then o else m) })

/-- Retire (R134, R276): `tc` falls and the flags are set, in the saved copy where the group is saved. Operands that it read in a local
space are the farthest memory of a tagged operation (R381). -/
def State.matRetire (s : State) (core : Nat) (o : MatOp) : State :=
  let s := if o.kind = .ldmeta || o.aReg.isNone || o.bReg.isNone then s.fireLevel o.gk o.tk o.issued 7 else s
  let s := s.modCore core (fun c => { c with mq := c.mq.filter (fun m => !m.same o) })
  (s.modAnyGroup o.gk o.tk (fun g => { g.addFlags o.flags with tc := g.tc - 1 })).maybeEnd o.gk

/-- Performs one slice of an operation; after the last it retires. -/
def State.matSlice (s : State) (core : Nat) (o : MatOp) : State :=
  let l := [false, true].flatMap (fun b => let x := s.matSide core o b; s.poisonIn core x (x.ranges o.k o.slice))
  let words := s.sliceWords core o
  let marked := s.sliceMarked core o
  let short := s.sliceShort core o
  let bad := (s.core core).accBad (words.map (·.1))
  let r := (s.accConsume core (((s.team? o.tk).map (·.part)).getD 64) bad).matConsume o l
  let s : State := r.1
  let o : MatOp := r.2
  let s : State := if marked && !o.marked then s.modPart (((s.team? o.tk).map (·.part)).getD 64) (fun p => { p with markers := min (2 ^ 32 - 1) (p.markers + 1) }) else s
  let o : MatOp := { o with
    marked := o.marked || marked, slice := o.slice + 1,
    flags := words.foldl (fun f e => f ||| e.2.2) (o.flags ||| flagIf (marked || short) fINV ||| flagIf (!bad.isEmpty) fPOISON) }
  let s := s.modCore core (fun c => c.putAcc (words.map (fun e => (e.1, e.2.1))))
  if o.k / 32 ≤ o.slice then s.matRetire core o else s.putOp core o

/-- The side of an LDMETA: 256 bytes of A-space at an offset (R275). -/
def State.metaSide (s : State) (o : MatOp) : Side :=
  let f := fun (f : Team → Nat) => 4096 * ((s.team? o.tk).map f).getD 0
  { b := false, t := .i8, reg := none, pair := o.aPair, base := f (·.abase), size := f (·.asize), bm := none }

/-- An MMAS accepted before an LDMETA that overtakes it (R274) keeps the bitmaps that its metadata registers held (R275, R276). -/
def Core.keepBitmaps (k : Core) (tk n : Nat) : List MatOp → List MatOp
  | [] => []
  | m :: r =>
    if m.kind = .ldmeta then m :: r
    else
      let old := some (sget k.metar n)
      (if m.kind = .mmas && m.tk == tk then
        { m with bmA := if m.bmA.isNone && m.ma == n then old else m.bmA, bmB := if m.bmB.isNone && m.mb == n then old else m.bmB }
      else m) :: k.keepBitmaps tk n r

/-- Performs an LDMETA: bit n of the register is bit n mod 8 of byte n div 8 (R275). -/
def State.metaLoad (s : State) (core : Nat) (o : MatOp) : State :=
  let x := s.metaSide o
  let l := s.poisonIn core x [(pairBase o.aPair, 256)]
  let v := BitVec.ofNat 2048 (ofBytes ((List.range 256).map (fun j => BitVec.ofNat 8 (s.matByte core o x 0 (pairBase o.aPair + j)))))
  let r := s.matConsume o l
  let s : State := r.1
  let o : MatOp := r.2
  (s.modCore core (fun c => { c with metar := sset c.metar o.ma v, mq := c.keepBitmaps o.tk o.ma c.mq })).matRetire core o

/-- Whether an operation is on a tile of a team; an LDMETA is on none (R274, R275, R277). -/
def MatOp.onTile (o : MatOp) (tk tile : Nat) : Bool := o.kind != .ldmeta && o.tk == tk && o.tile == tile

/-- The operation that the unit performs next (R274, R276): the first that is not stopped and whose tile no stopped one
before it is on; `blocked` lists the team and tile of those passed. -/
def nextMat : List MatOp → List (Nat × Nat) → Option MatOp
  | [], _ => none
  | o :: r, blocked =>
    if o.stopped || blocked.any (fun b => o.onTile b.1 b.2) then nextMat r (blocked ++ [(o.tk, o.tile)]) else some o

/-- The ranges of the commands that hold the next reads of an operation (R83). -/
def State.matHeld (s : State) (core : Nat) (o : MatOp) : List (Bool × Nat × Nat) :=
  if o.kind = .ldmeta then s.matStalls core (s.metaSide o) [(pairBase o.aPair, 256)]
  else [false, true].flatMap (fun b => let x := s.matSide core o b; s.matStalls core x (x.ranges o.k o.slice))

/-- MATRIX_OP_RETIRE (R270, R276): the unit performs the next slice in acceptance order; with its last slice the
operation retires. Its operand reads may stall it. -/
def execMatrixOpRetire (core : Nat) (s : State) : Host.Outcome State Fault Refusal :=
  match nextMat (s.core core).mq [] with
  | none => .next s
  | some o =>
    if s.matWaits core o then .next s
    else
      let l := s.matHeld core o
      .next (if !l.isEmpty then s.putOp core { o with stalls := l ++ o.stalls.filter (fun e => !l.contains e) }
        else if o.kind = .ldmeta then s.metaLoad core (s.matFresh core o) else s.matSlice core (s.matFresh core o))

end Sys2Proof.Machine
end

