-- ==== Sys2Proof/Machine/Control.lean ====
section
/-! DEFINITION. Control, synchronisation, scheduling and system instructions of formats J and Y (R204 to
R231), with the two ends of a wait in MWAIT (R219). -/

namespace Sys2Proof.Machine

/-! ### Branches (R207) -/

/-- Target of a displacement (R157). -/
def target (pc : Nat) (disp : BitVec 32) : BitVec 32 := BitVec.ofNat 32 pc + disp

/-- The loop buffer of a scheduler captures a backward branch that one of its groups takes at two consecutive issues of that
instruction (R43). A branch to itself counts as backward, and other branches of the group or of other groups between the two
issues do not matter (DEDUCED, log 79). -/
def State.loopCapture (s : State) (i : Issue) (dest : Nat) (taken : Bool) : State :=
  s.modCore (coreOf i.gk) (fun c =>
    let last := (kget c.lastBack i.gk).getD []
    if i.pc < dest then c
    else if !taken then { c with lastBack := kset c.lastBack i.gk (ndel last i.pc) }
    else
      let c' := { c with lastBack := kset c.lastBack i.gk (nins last i.pc) }
      if last.contains i.pc && i.pc + 8 - dest ≤ 8192 then { c' with loops := kset c.loops (slotOf i.gk / 16) (i.g.part, i.g.image, dest, i.pc + 8) } else c')

def jump (opc : Nat) (h : Hdr) (o : JOps) (s : State) : Host.Outcome State Fault Refusal :=
  perform s h { len := 8, opc := opc } noFaults noHold (fun s i =>
    (s.modGroup i.gk (fun g => { g with pcv := setLanes g.pcv i.exe (fun _ => target i.pc o.disp) })).loopCapture i (target i.pc o.disp).toNat (i.exe != 0))

/-- Lanes of `exe` whose target is misaligned or beyond the code (R411, SUBC 6). -/
def badTargets (r : Nat) (s : State) (i : Issue) : List Flt :=
  let csz := ((s.gvar? i.g).map (·.csz)).getD 0
  let m := maskOf ((lanesOf i.exe).filter (fun l => (i.g.vr r l).toNat % 4 != 0 || csz ≤ (i.g.vr r l).toNat))
  if m = 0 then [] else [{ subc := 6, lanes := m }]

def jumpReg (opc : Nat) (h : Hdr) (o : JOps) (s : State) : Host.Outcome State Fault Refusal :=
  perform s h { len := 8, opc := opc, v := [o.d.toNat] } (badTargets o.d.toNat) noHold
    (onGroup (fun i g => { g with pcv := setLanes g.pcv i.exe (fun l => i.g.vr o.d.toNat l) }))

/-- NOP (R209): no effect. -/
def execNop (h : Hdr) (bytes : Nat) (s : State) : Host.Outcome State Fault Refusal :=
  perform s h { len := bytes, opc := 0x00 } noFaults noHold (fun s _ => s)
/-- BRA (R207). -/
def execBra (h : Hdr) (o : JOps) (s : State) : Host.Outcome State Fault Refusal := jump 0x01 h o s
/-- BRX (R207). -/
def execBrx (h : Hdr) (o : JOps) (s : State) : Host.Outcome State Fault Refusal := jumpReg 0x02 h o s
/-- JMP (R207). -/
def execJmp (h : Hdr) (o : JOps) (s : State) : Host.Outcome State Fault Refusal := jump 0x03 h o s
/-- CALL (R207): the return offset is written and the lanes branch within the same issue. -/
def execCall (h : Hdr) (o : JOps) (s : State) : Host.Outcome State Fault Refusal :=
  perform s h { len := 8, opc := 0x04, v := [o.d.toNat] } noFaults noHold
    (onGroup (fun i g => { g.putV ((lanesOf i.exe).map (fun l => (32 * o.d.toNat + l, BitVec.ofNat 32 (i.pc + 8)))) with
      pcv := setLanes g.pcv i.exe (fun _ => target i.pc o.disp) }))
/-- RET (R207). -/
def execRet (h : Hdr) (o : JOps) (s : State) : Host.Outcome State Fault Refusal := jumpReg 0x05 h o s

/-! ### Rejoin, yield, exit (R208, R209) -/

/-- ENROL (R26): lanes of `exe` set in a predicate join the barrier's mask. -/
def execEnrol (h : Hdr) (o : JOps) (s : State) : Host.Outcome State Fault Refusal :=
  perform s h { len := 8, opc := 0x06 } noFaults noHold
    (onGroup (fun i g => { g with rmask := sset g.rmask o.bar.toNat (sget g.rmask o.bar.toNat ||| (i.exe &&& i.g.pr (fld o.d 2 0))) }))
/-- REJOIN (R26): enrolled lanes of `exe` wait, their counters at the instruction until the release. -/
def execRejoin (h : Hdr) (o : JOps) (s : State) : Host.Outcome State Fault Refusal :=
  perform s h { len := 8, opc := 0x07 } noFaults noHold
    (onGroup (fun i g =>
      let w := i.exe &&& sget g.rmask o.bar.toNat
      { g with rwait := sset g.rwait o.bar.toNat (sget g.rwait o.bar.toNat ||| w), pcv := setLanes g.pcv w (fun _ => BitVec.ofNat 32 i.pc) }))
/-- YIELD (R28). -/
def execYield (h : Hdr) (o : JOps) (s : State) : Host.Outcome State Fault Refusal :=
  let _ := o
  perform s h { len := 8, opc := 0x08 } noFaults noHold (onGroup (fun i g => { g with yielded := i.exe }))
/-- EXIT (R25, R209, R413). -/
def execExit (h : Hdr) (o : JOps) (s : State) : Host.Outcome State Fault Refusal :=
  let _ := o
  perform s h { len := 8, opc := 0x09, noTx := true } noFaults noHold (onGroup (fun i g => g.exit i.exe))

/-- Limits of WAIT: lc, sc, cc, tc (R149). -/
def waitMet (g : Group) (d : BitVec 32) : Bool :=
  g.lc ≤ fld d 5 0 && g.sc ≤ fld d 11 6 && g.cc ≤ fld d 17 12 && g.tc ≤ fld d 23 18

/-- WAIT (R210): stalls at issue until the counters are at or below their limits. -/
def execWait (h : Hdr) (o : JOps) (s : State) : Host.Outcome State Fault Refusal :=
  perform s h { len := 8, opc := 0x0a, always := true } noFaults (fun s i => if waitMet i.g o.disp then none else some s) (fun s _ => s)

/-! ### Rendezvous points (R211 to R214) -/

def State.point (s : State) (i : Issue) (n : Nat) : BitVec 64 := ((s.team? (i.g.tk i.gk)).map (fun t => sget t.rv n)).getD 0

/-- RVINIT (R212). -/
def execRvinit (h : Hdr) (o : YOps) (s : State) : Host.Outcome State Fault Refusal :=
  let n := o.spec.toNat
  perform s h { len := 8, opc := 0x10, always := true }
    (fun s i => if i.exe != 0 && rvInit (s.point i n) && fld (s.point i n) 15 0 != o.imm.toNat then [{ subc := 5, lanes := i.exe }] else [])
    noHold
    (fun s i => s.modTeam (i.g.tk i.gk) (fun t => if rvInit (sget t.rv n) then t else { t with rv := sset t.rv n (rvWord o.imm.toNat o.imm.toNat false true) }))

/-- Illegal use of an uninitialised point (R411, SUBC 5). -/
def pointFault (n : Nat) (s : State) (i : Issue) : List Flt :=
  if i.exe != 0 && !rvInit (s.point i n) then [{ subc := 5, lanes := i.exe }] else []

/-- RVARRIVE (R213): one arrival, a release at TEAM scope that waits for the group's earlier accesses; its
commit tests the armed flags (R135). -/
def execRvarrive (h : Hdr) (o : YOps) (s : State) : Host.Outcome State Fault Refusal :=
  let n := o.spec.toNat
  perform s h { len := 8, opc := 0x11, noTx := true } (pointFault n)
    (fun s i => if i.exe != 0 && !i.g.ops.isEmpty then some s else none)
    (fun s i =>
      if i.exe = 0 then s
      else
        let s := (s.arrive (i.g.tk i.gk) n).commitTo i.gk i.exe (i.pc + 8)
        s.modGroup i.gk (fun g => if armedFlags g.sflags = 0 then g
          else { g.raise 1 0 with flagCode := armedFlags g.sflags, flagAt := some (BitVec.ofNat 32 (i.pc + 8)) }))

/-- RVWAIT (R214): stalls at issue until PHASE equals ph. -/
def execRvwait (h : Hdr) (o : YOps) (s : State) : Host.Outcome State Fault Refusal :=
  let n := o.spec.toNat
  perform s h { len := 8, opc := 0x12 } (pointFault n)
    (fun s i => if i.exe != 0 && rvPhase (s.point i n) != o.f then some s else none) (fun s _ => s)

/-! ### MONITOR and MWAIT (R216 to R219) -/

/-- Address faults of a MONITOR operand (R217, R420). -/
def monitorFault (a : Nat) (s : State) (i : Issue) : List Flt :=
  let x := i.g.sr a
  let size := ((s.team? (i.g.tk i.gk)).map (fun t => 4096 * t.asize)).getD 0
  if i.exe = 0 then []
  else if !x.getLsbD 63 then (if fld x 62 56 != 0 then [{ event := 15, subc := 2, lanes := i.exe }] else [])
  else if fld x 62 19 != 0 || size ≤ fld x 18 0 then [{ event := 15, subc := 3, lanes := i.exe }] else []

/-- The snapshot read of a watch sets WATCH on a sector homed in this package: an M or E owner is downgraded, so that no core
holds it in E or M from then on (R87, R218). -/
def State.watchSector (s : State) (pa : Nat) : State :=
  match s.locate pa with
  | .glob _ =>
    if s.isGone pa || s.isPeer pa then s
    else
      let s := (s.l2Fill (pa / 256)).dirShare (pa / 64)
      s.setDir (pa / 64) { s.dirEnt (pa / 64) with watch := true }
  | _ => s
def State.watchHome (s : State) : Place → State
  | .glob pa => s.watchSector pa
  | _ => s

/-- The line that a watch names is found again by its virtual address: its page may have moved since the MONITOR (R216, R219).
Where it no longer translates, the watch keeps its place. -/
def State.rewatch (s : State) (gk : Nat) : State :=
  match s.group? gk with
  | none => s
  | some g =>
    if !g.watch.armed || g.watch.loc then s
    else match s.coreXlate (coreOf gk) g.part .load (64 * g.watch.line.toNat) with
      | (.ok pa, s) =>
        if g.watch.home == .glob pa then s
        else (s.modGroup gk (fun g => { g with watch := { g.watch with home := .glob pa } })).watchSector pa
      | (.bad _, s) => s

/-- MONITOR (R217): arms the watch and reads the line as a relaxed load counted by lc. Re-executed after a region-entry stop,
by a lane that had executed it in the region, on the saved line, it keeps SNAP and TRIG; the address is translated all the same. -/
def execMonitor (h : Hdr) (o : YOps) (s : State) : Host.Outcome State Fault Refusal :=
  let a := o.a.toNat
  perform s h { len := 8, opc := 0x13, s := [a], access := true } (monitorFault a)
    (fun s i => if i.exe != 0 && 63 ≤ i.g.lc then some s else none)
    (fun s i =>
      if i.exe = 0 then s
      else
        let x := i.g.sr a
        let loc := x.getLsbD 63
        let line := BitVec.ofNat 56 (if loc then fld x 18 6 else fld x 55 6)
        let w := i.g.watch
        let va := fld x 55 6 * 64
        let kept := w.keep &&& i.exe != 0 && w.loc == loc && w.line == line
        let arm := fun (s : State) (home : Place) =>
          if kept then (s.modGroup i.gk (fun g => { g with watch := { w with
            keep := g.watch.keep &&& ~~~i.exe, lanes := g.watch.lanes ||| i.exe, home := home } })).watchHome home
          else
            let s := if i.g.ops.any (fun p => p.kind == .snapshot) then s.modGroup i.gk (fun g => { g with lc := g.lc - 1 }) else s
            s.modGroup i.gk (fun g => { g with
              watch := { armed := true, loc := loc, line := line, home := home, lanes := i.exe }, lc := g.lc + 1, nextOp := g.nextOp + 1,
              ops := g.ops.filter (fun p => p.kind != .snapshot) ++
                [{ id := g.nextOp, kind := .snapshot, accs := [{ lane := lowest i.exe, va := BitVec.ofNat 64 va, place := home, size := 64 }], exe := i.exe }] })
        if loc then
          let base := ((s.team? (i.g.tk i.gk)).map (fun t => 4096 * t.abase)).getD 0
          arm s (.aspc (coreOf i.gk) (base + fld x 18 6 * 64))
        else
          match s.coreXlate (coreOf i.gk) i.g.part .load va with
          | (.ok pa, s) => arm s (.glob pa)
          | (.bad f, s) => s.pageFault i.gk [{ f with lanes := i.exe }])

/-- The line of a watch as it stands. -/
def State.watchLine (s : State) (w : Watch) : BitVec 512 := BitVec.ofNat 512 (ofBytes (s.loadValue w.home 64))
/-- Whether a wait on the watch is over: TRIG, or the line differs from the bound snapshot (R219). -/
def State.watchDue (s : State) (w : Watch) : Bool := !w.armed || w.trig || (w.bound && s.watchLine w != w.snap)

/-- The earlier of two time limits. -/
def earlier : Option Nat → Option Nat → Option Nat
  | some a, some b => some (min a b)
  | some a, none => some a
  | none, b => b

/-- The comparison of every resume (R219): lanes in MWAIT go on where the line differs from the snapshot. -/
def State.rewait (s : State) (gk : Nat) : State :=
  match s.group? gk with
  | none => s
  | some g =>
    if g.mwait = 0 then s
    else (s.rewatch gk).modGroup gk (fun g => if (s.rewatch gk).watchDue g.watch then g.wake else g)

/-- MWAIT (R219): the lanes of `exe` wait, unless the watch is not armed; a wait that is over ends at once. The wait ends for all
lanes at the first limit of any. -/
def execMwait (h : Hdr) (o : YOps) (s : State) : Host.Outcome State Fault Refusal :=
  perform s h { len := 8, opc := 0x14, s := [o.a.toNat] } noFaults noHold (fun s i =>
    let lim := (i.g.sr o.a.toNat).toNat
    if i.exe = 0 || !i.g.watch.armed then s
    else
      (s.modGroup i.gk (fun g => { g with
        mwait := g.mwait ||| i.exe, pcv := setLanes g.pcv i.exe (fun _ => BitVec.ofNat 32 i.pc),
        mwaitEnd := earlier g.mwaitEnd (if lim = 0 then none else some (s.clock.now + lim)) })).rewait i.gk)

/-- MWAIT_WAKE (R219): the wait ends once TRIG is set. -/
def execMwaitWake (gk : Nat) (s : State) : Host.Outcome State Fault Refusal :=
  .next (s.modGroup gk (fun g => if g.mwait != 0 && g.st == .running && (g.watch.trig || !g.watch.armed) then g.wake else g))

/-- MWAIT_TIMEOUT (R219): the time limit has expired. -/
def execMwaitTimeout (gk : Nat) (s : State) : Host.Outcome State Fault Refusal :=
  .next (s.modGroup gk (fun g => match g.mwaitEnd with
    | some t => if t ≤ s.clock.now && g.st == .running then g.wake else g
    | none => g))

/-! ### Scheduling (R220 to R222) -/

/-- FETCHW (R45, R220): a lodge group waits for its slot to be empty and for a grant. -/
def execFetchw (h : Hdr) (o : YOps) (s : State) : Host.Outcome State Fault Refusal :=
  let _ := o
  perform s h { len := 8, opc := 0x15, roles := [.lodge], always := true, noTx := true } noFaults
    (fun s i => if i.g.fetchw.isSome then none
      else if s.inn.fetch.any (fun f => f.gk == i.gk) then some s
      else some (((s.stamped i.gk 18).modGroup i.gk (fun g => { g with fetchAt := some (i.exe, BitVec.ofNat 32 (i.pc + 8)) })).setInn
        { s.inn with fetch := s.inn.fetch ++ [{ gk := i.gk, at_ := s.meshNow }] }))
    (fun s i => (s.modGroup i.gk (fun g => { g with fetchw := none })).commitTo i.gk i.exe (i.pc + 8))

/-- The Innkeeper delivers a grant to a lodge group: its FETCHW completes and commits (R40, R59, R220). A stop that strikes before
the group issues past it finds the region entry moved. -/
def State.deliver (s : State) (gk : Nat) : State :=
  s.modGroup gk (fun g => match g.fetchAt with
    | some (m, off) => { g with fetchw := some (m, off), fetchAt := none }.setEntry m (fun _ => off)
    | none => g)

/-- Whether a team runs whole: none of its groups is evicted, and none is held at a precise stop (R63). -/
def State.teamWhole (s : State) (tk : Nat) : Bool :=
  !((s.team? tk).map (·.partial_)).getD false &&
  !s.groups.any (fun e => e.2.tk e.1 == tk && e.2.st != .running && (atWaypoint e.2.event || e.2.event == 5))

/-- A switch request posted while its team did not run whole takes effect once it does (R63). -/
def State.wholeAgain (s : State) (tk : Nat) : State :=
  if s.teamWhole tk then s.modTeam tk (fun t => { t with later := false }) else s

/-- SWITCHV (R63, R221): a converged group arrives at a pending switch; otherwise its lanes move past. While some groups of the
team are evicted, the others wait there if the request was posted before (R66, R69). -/
def execSwitchv (h : Hdr) (o : YOps) (s : State) : Host.Outcome State Fault Refusal :=
  perform s h { len := 8, opc := 0x16, roles := [.copy, .matrix, .general], always := true } noFaults noHold (fun s i =>
    let s := s.wholeAgain (i.g.tk i.gk)
    let pend := ((s.team? (i.g.tk i.gk)).map (fun t => t.request.isSome && !t.later)).getD false
    if pend && !i.g.handler && i.act = i.g.live then
      s.modGroup i.gk (fun g => { g with arrived := some o.imm.toNat, pcv := setLanes g.pcv i.act (fun _ => BitVec.ofNat 32 i.pc) })
    else s)

/-- The register words of an extended block, to be cleared (R30). -/
def Group.clearBlock (g : Group) (n : Nat) : Group := { g with v := g.v.filter (fun e => e.1 / 2048 != n) }

/-- Whether another group of the team has waited longer for a block (R222). -/
def State.behind (s : State) (i : Issue) (what : Nat) : Bool :=
  s.groups.any (fun e => e.1 != i.gk && e.2.tk e.1 == i.g.tk i.gk && e.2.st == .running && e.2.stopEv.isNone &&
    match e.2.stamp, i.g.stamp with
    | some (a, k), some (b, _) => k == what && a < b
    | some (_, k), none => k == what
    | _, _ => false)

/-- XACQ (R31, R222). -/
def execXacq (h : Hdr) (o : YOps) (s : State) : Host.Outcome State Fault Refusal :=
  let n := o.spec.toNat
  perform s h { len := 8, opc := 0x17, always := true, noTx := true }
    (fun _ i => if !i.g.held.getLsbD n && (!i.g.held.getLsbD (n - 1) || i.g.budget ≤ n) then [{ subc := 4, lanes := i.lanes }] else [])
    (fun s i => if i.g.held.getLsbD n then none
      else if ((s.team? (i.g.tk i.gk)).map (·.poolFree)).getD 0 = 0 || s.behind i 16 then some (s.stamped i.gk 16) else none)
    (fun s i => if i.g.held.getLsbD n then s
      else (s.modTeam (i.g.tk i.gk) (fun t => { t with poolFree := t.poolFree - 1 })).modGroup i.gk (fun g =>
        { g with held := g.held ||| BitVec.ofNat 4 (2 ^ n) }.clearBlock n))

/-- XREL (R31, R222): waits for the matrix operations that read the block. -/
def execXrel (h : Hdr) (o : YOps) (s : State) : Host.Outcome State Fault Refusal :=
  let n := o.spec.toNat
  perform s h { len := 8, opc := 0x18, always := true, noTx := true }
    (fun _ i => if n < 3 && i.g.held.getLsbD (n + 1) then [{ subc := 4, lanes := i.lanes }] else [])
    (fun s i => if i.g.held.getLsbD n && (s.core (coreOf i.gk)).mq.any (fun m => s.matOf i.gk m && m.blocks.getLsbD n) then some s else none)
    (fun s i => if !i.g.held.getLsbD n then s
      else (s.modTeam (i.g.tk i.gk) (fun t => { t with poolFree := t.poolFree + 1 })).modGroup i.gk (fun g =>
        { g with held := g.held &&& ~~~BitVec.ofNat 4 (2 ^ n) }.clearBlock n))

/-! ### Service calls (R223 to R225) -/

/-- The request record of an SVC (R223). -/
def svcRecord (s : State) (i : Issue) (o : YOps) : BitVec 512 :=
  let wiid := ((s.team? (i.g.tk i.gk)).map (fun t => t.wiid.toNat)).getD 0
  let ord := (((s.gvar? i.g).bind (fun v => v.wpAt (i.pc + 8))).map (·.1)).getD 0xFFFF
  pack 512 [(224, 32, i.exe.toNat), (264, 4, i.g.grpid), (268, 4, i.g.tslot), (280, 8, coreOf i.gk),
    (288, 32, if i.g.kind == .lodge then 0 else wiid), (336, 16, ord), (352, 2, i.g.var), (354, 6, i.g.part), (368, 16, o.imm.toNat),
    (392, 56, fld (i.g.sr o.a.toNat) 55 0), (448, 64, (i.g.sr o.b.toNat).toNat)]

/-- Faults of the reply-slot address (R223, R411, R420). -/
def svcFault (o : YOps) (app : Bool) (s : State) (i : Issue) : List Flt :=
  let x := i.g.sr o.a.toNat
  if i.exe = 0 then []
  else (if fld x 5 0 != 0 then [{ subc := 9, lanes := i.exe }] else [])
    ++ (if app && ((s.part? i.g.part).bind (·.sring)).isNone then [{ subc := 12, lanes := i.exe }] else [])
    ++ (if fld x 63 56 != 0 then [{ event := 15, subc := 2, lanes := i.exe }] else [])

/-- Translates the reply slot as a load, then does `k`. -/
def State.svcTranslated (s : State) (i : Issue) (o : YOps) (k : State → State) : State :=
  match s.xlate (clusterOf (coreOf i.gk)) i.g.part .load (fld (i.g.sr o.a.toNat) 55 0) with
  | (.ok _, s) => k s
  | (.bad f, s) => s.pageFault i.gk [{ f with lanes := i.exe }]

/-- Whether the reply slot translates as a load: a refused translation strikes before the post can stall (R223). -/
def State.svcReaches (s : State) (i : Issue) (o : YOps) : Bool :=
  match (s.xlate (clusterOf (coreOf i.gk)) i.g.part .load (fld (i.g.sr o.a.toNat) 55 0)).1 with
  | .ok _ => true
  | .bad _ => false

/-- SVC.OSTLER (R223, R346): posts a request record to the core's Ostler. -/
def execSvcOstler (h : Hdr) (o : YOps) (s : State) : Host.Outcome State Fault Refusal :=
  perform s h { len := 8, opc := 0x19, s := [o.a.toNat, o.b.toNat], noTx := true } (svcFault o false)
    (fun s i => let c := s.core (coreOf i.gk)
      if i.exe != 0 && s.svcReaches i o && 16 ≤ c.reqTail - c.reqHead then some (s.stamped i.gk 17) else none)
    (fun s i => if i.exe = 0 then s
      else s.svcTranslated i o (fun s =>
        (s.modCore (coreOf i.gk) (fun c => { c with reqq := sset c.reqq (c.reqTail % 16) (svcRecord s i o), reqTail := c.reqTail + 1 })).commitTo
          i.gk i.exe (i.pc + 8)))

/-- The partition's service ring has no room, or does not translate (R225, R447). -/
def State.svcFull (s : State) (part : Nat) (rec : BitVec 512) : Bool :=
  match (s.part? part).bind (·.sring) with
  | some r => match s.ringPost part r 64 true (fun _ => rec) with
    | .posted _ => false
    | _ => true
  | none => false

/-- Whether another group of the partition has waited longer for the service ring (R447). -/
def State.ringBehind (s : State) (i : Issue) : Bool :=
  s.groups.any (fun e => e.1 != i.gk && e.2.part == i.g.part && e.2.st == .running && e.2.stopEv.isNone &&
    match e.2.stamp, i.g.stamp with
    | some (a, k), some (b, _) => k == 19 && a < b
    | some (_, k), none => k == 19
    | _, _ => false)

/-- SVC.APP (R223, R225): posts a request record to the service ring, a release at PACKAGE scope. Those that stall post in the order
in which they came to it (R447). -/
def execSvcApp (h : Hdr) (o : YOps) (s : State) : Host.Outcome State Fault Refusal :=
  perform s h { len := 8, opc := 0x19, s := [o.a.toNat, o.b.toNat], noTx := true } (svcFault o true)
    (fun s i => if i.exe = 0 || !s.svcReaches i o then none
      else if !i.g.ops.isEmpty then some s
      else if s.svcFull i.g.part (svcRecord s i o) || s.ringBehind i then some (s.stamped i.gk 19) else none)
    (fun s i => if i.exe = 0 then s
      else s.svcTranslated i o (fun s =>
        match (s.part? i.g.part).bind (·.sring) with
        | some r => match s.ringPost i.g.part r 64 true (fun _ => svcRecord s i o) with
          | .posted s => s.commitTo i.gk i.exe (i.pc + 8)
          | .full s | .unmapped s => s
        | none => s))

/-! ### Traps and handler return (R226, R227) -/

def State.handlerOf (s : State) (g : Group) : Option Nat := (s.gvar? g).bind (·.handler)

/-- TRAP (R226): enters the handler, or parks a variant without one, or is left pending in handler mode. A lane of its `exe` that
aborts in a transaction resumes at its label (R249, R250). While another lane is in a transaction the park is held: the cause stays
pending, and is taken at the first waypoint that the group reaches with no lane in one (R255). -/
def execTrap (h : Hdr) (o : YOps) (s : State) : Host.Outcome State Fault Refusal :=
  let code := o.imm.toNat
  perform s h { len := 8, opc := 0x1a, noTx := true } noFaults
    (fun s i => if i.exe = 0 || i.g.handler || ((s.handlerOf i.g).isNone && i.g.intx != 0) then none
      else if i.g.lc != 0 || ((s.handlerOf i.g).isNone && i.g.sc != 0) then some s else none)
    (fun s i =>
      if i.exe = 0 then s
      else if i.g.handler then s.modGroup i.gk (fun g => g.raise 0 code)
      else
        let now := ((s.group? i.gk).getD i.g)
        let resume := fun l => if i.exe.getLsbD l then BitVec.ofNat 32 (i.pc + 8)
          else if i.g.intx.getLsbD l && !now.intx.getLsbD l then sget now.pcv l else sget i.g.pcv l
        match s.handlerOf i.g with
        | some off => s.modGroup i.gk (fun g => g.enterHandler 0 code off resume)
        | none =>
          if now.intx != 0 || now.lc != 0 || now.sc != 0 then s.modGroup i.gk (fun g => g.raise 0 code)
          else (s.modGroup i.gk (fun g => { g with
            pcv := ssets [] ((List.range 32).map (fun l => (l, resume l))),
                                                     cause := setFld (setFld g.cause 48 16 code) 8 3 0 })).park i.gk 5)

/-- HRET (R227): delivers a pending cause, or resumes the lanes of `hmask`. -/
def execHret (h : Hdr) (o : YOps) (s : State) : Host.Outcome State Fault Refusal :=
  let _ := o
  perform s h { len := 8, opc := 0x1b, always := true }
    (fun _ i => if i.exe != 0 && !i.g.handler then [{ subc := 8, lanes := i.exe }] else []) noHold
    (fun s i =>
      if !i.g.handler then s
      else match i.g.pending, s.handlerOf i.g with
        | some c, some off => s.modGroup i.gk (fun g => g.reenter c off)
        | _, _ => s.modGroup i.gk (fun g => g.leaveHandler))

/-! ### Special registers, flags, window marks (R228 to R231) -/

/-- The value of a special register (R151, R228). -/
def State.special (s : State) (i : Issue) (n : Nat) (l : Nat) : BitVec 64 :=
  let t := if i.g.kind == .lodge then none else s.team? (i.g.tk i.gk)
  let f := fun (f : Team → Nat) => BitVec.ofNat 64 ((t.map f).getD 0)
  match n with
  | 0x00 => BitVec.ofNat 64 l
  | 0x01 => BitVec.ofNat 64 i.g.grpid
  | 0x02 => BitVec.ofNat 64 i.g.tslot
  | 0x03 => BitVec.ofNat 64 (coreOf i.gk)
  | 0x04 => BitVec.ofNat 64 (clusterOf (coreOf i.gk))
  | 0x05 => BitVec.ofNat 64 s.clock.pkgid
  | 0x06 => f (fun t => t.wiid.toNat)
  | 0x07 => f (·.wgx)
  | 0x08 => f (·.wgy)
  | 0x09 => f (·.wgz)
  | 0x0A => BitVec.ofNat 64 s.clock.now
  | 0x0B => BitVec.ofNat 64 s.window
  | 0x0C => i.g.sflags
  | 0x0D => i.g.cause
  | 0x0E => i.g.hmask.zeroExtend 64
  | 0x0F => s.mseq i.gk (i.g.tk i.gk)
  | _ => i.g.txcause

/-- SRD (R228). -/
def execSrd (h : Hdr) (o : YOps) (s : State) : Host.Outcome State Fault Refusal :=
  let n := o.spec.toNat
  let vec := n = 0
  perform s h { len := 8, opc := 0x1c, v := if vec then [o.d.toNat] else [], s := if vec then [] else [o.d.toNat], always := !vec } noFaults noHold
    (fun s i => s.modGroup i.gk (fun g =>
      if vec then g.putV ((lanesOf i.exe).map (fun l => (32 * o.d.toNat + l, BitVec.ofNat 32 l)))
      else g.putS o.d.toNat (s.special i n 0)))

/-- The bits of `cause` that are not reserved (R335). -/
def causeMask : BitVec 64 := 0xFFFFFFFFFFFF070F

/-- SWR (R229). -/
def execSwr (h : Hdr) (o : YOps) (s : State) : Host.Outcome State Fault Refusal :=
  let n := o.spec.toNat
  perform s h { len := 8, opc := 0x1d, s := [o.a.toNat], always := true }
    (fun _ i => if i.exe != 0 && (!(n == 0x0C || n == 0x0D || n == 0x0E) || (n != 0x0C && !i.g.handler)) then [{ subc := 7, lanes := i.exe }] else [])
    noHold
    (onGroup (fun i g =>
      let x := i.g.sr o.a.toNat
      if n = 0x0C then { g with sflags := x &&& sflagsMask }
      else if n = 0x0D && i.g.handler then { g with cause := x &&& causeMask }
      else if n = 0x0E && i.g.handler then { g with hmask := x.truncate 32 }
      else g))

/-- SFLAG.SET (R230). -/
def execSflagSet (h : Hdr) (o : YOps) (s : State) : Host.Outcome State Fault Refusal :=
  perform s h { len := 8, opc := 0x1f, always := true } noFaults noHold
    (onGroup (fun _ g => { g with sflags := g.sflags ||| (o.imm.zeroExtend 64 &&& sflagsMask) }))
/-- SFLAG.CLR (R230). -/
def execSflagClr (h : Hdr) (o : YOps) (s : State) : Host.Outcome State Fault Refusal :=
  perform s h { len := 8, opc := 0x1f, always := true } noFaults noHold
    (onGroup (fun _ g => { g with sflags := g.sflags &&& ~~~(o.imm.zeroExtend 64 &&& sflagsMask) }))

/-- WMARK (R231): begins a window advance where undo logging is on, and commits; the issuing group then stands at the E waypoint
that follows. -/
def execWmark (h : Hdr) (o : YOps) (s : State) : Host.Outcome State Fault Refusal :=
  let _ := o
  perform s h { len := 8, opc := 0x1e, noTx := true } noFaults noHold (fun s i =>
    if i.exe = 0 then s
    else
      let s := s.commitTo i.gk i.exe (i.pc + 8)
      if ((s.log? i.g.part).map (·.on)).getD false then
        (s.modPart i.g.part (fun p => { p with log := p.log.map (fun l => { l with advReq := true }) })).stopGroup i.gk 4
      else s)

end Sys2Proof.Machine
end

