-- ==== Sys2Proof/Machine/Zstd.lean ====
section
/-! DEFINITION. Zstandard frames (R288, R290, R364), as RFC 8878 gives them within the limits of R364. The spec names the RFC and
does not repeat it (PRESUMED, log 10). -/

namespace Sys2Proof

/-- What a decoder produced: the output up to the point of detection, and 0, a STATUS of R283, or 9 where the input
ended first. -/
structure Decomp where
  out    : List Byte
  status : Nat
deriving DecidableEq, Repr

/-- Copies `n` bytes from `off` bytes back in `hist`, the dictionary and the output, newest first. -/
def copyBack : Nat → Nat → List Byte → List Byte
  | 0, _, hist => hist
  | n + 1, off, hist => copyBack n off (hist.getD (off - 1) 0 :: hist)

/-! ### Bit streams -/

/-- The bits of a stream that is read forward, the least significant of each byte first. -/
def bitsFwd (bs : List Byte) : List Bool := bs.flatMap (fun b => (List.range 8).map (fun i => b.getLsbD i))

/-- The bits of a stream that is read backward, after the flag in its last byte. -/
def bitsBack (bs : List Byte) : Option (List Bool) :=
  match bs.reverse with
  | [] => none
  | b :: _ => if b = 0 then none else some (((bitsFwd bs).reverse.dropWhile (!·)).drop 1)

/-- A field of a stream read forward, its first bit the least significant; and one read backward, its first bit the most significant. -/
def takeFwd (n : Nat) (b : List Bool) : Option (Nat × List Bool) :=
  let x := b.take n
  if x.length < n then none else some (x.foldr (fun d a => d.toNat + 2 * a) 0, b.drop n)
def takeBack (n : Nat) (b : List Bool) : Option (Nat × List Bool) :=
  let x := b.take n
  if x.length < n then none else some (x.foldl (fun a d => 2 * a + d.toNat) 0, b.drop n)

/-! ### FSE tables -/

/-- A decoding table: the accuracy, and for each state the symbol, the number of bits and the base of the next state. -/
structure Fse where
  al   : Nat
  rows : List (Nat × Nat × Nat)
deriving DecidableEq, Repr

/-- The repeat flags after a probability of 0. -/
def fseZeros : Nat → List Bool → Option (Nat × List Bool)
  | 0, _ => none
  | f + 1, b => (takeFwd 2 b).bind (fun x => if x.1 = 3 then (fseZeros f x.2).map (fun y => (3 + y.1, y.2)) else some x)

/-- The probabilities of a description, newest first, −1 for "less than 1". -/
def fseProbs : Nat → Nat → List Int → List Bool → Option (List Int × List Bool)
  | 0, _, _, _ => none
  | f + 1, rem, ps, b =>
    if rem = 0 then some (ps, b)
    else do
      let n := Nat.log2 (rem + 1)
      let thr := 2 ^ (n + 1) - 1 - (rem + 1)
      let (low, r) ← takeFwd n b
      let (v, r) ← if low < thr then some (low, r) else (takeFwd 1 r).map (fun x => (if x.1 = 1 then low + 2 ^ n - thr else low, x.2))
      if v = 1 then
        let (z, r) ← fseZeros 256 r
        fseProbs f rem (List.replicate (z + 1) 0 ++ ps) r
      else fseProbs f (rem - ((v : Int) - 1).natAbs) (((v : Int) - 1) :: ps) r

/-- The rows of a table, state by state, from the symbol of each state and each symbol's next count. -/
def fseRows (al : Nat) : List Nat → List Nat → List (Nat × Nat × Nat)
  | [], _ => []
  | s :: r, next =>
    let x := next.getD s 1
    let nb := al - Nat.log2 x
    (s, nb, x * 2 ^ nb - 2 ^ al) :: fseRows al r (next.set s (x + 1))

/-- The decoding table of a distribution. -/
def fseTable (al : Nat) (ps : List Int) : Fse :=
  let size := 2 ^ al
  let few := (ps.zipIdx.filter (fun p => p.1 < 0)).map (·.2)
  let high := size - few.length
  let spots := ((List.range size).map (fun k => k * (size / 2 + size / 8 + 3) % size)).filter (fun k => decide (k < high))
  let cells := spots.zip (ps.zipIdx.flatMap (fun p => List.replicate p.1.toNat p.2)) ++ few.zipIdx.map (fun p => (size - 1 - p.2, p.1))
  { al, rows := fseRows al ((List.range size).map (fun i => ((cells.find? (fun c => c.1 == i)).map (·.2)).getD 0)) (ps.map (·.natAbs)) }

/-- A table's description, of an accuracy up to `maxAl` and symbols up to `maxSym`; the rest begins at a byte. -/
def fseHead (maxAl maxSym : Nat) (b : List Bool) : Option (Fse × List Bool) := do
  let (a, b) ← takeFwd 4 b
  let (ps, b) ← if maxAl < a + 5 then none else fseProbs 512 (2 ^ (a + 5)) [] b
  if maxSym + 1 < ps.length then none else some (fseTable (a + 5) ps.reverse, b.drop (b.length % 8))

def Fse.sym (t : Fse) (st : Nat) : Nat := (t.rows.getD st (0, 0, 0)).1
def Fse.next (t : Fse) (st : Nat) (b : List Bool) : Option (Nat × List Bool) :=
  let r := t.rows.getD st (0, 0, 0)
  (takeBack r.2.1 b).map (fun x => (r.2.2 + x.1, x.2))

/-! ### Huffman literals -/

/-- A Huffman table: the longest code, and for each prefix of that length the symbol and its code's length. -/
structure Huf where
  mb   : Nat
  rows : List (Nat × Nat)
deriving DecidableEq, Repr

/-- Weights from two states that alternate, newest first, up to the end of the stream. -/
def hufWeights (t : Fse) : Nat → Nat → Nat → List Bool → List Nat → Option (List Nat)
  | 0, _, _, _, _ => none
  | f + 1, x, y, b, o =>
    match t.next x b with
    | none => some (t.sym y :: t.sym x :: o)
    | some (x', b) => hufWeights t f y x' b (t.sym x :: o)

/-- The table of a list of weights, the last symbol's left out. -/
def hufTable (ws : List Nat) : Option Huf :=
  let sum := (ws.map (fun w => if w = 0 then 0 else 2 ^ (w - 1))).foldl (· + ·) 0
  let mb := Nat.log2 sum + 1
  let left := 2 ^ mb - sum
  if sum = 0 || 11 < mb || 255 < ws.length || left != 2 ^ Nat.log2 left then none
  else
    let all := (ws ++ [Nat.log2 left + 1]).zipIdx
    some { mb, rows := (List.range mb).flatMap (fun k => (all.filter (fun p => p.1 == k + 1)).flatMap (fun p => List.replicate (2 ^ k) (p.2, mb - k))) }

/-- A tree description at the head of `bs`. -/
def hufHead (bs : List Byte) : Option (Huf × List Byte) := do
  let h ← bs.head?
  let r := bs.drop 1
  let n := if 128 ≤ h.toNat then (h.toNat - 126) / 2 else h.toNat
  let d := r.take n
  if d.length < n then none
  else
    let ws ← if 128 ≤ h.toNat then some ((d.flatMap (fun x => [x.toNat / 16, x.toNat % 16])).take (h.toNat - 127))
      else do
        let (t, b) ← fseHead 6 255 (bitsFwd d)
        let b ← bitsBack (d.drop (n - b.length / 8))
        let (x, b) ← takeBack t.al b
        let (y, b) ← takeBack t.al b
        (hufWeights t 256 x y b []).map (·.reverse)
    (hufTable ws).map (fun t => (t, r.drop n))

/-- `n` literals of a stream, newest first. -/
def hufGo (t : Huf) : Nat → List Bool → List Byte → Option (List Byte × List Bool)
  | 0, b, o => some (o, b)
  | n + 1, b, o =>
    let x := b.take t.mb
    let r := t.rows.getD (x.foldl (fun a d => 2 * a + d.toNat) 0 * 2 ^ (t.mb - x.length)) (0, 0)
    if x.length < r.2 then none else hufGo t n (b.drop r.2) (BitVec.ofNat 8 r.1 :: o)

/-- One stream of `n` literals, which uses every bit. -/
def hufStream (t : Huf) (n : Nat) (bs : List Byte) : Option (List Byte) := do
  let b ← bitsBack bs
  let (o, b) ← hufGo t n b []
  if b.isEmpty then some o.reverse else none

/-- The four streams of `n` literals, after their jump table. -/
def hufFour (t : Huf) (n : Nat) (bs : List Byte) : Option (List Byte) := do
  let k := (n + 3) / 4
  let z := fun i => ofBytes ((bs.drop (2 * i)).take 2)
  let d := bs.drop 6
  if bs.length < 6 || d.length < z 0 + z 1 + z 2 || n < 3 * k then none
  else
    let a ← hufStream t k (d.take (z 0))
    let b ← hufStream t k ((d.drop (z 0)).take (z 1))
    let c ← hufStream t k ((d.drop (z 0 + z 1)).take (z 2))
    let e ← hufStream t (n - 3 * k) (d.drop (z 0 + z 1 + z 2))
    some (a ++ b ++ c ++ e)

/-- The literals section: the literals, the tree in force and the rest of the block. -/
def literals (tree : Option Huf) (bs : List Byte) : Option (List Byte × Option Huf × List Byte) := do
  let h0 ← bs.head?
  let kind := bits h0.toNat 1 0
  let fmt := bits h0.toNat 3 2
  let hdr := fun n => ofBytes (bs.take n)
  if kind < 2 then
    let hn := if fmt = 1 then 2 else if fmt = 3 then 3 else 1
    let n := if fmt = 1 || fmt = 3 then hdr hn / 16 else hdr 1 / 8
    let d := bs.drop hn
    let m := if kind = 0 then n else 1
    if bs.length < hn || d.length < m then none
    else some (if kind = 0 then d.take n else List.replicate n (d.headD 0), tree, d.drop m)
  else
    let hn := if fmt < 2 then 3 else fmt + 2
    let w := if fmt < 2 then 10 else 4 * fmt + 6
    let n := hdr hn / 16 % 2 ^ w
    let m := hdr hn / 2 ^ (4 + w) % 2 ^ w
    let d := (bs.drop hn).take m
    if d.length < m then none
    else
      let (t, d) ← if kind = 2 then hufHead d else tree.map (fun t => (t, d))
      let o ← if fmt = 0 then hufStream t n d else hufFour t n d
      some (o, some t, bs.drop (hn + m))

/-! ### Sequences -/

/-- Baseline and extra bits of a literals-length code, and of a match-length code. -/
def llCode (c : Nat) : Nat × Nat :=
  if c < 16 then (c, 0)
  else [(16, 1), (18, 1), (20, 1), (22, 1), (24, 2), (28, 2), (32, 3), (40, 3), (48, 4), (64, 6)].getD (c - 16) (2 ^ (c - 19), c - 19)
def mlCode (c : Nat) : Nat × Nat :=
  if c < 32 then (c + 3, 0)
  else [(35, 1), (37, 1), (39, 1), (41, 1), (43, 2), (47, 2), (51, 3), (59, 3), (67, 4), (83, 4), (99, 5)].getD (c - 32) (2 ^ (c - 36) + 3, c - 36)

/-- The default distributions. -/
def llProbs : List Int :=
  [4, 3] ++ List.replicate 11 2 ++ [1, 1, 1] ++ List.replicate 9 2 ++ [3, 2] ++ List.replicate 5 1 ++ List.replicate 4 (-1)
def mlProbs : List Int := [1, 4, 3] ++ List.replicate 6 2 ++ List.replicate 37 1 ++ List.replicate 7 (-1)
def ofProbs : List Int := List.replicate 6 1 ++ List.replicate 3 2 ++ List.replicate 15 1 ++ List.replicate 5 (-1)

/-- What goes on from block to block: the tables, the repeat offsets, the history newest first, and the bytes put out. -/
structure ZState where
  huf  : Option Huf := none
  ll   : Option Fse := none
  ofs  : Option Fse := none
  ml   : Option Fse := none
  reps : Nat × Nat × Nat := (1, 4, 8)
  hist : List Byte
  n    : Nat := 0
deriving DecidableEq, Repr

/-- A table of the sequences section, by its mode: predefined, of one symbol, described, or repeated. -/
def seqTable (mode maxAl maxSym : Nat) (dflt : Fse) (old : Option Fse) (bs : List Byte) : Option (Fse × List Byte) :=
  match mode with
  | 0 => some (dflt, bs)
  | 1 => match bs with
    | b :: r => if maxSym < b.toNat then none else some ({ al := 0, rows := [(b.toNat, 0, 0)] }, r)
    | [] => none
  | 2 => (fseHead maxAl maxSym (bitsFwd bs)).map (fun x => (x.1, bs.drop (bs.length - x.2.length / 8)))
  | _ => old.map (fun t => (t, bs))

/-- A byte string goes out, within the capacity: status 4 where it does not fit. -/
def ZState.put (z : ZState) (cap : Nat) (bs : List Byte) : ZState × Nat :=
  let k := min bs.length (cap - z.n)
  ({ z with hist := (bs.take k).reverse ++ z.hist, n := z.n + k }, if k < bs.length then 4 else 0)

/-- A match of `m` bytes from `off` back; status 3 for an offset of 0 or before the dictionary. -/
def ZState.copy (z : ZState) (cap m off : Nat) : ZState × Nat :=
  if off = 0 || (z.hist.drop (off - 1)).isEmpty then (z, 3)
  else
    let k := min m (cap - z.n)
    ({ z with hist := copyBack k off z.hist, n := z.n + k }, if k < m then 4 else 0)

/-- The offset of an offset value, and the repeat offsets after it (`z`: the literals length is 0). -/
def repOffset (r : Nat × Nat × Nat) (v : Nat) (z : Bool) : Nat × (Nat × Nat × Nat) :=
  if 3 < v then (v - 3, (v - 3, r.1, r.2.1))
  else match v - 1 + z.toNat with
    | 0 => (r.1, r)
    | 1 => (r.2.1, (r.2.1, r.1, r.2.2))
    | 2 => (r.2.2, (r.2.2, r.1, r.2.1))
    | _ => (r.1 - 1, (r.1 - 1, r.1, r.2.1))

/-- One sequence: literals length, match length and offset value, from the three states. -/
def seqRead (l o m : Fse) (st : Nat × Nat × Nat) (b : List Bool) : Option ((Nat × Nat × Nat) × List Bool) := do
  let oc := o.sym st.2.1
  let (ox, b) ← takeBack oc b
  let mc := mlCode (m.sym st.2.2)
  let (mx, b) ← takeBack mc.2 b
  let lc := llCode (l.sym st.1)
  let (lx, b) ← takeBack lc.2 b
  some ((lc.1 + lx, mc.1 + mx, 2 ^ oc + ox), b)

/-- The sequences of a block, then its last literals; `top` is what the block may put out up to. -/
def seqGo (cap top : Nat) (l o m : Fse) : Nat → Nat × Nat × Nat → List Bool → List Byte → ZState → ZState × Nat
  | 0, _, b, lits, z => if !b.isEmpty || top < z.n + lits.length then (z, 3) else z.put cap lits
  | n + 1, st, b, lits, z =>
    match seqRead l o m st b with
    | none => (z, 3)
    | some ((ll, ml, ov), b) =>
      let x := (lits.take ll)
      if x.length < ll || top < z.n + ll + ml then (z, 3)
      else
        let y := z.put cap x
        if y.2 != 0 then y
        else
          let f := repOffset z.reps ov (ll = 0)
          let y := { y.1 with reps := f.2 }.copy cap ml f.1
          if y.2 != 0 then y
          else
            let nx := if n = 0 then some (st, b) else do
              let (sl, b) ← l.next st.1 b
              let (sm, b) ← m.next st.2.2 b
              let (so, b) ← o.next st.2.1 b
              some ((sl, so, sm), b)
            match nx with
            | none => (y.1, 3)
            | some (st, b) => seqGo cap top l o m n st b (lits.drop ll) y.1

/-- The number of sequences at the head of their section. -/
def seqCount (bs : List Byte) : Option (Nat × List Byte) :=
  match bs with
  | [] => none
  | a :: r =>
    if a.toNat < 128 then some (a.toNat, r)
    else if a.toNat < 255 then (r.head?).map (fun b => ((a.toNat - 128) * 256 + b.toNat, r.drop 1))
    else if r.length < 2 then none else some (ofBytes (r.take 2) + 0x7F00, r.drop 2)

/-- The tables and the stream of a sequences section of one or more sequences. -/
def seqTables (z : ZState) (bs : List Byte) : Option (Fse × Fse × Fse × List Bool) := do
  let md ← bs.head?
  let k := md.toNat
  if bits k 1 0 != 0 then none
  else
    let (l, r) ← seqTable (bits k 7 6) 9 35 (fseTable 6 llProbs) z.ll (bs.drop 1)
    let (o, r) ← seqTable (bits k 5 4) 8 31 (fseTable 5 ofProbs) z.ofs r
    let (m, r) ← seqTable (bits k 3 2) 9 52 (fseTable 6 mlProbs) z.ml r
    let b ← bitsBack r
    some (l, o, m, b)

/-- A compressed block, of at most `bmax` bytes put out. -/
def zstdBlock (cap bmax : Nat) (bs : List Byte) (z : ZState) : ZState × Nat :=
  match literals z.huf bs with
  | none => (z, 3)
  | some (lits, tree, r) =>
    let z := { z with huf := tree }
    match seqCount r with
    | none => (z, 3)
    | some (0, r) => if !r.isEmpty || bmax < lits.length then (z, 3) else z.put cap lits
    | some (n, r) =>
      let go := do
        let (l, o, m, b) ← seqTables z r
        let (sl, b) ← takeBack l.al b
        let (so, b) ← takeBack o.al b
        let (sm, b) ← takeBack m.al b
        some (l, o, m, (sl, so, sm), b)
      match go with
      | none => (z, 3)
      | some (l, o, m, st, b) => seqGo cap (z.n + bmax) l o m n st b lits { z with ll := some l, ofs := some o, ml := some m }

/-! ### Frames -/

/-- XXH64 with seed 0, of which Content_Checksum is the low half. -/
def xxP (i : Nat) : BitVec 64 :=
  [11400714785074694791, 14029467366897019727, 1609587929392839161, 9650029242287828579, 2870177450012600261].getD (i - 1) 0
def xxRound (a x : BitVec 64) : BitVec 64 := (a + x * xxP 2).rotateLeft 31 * xxP 1
def xxStripes : Nat → List Byte → List (BitVec 64) → List (BitVec 64)
  | 0, _, v => v
  | n + 1, bs, v => xxStripes n (bs.drop 32) (v.zipIdx.map (fun p => xxRound p.1 (BitVec.ofNat 64 (ofBytes ((bs.drop (8 * p.2)).take 8)))))
def xxTail : Nat → List Byte → BitVec 64 → BitVec 64
  | 0, _, h => h
  | f + 1, bs, h =>
    if 8 ≤ bs.length then
      xxTail f (bs.drop 8) ((h ^^^ xxRound 0 (BitVec.ofNat 64 (ofBytes (bs.take 8)))).rotateLeft 27 * xxP 1 + xxP 4)
    else if 4 ≤ bs.length then
      xxTail f (bs.drop 4) ((h ^^^ BitVec.ofNat 64 (ofBytes (bs.take 4)) * xxP 1).rotateLeft 23 * xxP 2 + xxP 3)
    else match bs with
      | [] => h
      | b :: r => xxTail f r ((h ^^^ b.setWidth 64 * xxP 5).rotateLeft 11 * xxP 1)
def xxh64 (bs : List Byte) : BitVec 64 :=
  let n := bs.length / 32
  let v := xxStripes n bs [xxP 1 + xxP 2, xxP 2, 0, -xxP 1]
  let h := if n = 0 then xxP 5
    else v.foldl (fun h x => (h ^^^ xxRound 0 x) * xxP 1 + xxP 4)
      ((v.zip [1, 7, 12, 18]).foldl (fun h p => h + p.1.rotateLeft p.2) 0)
  let h := xxTail 32 (bs.drop (32 * n)) (h + BitVec.ofNat 64 bs.length)
  let h := (h ^^^ (h >>> 33)) * xxP 2
  let h := (h ^^^ (h >>> 29)) * xxP 3
  h ^^^ (h >>> 32)

/-- The blocks of a frame: the state after them, the rest of the input and the status. -/
def zstdBlocks (cap bmax : Nat) : Nat → List Byte → ZState → ZState × List Byte × Nat
  | 0, bs, z => (z, bs, 9)
  | f + 1, bs, z =>
    let h := ofBytes (bs.take 3)
    let n := h / 8
    let d := bs.drop 3
    let kind := bits h 2 1
    let m := if kind = 1 then 1 else n
    if bs.length < 3 then (z, bs, 9)
    else if kind = 3 || bmax < n then (z, d, 3)
    else if (d.take m).length < m then (z, d, 9)
    else
      let y := if kind = 0 then z.put cap (d.take n) else if kind = 1 then z.put cap (List.replicate n (d.headD 0)) else zstdBlock cap bmax (d.take n) z
      if y.2 != 0 || h % 2 = 1 then (y.1, d.drop m, y.2) else zstdBlocks cap bmax f (d.drop m) y.1

/-- A frame's header: length of the header, Window_Size, content size and whether a checksum follows. -/
structure ZHead where
  len : Nat
  win : Nat
  fcs : Option Nat
  sum : Bool
deriving DecidableEq, Repr

/-- The header after the magic number: the size fields that its descriptor announces. -/
def zstdHead (inp : List Byte) : ZHead :=
  let k := (inp.getD 4 0).toNat
  let single := bits k 5 5 = 1
  let wn := if single then 0 else 1
  let dn := [0, 1, 2, 4].getD (bits k 1 0) 0
  let fn := [if single then 1 else 0, 2, 4, 8].getD (bits k 7 6) 0
  let fcs := ofBytes ((inp.drop (5 + wn + dn)).take fn) + (if fn = 2 then 256 else 0)
  let w := (inp.getD 5 0).toNat
  { len := 5 + wn + dn + fn, win := if single then fcs else 2 ^ (10 + w / 8) / 8 * (8 + w % 8),
    fcs := if fn = 0 then none else some fcs, sum := bits k 2 2 = 1 }

/-- One Zstandard frame (R364): the output up to the point of detection, within the capacity (R288). Without an
entropy-coded dictionary; Dictionary_ID is ignored. -/
def zstdFrame (cap : Nat) (inp dict : List Byte) : Decomp :=
  let h := zstdHead inp
  if inp.length < 5 then { out := [], status := 9 }
  else if ofBytes (inp.take 4) != 0xFD2FB528 || bits (inp.getD 4 0).toNat 3 3 = 1 then { out := [], status := 3 }
  else if inp.length < h.len then { out := [], status := 9 }
  else if 2 ^ 23 < h.win || 2 ^ 24 < h.fcs.getD 0 then { out := [], status := 3 }
  else
    let (z, r, st) := zstdBlocks cap (min h.win (2 ^ 17)) (inp.length + 1) (inp.drop h.len) { hist := dict.reverse }
    let out := (z.hist.take z.n).reverse
    { out, status :=
        if st != 0 then st
        else if h.fcs.getD z.n != z.n then 3
        else if !h.sum then 0
        else if r.length < 4 then 9
        else if ofBytes (r.take 4) != (xxh64 out).toNat % 2 ^ 32 then 3 else 0 }

end Sys2Proof
end

