-- ==== Sys2Proof/Machine/Codec.lean ====
section
/-! DEFINITION. Compressed streams (R288, R290, R364, R440): the LZ4 block format, as its published description gives
it (PRESUMED, log 10), and the frame of a stored LZ4 block of SREAD. -/

namespace Sys2Proof

/-- A length that goes on in bytes of 255; `none` where the input ends. -/
def lz4Len : List Byte → Nat → Option (Nat × List Byte)
  | [], _ => none
  | b :: r, n => if b = 0xFF then lz4Len r (n + 255) else some (n + b.toNat, r)

/-- A field of a token with its further bytes. -/
def lz4Field (x : Nat) (r : List Byte) : Option (Nat × List Byte) := if x = 15 then lz4Len r 15 else some (x, r)

/-- Decodes sequences: input, dictionary and output newest first, number of output bytes. -/
def lz4Go (cap : Nat) : Nat → List Byte → List Byte → Nat → List Byte × Nat × Nat
  | 0, _, h, n => (h, n, 9)
  | _, [], h, n => (h, n, 9)
  | f + 1, t :: r, h, n =>
    match lz4Field (t.toNat / 16) r with
    | none => (h, n, 9)
    | some (lits, r) =>
      let k := min lits (min r.length (cap - n))
      let h := (r.take k).reverse ++ h
      let n := n + k
      if k < lits then (h, n, if r.length < lits && k = r.length then 9 else 4)
      else match r.drop lits with
        | [] => (h, n, 0)
        | [_] => (h, n, 9)
        | lo :: hi :: r =>
          let off := lo.toNat + 256 * hi.toNat
          match lz4Field (t.toNat % 16) r with
          | none => (h, n, 9)
          | some (m, r) =>
            if off = 0 || h.length < off then (h, n, 3)
            else
              let k := min (m + 4) (cap - n)
              let h := copyBack k off h
              if k < m + 4 then (h, n + k, 4) else lz4Go cap f r h (n + k)

/-- One LZ4 block (R364). -/
def lz4Block (cap : Nat) (inp dict : List Byte) : Decomp :=
  let x := lz4Go cap (inp.length + 1) inp dict.reverse 0
  { out := (x.1.take x.2.1).reverse, status := x.2.2 }

/-- The block of an `SREAD.LZ4`: a header of 4 bytes, bit 31 for a stored block (R364). A block of which the input holds only a part
is cut short, even where that part ends on literals. -/
def lz4Read (cap : Nat) (inp : List Byte) : Decomp :=
  let hdr := ofBytes (inp.take 4)
  let n := hdr % 2 ^ 31
  let body := inp.drop 4
  if inp.length < 4 || body.length < n then
    if inp.length < 4 then { out := [], status := 9 }
    else if hdr / 2 ^ 31 = 1 then { out := body.take cap, status := if cap < body.length then 4 else 9 }
    else
      let d := lz4Block cap body []
      if d.status = 0 then { d with status := 9 } else d
  else if hdr / 2 ^ 31 = 1 then { out := (body.take n).take cap, status := if cap < n then 4 else 0 }
  else lz4Block cap (body.take n) []

/-- The stream of a command; `lz4` by SUB 1, else Zstandard. -/
def decodeStream (lz4 framed : Bool) (cap : Nat) (inp dict : List Byte) : Decomp :=
  if lz4 then (if framed then lz4Read cap inp else lz4Block cap inp dict) else zstdFrame cap inp dict

end Sys2Proof
end

