-- ==== Sys2Proof/Machine/MemInstr.lean ====
section
/-! DEFINITION. Memory instructions of format M and the steps that perform them (R233 to R246, R107,
R116, R249). -/

namespace Sys2Proof

/-- Length of a format-M word (R152). -/
def MOps.len (o : MOps) : Nat := if o.disp.isSome then 12 else 8
/-- The displacement, sign-extended (R157). -/
def MOps.imm (o : MOps) : BitVec 64 := ((o.disp.getD 0).signExtend 64)

end Sys2Proof

namespace Sys2Proof.Machine

/-- The spaces that memory instructions name (R233). -/
inductive MemSpace
  | global | ownA | ownW | peer
deriving DecidableEq, Repr

/-- Effective address of a lane (R234): 64 bits for global, 32 for local. -/
def effAddr (g : Group) (o : MOps) (sp : MemSpace) (size l : Nat) : BitVec 64 :=
  let x := match o.am with
    | .vec => if sp == .global then BitVec.ofNat 64 ((g.vr o.a.toNat l).toNat + 2 ^ 32 * (g.vr (o.a.toNat + 1) l).toNat) + o.imm
              else (g.vr o.a.toNat l).zeroExtend 64 + o.imm
    | .scalar => g.sr o.a.toNat + o.imm
    | .stride => g.sr o.a.toNat + o.imm + BitVec.ofNat 64 (l * size)
  if sp == .global then x else x &&& 0xFFFFFFFF

/-- The lanes that make an access (R235): those of `exe`, or its lowest with AM 0b01. -/
def accLanes (o : MOps) (exe : LaneMask) : List Nat :=
  if o.am = .scalar then (lanesOf exe).take 1 else lanesOf exe

/-- Fields of a binding-table entry (R76). -/
def bndBound (e : BitVec 64) : Bool := e.getLsbD 63
def bndGone (e : BitVec 64) : Bool := e.getLsbD 62
/-- A-space size in bytes of an ASIZE field; 0 means 512 KiB. -/
def asizeBytes (x : Nat) : Nat := if x = 0 then 524288 else 4096 * x

/-- Base, size and core of a local range: space, and the entry or the team's own allocation (R74, R77, R78). -/
def State.range (s : State) (i : Issue) (peer : Nat) (w : Bool) : Nat × Nat × Nat :=
  match s.team? (i.g.tk i.gk) with
  | none => (coreOf i.gk, 0, 0)
  | some t =>
    if peer = 0 then (coreOf i.gk, if w then 4096 * t.wbase else 4096 * t.abase, if w then 4096 * t.wsize else 4096 * t.asize)
    else
      let e := sget t.bind peer
      (clusterOf (coreOf i.gk) * 32 + fld e 60 56, 4096 * (if w then fld e 31 24 else fld e 47 40),
        if w then 4096 * fld e 23 16 else asizeBytes (fld e 39 32))

/-- The binding entry of a peer index; entry 0 always counts as bound (R77). -/
def State.binding (s : State) (i : Issue) (peer : Nat) : BitVec 64 :=
  if peer = 0 then 0x8000000000000000 else ((s.team? (i.g.tk i.gk)).map (fun t => sget t.bind peer)).getD 0

/-- Space and offset of a local access (R239): bit 31 of an LDX or STX offset selects W-space. -/
def localOff (sp : MemSpace) (ea : BitVec 64) : Bool × Nat :=
  match sp with
  | .peer => (ea.getLsbD 31, fld ea 30 0)
  | .ownW => (true, ea.toNat)
  | _ => (false, ea.toNat)

/-- Whether a lane commits access violation `n` of R420. An entry that is neither BOUND nor GONE names no size yet: the
instruction stalls there (R78) and its bounds are tested once the entry is bound. -/
def State.violates (s : State) (i : Issue) (o : MOps) (sp : MemSpace) (store : Bool) (size l n : Nat) : Bool :=
  let ea := effAddr i.g o sp size l
  match n with
  | 1 => ea.toNat % size != 0
  | 2 => sp == .global && fld ea 63 56 != 0
  | 3 => sp != .global &&
      (let x := localOff sp ea
       let r := s.range i (if sp == .peer then o.peer.toNat else 0) x.1
       !(sp == .peer && (bndGone (s.binding i o.peer.toNat) || !bndBound (s.binding i o.peer.toNat))) && !(store && x.1) && r.2.2 ≤ x.2)
  | 4 => sp == .peer && store && (localOff sp ea).1
  | _ => sp == .peer && bndGone (s.binding i o.peer.toNat)

/-- The access violation reported: the lowest SUBC among the lanes, with the lanes that commit it (R421). -/
def memFaults (o : MOps) (sp : MemSpace) (store : Bool) (v : List Nat) (s : State) (i : Issue) : List Flt :=
  if v.any (fun r => !i.g.held.getLsbD (r / 64)) then []
  else
    let size := o.t.bytes
    let f := fun n => maskOf ((accLanes o i.exe).filter (fun l => s.violates i o sp store size l n))
    match [1, 2, 3, 4, 5].find? (fun n => f n != 0) with
    | some n => [{ event := 15, subc := n, lanes := if o.am = .scalar then i.exe else f n }]
    | none => []

/-- Translates the global addresses of the lanes of an instruction: places, or the faults (R326). -/
def State.xlateLanes (s : State) (gk : Nat) (g : Group) (acc : Access) : List (Nat × Nat × LaneMask) → List (Nat × Nat) × List FaultInfo × State
  | [] => ([], [], s)
  | (l, va, m) :: r =>
    match s.coreXlate (coreOf gk) g.part acc va with
    | (.ok pa, s) =>
      let x := s.xlateLanes gk g acc r
      ((l, pa) :: x.1, x.2.1, x.2.2)
    | (.bad f, s) =>
      let x := s.xlateLanes gk g acc r
      (x.1, { f with lanes := m } :: x.2.1, x.2.2)

/-- Places of an instruction's lanes, or the page faults it takes. -/
def State.places (s : State) (i : Issue) (o : MOps) (sp : MemSpace) (acc : Access) (size : Nat) : List (Nat × BitVec 64 × Place) × List FaultInfo × State :=
  let ls := accLanes o i.exe
  let ea := fun l => effAddr i.g o sp size l
  if sp == .global then
    let x := s.xlateLanes i.gk i.g acc (ls.map (fun l => (l, (ea l).toNat % 2 ^ 56, if o.am = .scalar then i.exe else laneBit l)))
    (x.1.map (fun e => (e.1, ea e.1, .glob e.2)), x.2.1, x.2.2)
  else
    (ls.map (fun l =>
      let x := localOff sp (ea l)
      let r := s.range i (if sp == .peer then o.peer.toNat else 0) x.1
      (l, ea l, if x.1 then .wspc r.1 (r.2.1 + x.2) else .aspc r.1 (r.2.1 + x.2))), [], s)

/-! ### Transactional accesses of lanes (R249, R296) -/

/-- The sector that a lane has buffered, if any. -/
def Core.txFind (c : Core) (slot l sec : Nat) : Option TxSector := c.tsec.find? (fun e => e.gslot == slot && e.lane == l && e.sector == sec)

/-- Why a lane's transactional access aborts before it is made, if it does (R249, R303). -/
def State.txBar (s : State) (g : Group) (l pa : Nat) : Option Nat :=
  if g.doomed.getLsbD l then some 9
  else if s.isPeer pa then some 5
  else if (kget s.coh.winLines (pa / 256)).isSome then some 11
  else none

/-- A transactional load (R249): the value, or the cause of the lane's abort. POISON is tested before RLOG (DESIGN CHOICE, log 84). -/
def State.txLoad (s : State) (gk : Nat) (g : Group) (l va pa size : Nat) : (Nat ⊕ Nat) × State :=
  match s.txBar g l pa with
  | some c => (.inr c, s)
  | none =>
    let c := s.core (coreOf gk)
    let buf := c.txFind (slotOf gk) l (pa / 64)
    let own := fun j => match buf with
      | some b => b.mask.getLsbD (pa % 64 + j)
      | none => false
    let rest := (List.range size).filter (fun j => !own j)
    let byte := fun j => match buf with
      | some b => if own j then BitVec.ofNat 8 (fld b.data (8 * (pa % 64 + j) + 7) (8 * (pa % 64 + j))) else s.readByte (.glob (pa + j))
      | none => s.readByte (.glob (pa + j))
    let val := ofBytes ((List.range size).map byte)
    if rest.isEmpty then (.inl val, s)
    else if rest.any (fun j => s.isPoison (.glob (pa + j))) then (.inr 10, s.consume g.part (.glob pa))
    else if Config.rlogEntries ≤ c.rlog.length then (.inr 3, s)
    else
      let s := (s.touchTag g.part pa).coreLoad (coreOf gk) g.part va pa
      let sh := pa % 8
      let e : RlogEntry := {
        gslot := slotOf gk, lane := l, va := va, word := pa / 8,
        mask := rest.foldl (fun m j => m ||| BitVec.ofNat 8 (2 ^ (sh + j))) 0,
        value := BitVec.ofNat 64 (rest.foldl (fun x j => x + (s.readByte (.glob (pa + j))).toNat * 2 ^ (8 * (sh + j))) 0) }
      (.inl val, s.modCore (coreOf gk) (fun c => { c with rlog := c.rlog ++ [e] }))

/-- A transactional store (R249): buffered, or the cause of the lane's abort. The line takes the partition's tag (R15). POISON is
tested before WBUF (DESIGN CHOICE, log 84). -/
def State.txStore (s : State) (gk : Nat) (g : Group) (l va pa size data : Nat) : Option Nat × State :=
  match s.txBar g l pa with
  | some c => (some c, s)
  | none =>
    let c := s.core (coreOf gk)
    if s.anyPoison (.glob pa) size then (some 10, s.consume g.part (.glob pa))
    else
      let put := fun (b : TxSector) => { b with
        mask := (List.range size).foldl (fun m j => m ||| BitVec.ofNat 64 (2 ^ (pa % 64 + j))) b.mask,
        data := setFld b.data (8 * (pa % 64)) (8 * size) data }
      let s := s.touchTag g.part pa
      match c.txFind (slotOf gk) l (pa / 64) with
      | some b => (none, s.modCore (coreOf gk) (fun c => { c with tsec := c.tsec.map (fun e => if e == b then put b else e) }))
      | none =>
        if Config.txSectors ≤ c.tsec.length then (some 4, s)
        else (none, s.modCore (coreOf gk) (fun c => { c with tsec := c.tsec ++ [put { gslot := slotOf gk, lane := l, va := va, sector := pa / 64, mask := 0, data := 0 }] }))

/-! ### Issue -/

/-- Adds an access in flight and counts it (R237). -/
def State.launch (s : State) (i : Issue) (len opc : Nat) (op : MemOp) : State :=
  s.modGroup i.gk (fun g =>
    let ld := op.kind == .load || op.kind == .atomic
    { g with nextOp := g.nextOp + 1, lc := if ld then g.lc + 1 else g.lc, sc := if ld then g.sc else g.sc + 1,
             ops := g.ops ++ [{ op with id := g.nextOp, exe := i.exe, next := BitVec.ofNat 32 (i.pc + len), opc := opc, at_ := i.pc,
                                        ords := ssets [] (op.accs.map (fun a => (a.lane, BitVec.ofNat 16 (s.regionOrd g a.lane)))) }] })

/-- A counter at 63, or a binding entry that is neither BOUND nor GONE, stalls at issue (R32, R78). -/
def memHold (o : MOps) (sp : MemSpace) (load : Bool) (s : State) (i : Issue) : Option State :=
  if i.exe = 0 then none
  else if (if load then i.g.lc else i.g.sc) ≥ 63 then some s
  else
    let b := s.binding i o.peer.toNat
    if sp == .peer && !bndBound b && !bndGone b then some s else none

/-- Lanes that are in a transaction and access memory through it: LD and ST, by the lowest lane's state with
AM 0b01 (R249). -/
def txLanes (o : MOps) (sp : MemSpace) (i : Issue) : LaneMask :=
  if sp == .global then maskOf ((accLanes o i.exe).filter (fun l => i.g.intx.getLsbD l)) else 0

/-- Whether an earlier access of one of some lanes that is still in flight names one of some bytes. -/
def State.inFlight (s : State) (g : Group) (m : LaneMask) (p : Place) (n : Nat) : Bool :=
  g.ops.any (fun q => q.accs.any (fun b => !b.done && accMask q b &&& m != 0 && overlap (s.norm p) n (s.norm b.place) b.size))

/-- A transactional access waits where it would abort the holder of the serial token (R301), and a transactional load, whose
value is read at issue, also behind an earlier access of its lanes to one of its bytes (R100, R102, R235) and behind a write that its
home holds (R374). -/
def txHold (o : MOps) (sp : MemSpace) (load : Bool) (s : State) (i : Issue) : Option State :=
  match memHold o sp load s i with
  | some s => some s
  | none =>
    let m := txLanes o sp i
    let x := s.places { i with exe := m } o sp (if load then .load else .store) o.t.bytes
    if x.1.any (fun e => match e.2.2 with
        | .glob pa => s.sigWaits none pa (!load) ||
          (load && (s.inFlight i.g (if o.am = .scalar then i.exe else laneBit e.1) e.2.2 o.t.bytes || s.homeHolds e.2.2))
        | _ => false) then some s else none

/-- Whether a transactional access reaches state of another partition: it is tested after translation, at its issue (R303,
R422). -/
def State.txBad (s : State) (part : Nat) (tx : LaneMask) (l : List (Nat × BitVec 64 × Place)) : Bool :=
  l.any (fun e => tx.getLsbD e.1 && match e.2.2 with
    | .glob pa => s.tagBad part pa
    | _ => false)

/-- A load instruction (R236). -/
def execLoad (opc : Nat) (sp : MemSpace) (h : Hdr) (o : MOps) (s : State) : Host.Outcome State Fault Refusal :=
  let size := o.t.bytes
  let scal := o.am = .scalar
  let v := (if scal then [] else vregs o.t o.d) ++ (if o.am = .vec then (if sp == .global then [o.a.toNat, o.a.toNat + 1] else [o.a.toNat]) else [])
  perform s h { len := o.len, opc := opc, v := v, s := (if scal then [o.d.toNat] else []) ++ (if o.am = .vec then [] else [o.a.toNat]),
                access := true, noTx := sp == .global && o.ord != .rlx, one := scal }
    (memFaults o sp false v) (txHold o sp true) (fun s i =>
      if i.exe = 0 then s
      else
        let x := s.places i o sp .load size
        if !x.2.1.isEmpty then x.2.2.pageFault i.gk x.2.1
        else
          let tx := txLanes o sp i
          if s.txBad i.g.part tx x.1 then x.2.2.freeze i.gk 15 6 opc i.exe i.pc else
          let r := x.1.foldl (fun (acc : List Acc × List (Nat × Nat × Nat) × State) e =>
            match e.2.2 with
            | .glob pa =>
              if tx.getLsbD e.1 then
                match acc.2.2.txLoad i.gk i.g e.1 e.2.1.toNat pa size with
                | (.inl val, s) => (acc.1 ++ [{ lane := e.1, va := e.2.1, place := e.2.2, size := size, data := BitVec.ofNat 64 val, done := true }], acc.2.1, s)
                | (.inr c, s) => (acc.1, acc.2.1 ++ [(e.1, c, 0)], s.dropTx i.gk e.1)
              else (acc.1 ++ [{ lane := e.1, va := e.2.1, place := e.2.2, size := size }], acc.2.1, acc.2.2)
            | _ => (acc.1 ++ [{ lane := e.1, va := e.2.1, place := e.2.2, size := size }], acc.2.1, acc.2.2)) ([], [], x.2.2)
          let s := r.2.2
          let s := if r.1.isEmpty then s
            else s.launch i o.len opc { id := 0, kind := .load, accs := r.1, dst := o.d.toNat, scalar := scal, t := o.t, ord := o.ord, scope := o.scope, l2 := o.hint = .l2 }
          s.abortLanes i.gk r.2.1)

/-- A store instruction (R236). -/
def execStore (opc : Nat) (sp : MemSpace) (h : Hdr) (o : MOps) (s : State) : Host.Outcome State Fault Refusal :=
  let size := o.t.bytes
  let scal := o.am = .scalar
  let v := (if scal then [] else vregs o.t o.b) ++ (if o.am = .vec then (if sp == .global then [o.a.toNat, o.a.toNat + 1] else [o.a.toNat]) else [])
  perform s h { len := o.len, opc := opc, v := v, s := (if scal then [o.b.toNat] else []) ++ (if o.am = .vec then [] else [o.a.toNat]),
                access := true, noTx := o.ord != .rlx || sp != .global, one := scal && sp == .global }
    (memFaults o sp true v) (txHold o sp false) (fun s i =>
      if i.exe = 0 then s
      else
        let x := s.places i o sp .store size
        if !x.2.1.isEmpty then x.2.2.pageFault i.gk x.2.1
        else
          let tx := txLanes o sp i
          if s.txBad i.g.part tx x.1 then x.2.2.freeze i.gk 15 6 opc i.exe i.pc else
          let data := fun l => (if scal then (i.g.sr o.b.toNat).toNat else i.g.vread o.t o.b.toNat l) % 2 ^ (8 * size)
          let r := x.1.foldl (fun (acc : List Acc × List (Nat × Nat × Nat) × State) e =>
            let a : Acc := { lane := e.1, va := e.2.1, place := e.2.2, size := size, data := BitVec.ofNat 64 (data e.1) }
            match e.2.2 with
            | .glob pa =>
              if tx.getLsbD e.1 then
                match acc.2.2.txStore i.gk i.g e.1 e.2.1.toNat pa size (data e.1) with
                | (none, s) => (acc.1, acc.2.1, s)
                | (some c, s) => (acc.1, acc.2.1 ++ [(e.1, c, 0)], s.dropTx i.gk e.1)
              else (acc.1 ++ [a], acc.2.1, acc.2.2)
            | _ => (acc.1 ++ [a], acc.2.1, acc.2.2)) ([], [], x.2.2)
          let s := r.2.2
          let s := if r.1.isEmpty then s
            else s.launch i o.len opc { id := 0, kind := if o.ord = .rel then .release else .store, accs := r.1, t := o.t, ord := o.ord, scope := o.scope, l2 := o.hint = .l2 }
          s.abortLanes i.gk r.2.1)

/-- LD (R233). -/
def execLd (h : Hdr) (o : MOps) (s : State) : Host.Outcome State Fault Refusal := execLoad 0x90 .global h o s
/-- ST (R233). -/
def execSt (h : Hdr) (o : MOps) (s : State) : Host.Outcome State Fault Refusal := execStore 0x91 .global h o s
/-- LDA (R239). -/
def execLda (h : Hdr) (o : MOps) (s : State) : Host.Outcome State Fault Refusal := execLoad 0x92 .ownA h o s
/-- STA (R239). -/
def execSta (h : Hdr) (o : MOps) (s : State) : Host.Outcome State Fault Refusal := execStore 0x93 .ownA h o s
/-- LDW (R239). -/
def execLdw (h : Hdr) (o : MOps) (s : State) : Host.Outcome State Fault Refusal := execLoad 0x94 .ownW h o s
/-- LDX (R239). -/
def execLdx (h : Hdr) (o : MOps) (s : State) : Host.Outcome State Fault Refusal := execLoad 0x95 .peer h o s
/-- STX (R239). -/
def execStx (h : Hdr) (o : MOps) (s : State) : Host.Outcome State Fault Refusal := execStore 0x96 .peer h o s

/-- PREF (R241): no fault, no register, no counter; a line that can be fetched is. -/
def execPref (h : Hdr) (o : MOps) (s : State) : Host.Outcome State Fault Refusal :=
  let v := if o.am = .vec then [o.a.toNat, o.a.toNat + 1] else []
  perform s h { len := o.len, opc := 0x97, v := v, s := if o.am = .vec then [] else [o.a.toNat], access := true } noFaults noHold (fun s i =>
    (accLanes o i.exe).foldl (fun s l =>
      let ea := effAddr i.g o .global 1 l
      if fld ea 63 56 != 0 then s
      else match s.coreXlate (coreOf i.gk) i.g.part .pref ea.toNat with
        | (.bad _, s) => s
        | (.ok pa, s') =>
          if s.isGone pa || (kget s.coh.winLines (pa / 256)).isSome then s'
          else (List.range 4).foldl (fun s j =>
            let sec := pa / 256 * 4 + j
            if s.isPoison (.glob (sec * 64)) then s
            else if o.hint = .l2 then (if s.isPeer pa then s.loadEffects none none (sec * 64) else (s.conflict none (sec * 64) false).l2Fill (sec / 4))
            else s.coreLoad (coreOf i.gk) i.g.part (ea.toNat / 256 * 256 + 64 * j) (sec * 64)) s') s)

/-- Whether accesses of the group in flight still keep a FENCE from issuing (R242). -/
def Group.fenceWaits (g : Group) (ord : Ord) : Bool :=
  g.ops.any (fun p => p.kind == .load || p.kind == .atomic || p.kind == .snapshot || ord != .acq)

/-- FENCE (R242): stalls at issue; at NODE scope a release ordering waits until 128 ns after the start of window
Nc + 2 (R116, R428), Nc being found anew where the group has issued anything in between, an acquire ordering invalidates lease copies. -/
def execFence (h : Hdr) (o : MOps) (s : State) : Host.Outcome State Fault Refusal :=
  let node := o.scope = .node
  perform s h { len := 8, opc := 0x98, noTx := true } noFaults
    (fun s i =>
      if i.exe = 0 then none
      else if i.g.fenceWaits o.ord then some s
      else if node && o.ord != .acq && !s.clock.unsync then
        match i.g.fenceWin with
        | none => some (s.modGroup i.gk (fun g => { g with fenceWin := some s.window }))
        | some n => if s.clock.now < (n + 2) * s.clock.winLen + 128 then some s else none
      else none)
    (fun s i =>
      if i.exe = 0 then s
      else
        let s := s.modGroup i.gk (fun g => { g with fenceWin := none })
        if node && o.ord != .rel then s.leaseAcquire else s)

/-- ATOM and ATOMA (R243, R244): issued; performed by ATOMIC_PERFORM. -/
def execAtomic (opc : Nat) (sp : MemSpace) (h : Hdr) (o : MOps) (s : State) : Host.Outcome State Fault Refusal :=
  let size := o.t.bytes
  let scal := o.am = .scalar
  let step := if o.t.is64 then 2 else 1
  let cas := o.aop = .cas
  let b := o.b.toNat
  let v := (if scal then [] else vregs o.t o.d ++ vregs o.t o.b ++ (if cas then [b + step, b + 2 * step - 1] else []))
    ++ (if o.am = .vec then (if sp == .global then [o.a.toNat, o.a.toNat + 1] else [o.a.toNat]) else [])
  perform s h { len := o.len, opc := opc, v := v, access := true, noTx := true,
                s := (if scal then [o.d.toNat, b] ++ (if cas then [b + 1] else []) else []) ++ (if o.am = .vec then [] else [o.a.toNat]) }
    (memFaults o sp true v) (memHold o sp true) (fun s i =>
      if i.exe = 0 then s
      else
        let x := s.places i o sp .atomic size
        if !x.2.1.isEmpty then x.2.2.pageFault i.gk x.2.1
        else
          let accs := x.1.map (fun e => ({
            lane := e.1, va := e.2.1, place := e.2.2, size := size,
            data := BitVec.ofNat 64 (if scal then (i.g.sr b).toNat else i.g.vread o.t b e.1),
            new := BitVec.ofNat 64 (if !cas then 0 else if scal then (i.g.sr (b + 1)).toNat else i.g.vread o.t (b + step) e.1) } : Acc))
          x.2.2.launch i o.len opc { id := 0, kind := .atomic, accs := accs, dst := o.d.toNat, scalar := scal, t := o.t, ord := o.ord, scope := o.scope, aop := o.aop })

/-- ATOM (R243). -/
def execAtom (h : Hdr) (o : MOps) (s : State) : Host.Outcome State Fault Refusal := execAtomic 0x99 .global h o s
/-- ATOMA (R243). -/
def execAtoma (h : Hdr) (o : MOps) (s : State) : Host.Outcome State Fault Refusal := execAtomic 0x9a .ownA h o s

/-! ### Accesses are performed (R100, R102, R107, R238) -/

/-- Offset of place `p` from `q`, where `p` begins in `q`'s space. -/
def offsetIn : Place → Place → Option Nat
  | .glob a, .glob b => if b ≤ a then some (a - b) else none
  | .aspc c a, .aspc d b => if c = d && b ≤ a then some (a - b) else none
  | .wspc c a, .wspc d b => if c = d && b ≤ a then some (a - b) else none
  | _, _ => none

/-- The youngest earlier access of the same lane to one of the same bytes. -/
def State.clash (s : State) (g : Group) (o : MemOp) (a : Acc) : Option (MemOp × Acc) :=
  ((g.ops.filter (fun p => p.id < o.id)).flatMap (fun p => p.accs.map (fun b => (p, b)))).reverse.find? (fun x =>
    !x.2.done && accMask o a &&& accMask x.1 x.2 != 0 && overlap (s.norm a.place) a.size (s.norm x.2.place) x.2.size)

/-- A load whose bytes an earlier store of the lane in flight covers takes them from it. -/
def State.forwarded (s : State) (g : Group) (o : MemOp) (a : Acc) : Option (BitVec 64) :=
  match s.clash g o a with
  | some (p, b) =>
    if p.kind == .store || p.kind == .release then
      match offsetIn (s.norm a.place) (s.norm b.place) with
      | some k => if k + a.size ≤ b.size then some (BitVec.ofNat 64 (fld b.data (8 * (k + a.size) - 1) (8 * k))) else none
      | none => none
    else none
  | none => none

/-- Whether an access in flight may be performed now (R83, R87, R100, R102, R238). -/
def State.opReady (s : State) (gk : Nat) (g : Group) (o : MemOp) : Bool :=
  let store := o.kind == .store || o.kind == .release || o.kind == .atomic
  o.accs.all (fun a => a.done || (!s.scored gk o a store && !s.homeHolds a.place &&
    ((s.clash g o a).isNone || (o.kind == .load && (s.forwarded g o a).isSome))))
  && (!(o.kind == .release || (o.kind == .atomic && (o.ord == .rel || o.ord == .acqrel))) ||
    g.ops.all (fun p => o.id ≤ p.id))

/-- A partition violation of an access in flight (R422): region-entry stop, park with EVENT 15, SUBC 6. -/
def State.violation (s : State) (gk : Nat) (o : MemOp) : State := s.freeze gk 15 6 o.opc o.exe o.at_

def State.op? (s : State) (gk id : Nat) : Option (Group × MemOp) :=
  (s.group? gk).bind (fun g => (g.ops.find? (fun o => o.id == id)).map (fun o => (g, o)))

/-- Removes a retired access and decrements its counter (R237). -/
def Group.retire (g : Group) (o : MemOp) : Group :=
  let ld := o.kind == .load || o.kind == .atomic || o.kind == .snapshot
  { g with ops := g.ops.filter (fun p => p.id != o.id), lc := if ld then g.lc - 1 else g.lc, sc := if ld then g.sc else g.sc - 1 }

/-- Writes the results of a load or atomic (R236); a register of a block that the group has released meanwhile is not written
(R31). -/
def Group.result (g : Group) (o : MemOp) (vals : List (Nat × Nat)) : Group :=
  if o.scalar then g.putS o.dst (if o.t.isInt then extendTo 64 o.t ((vals.headD (0, 0)).2) else BitVec.ofNat 64 ((vals.headD (0, 0)).2))
  else g.putV ((vals.flatMap (fun e => vwords o.t o.dst e.1 e.2)).filter (fun e => g.held.getLsbD (e.1 / 2048)))

/-- Places of poisoned sectors among the accesses, each sector once (R400). -/
def State.poisoned (s : State) (l : List Acc) : List Place :=
  dedupPlaces ((l.filter (fun a => !a.done && s.loadPoison a.place a.size)).map (fun a => (s.norm a.place).sector))

/-- LOAD_RETIRE (R236, R237): the value is bound and written; MONITOR's snapshot is taken (R218). -/
def execLoadRetire (gk id : Nat) (s : State) : Host.Outcome State Fault Refusal :=
  match s.op? gk id with
  | none => .next s
  | some (g, o) =>
    if !(o.kind == .load || o.kind == .snapshot) || !s.opReady gk g o then .next s
    else if s.opBad g o then .next (s.violation gk o)
    else
      let s := if o.ord = .acq && o.scope = .node then s.leaseAcquire else s
      let globs := o.accs.filterMap (fun a => match a.place with
        | .glob pa => if a.done then none else some (a.va.toNat, pa)
        | _ => none)
      let s := (if o.kind = .snapshot then globs.foldl (fun s e => s.watchSector e.2) s else s).fireReach gk g o false
      let s := globs.foldl (fun s e => (s.touchTag g.part e.2).coreLoad (coreOf gk) g.part e.1 e.2 o.l2) s
      let bad := s.poisoned o.accs
      let s := bad.foldl (fun s p => s.consume g.part p) s
      let val := fun (a : Acc) => if a.done then a.data.toNat
        else match s.forwarded g o a with
          | some x => x.toNat
          | none => ofBytes (s.loadValue a.place a.size)
      let fl : Flags := flagIf (!bad.isEmpty) fPOISON
      if o.kind = .snapshot then
        .next ((s.modGroup gk (fun g => { (g.retire o).addFlags fl with watch := { g.watch with bound := true, snap := s.watchLine g.watch } })).maybeEnd gk)
      else .next ((s.modGroup gk (fun g => ((g.retire o).result o (o.accs.map (fun a => (a.lane, val a)))).addFlags fl)).maybeEnd gk)

/-- A NODE-scope release leaves the core, or a release is performed (R40, R116, R238, R428). -/
def State.release (s : State) (gk : Nat) (g : Group) (o : MemOp) : State :=
  if o.scope = .node && !s.clock.unsync then
    if o.sent.isSome then s
    else (s.modGroup gk (fun g => { g with ops := g.ops.map (fun p => if p.id == o.id then { p with sent := some s.window } else p) })).commitTo gk o.exe o.next.toNat
  else ((s.performStore gk g o).modGroup gk (fun g => g.retire o)).commitTo gk o.exe o.next.toNat

/-- STORE_RETIRE (R107, R236): a store is performed; a release leaves the core. -/
def execStoreRetire (gk id : Nat) (s : State) : Host.Outcome State Fault Refusal :=
  match s.op? gk id with
  | none => .next s
  | some (g, o) =>
    if !(o.kind == .store || o.kind == .release) || !s.opReady gk g o then .next s
    else if s.opBad g o then .next (s.violation gk o)
    else if o.kind = .release then .next ((s.release gk g o).maybeEnd gk)
    else .next (((s.performStore gk g o).modGroup gk (fun g => g.retire o)).maybeEnd gk)

/-- The writer of one lane's atomic. -/
def accWriter (gk : Nat) (g : Group) (o : MemOp) (a : Acc) : Writer := groupWriter gk g (sget o.ords a.lane).toNat (some a.va.toNat)

/-- Performs the atomics of an instruction in ascending lane order (R243). -/
def State.atomics (s : State) (gk : Nat) (g : Group) (o : MemOp) : List (Nat × Nat) × Flags × State :=
  o.accs.foldl (fun (acc : List (Nat × Nat) × Flags × State) a =>
    let r := acc.2.2.atomicAt (accWriter gk g o a) a.place o.aop o.t a.data.toNat a.new.toNat
    let t := match a.place with
      | .glob pa => r.2.2.2.touchTag g.part pa
      | _ => r.2.2.2
    (acc.1 ++ [(a.lane, r.1)], acc.2.1 ||| r.2.1, t.watchHold (coreOf gk) g.part a.va.toNat (s.norm a.place))) ([], 0, s)

/-- The matrix operations that a group issued after an atomic read the words that it wrote to their core's local spaces as it left them: they are
not among the words that changed after those operations were accepted (R112). -/
def State.matRenew (s : State) (gk tk id : Nat) (l : List (Place × Nat)) : State :=
  s.modCore (coreOf gk) (fun k =>
    let cells := l.flatMap (fun e => (List.range e.2).map (fun j => e.1.add j))
    let a := cells.filterMap (fun p => match p with
      | .aspc c o => if c = coreOf gk then some (o, sget k.a o) else none
      | _ => none)
    let w := cells.filterMap (fun p => match p with
      | .wspc c o => if c = coreOf gk then some (o, sget k.w o) else none
      | _ => none)
    { k with mq := k.mq.map (fun m => if m.gk == gk && m.tk == tk && id < m.issued then { m with aOld := ssets m.aOld a, wOld := ssets m.wOld w } else m) })

/-- An atomic is performed, commits, and its result is written (R40, R243, R245). Where the undo log has no room for the write of
every lane the instruction waits whole, so that no lane reads what another's held write is still to change (R100, R374). -/
def State.finishAtomic (s : State) (gk : Nat) (g : Group) (o : MemOp) : State :=
  let pas := o.accs.filterMap (fun a => match s.norm a.place with
    | .glob pa => some (accWriter gk g o a, pa / 64 * 64)
    | _ => none)
  let s₀ := s
  let s := (if o.scope = .node && (o.ord = .acq || o.ord = .acqrel) then s.leaseAcquire else s).fireReach gk g o true
  let r := s.atomics gk g o
  if r.2.2.heldCount != s.heldCount then s₀.logFull pas
  else
    let t := r.2.2.matRenew gk (g.tk gk) o.id (o.accs.map (fun a => (s.norm a.place, a.size)))
    ((t.modGroup gk (fun g => ((g.retire o).result o r.1).addFlags r.2.1)).commitTo gk o.exe o.next.toNat).maybeEnd gk

/-- ATOMIC_PERFORM (R92, R243): at NODE scope a release-ordered atomic first leaves the core, and the lease copy of a peer's
sector goes as its packet is sent (R92, R116). R92 and R243 have every atomic commit when it is performed, R39's row of
release-ordered atomics names the time at which it leaves the core: the model takes the former (DEDUCED, log 78). -/
def execAtomicPerform (gk id : Nat) (s : State) : Host.Outcome State Fault Refusal :=
  match s.op? gk id with
  | none => .next s
  | some (g, o) =>
    if o.kind != .atomic || !s.opReady gk g o then .next s
    else if s.opBad g o then .next (s.violation gk o)
    else if o.scope = .node && (o.ord = .rel || o.ord = .acqrel) && !s.clock.unsync then
      .next (if o.sent.isSome then s
        else
          let s := o.accs.foldl (fun s a => match s.norm a.place with
            | .glob pa => if s.isPeer pa then s.leaseDrop (pa / 64) else s
            | _ => s) s
          s.modGroup gk (fun g => { g with ops := g.ops.map (fun p => if p.id == o.id then { p with sent := some s.window } else p) }))
    else .next (s.finishAtomic gk g o)

/-- Whether a held release may be performed: 128 ns after the start of window Ns + 2 (R116), or at once in
acknowledged mode (R428). -/
def State.holdOver (s : State) (ns : Nat) : Bool := s.clock.unsync || (ns + 2) * s.clock.winLen + 128 ≤ s.clock.now

/-- Whether a release or atomic that has reached its home waits there (R83, R374). -/
def State.heldBack (s : State) (gk : Nat) (o : MemOp) : Bool :=
  o.accs.any (fun a => s.scored gk o a true || (match s.norm a.place with
    | .glob pa => s.logHeld pa
    | _ => false))

/-- The writer of what a peer package sends: it belongs to no partition of this package. -/
def peerWriter : Writer := { part := 64, kind := 3, undo := false }

/-- Keys of the releases of peer packages among the held ones. -/
def peerKey (pkg : Nat) : Nat := 2 ^ 20 + pkg

/-- A write of a peer package to memory that a package other than this one is home of: the bytes change there, and no cache of this
package takes part (R88, R106). -/
def State.landAway (s : State) (pa : Nat) (bs : List Byte) : State :=
  (sectorsOf [(.glob pa, bs)]).foldl (fun s e => match e.1 with
    | .glob p => s.landed peerWriter (p / 64) e.2
    | _ => s) s

/-- An atomic of a peer package is performed at its home, and its result goes back (R92). Where the home is another package, only the
bytes there change: no cache of this package takes part (R87, R88). -/
def State.peerAtomic (s : State) (pkg pa : Nat) (op : Aop) (t : Typ) (x y : BitVec 64) : State :=
  if s.isPeer pa then
    match (if s.anyPoison (.glob pa) t.bytes then none else (atomicNew op t (ofBytes (s.readBytes (.glob pa) t.bytes)) x.toNat y.toNat).1) with
    | some r => s.landAway pa (toBytes t.bytes r)
    | none => s
  else
    let r := s.atomicAt peerWriter (.glob pa) op t x.toNat y.toNat
    let s : State := r.2.2.2
    s.setNode { s.node with answers := s.node.answers ++ [(pkg, r.1)] }

/-- Performs a release or atomic that its home held for a peer package (R116). -/
def State.performHeld (s : State) (x : HeldRel) : State :=
  if x.op.kind = .atomic then
    x.op.accs.foldl (fun s a => match a.place with
      | .glob pa => s.peerAtomic (x.gk - peerKey 0) pa x.op.aop x.op.t a.data a.new
      | _ => s) s
  else s.writeAll x.by_ none (x.op.accs.map (fun a => (a.place, toBytes a.size a.data.toNat)))

/-- NODE_RELEASE_PERFORM (R116): the home performs a held release or atomic. -/
def execNodeReleasePerform (gk id : Nat) (s : State) : Host.Outcome State Fault Refusal :=
  match s.node.held.find? (fun x => x.gk == gk && x.id == id) with
  | some x =>
    if s.holdOver x.sent && !s.heldBack gk x.op then
      .next ((s.setNode { s.node with held := s.node.held.filter (fun y => !(y.gk == gk && y.id == id)) }).performHeld x)
    else .next s
  | none =>
    match s.op? gk id with
    | none => .next s
    | some (g, o) =>
      match o.sent with
      | none => .next s
      | some n =>
        if !s.holdOver n || s.heldBack gk o then .next s
        else if s.opBad g o then .next (s.violation gk o)
        else if o.kind = .atomic then .next (s.finishAtomic gk g o)
        else .next (((s.performStore gk g o).modGroup gk (fun g => g.retire o)).maybeEnd gk)

/-- PARTITION_VIOLATION (R422): an access in flight has reached state of another partition. -/
def execPartitionViolation (gk id : Nat) (s : State) : Host.Outcome State Fault Refusal :=
  match s.op? gk id with
  | some (g, o) => .next (if s.opBad g o then s.violation gk o else s)
  | none => .next s

end Sys2Proof.Machine
end

