-- ==== Sys2Proof/Machine/Engine.lean ====
section
/-! DEFINITION. Issue and acceptance of the engine commands of format E (R280 to R290, R292, R306 to R309, R362,
R363, R432). -/

namespace Sys2Proof.Machine

/-! ### Ends of a command and their bytes -/

/-- Address or offset that an end starts at. -/
def End.addr : End → Nat
  | .glob va | .net va => va.toNat
  | .loc _ _ _ _ off => off
  | .stor off => off.toNat

/-- Whether `n` bytes from address or offset `a` break R70 or R74, as a SUBC of R420. -/
def End.breaks (e : End) (a n : Nat) : Option Nat :=
  match e with
  | .glob _ => if 2 ^ 56 ≤ a || 2 ^ 56 < a + n then some 2 else none
  | .loc _ _ _ size _ => if size < a + n then some 3 else none
  | _ => none

/-- Pieces of a run of bytes that lie in one sector each. -/
def chunksGo : Nat → Nat → Nat → List (Nat × Nat)
  | 0, _, _ => []
  | f + 1, a, n => if n = 0 then [] else let k := min n (64 - a % 64); (a, k) :: chunksGo f (a + k) (n - k)
def chunks (a n : Nat) : List (Nat × Nat) := chunksGo (n / 64 + 2) a n

/-- Where a run of pieces lies, with the address of each; the page at which translation stops, or a partition violation (R282,
R422). -/
structure Spans where
  ok   : List (Place × Nat) := []
  vas  : List Nat := []
  page : Option FaultInfo := none
  viol : Bool := false
  s    : State

/-- The place of an address of an end, by the TLB of die `die` on behalf of a core (R323). -/
def State.endPlace (s : State) (die core part : Nat) (acc : Access) (e : End) (a : Nat) : (Place ⊕ FaultInfo) × State :=
  match e with
  | .loc w c base _ _ => (.inl (if w then .wspc c (base + a) else .aspc c (base + a)), s)
  | _ => match s.xlate die part acc (a % 2 ^ 56) core with
    | (.ok pa, s) => (.inl (.glob pa), s)
    | (.bad f, s) => (.inr f, s)

def State.spans (s : State) (die core part : Nat) (acc : Access) (e : End) (l : List (Nat × Nat)) : Spans :=
  l.foldl (fun (r : Spans) x =>
    if r.page.isSome || r.viol then r
    else match r.s.endPlace die core part acc e x.1 with
      | (.inr f, s) => { r with page := some f, s := s }
      | (.inl (.glob pa), s) =>
        if s.tagBad part pa then { r with viol := true, s := s }
        else { r with ok := r.ok ++ [(.glob pa, x.2)], vas := r.vas ++ [x.1], s := s }
      | (.inl p, s) => { r with ok := r.ok ++ [(p, x.2)], vas := r.vas ++ [x.1], s := s }) { s := s }

/-- The place behind a window (R80). -/
def State.behindWindow (s : State) : Place → Place
  | .glob pa => s.locate pa
  | q => q

/-- The bytes of some pieces with their poison, after the coherence effects of the reads; each poisoned sector is
consumed once (R99, R400). -/
def State.readSpans (s : State) (part : Nat) (l : List (Place × Nat)) : List (Byte × Bool) × State :=
  let s := l.foldl (fun (s : State) x => match x.1 with
    | .glob pa => (s.touchTag part pa).loadEffects none none pa
    | _ => s) s
  let cells := l.flatMap (fun x => (List.range x.2).map (fun j => s.behindWindow (x.1.add j)))
  let bad := dedupPlaces ((cells.filter (fun p => s.isPoison p)).map Place.sector)
  (cells.map (fun p => (s.readByte p, s.isPoison p)), bad.foldl (fun s p => s.consume part p) s)

/-- Splits a byte string over pieces. -/
def splitOver {α : Type} : List (Place × Nat) → List α → List (Place × List α)
  | [], _ => []
  | (p, n) :: r, bs => (p, bs.take n) :: splitOver r (bs.drop n)

/-- The writer of a sector of some pieces, with the address of the first piece there (R366, R369). -/
def pieceWriter (w : Writer) (l : List (Place × Nat)) (vas : List Nat) (sec : Place) : Writer :=
  match (l.zip vas).find? (fun x => x.1.1.sector == sec) with
  | some x => { w with va := some x.2 }
  | none => w

/-- Writes bytes over pieces, whose addresses are `vas`; a sector that receives a poisoned byte is marked (R284, R400). -/
def State.writeSpans (s : State) (w : Writer) (l : List (Place × Nat)) (vas : List Nat) (bs : List (Byte × Bool)) : State :=
  let parts := splitOver l bs
  let s := (sectorsOf (parts.map (fun x => (x.1, x.2.map (·.1))))).foldl (fun s e => s.writeSector (pieceWriter w l vas e.1) none e.1 e.2) s
  parts.foldl (fun s x => if x.2.any (·.2) then s.setPoison (s.behindWindow x.1) true else s) s

/-! ### Commands -/

/-- The writer of a command's bytes (R370). -/
def State.engWriter (s : State) (c : EngCmd) (va : Option Nat := none) : Writer :=
  { part := c.part, kind := 1, src := coreOf c.gk * 64 + slotOf c.gk, var := ((s.team? c.tk).map (·.var)).getD 0, wpord := c.wpord, va := va }

/-- Engine command number (R281). -/
def EngCmd.number (c : EngCmd) : Nat := coreOf c.gk % 32 * 64 + c.entry
/-- Park id of a command (R327). -/
def EngCmd.parkId (c : EngCmd) : Nat := 0x8000 + clusterOf (coreOf c.gk) * 4096 + c.number

/-- PITCH, SWZ and HANDLE (R286). -/
def tabPitch (c : BitVec 64) : Nat := fld c 47 32
def tabSwz (c : BitVec 64) : Nat := fld c 19 16
def tabHandle (c : BitVec 64) : Nat := fld c 15 0
/-- CAP, DLEN and DOFF (R288, R290). -/
def EngCmd.cap (c : EngCmd) : Nat := if c.kind = .sread then fld c.c 32 8 else fld c.c 24 0
def dictLen (c : BitVec 64) : Nat := 4 * fld c 63 48
def dictOff (c : BitVec 64) : Nat := fld c 47 28
/-- Whether a command passes its bytes through a decompression engine. -/
def EngCmd.codec (c : EngCmd) : Bool := c.kind == .decomp || (c.kind == .sread && fld c.sub 1 0 != 0)

/-- The die whose TLB translates a command's accesses and whose fault list takes its faults (R4, R323, R324, R329): the cluster of
its copy engine, the I/O die of its decompression engine, or I/O die 1 for the network and storage engine. -/
def EngCmd.die (c : EngCmd) : Nat :=
  if c.codec then ioTlb (c.unit.getD 0 / 4)
  else match c.kind with
    | .nput | .nget | .natom | .sread => ioTlb 1
    | _ => clusterOf (coreOf c.gk)

/-- The memories that pieces of a command lie in, for a command that Firefly tagged (R381). -/
def State.fireCmd (s : State) (c : EngCmd) (l : List (Place × Nat)) : State :=
  if (s.core (coreOf c.gk)).fireTag.isEmpty then s
  else s.fireLevel c.gk c.tk c.issued (l.foldl (fun n x => farther n (s.levelOf (coreOf c.gk) true x.1)) 0)

/-- The pieces of an end of a command. -/
def State.cmdSpans (s : State) (c : EngCmd) (acc : Access) (e : End) (l : List (Nat × Nat)) : Spans :=
  let sp := s.spans c.die (coreOf c.gk) c.part acc e l
  { sp with s := sp.s.fireCmd c sp.ok }

/-- Fields of a directory entry (R308). -/
def entBase (e : BitVec 256) : Nat := fld e 29 0
def entOdd (e : BitVec 256) : Bool := e.getLsbD 32
def entRows (e : BitVec 256) : Nat := fld e 94 64
def entRlen (e : BitVec 256) : Nat := fld e 102 96
def entBad (e : BitVec 256) : Bool :=
  !e.getLsbD 127 || entRows e = 0 || entRlen e = 0 || 64 < entRlen e || fld e 191 184 != 0 || fld e 126 103 != 0 || e.getLsbD 95 || fld e 31 30 != 0

/-- Row length and pitch of a table command (R286). -/
def TableSample.bytes (t : TableSample) : Nat := 64 * t.rlen
def pitchOf (c : BitVec 64) (row : Nat) : Nat := if tabPitch c = 0 then row else tabPitch c

/-- Fields of a COPYT descriptor (R285). -/
def tE (d : BitVec 512) (k : Nat) : Nat := fld d (16 * k + 15) (16 * k)
def tRem (d : BitVec 512) (k : Nat) : Nat := fld d (64 + 16 * k + 15) (64 + 16 * k)
def tS (d : BitVec 512) (k : Nat) : Nat := fld d (64 + 64 * k + 63) (64 + 64 * k)
def tPitch (d : BitVec 512) : Nat := fld d 351 320
def tSize (d : BitVec 512) : Nat := 2 ^ fld d 359 352
def tRows (d : BitVec 512) : Nat := tE d 1 * tE d 2 * tE d 3
/-- Coordinates of a row. -/
def tX (d : BitVec 512) (n k : Nat) : Nat := if k = 1 then n % tE d 1 else if k = 2 then n / tE d 1 % tE d 2 else n / (tE d 1 * tE d 2)
/-- Bytes of a row that are read, and where they start (R285). -/
def tLive (d : BitVec 512) (n : Nat) : Nat :=
  if tX d n 1 < tRem d 1 && tX d n 2 < tRem d 2 && tX d n 3 < tRem d 3 then min (tE d 0) (tRem d 0) * tSize d else 0
def tFrom (a : Nat) (d : BitVec 512) (n : Nat) : Nat := (a + tX d n 1 * tS d 1 + tX d n 2 * tS d 2 + tX d n 3 * tS d 3) % 2 ^ 64
/-- The runs that a COPYT reads. -/
def tReads (a : Nat) (d : BitVec 512) : List (Nat × Nat) :=
  ((List.range (tRows d)).map (fun n => (tFrom a d n, tLive d n))).filter (fun x => x.2 != 0)
/-- Where each element of the box is written, row by row. -/
def tWrites (dst z : Nat) (d : BitVec 512) : List (Nat × Nat) :=
  (List.range (tRows d)).flatMap (fun n => (List.range (tE d 0)).map (fun x => (swz (dst + n * tPitch d + x * tSize d) n z, tSize d)))

/-- Fields of a COPYT descriptor that R285 refuses. -/
def tBadDesc (d : BitVec 512) : Bool :=
  fld d 511 360 != 0 || 3 < fld d 359 352 || [0, 1, 2, 3].any (fun k => tE d k = 0) || 65535 < tRows d || tPitch d % 16 != 0
    || tPitch d < tE d 0 * tSize d

/-- The bounding range of a list of runs. -/
def bound : List (Nat × Nat) → Option (Nat × Nat)
  | [] => none
  | x :: r => match bound r with
    | none => some (x.1, x.1 + x.2)
    | some (lo, hi) => some (min lo x.1, max hi (x.1 + x.2))

/-- Offset of the completion record in the space of D (R286 to R288, R290). -/
def EngCmd.recAt (c : EngCmd) : Nat :=
  match c.kind with
  | .gather => c.dst.addr + c.len * pitchOf c.c ((c.table.map (·.bytes)).getD 0)
  | .scadd => alignUp (c.dst.addr + 4 * c.len) 16
  | _ => alignUp (c.dst.addr + c.cap) 16

/-- A row of a table command's rows of `n` bytes, as far as its swizzled bytes reach (R285, R286). -/
def swzExtent (row z : Nat) : Nat := if z = 0 then row else alignUp row (16 * 2 ^ (z % 8))

/-- Runs that a command reads and writes in each space: end, runs, and whether they are written (R82, R281, R283). -/
def EngCmd.runs (c : EngCmd) : List (End × List (Nat × Nat) × Bool) :=
  if c.len = 0 && c.kind != .copyt && c.kind != .natom then []
  else match c.kind with
    | .copy => [(c.dst, [(c.dst.addr, c.len)], true), (c.src, [(c.src.addr, c.len)], false)]
    | .copyt => [(c.dst, tWrites c.dst.addr (fld c.sub 3 0) c.desc, true), (c.src, tReads c.src.addr c.desc, false)]
    | .gather => [(c.dst, [(c.dst.addr, c.recAt + 16 - c.dst.addr)], true), (c.src, [(c.src.addr, 4 * c.len)], false)]
    | .scadd =>
      let row := (c.table.map (·.bytes)).getD 0
      [(c.dst, [(c.recAt, 16)], true), (c.dst, [(c.dst.addr, 4 * c.len)], false),
       (c.src, [(c.src.addr, (c.len - 1) * pitchOf c.c row + swzExtent row (tabSwz c.c))], false)]
    | .decomp => [(c.dst, [(c.dst.addr, c.recAt + 16 - c.dst.addr)], true), (c.src, [(c.src.addr, c.len)], false)]
    | .nput => [(c.src, [(c.src.addr, c.len)], false)]
    | .nget => [(c.dst, [(c.dst.addr, c.len)], true)]
    | .natom => [(c.src, [(c.src.addr, 8)], true)]
    | .sread => [(c.dst, [(c.dst.addr, if c.codec then c.recAt + 16 - c.dst.addr else c.len)], true)]

/-- Scoreboard entries of a command: core and entry, rounded outward to 64 bytes (R82). -/
def EngCmd.marks (c : EngCmd) (home : Nat) : List (Nat × RsbEntry) :=
  c.runs.filterMap (fun x => match x.1, bound x.2.1 with
    | .loc w core base _ _, some (lo, hi) => some (core, { wSpace := w, tk := c.tk, lo := (base + lo) / 64 * 64, hi := alignUp (base + hi) 64, dest := x.2.2, cmd := some (home, c.entry) })
    | _, _ => none)

/-- The dictionary of a DECOMP: a range of the team's W-space (R288). -/
def dictMark (c : EngCmd) (home base : Nat) : List (Nat × RsbEntry) :=
  if c.kind = .decomp && c.len != 0 && dictLen c.c != 0 then
    [(home, { wSpace := true, tk := c.tk, lo := (base + dictOff c.c) / 64 * 64, hi := alignUp (base + dictOff c.c + dictLen c.c) 64, dest := false, cmd := some (home, c.entry) })]
  else []

def State.wBase (s : State) (tk : Nat) : Nat := 4096 * ((s.team? tk).map (·.wbase)).getD 0

/-! ### The command that an issue makes -/

/-- The end that a space code and a scalar operand name (R155, R280). An entry of the map that is not BOUND gives no bounds: the
command stalls at issue, or has a binding fault (R78). -/
def State.endOf (s : State) (i : Issue) (sp : Space) (peer : Nat) (x : BitVec 64) : End :=
  let loc := fun (p : Nat) (w : Bool) =>
    if p != 0 && !bndBound (s.binding i p) then End.loc w 0 0 (2 ^ 65) x.toNat
    else let r := s.range i p w; End.loc w r.1 r.2.1 r.2.2 x.toNat
  match sp with
  | .global => .glob x
  | .ownA => loc 0 false
  | .ownW => loc 0 true
  | .peerA => loc peer false
  | .peerW => loc peer true
  | .net => .net x
  | .storage => .stor x

/-- A 64-byte or 32-byte string of global memory as an engine reads it at issue, and whether it is poisoned; none where it does not
translate, or is another partition's (R422). -/
def State.peek (s : State) (core part va n : Nat) : Option (Nat × Bool) :=
  match (s.xlate (clusterOf core) part .engRead va).1 with
  | .ok pa => if s.tagBad part pa then none else some (ofBytes (s.readBytes (s.locate pa) n), s.anyPoison (s.locate pa) n)
  | .bad _ => none

/-- Length or count operand (R280). -/
def Group.elen (g : Group) (o : EOps) : Nat :=
  match o.imm with
  | some x => x.toNat
  | none => (g.sr o.b.toNat).toNat

/-- Virtual address of the directory entry of a handle (R308). -/
def State.entryVa (s : State) (part h : Nat) : Nat := (((s.part? part).map (·.tdBase)).getD 0 + 32 * h) % 2 ^ 56

/-- The sample of a directory entry that can be taken, if the entry is good. -/
def sampleOf (e : BitVec 256) : TableSample :=
  { entry := 0, odd := entOdd e, base := entBase e, rows := entRows e, rlen := entRlen e, defrow := BitVec.ofNat 56 (fld e 183 128) }

/-- The command of an issue, its operands read at issue (R281). -/
def State.command (s : State) (i : Issue) (kind : EngKind) (o : EOps) : EngCmd :=
  let g := i.g
  let x := g.sr o.c.toNat
  let part := g.part
  let core := coreOf i.gk
  let desc := if kind = .copyt then BitVec.ofNat 512 ((s.peek core part (x.toNat % 2 ^ 56) 64).map (·.1) |>.getD 0) else 0
  let table := if kind = .gather || kind = .scadd then
      match s.peek core part (s.entryVa part (tabHandle x)) 32 with
      | some (e, false) => if entBad (BitVec.ofNat 256 e) then none else some (sampleOf (BitVec.ofNat 256 e))
      | _ => none
    else none
  { entry := 0, kind := kind, gk := i.gk, tk := g.tk i.gk, grp := g.grpid, part := part,
    src := s.endOf i o.ssp o.peer.toNat (g.sr o.a.toNat), dst := s.endOf i o.dsp o.peer.toNat (g.sr o.d.toNat),
    len := if kind = .copyt || kind = .natom then 0 else g.elen o, sub := o.sub,
    b := g.sr o.b.toNat, b2 := if o.b = 63 then 0 else g.sr (o.b.toNat + 1), c := x, desc := desc,
    arrive := o.arrive.map (fun p => (p.1.toNat, p.2)), issued := g.nextOp, table := table, since := s.clock.now,
    wpord := (((s.gvar? g).bind (fun v => v.wpAt (i.pc + 16))).map (·.1)).getD 0xFFFF }

/-- Entry of the peer or storage table that a command names. -/
def State.peerEnt (s : State) (part : Nat) (c : BitVec 64) : BitVec 512 := ((s.part? part).bind (fun p => kget p.peers (fld c 11 0))).getD 0
def State.storEnt (s : State) (part : Nat) (c : BitVec 64) : BitVec 512 := ((s.part? part).bind (fun p => kget p.stor (fld c 5 0))).getD 0

/-- A remote range outside the entry's region, or an entry that is not valid (R289, R362). -/
def peerBad (e : BitVec 512) (a n : Nat) : Bool := !e.getLsbD 0 || a < fld e 255 192 || fld e 255 192 + fld e 191 144 < a + n

/-- C, descriptor, length and count fields that R284 to R290 refuse (SUBC 11). -/
def State.fieldsBad (s : State) (c : EngCmd) : Bool :=
  match c.kind with
  | .copy => 2 ^ 32 ≤ c.len
  | .copyt =>
    (match s.peek (coreOf c.gk) c.part (c.c.toNat % 2 ^ 56) 64 with
      | none => false
      | some (_, poison) => poison || tBadDesc c.desc || (match c.dst with
        | .loc _ _ _ size _ => (tWrites c.dst.addr (fld c.sub 3 0) c.desc).any (fun x => size < x.1 + x.2)
        | _ => false))
  | .gather | .scadd =>
    let m := tabSwz c.c % 8
    let span := 16 * 2 ^ m
    fld c.c 63 48 != 0 || fld c.c 31 20 != 0 || tabPitch c.c % 16 != 0 || 4 < m || 2 ^ 20 < c.len
      || ((s.part? c.part).map (·.tdCount)).getD 0 ≤ tabHandle c.c
      || (match c.table with
          | none => false
          | some t => (tabPitch c.c != 0 && tabPitch c.c < t.bytes) || t.bytes < span
              || (tabSwz c.c != 0 && ((if c.kind = .gather then c.dst.addr else c.src.addr) % span != 0 || pitchOf c.c t.bytes % span != 0)))
  | .decomp =>
    fld c.c 27 25 != 0 || c.cap = 0 || 2 ^ 24 < c.cap || dictOff c.c % 4 != 0 || 16384 < fld c.c 63 48 || 2 ^ 32 ≤ c.len
  | .nput => fld c.c 63 12 != 0 || 2 ^ 30 < c.len || (c.len != 0 && peerBad (s.peerEnt c.part c.c) c.dst.addr c.len)
  | .nget => fld c.c 63 12 != 0 || 2 ^ 30 < c.len || (c.len != 0 && peerBad (s.peerEnt c.part c.c) c.src.addr c.len)
  | .natom => fld c.c 63 12 != 0 || peerBad (s.peerEnt c.part c.c) c.dst.addr 8
  | .sread =>
    let e := s.storEnt c.part c.c
    let blk := 2 ^ fld e 303 296
    fld c.c 7 6 != 0 || fld c.c 63 33 != 0 || (if c.codec then c.cap = 0 || 2 ^ 24 < c.cap else fld c.c 32 8 != 0)
      || (c.len != 0 && (!e.getLsbD 0 || c.src.addr % blk != 0 || c.len % blk != 0 || 2 ^ 24 < c.len || fld e 255 192 * blk < c.src.addr + c.len))

/-- Misaligned index list, result, remote word or descriptor (R285, R286, R289; SUBC 1). -/
def EngCmd.misaligned (c : EngCmd) : Bool :=
  match c.kind with
  | .copyt => c.c.toNat % 64 != 0
  | .gather => c.src.addr % 4 != 0
  | .scadd => c.dst.addr % 4 != 0
  | .natom => c.dst.addr % 8 != 0 || c.src.addr % 8 != 0
  | _ => false

/-- Whether an operand names a space of a peer. -/
def namesPeer (o : EOps) : Bool := o.ssp == .peerA || o.ssp == .peerW || o.dsp == .peerA || o.dsp == .peerW

/-- Illegal uses and access violations of a command, found at issue (R281, R292, R420). The lowest SUBC of EVENT 15 is
the one reported (R421). -/
def engFaults (kind : EngKind) (o : EOps) (s : State) (i : Issue) : List Flt :=
  if i.exe = 0 then []
  else
    let c := s.command i kind o
    let runs := c.runs ++ (if kind = .decomp && c.len != 0 && dictLen c.c != 0 then [(s.endOf i .ownW 0 0, [(dictOff c.c, dictLen c.c)], false)] else [])
    let hit := fun n => runs.any (fun x => !(kind == .copyt && x.2.2) && x.2.1.any (fun y => x.1.breaks y.1 y.2 == some n))
    let desc := kind = .copyt && fld c.c 63 56 != 0
    let viol := (if c.misaligned then [1] else []) ++ (if desc || hit 2 then [2] else []) ++ (if hit 3 then [3] else [])
      ++ (if namesPeer o && bndGone (s.binding i o.peer.toNat) then [5] else [])
    (match viol with
      | n :: _ => [{ event := 15, subc := n, lanes := i.exe }]
      | [] => [])
    ++ (if !(kind = .copyt && (c.misaligned || desc)) && s.fieldsBad c then [{ subc := 11, lanes := i.exe }] else [])
    ++ (match o.arrive with
        | some p => if rvInit (s.point i p.1.toNat) then [] else [{ subc := 5, lanes := i.exe }]
        | none => [])

/-- A table command whose directory entry could not be read at issue, as if its rows had the greatest length (R308). -/
def EngCmd.widest (c : EngCmd) : EngCmd := if c.table.isNone then { c with table := some { rlen := 64 } } else c

/-- All scoreboard entries of a command. -/
def State.marksOf (s : State) (c : EngCmd) : List (Nat × RsbEntry) := c.marks (coreOf c.gk) ++ dictMark c (coreOf c.gk) (s.wBase c.tk)

/-- Stalls of acceptance (R32, R78, R82, R281). -/
def engHold (kind : EngKind) (o : EOps) (s : State) (i : Issue) : Option State :=
  if i.exe = 0 then none
  else
    let c := s.command i kind o
    let b := s.binding i o.peer.toNat
    let m := s.marksOf c
    if 63 ≤ i.g.cc || Config.eqEntries ≤ (s.core (coreOf i.gk)).eq.length || (namesPeer o && !bndBound b && !bndGone b)
        || m.any (fun e => Config.rsbEntries < (s.core e.1).rsb.length + (m.filter (fun f => f.1 == e.1)).length) then some s
    else none

/-- The lowest free entry of an engine queue. The spec does not say which free entry a command takes (log 14). -/
def freeEntry (l : List EngCmd) : Nat := ((List.range 64).find? (fun n => l.all (fun c => c.entry != n))).getD 0

/-- The decompression engine with the fewest commands, the lowest on a tie, among those that remain (R281, R405). -/
def State.pickDecomp (s : State) : Option Nat :=
  let n := fun (u : Nat) => s.cores.foldl (fun k e => k + (e.2.eq.filter (fun c => c.unit == some u)).length) 0
  ((List.range 8).filter (fun u => !s.porter.removed.contains (9, u))).foldl (fun b u => match b with
    | none => some u
    | some x => if n u < n x then some u else b) none

/-- Changes a command of a core's engine queue. -/
def State.modCmd (s : State) (core entry : Nat) (f : EngCmd → EngCmd) : State :=
  s.modCore core (fun c => { c with eq := c.eq.map (fun x => if x.entry == entry then f x else x) })

/-- A command fails and freezes the engine queue of its team, with its record (R398, R424). -/
def State.freezeQueue (s : State) (c : EngCmd) (subc va : Nat) : State :=
  let s := s.modTeam c.tk (fun t => if t.frozen.isSome then t else { t with frozen := some (subc, c.entry) })
  let s := s.modCmd (coreOf c.gk) c.entry (fun c => { c with failed := true, hold := none })
  s.record 19 2 9 (s.coreUnit (coreOf c.gk)) (some c.part) 0 1
    (pack 256 [(0, 12, c.number), (40, 4, c.grp), (44, 4, c.tk % 16), (48, 8, coreOf c.gk), (56, 8, subc), (64, 56, va)])

/-- A command holds at a faulting page: its fault is posted (R282, R326, R329). -/
def State.holdCmd (s : State) (c : EngCmd) (f : FaultInfo) : State :=
  let t := s.team? c.tk
  (s.modCmd (coreOf c.gk) c.entry (fun x => { x with hold := some f })).postFault c.die c.part
    (faultRecord f c.parkId ((t.map (fun t => t.wiid.toNat)).getD 0) (coreOf c.gk) 1 c.part 0 0)

/-- The SUBC of what the sample of a command finds wrong: an entry that R432 refuses, or, where the entry could only be read now, what
issue would have refused: an access violation with its own SUBC (R420), PITCH and SWZ as a refused entry (DESIGN CHOICE, log 80). -/
def State.sampleBad (s : State) (c : EngCmd) : Option Nat :=
  let hit := fun n => c.runs.any (fun x => x.2.1.any (fun y => x.1.breaks y.1 y.2 == some n))
  if hit 2 then some 2 else if hit 3 then some 3 else if s.fieldsBad c then some 9 else none

/-- The scoreboard entries of a command take the ranges that its sample gives (R82). -/
def State.remark (s : State) (c : EngCmd) : State :=
  let core := coreOf c.gk
  let s : State := { s with cores := s.cores.map (fun e => (e.1, { e.2 with rsb := e.2.rsb.filter (fun r => r.cmd != some (core, c.entry)) })) }
  (s.marksOf c).foldl (fun s e => s.modCore e.1 (fun k => { k with rsb := k.rsb ++ [e.2] })) s

/-- Samples the directory entry of a command, as one operation at its home, and counts the command (R309, R432); it waits where the undo
log has no room for the counter's write, or its home holds a write back (R374). -/
def State.sampleTable (s : State) (c : EngCmd) : State :=
  let core := coreOf c.gk
  let va := s.entryVa c.part (tabHandle c.c)
  let sp := s.cmdSpans c .engWrite (.glob (BitVec.ofNat 64 va)) [(va, 32)]
  match sp.page, sp.viol, sp.ok with
  | some f, _, _ => sp.s.holdCmd c f
  | none, true, _ => sp.s.freezeQueue c 6 va
  | none, false, l =>
    let w := sp.s.engWriter c (some va)
    let homes := l.filterMap (fun x => match sp.s.behindWindow x.1 with
      | .glob pa => some (w, pa / 64 * 64)
      | _ => none)
    let r := sp.s.readSpans c.part l
    let s : State := r.2
    let e := BitVec.ofNat 256 (ofBytes (r.1.map (·.1)))
    let c : EngCmd := { c with table := some { sampleOf e with entry := va } }
    if homes.any (fun h => sp.s.logHeld h.2) then sp.s
    else if r.1.any (·.2) || entBad e then s.freezeQueue c 9 va
    else match s.sampleBad c with
    | some n => s.freezeQueue c n va
    | none =>
      if !s.logFits homes then s.logFull homes
      else
      let off := if entOdd e then 28 else 24
      let n := fld e (8 * off + 31) (8 * off)
      let s := match l with
        | (p, _) :: _ => s.write (s.engWriter c (some (va + off))) none (p.add off) (toBytes 4 (n + 1))
        | [] => s
      (s.remark c).modCmd core c.entry (fun x => { x with table := c.table })

/-- Acceptance (R281): the command commits, `cc` rises, scoreboard entries are recorded, effects on network and
storage are counted (R373). -/
def State.acceptCmd (s : State) (i : Issue) (c : EngCmd) : State :=
  let core := coreOf i.gk
  let marked : EngCmd := { c with entry := freeEntry (s.core core).eq, seq := s.clock.seqno }
  let marks := s.marksOf marked.widest
  let s := s.setClock { s.clock with seqno := s.clock.seqno + 1 }
  let c : EngCmd := { marked with table := none }
  let s := marks.foldl (fun s e => s.modCore e.1 (fun k => { k with rsb := k.rsb ++ [e.2] })) s
  let c := if c.codec then { c with unit := s.pickDecomp } else c
  let s := s.modCore core (fun k => { k with eq := k.eq ++ [c] })
  let s := (s.modGroup i.gk (fun g => { g with cc := g.cc + 1, nextOp := g.nextOp + 1 })).commitTo i.gk i.exe (i.pc + 16)
  match c.kind with
  | .nput | .nget | .natom => s.sealWindow c.part (fun w => { w with nnet := min 4095 (w.nnet + 1) })
  | .sread => s.sealWindow c.part (fun w => { w with nstor := min 4095 (w.nstor + 1) })
  | .gather | .scadd => if c.len = 0 then s else s.sampleTable c
  | _ => s

/-- An engine command (R281). A fault on a COPYT's descriptor strikes before the commit (R285), and so does a descriptor that is state
of another partition (R422). -/
def engIssue (opc : Nat) (kind : EngKind) (h : Hdr) (o : EOps) (s : State) : Host.Outcome State Fault Refusal :=
  perform s h { len := 16, opc := opc, roles := [.copy], noTx := true, access := true,
                s := [o.d.toNat, o.a.toNat] ++ (if o.imm.isSome then [] else [o.b.toNat] ++ (if kind = .natom then [o.b.toNat + 1] else [])) ++ (if kind = .copy then [] else [o.c.toNat]) }
    (engFaults kind o) (engHold kind o) (fun s i =>
      if i.exe = 0 then s
      else
        let c := s.command i kind o
        if kind = .copyt then
          match s.xlate (clusterOf (coreOf i.gk)) i.g.part .engRead (c.c.toNat % 2 ^ 56) (coreOf i.gk) with
          | (.bad f, s) => s.pageFault i.gk [{ f with lanes := i.exe }]
          | (.ok pa, s) => if s.tagBad i.g.part pa then s.freeze i.gk 15 6 opc i.exe i.pc
            else ((s.touchTag i.g.part pa).loadEffects none none pa).acceptCmd i c
        else s.acceptCmd i c)

/-- COPY (R284). -/
def execCopy (h : Hdr) (o : EOps) (s : State) : Host.Outcome State Fault Refusal := engIssue 0xb0 .copy h o s

/-- A COPYT's read of a poisoned descriptor is counted, though the command is refused (R285, R400). -/
def State.descConsume (s : State) (h : Hdr) (o : EOps) : State :=
  match s.issue? h with
  | none => s
  | some i =>
    let va := (i.g.sr o.c.toNat).toNat
    if i.exe &&& ~~~i.g.intx = 0 || i.g.kind != .copy || va % 64 != 0 || 2 ^ 56 ≤ va then s
    else match (s.xlate (clusterOf (coreOf i.gk)) i.g.part .engRead va).1 with
      | .ok pa => if s.isPoison (s.locate pa) && !s.tagBad i.g.part pa then s.consume i.g.part (s.locate pa) else s
      | .bad _ => s

/-- COPYT (R285). -/
def execCopyt (h : Hdr) (o : EOps) (s : State) : Host.Outcome State Fault Refusal := engIssue 0xb1 .copyt h o (s.descConsume h o)
/-- GATHER (R286, R287). -/
def execGather (h : Hdr) (o : EOps) (s : State) : Host.Outcome State Fault Refusal := engIssue 0xb2 .gather h o s
/-- SCADD (R286, R287). -/
def execScadd (h : Hdr) (o : EOps) (s : State) : Host.Outcome State Fault Refusal := engIssue 0xb3 .scadd h o s
/-- DECOMP (R288). -/
def execDecomp (h : Hdr) (o : EOps) (s : State) : Host.Outcome State Fault Refusal := engIssue 0xb4 .decomp h o s
/-- NPUT (R289). -/
def execNput (h : Hdr) (o : EOps) (s : State) : Host.Outcome State Fault Refusal := engIssue 0xb5 .nput h o s
/-- NGET (R289). -/
def execNget (h : Hdr) (o : EOps) (s : State) : Host.Outcome State Fault Refusal := engIssue 0xb6 .nget h o s
/-- NATOM (R289). -/
def execNatom (h : Hdr) (o : EOps) (s : State) : Host.Outcome State Fault Refusal := engIssue 0xb7 .natom h o s
/-- SREAD (R290). -/
def execSread (h : Hdr) (o : EOps) (s : State) : Host.Outcome State Fault Refusal := engIssue 0xb8 .sread h o s

end Sys2Proof.Machine
end

