-- ==== Sys2Proof/Machine/EngineRun.lean ====
section
/-! DEFINITION. Engine commands from acceptance to retire: transfers, gather and scatter, codecs, network and storage
(R108, R281 to R290, R306 to R316, R398, R399, R432 to R434, R439, R440). -/

namespace Sys2Proof.Machine

/-! ### Progress and retire -/

def State.cmd? (s : State) (core entry : Nat) : Option EngCmd := (s.core core).eq.find? (fun c => c.entry == entry)

/-- Whether a frozen engine queue stops the command: a command of its team that failed, or one after it (R398). -/
def State.queueStops (s : State) (c : EngCmd) : Bool :=
  ((s.team? c.tk).bind (·.frozen)).isSome &&
    ((((s.core (coreOf c.gk)).eq.filter (fun x => x.tk == c.tk)).dropWhile (fun x => !x.failed))).any (fun x => x.entry == c.entry)

/-- Whether a command writes a range whose window write-back has not completed (R81). -/
def State.destHeld (s : State) (c : EngCmd) : Bool :=
  s.cores.any (fun e => e.2.rsb.any (fun r => r.cmd == some (coreOf c.gk, c.entry) && r.dest &&
    e.2.rsb.any (fun x => x.cmd.isNone && x.wSpace == r.wSpace && x.lo < r.hi && r.lo < x.hi)))

/-- Whether a command may go on: it neither holds nor is frozen nor discarded, has an engine, writes no range that a window write-back holds, and
the accesses of local spaces that its group issued before it have been performed. -/
def State.cmdReady (s : State) (c : EngCmd) : Bool :=
  c.hold.isNone && !c.dropped && !s.queueStops c && !(c.codec && c.unit.isNone) && !s.destHeld c && (match (s.group? c.gk).filter (fun g => g.tk c.gk == c.tk) with
    | none => true
    | some g => g.ops.all (fun o => c.issued ≤ o.id || o.accs.all (fun a => match s.behindWindow a.place with
        | .glob _ => true
        | _ => false)))

/-- The places in the spill area of a command's parked accumulators (R315). -/
def EngCmd.slots (c : EngCmd) : List Nat := c.accs.filterMap (fun a => a.2.slot)

/-- The places in the spill area that a command held are free again (R315). -/
def State.freeSlots (s : State) (c : EngCmd) : State :=
  if c.slots.isEmpty then s else s.modPart c.part (fun p => { p with spillUse := p.spillUse.filter (fun e => !c.slots.contains e.1) })

/-- Retire (R281): scoreboard entries go, flags are set, the arrival is made, `cc` falls. A decompression engine whose
history buffer failed is removed once its commands have retired (R440). -/
def State.retireCmd (s : State) (c : EngCmd) (flags : Flags) (arrives : Bool) : State :=
  let core := coreOf c.gk
  let s : State := { s with cores := s.cores.map (fun e => (e.1, { e.2 with rsb := e.2.rsb.filter (fun r => r.cmd != some (core, c.entry)) })) }
  let s := s.modCore core (fun k => { k with eq := k.eq.filter (fun x => x.entry != c.entry) })
  let s := s.freeSlots c
  let s := match c.arrive with
    | some (n, _) => if arrives then s.arrive c.tk n else s
    | none => s
  let s := match c.unit with
    | some u => if c.torn && !s.cores.any (fun k => k.2.eq.any (fun x => x.torn && x.unit == some u)) then s.markRemoved 9 u else s
    | none => s
  (s.modAnyGroup c.gk c.tk (fun g => { g.addFlags flags with cc := g.cc - 1 })).maybeEnd c.gk

/-- What the counter write of a command meets (R309): it is performed, it cannot be, or it waits for log space (R374). -/
inductive Uncounted
  | done (s : State)
  | page (f : FaultInfo) (s : State)
  | viol (s : State)
  | wait (s : State)

/-- The command is no longer counted in the directory entry that it sampled (R309, R422, R432). -/
def State.uncount (s : State) (c : EngCmd) : Uncounted :=
  match c.table with
  | none => .done s
  | some t =>
    let off := if t.odd then 28 else 24
    match s.xlate c.die c.part .engWrite (t.entry + off) (coreOf c.gk) with
    | (.bad f, s) => .page f s
    | (.ok pa, s) =>
      let w := s.engWriter c (some (t.entry + off))
      let home := match s.locate pa with
        | .glob _ => [(w, pa / 64 * 64)]
        | _ => []
      if s.tagBad c.part pa then .viol s
      else if home.any (fun h => s.logHeld h.2) then .wait s
      else if !s.logFits home then .wait (s.logFull home)
      else .done (s.write w none (.glob pa) (toBytes 4 (ofBytes (s.readBytes (s.locate pa) 4) + 2 ^ 32 - 1)))

/-- What a command that cannot go on does: it holds at a page, or its queue freezes (R282, R422). -/
def State.stopCmd (s : State) (c : EngCmd) (f : Option FaultInfo) : State :=
  match f with
  | some f => s.holdCmd c f
  | none => s.freezeQueue c 6 0

/-- What stops the writes of a command over the pieces that it translated: a page or a violation, or a full undo log, where it
waits and performs none of them (R374). -/
def State.writeStop (c : EngCmd) (w : Writer) (wr : Spans) : Option State :=
  if wr.page.isSome || wr.viol then some (wr.s.stopCmd c wr.page)
  else
    let l := (dedupPlaces (wr.ok.map (fun x => x.1.sector))).filterMap (fun p => match wr.s.behindWindow p with
      | .glob pa => if wr.s.isGone pa then none else some (pieceWriter w wr.ok wr.vas p, pa)
      | _ => none)
    if wr.s.logFits l then none else some (wr.s.logFull l)

/-- The command retires, no longer counted in its table. -/
def State.finishCmd (s : State) (c : EngCmd) (flags : Flags) : State :=
  match s.uncount c with
  | .done s => s.retireCmd c flags true
  | .page f s => s.holdCmd c f
  | .viol s => s.stopCmd c none
  | .wait s => s

/-- A discarded command retires without further effect, once it is no longer counted in its table (R399, R432). -/
def State.dropCmd (s : State) (c : EngCmd) : State :=
  match s.uncount c with
  | .done s | .viol s => s.retireCmd c 0 false
  | .page f s => s.holdCmd c f
  | .wait s => s

/-- A completion record (R283). -/
def recWord (status np ns count : Nat) : BitVec 128 := pack 128 [(0, 64, count), (64, 32, ns), (96, 16, min 65535 np), (120, 8, status)]

/-- Writes the completion record as the last write, and retires (R281, R283). -/
def State.finishRec (s : State) (c : EngCmd) (status np ns count : Nat) (flags : Flags) : State :=
  let a := c.recAt
  let sp := s.cmdSpans c .engWrite c.dst (chunks a 16)
  let w := s.engWriter c (some a)
  match State.writeStop c w sp with
  | some s => s
  | none =>
    let s := sp.s.writeSpans w sp.ok sp.vas ((toBytes 16 (recWord status np ns count).toNat).map (fun b => (b, false)))
    s.finishCmd c flags

/-! ### COPY and COPYT -/

/-- The places of the bytes of some pieces, one by one. -/
def State.cells (s : State) (l : List (Place × Nat)) : List Place :=
  l.flatMap (fun x => (List.range x.2).map (fun j => s.behindWindow (x.1.add j)))

/-- Whether two lists of pieces have a byte in common (R284). -/
def State.meets (s : State) (a b : List (Place × Nat)) : Bool :=
  a.any (fun x => b.any (fun y => overlap (s.behindWindow x.1) x.2 (s.behindWindow y.1) y.2))

/-- Positions whose source bytes may reach destination byte `j` where the ranges overlap (R284). -/
def reach (src dst : List Place) : Nat → Nat → List Nat
  | 0, _ => []
  | f + 1, j => j :: (match src[j]? with
    | none => []
    | some p => match dst.findIdx? (· == p) with
      | some k => if k = j then [] else reach src dst f k
      | none => [])

/-- The bytes of an overlapping COPY: an unspecified mixture of old and new bytes (R284), by a free choice each. -/
def State.mixed (s : State) (sp dp : List (Place × Nat)) (bs : List (Byte × Bool)) : List (Byte × Bool) × State :=
  let src := s.cells sp
  let dst := s.cells dp
  let n0 := s.clock.free
  let pick := fun j =>
    let opts := (reach src dst src.length j).map (fun k => bs.getD k (0, false)) ++ [(s.readByte (dst.getD j (.glob 0)), s.isPoison (dst.getD j (.glob 0)))]
    opts.getD ((Config.freeValue (n0 + j)).toNat % opts.length) (0, false)
  ((List.range bs.length).map pick, s.setClock { s.clock with free := n0 + bs.length })

/-- COPY: all reads, then all writes (R284). -/
def State.doCopy (s : State) (c : EngCmd) : State :=
  let rd := s.cmdSpans c .engRead c.src (chunks c.src.addr c.len)
  if rd.page.isSome || rd.viol then rd.s.stopCmd c rd.page
  else
    let wr := rd.s.cmdSpans c .engWrite c.dst (chunks c.dst.addr c.len)
    let w := s.engWriter c (some c.dst.addr)
    match State.writeStop c w wr with
    | some s => s
    | none =>
      let r := wr.s.readSpans c.part rd.ok
      let m := if r.2.meets rd.ok wr.ok then r.2.mixed rd.ok wr.ok r.1 else r
      (m.2.writeSpans w wr.ok wr.vas m.1).finishCmd c (flagIf (r.1.any (·.2)) fPOISON)

/-- COPYT (R285): rows and elements in order; elements beyond REM are zeros and are not read. -/
def State.doCopyt (s : State) (c : EngCmd) : State :=
  let d := c.desc
  let rows := (List.range (tRows d)).map (fun n => chunks (tFrom c.src.addr d n) (tLive d n))
  let rd := s.cmdSpans c .engRead c.src (rows.flatMap id)
  if rd.page.isSome || rd.viol then rd.s.stopCmd c rd.page
  else
    let ws := tWrites c.dst.addr (fld c.sub 3 0) d
    let wr := rd.s.cmdSpans c .engWrite c.dst (ws.flatMap (fun x => chunks x.1 x.2))
    let w := s.engWriter c (some c.dst.addr)
    match State.writeStop c w wr with
    | some s => s
    | none =>
      let r := wr.s.readSpans c.part rd.ok
      let wide := tE d 0 * tSize d
      let fill := (List.range (tRows d)).foldl (fun (acc : List (Byte × Bool) × List (Byte × Bool)) n =>
        let k := tLive d n
        (acc.1 ++ acc.2.take k ++ List.replicate (wide - k) (0, false), acc.2.drop k)) ([], r.1)
      (r.2.writeSpans w wr.ok wr.vas fill.1).finishCmd c (flagIf (r.1.any (·.2)) fPOISON)

/-! ### Tables: rows, GATHER, SCADD -/

/-- Physical address of a byte of a row, by the pool of the partition (R306, R307). -/
def rowPa (p : Part) (t : TableSample) (r off : Nat) : Nat :=
  let np := p.pool.length
  let o := 64 * t.base + r / (8 * np) * t.bytes + off
  p.pool.getD (r % np) 0 * 2 ^ 49 + o / 4096 * 2 ^ 15 + r / np % 8 * 4096 + o % 4096

/-- Whether the whole row lies in the pool range (R307, R433). -/
def rowIn (p : Part) (t : TableSample) (r : Nat) : Bool :=
  let np := p.pool.length
  let o := 64 * t.base + r / (8 * np) * t.bytes
  np != 0 && p.pbase ≤ o && o + t.bytes ≤ p.pbase + p.psize

/-- The sectors of a row. -/
def rowSecs (p : Part) (t : TableSample) (r : Nat) : List (Place × Nat) := (List.range t.rlen).map (fun k => (.glob (rowPa p t r (64 * k)), 64))

/-- Whether a row reaches state of another partition (R15, R422). -/
def State.rowViol (s : State) (part : Nat) (t : TableSample) (r : Nat) : Bool :=
  let p := (s.part? part).getD {}
  rowIn p t r && (List.range t.rlen).any (fun k => s.tagBad part (rowPa p t r (64 * k)))

/-- The stack on whose memory stop a row lies, in its package (R307). -/
def rowStack (p : Part) (r : Nat) : Nat := r / p.pool.length % 8

/-- A row that its Scarab has read: the most recent of the 256 rows that it keeps (R313). -/
def State.keepRow (s : State) (stack : Nat) (row : List Nat) : State :=
  let l := (kget s.coh.rows stack).getD []
  s.setCoh { s.coh with rows := kset s.coh.rows stack ((row :: l.filter (· != row)).take 256) }

/-- Reads a row (R312, R313); `none` where it meets uncorrectable data or lies outside the pool (R433). The Scarab of its stack
reads it coherently and keeps it if it is clean; a peer package's Scarab reads a row homed there, which takes no lease (R311). -/
def State.readRow (s : State) (part : Nat) (t : TableSample) (r : Nat) : Option (List Byte) × State :=
  let p := (s.part? part).getD {}
  if !rowIn p t r then (none, s)
  else
    let secs := rowSecs p t r
    let far := s.isPeer (rowPa p t r 0)
    let x := if far then ((s.cells secs).map (fun q => (s.readByte q, s.isPoison q)),
        (dedupPlaces (((s.cells secs).filter (fun q => s.isPoison q)).map Place.sector)).foldl (fun s q => s.consume part q) s)
      else s.readSpans part secs
    if x.1.any (·.2) then (none, x.2)
    else (some (x.1.map (·.1)), if far then x.2 else x.2.keepRow (rowStack p r) ((List.range t.rlen).map (fun k => rowPa p t r (64 * k) / 64)))

/-- A row that a command reads (R311, R381). -/
def State.cmdRow (s : State) (c : EngCmd) (t : TableSample) (r : Nat) : Option (List Byte) × State :=
  let p := (s.part? c.part).getD {}
  (if rowIn p t r then s.fireCmd c (rowSecs p t r) else s).readRow c.part t r

/-- The default row of a command, read when it is first needed (R310): zeros where DEFROW is 0 or is poisoned. -/
def State.defaultRow (s : State) (c : EngCmd) (t : TableSample) : (Option FaultInfo × Bool) × (List Byte × Bool) × State :=
  match c.defRow with
  | some r => ((none, false), r, s)
  | none =>
    if t.defrow = 0 then ((none, false), (List.replicate t.bytes 0, false), s)
    else
      let sp := s.cmdSpans c .engRead (.glob (t.defrow.zeroExtend 64)) (chunks t.defrow.toNat t.bytes)
      if sp.page.isSome || sp.viol then ((sp.page, sp.viol), ([], false), sp.s)
      else
        let x := sp.s.readSpans c.part sp.ok
        if x.1.any (·.2) then ((none, false), (List.replicate t.bytes 0, true), x.2) else ((none, false), (x.1.map (·.1), false), x.2)

/-- The index words of a batch with their poison (R311). -/
def idxWords : List (Byte × Bool) → Nat → List (BitVec 32 × Bool)
  | _, 0 => []
  | l, n + 1 => (BitVec.ofNat 32 (ofBytes ((l.take 4).map (·.1))), (l.take 4).any (·.2)) :: idxWords (l.drop 4) n

/-- Whether an index is invalid (R286, R310). -/
def badIndex (t : TableSample) (x : BitVec 32) : Bool := t.rows ≤ x.toNat || 2 ^ 31 ≤ x.toNat

/-- The 64-byte parts of a row as bursts for some positions of a batch (R311, R314): `row` is none for a row that met uncorrectable
data. -/
def burstsOf (c : EngCmd) (pos : List Nat) (own : Bool) (row : Option (List Byte)) (rlen : Nat) : List Burst :=
  (List.range rlen).map (fun k => {
    part := c.part, cmd := c.number, batch := c.batch, chunk := k, pos := pos.foldl (fun m i => m ||| BitVec.ofNat 8 (2 ^ i)) 0,
    poison := row.isNone, own := own, data := BitVec.ofNat 512 (ofBytes (((row.getD []).drop (64 * k)).take 64)) })

/-- The tag that a burst carries (R314). -/
def Burst.tag (b : Burst) : BitVec 64 :=
  pack 64 [(5, 1, b.poison.toNat), (6, 8, b.pos.toNat), (14, 6, b.chunk), (20, 20, b.batch), (40, 12, b.cmd), (52, 6, b.part)]

/-- Distinct numbers, in order of first occurrence. -/
def dedupNats : List Nat → List Nat
  | [] => []
  | a :: r => a :: (dedupNats r).filter (· != a)

/-- One batch of a GATHER (R311): distinct valid rows are read once, and every position gets its bursts; invalid and
poisoned indices and unreadable rows take the default row, which the engine substitutes (R287, R310, R433). -/
def State.gatherBatch (s : State) (c : EngCmd) (t : TableSample) : State :=
  let k := min 8 (c.len - 8 * c.batch)
  let sp := s.cmdSpans c .engRead c.src (chunks (c.src.addr + 32 * c.batch) (4 * k))
  if sp.page.isSome || sp.viol then sp.s.stopCmd c sp.page
  else
    let x := sp.s.readSpans c.part sp.ok
    let idx := idxWords x.1 k
    let at_ := fun j => idx.getD j (0, false)
    let valid := (List.range k).filter (fun j => !(at_ j).2 && !badIndex t (at_ j).1)
    let rows := dedupNats (valid.map (fun j => (at_ j).1.toNat))
    if rows.any (fun r => x.2.rowViol c.part t r) then x.2.stopCmd c none else
    let got := rows.foldl (fun (acc : List (Nat × Option (List Byte)) × State) r =>
      let y := acc.2.cmdRow c t r
      (acc.1 ++ [(r, y.1)], y.2)) ([], x.2)
    let lost := got.1.filter (fun e => e.2.isNone)
    let sub := (List.range k).filter (fun j => !valid.contains j || lost.any (fun e => e.1 == (at_ j).1.toNat))
    let dflt := got.2.defaultRow c t
    if !sub.isEmpty && (dflt.1.1.isSome || dflt.1.2) then dflt.2.2.stopCmd c dflt.1.1
    else
      let used := !sub.isEmpty
      let s := if used then dflt.2.2 else got.2
      let good := got.1.flatMap (fun e => burstsOf c (valid.filter (fun j => (at_ j).1.toNat == e.1)) false e.2 t.rlen)
      let inv := (List.range k).filter (fun j => !valid.contains j)
      s.modCmd (coreOf c.gk) c.entry (fun c => { c with
        batch := c.batch + 1, bursts := good ++ (if inv.isEmpty then [] else burstsOf c inv true (some dflt.2.1.1) t.rlen),
        defRow := if used then some dflt.2.1 else c.defRow,
        nsubst := c.nsubst + ((List.range k).filter (fun j => !(at_ j).2 && badIndex t (at_ j).1)).length,
        npoison := c.npoison + ((List.range k).filter (fun j => (at_ j).2)).length
          + (valid.filter (fun j => lost.any (fun e => e.1 == (at_ j).1.toNat))).length + (if used && c.defRow.isNone && dflt.2.1.2 then 1 else 0) })

/-- First gap of `n` bytes in an area (R315). -/
def firstGap : KMap Nat → Nat → Nat → Nat → Option Nat
  | [], at_, size, n => if at_ + n ≤ size then some at_ else none
  | (o, l) :: r, at_, size, n => if at_ + n ≤ o then some at_ else firstGap r (o + l) size n

/-- What the hardware keeps in the spill area has no form in the spec: its bytes take free values. -/
def State.spillFill (s : State) (part off n : Nat) : State :=
  let base := s.clock.free
  let k := (n + 63) / 64
  (List.range k).foldl (fun (s : State) i =>
    let bs := (List.range 8).flatMap (fun j => toBytes 8 (Config.freeValue (base + 8 * i + j)).toNat)
    (s.hwPut part ((((s.part? part).getD {}).spill + off + 64 * i) % 2 ^ 56) bs).getD s) (s.setClock { s.clock with free := base + 8 * k })

/-- Takes a span of a partition's spill area. -/
def State.spillSpan (s : State) (part n : Nat) : Option (Nat × State) :=
  match s.part? part with
  | none => none
  | some p => (firstGap p.spillUse 0 p.spillSz n).map (fun o => (o, s.setPart part { p with spillUse := kset p.spillUse o n }))

/-- Takes a span of a partition's spill area for saved state, whose form there is open. -/
def State.spillTake (s : State) (part n : Nat) : Option (Nat × State) :=
  (s.spillSpan part n).map (fun x => (x.1, x.2.spillFill part x.1 n))

/-- The Scarab of a row: package and stack (R307). -/
def scarabOf (p : Part) (r : Nat) : Nat × Nat := (p.pool.getD (r % p.pool.length) 0, r / p.pool.length % 8)

/-- The accumulators in the combining buffer of one Scarab (R315): core, command, number and accumulator. -/
def State.accsAt (s : State) (sc : Nat × Nat) : List (Nat × EngCmd × Nat × Acum) :=
  s.cores.flatMap (fun e => e.2.eq.flatMap (fun c =>
    (c.accs.filter (fun a => a.2.slot.isNone && scarabOf ((s.part? c.part).getD {}) (a.1 / 2) == sc)).map (fun a => (e.1, c, a.1, a.2))))

/-- Writes the FP32 words of a parked accumulator to its slot, the words first; the form of its header is open (R315). -/
def State.parkWords (s : State) (part off : Nat) (vals : List (BitVec 32)) : State :=
  let base := (((s.part? part).getD {}).spill + off) % 2 ^ 56
  let bs := vals.flatMap (fun v => toBytes 4 v.toNat)
  (List.range ((bs.length + 63) / 64)).foldl (fun (s : State) k => (s.hwPut part ((base + 64 * k) % 2 ^ 56) ((bs.drop (64 * k)).take 64)).getD s)
    (s.spillFill part off 4160)

/-- The words of a parked accumulator as its slot holds them (R315); what a page that does not translate held is as it was
parked. -/
def State.parkedWords (s : State) (part : Nat) (a : Acum) : List (BitVec 32) :=
  match a.slot with
  | none => a.vals
  | some off => a.vals.mapIdx (fun k v =>
    match (s.vaOf part ((((s.part? part).getD {}).spill + off + 4 * k) % 2 ^ 56) .innRead).1 with
    | some pa => BitVec.ofNat 32 (ofBytes (s.readBytes (s.locate pa) 4))
    | none => v)

/-- The least recently used of some accumulators. -/
def oldestAcum : List (Nat × EngCmd × Nat × Acum) → Option (Nat × EngCmd × Nat × Acum)
  | [] => none
  | x :: r => match oldestAcum r with
    | none => some x
    | some y => if x.2.2.2.used ≤ y.2.2.2.used then some x else some y

/-- Makes room in a Scarab's combining buffer: the least recently used of 512 accumulators is parked in its partition's spill area;
`none` where that is full (R315, R434). -/
def State.accRoom (s : State) (sc : Nat × Nat) : Option State :=
  let l := s.accsAt sc
  if l.length < 512 then some s
  else match oldestAcum l with
    | none => some s
    | some (core, c, r, a) => (s.spillSpan c.part 4160).map (fun x =>
      (x.2.parkWords c.part x.1 a.vals).modCmd core c.entry (fun c => { c with accs := kset c.accs r { a with slot := some x.1 } }))

/-- A command from its first byte (R399, R434). -/
def EngCmd.restart (c : EngCmd) (now : Nat) : EngCmd :=
  { c with batch := 0, bursts := [], defRow := none, nsubst := 0, npoison := 0, written := 0, got := [], hold := none, failed := false, asked := 0,
           retries := 0, accs := [], flags := 0, since := now }

/-- The elements of a source row as FP32 (R287). -/
def rowElems (bf : Bool) : Nat → List Byte → List (Nat × Flags)
  | 0, _ => []
  | n + 1, bs =>
    let w := if bf then 2 else 4
    let x := ofBytes (bs.take w)
    (if bf then cvtFF (Fmt.of .bf16) (Fmt.of .f32) .rne x else (x, 0)) :: rowElems bf n (bs.drop w)

/-- Adds one contribution to accumulator `r`, of row r / 2 (R287, R315), reloaded first if it is parked; `none` where the buffer and the
spill area are full (R434). -/
def State.contribute1 (s : State) (c : EngCmd) (r : Nat) (vals : List (Nat × Flags)) : Option State :=
  let core := coreOf c.gk
  let fl := vals.foldl (fun f v => f ||| v.2) (0 : Flags)
  match s.cmd? core c.entry with
  | none => some s
  | some c =>
    let used := s.clock.seqno
    let put := fun (s : State) (a : Acum) (f : Flags) => (s.modCmd core c.entry (fun c => { c with
      accs := kset c.accs r { a with used := used, slot := none }, flags := c.flags ||| fl ||| f })).setClock { s.clock with seqno := used + 1 }
    let sc := scarabOf ((s.part? c.part).getD {}) (r / 2)
    match kget c.accs r with
    | some a =>
      (if a.slot.isNone then some s else s.accRoom sc).map (fun s =>
        let l := s.parkedWords c.part a
        let s := match a.slot with
          | some o => s.modPart c.part (fun p => { p with spillUse := p.spillUse.filter (fun e => e.1 != o) })
          | none => s
        let sums := (List.range l.length).map (fun j => opFadd (Fmt.of .f32) .rne (l.getD j 0).toNat (vals.getD j (0, 0)).1 0)
        put s { a with n := a.n + 1, vals := sums.map (fun x => BitVec.ofNat 32 x.1) } (sums.foldl (fun f x => f ||| x.2) 0))
    | none => (s.accRoom sc).map (fun s => put s { n := 1, vals := vals.map (fun v => BitVec.ofNat 32 v.1) } 0)

/-- Adds one contribution to a row, in one accumulator for each 1,024 of its words (R315). -/
def State.contribute (s : State) (c : EngCmd) (r : Nat) (vals : List (Nat × Flags)) : Option State :=
  if vals.length ≤ 1024 then s.contribute1 c (2 * r) vals
  else (s.contribute1 c (2 * r) (vals.take 1024)).bind (fun s => s.contribute1 c (2 * r + 1) (vals.drop 1024))

/-- Runs of a source row of an SCADD, in 16-byte pieces (R285, R287). -/
def srcRow (c : EngCmd) (t : TableSample) (p : Nat) : List (Nat × Nat) :=
  (List.range (t.bytes / 16)).flatMap (fun q => chunks (swz (c.src.addr + p * pitchOf c.c t.bytes + 16 * q) p (tabSwz c.c)) 16)

/-- One batch of an SCADD (R315): contributions in ascending position; an invalid index, a poisoned index or a poisoned
source row drops its contribution (R287, R433). -/
def State.scaddBatch (s : State) (c : EngCmd) (t : TableSample) : State :=
  let core := coreOf c.gk
  let k := min 8 (c.len - 8 * c.batch)
  let sp := s.cmdSpans c .engRead c.dst (chunks (c.dst.addr + 32 * c.batch) (4 * k))
  if sp.page.isSome || sp.viol then sp.s.stopCmd c sp.page
  else
    let x := sp.s.readSpans c.part sp.ok
    let idx := idxWords x.1 k
    let at_ := fun j => idx.getD j (0, false)
    let valid := (List.range k).filter (fun j => !(at_ j).2 && !badIndex t (at_ j).1)
    let rd := x.2.cmdSpans c .engRead c.src (valid.flatMap (fun j => srcRow c t (8 * c.batch + j)))
    if rd.page.isSome || rd.viol then rd.s.stopCmd c rd.page
    else
      let bf := c.sub.getLsbD 0
      let r := valid.foldl (fun (acc : Option State × List (Place × Nat)) j =>
        match acc.1 with
        | none => acc
        | some s =>
          let n := (srcRow c t (8 * c.batch + j)).length
          let y := s.readSpans c.part (acc.2.take n)
          (if y.1.any (·.2) then some (y.2.modCmd core c.entry (fun c => { c with npoison := c.npoison + 1 }))
           else y.2.contribute c (at_ j).1.toNat (rowElems bf (t.bytes / (if bf then 2 else 4)) (y.1.map (·.1))), acc.2.drop n)) (some rd.s, rd.ok)
      match r.1 with
      | none =>
        let s := rd.s.freeSlots ((rd.s.cmd? core c.entry).getD c)
        (s.modCmd core c.entry (fun c => c.restart s.clock.now)).freezeQueue c 10 0
      | some s => s.modCmd core c.entry (fun c => { c with
          batch := c.batch + 1, nsubst := c.nsubst + ((List.range k).filter (fun j => !(at_ j).2 && badIndex t (at_ j).1)).length,
          npoison := c.npoison + ((List.range k).filter (fun j => (at_ j).2)).length })

/-- SCARAB_ROW_REQUEST (R311, R315): the next batch of a GATHER or SCADD; a table entry not yet sampled is sampled. -/
def execScarabRowRequest (core entry : Nat) (s : State) : Host.Outcome State Fault Refusal :=
  match s.cmd? core entry with
  | none => .next s
  | some c =>
    if !(c.kind == .gather || c.kind == .scadd) || c.len = 0 || !s.cmdReady c then .next s
    else match c.table with
      | none => .next (s.sampleTable c)
      | some t =>
        if !c.bursts.isEmpty || c.len ≤ 8 * c.batch then .next s
        else .next (if c.kind = .gather then s.gatherBatch c t else s.scaddBatch c t)

/-- Pieces of a burst's destinations (R285, R287, R314). -/
def burstRuns (c : EngCmd) (t : TableSample) (b : Burst) : List (Nat × Nat) :=
  (setBits b.pos).flatMap (fun j =>
    let p := 8 * b.batch + j
    (List.range 4).flatMap (fun q => chunks (swz (c.dst.addr + p * pitchOf c.c t.bytes + 64 * b.chunk + 16 * q) p (tabSwz c.c)) 16))

/-- SCARAB_BURST (R311, R314): a returned burst is written to every position of the batch that named its row; for one that carries
POISON the engine substitutes the default row. -/
def execScarabBurst (core entry : Nat) (s : State) : Host.Outcome State Fault Refusal :=
  match s.cmd? core entry with
  | none => .next s
  | some c =>
    match c.bursts, c.table with
    | b :: rest, some t =>
      if !s.cmdReady c then .next s
      else
        let wr := s.cmdSpans c .engWrite c.dst (burstRuns c t b)
        let w := s.engWriter c (some c.dst.addr)
        match State.writeStop c w wr with
        | some s => .next s
        | none =>
          let data := if b.poison then (((c.defRow.map (·.1)).getD []).drop (64 * b.chunk)).take 64 else toBytes 64 b.data.toNat
          let s := wr.s.writeSpans w wr.ok wr.vas ((setBits b.pos).flatMap (fun _ => data.map (fun x => (x, false))))
          .next (s.modCmd core entry (fun c => { c with bursts := rest }))
    | _, _ => .next s

/-- Elements of a table row after the addition, with their flags (R287). -/
def rowSum (bf : Bool) : List (BitVec 32) → List Byte → List Byte × Flags
  | [], _ => ([], 0)
  | a :: r, row =>
    let w := if bf then 2 else 4
    let f := Fmt.of (if bf then .bf16 else .f32)
    let x := f.addV .rne (f.decode (ofBytes (row.take w))) ((Fmt.of .f32).decode a.toNat)
    let y := rowSum bf r (row.drop w)
    (toBytes w x.1 ++ y.1, x.2 ||| y.2)

/-- SCADD_ROW_UPDATE (R287, R316): after the last batch, one read-modify-write of a named row, whose lines carry the partition's tag by
its read (R15); a row that cannot be read is not written (R433), and none of it is written while the undo log has no room for all of it (R374). -/
def execScaddRowUpdate (core entry : Nat) (s : State) : Host.Outcome State Fault Refusal :=
  match s.cmd? core entry with
  | none => .next s
  | some c =>
    match c.accs, c.table with
    | (n, a) :: more, some t =>
      let w := s.engWriter c
      let r := n / 2
      let mine := (n, a) :: (more.takeWhile (fun e => e.1 / 2 == r))
      let rest := more.dropWhile (fun e => e.1 / 2 == r)
      let secs := (List.range t.rlen).map (fun k => rowPa ((s.part? c.part).getD {}) t r (64 * k))
      let tagged := if rowIn ((s.part? c.part).getD {}) t r then secs.foldl (fun s pa => s.touchTag c.part pa) s else s
      let homes := secs.map (fun pa => (w, pa))
      if c.kind != .scadd || !s.cmdReady c || 8 * c.batch < c.len then .next s
      else if s.rowViol c.part t r then .next (s.stopCmd c none)
      else if secs.any (fun pa => s.logHeld pa) then .next s
      else if rowIn ((s.part? c.part).getD {}) t r && !tagged.logFits homes then .next (tagged.logFull homes)
      else
        let y := tagged.cmdRow c t r
        let done := fun (s : State) => s.freeSlots { c with accs := mine }
        .next (match y.1 with
          | none => (done y.2).modCmd core entry (fun c => { c with accs := rest, npoison := c.npoison + 1 })
          | some row =>
            let z := rowSum (c.sub.getLsbD 0) (mine.flatMap (fun e => s.parkedWords c.part e.2)) row
            let s := y.2.writeSpans w (rowSecs ((y.2.part? c.part).getD {}) t r) [] (z.1.map (fun b => (b, false)))
            (done s).modCmd core entry (fun c => { c with accs := rest, flags := c.flags ||| z.2, written := c.written + a.n }))
    | _, _ => .next s

/-! ### Codecs -/

/-- The pieces before the first poisoned sector, and whether there is one (R440). -/
def State.clean (s : State) : List (Place × Nat) → List (Place × Nat) × Option (Place × Nat)
  | [] => ([], none)
  | x :: r => if s.isPoison (s.behindWindow x.1) then ([], some x) else let y := s.clean r; (x :: y.1, y.2)

/-- Writes what a decoder produced, counts malformed and oversize streams, and retires (R283, R288, R440). Where poisoned input stopped
it, the sector of the first byte that is not written is marked poisoned (R400; DEDUCED, log 86). An engine whose history buffer failed
stopped the stream at a point that nothing constrains. -/
def State.finishCodec (s : State) (c : EngCmd) (d : Decomp) (poison : Bool) : State :=
  let x := s.draw
  let s : State := if c.torn then x.2 else s
  let d : Decomp := if c.torn then { out := d.out.take (x.1.toNat % (d.out.length + 1)), status := 2 } else d
  let st := if d.status = 9 then (if poison then 2 else 3) else d.status
  let hurt := poison && st = 2 && !c.torn && d.out.length < c.cap
  let mk := s.cmdSpans c .engWrite c.dst (if hurt then chunks (c.dst.addr + d.out.length) 1 else [])
  if mk.page.isSome || mk.viol then mk.s.stopCmd c mk.page else
  let s := mk.s
  let wr := s.cmdSpans c .engWrite c.dst (chunks c.dst.addr d.out.length)
  let w := s.engWriter c (some c.dst.addr)
  match State.writeStop c w wr with
  | some s => s
  | none =>
    let s := wr.s.writeSpans w wr.ok wr.vas (d.out.map (fun b => (b, false)))
    let s := mk.ok.foldl (fun (s : State) x => s.setPoison (s.behindWindow x.1) true) s
    let s := if st = 3 || st = 4 then
        (s.modPart c.part (fun p => { p with streams := min (2 ^ 32 - 1) (p.streams + 1) })).record 26 1 9 (s.coreUnit (coreOf c.gk)) (some c.part) 0 1
          (pack 256 [(0, 12, c.number), (48, 16, st)])
      else s
    s.finishRec c st (if st = 2 then 1 else 0) 0 d.out.length (flagIf (st == 2) fPOISON)

/-- DECOMP (R288). Decoding stops at the first poisoned sector of the input that it needs (R440): an LZ4 block is all of the input, and
what follows a Zstandard frame is ignored (R364). A poisoned sector of the dictionary, of which R440 does not speak, stops it at its
first byte (DESIGN CHOICE, log 84). -/
def State.doDecomp (s : State) (c : EngCmd) : State :=
  let core := coreOf c.gk
  let rd := s.cmdSpans c .engRead c.src (chunks c.src.addr c.len)
  if rd.page.isSome || rd.viol then rd.s.stopCmd c rd.page
  else
    let cut := rd.s.clean rd.ok
    let x := rd.s.readSpans c.part cut.1
    let dict := x.2.readSpans c.part ((chunks (rd.s.wBase c.tk + dictOff c.c) (dictLen c.c)).map (fun y => (.wspc core y.1, y.2)))
    let dcut := dict.1.takeWhile (fun b => !b.2)
    let lz4 := fld c.sub 1 0 = 1
    let d : Decomp := if dcut.length < dict.1.length then { out := [], status := 9 }
      else decodeStream lz4 false c.cap (x.1.map (·.1)) (dict.1.map (·.1))
    let met := cut.2.isSome && (d.status = 9 || (lz4 && d.status = 0))
    let s := match cut.2 with
      | some y => if met then dict.2.consume c.part (dict.2.behindWindow y.1) else dict.2
      | none => dict.2
    s.finishCodec c (if met then { d with status := 9 } else d) (met || dcut.length < dict.1.length)

/-! ### Network and storage -/

/-- Whether an earlier command of the partition on the same peer entry has not retired (R289). -/
def State.peerBehind (s : State) (c : EngCmd) : Bool :=
  s.cores.any (fun e => e.2.eq.any (fun x =>
    x.part == c.part && (x.kind == .nput || x.kind == .nget || x.kind == .natom) && fld x.c 11 0 == fld c.c 11 0 && x.seq < c.seq))

/-- Marks the sectors of a command's unwritten local bytes, retires it with POISON and records it (R439). -/
def State.failCmd (s : State) (c : EngCmd) (kind : Nat) (status : Nat) : State :=
  let r : End × Nat × Nat := match c.kind with
    | .natom => (c.src, c.src.addr, 8)
    | .nput => (c.src, c.src.addr, 0)
    | _ => (c.dst, c.dst.addr + c.written, c.len - c.written)
  let wr := s.cmdSpans c .engWrite r.1 (chunks r.2.1 r.2.2)
  if wr.page.isSome || wr.viol then wr.s.stopCmd c wr.page
  else
    let s := wr.ok.foldl (fun (s : State) x => s.setPoison (s.behindWindow x.1) true) wr.s
    (s.record kind 1 9 (s.coreUnit (coreOf c.gk)) (some c.part) 0 1 (pack 256 [(0, 12, c.number), (48, 16, status)])).retireCmd c fPOISON true

/-- Writes data that has come in, from byte `c.written` on. -/
def State.takeData (s : State) (c : EngCmd) (e : End) (data : List Byte) (next : State → EngCmd → State) : State :=
  let a := e.addr + c.written
  let wr := s.cmdSpans c .engWrite e (chunks a data.length)
  let w := s.engWriter c (some a)
  match State.writeStop c w wr with
  | some s => s
  | none =>
    let c' := { c with written := c.written + data.length }
    let s := wr.s.writeSpans w wr.ok wr.vas (data.map (fun b => (b, false)))
    next (s.modCmd (coreOf c.gk) c.entry (fun _ => c')) c'

/-- A network command's RC transport has failed (R439). -/
def State.netFail (s : State) (c : EngCmd) (data : List Byte) (syndrome : Nat) : State :=
  let s := s.modPart c.part (fun p => { p with peerErr := nins p.peerErr (fld c.c 11 0) })
  if c.kind = .nget then s.takeData c c.dst (data.take c.len) (fun s c => s.failCmd c 24 syndrome) else s.failCmd c 24 syndrome

/-- A network command's message, sent once (R289). -/
def State.sendNet (s : State) (c : EngCmd) (m : NetMsg) : State :=
  if c.asked != 0 then s
  else (s.setNode { s.node with sent := s.node.sent ++ [m] }).modCmd (coreOf c.gk) c.entry (fun c => { c with asked := m.len })

/-- A network command whose target has acknowledged it (R289, R362). -/
def State.doNet (s : State) (c : EngCmd) (data : List Byte) : State :=
  if s.peerBehind c then s
  else if ((s.part? c.part).map (fun p => p.peerErr.contains (fld c.c 11 0))).getD false then
    let x := s.draw
    x.2.netFail c [] (fld x.1 15 0)
  else
    match c.kind with
    | .nput =>
      let rd := s.cmdSpans c .engRead c.src (chunks c.src.addr c.len)
      if rd.page.isSome || rd.viol then rd.s.stopCmd c rd.page
      else
        let x := rd.s.readSpans c.part rd.ok
        (x.2.sendNet c { entry := fld c.c 11 0, kind := .nput, addr := BitVec.ofNat 64 c.dst.addr, len := c.len, data := x.1.map (·.1),
                             bad := (List.range x.1.length).filter (fun j => (x.1.getD j (0, false)).2) }).retireCmd c (flagIf (x.1.any (·.2)) fPOISON) true
    | .nget =>
      let s := s.sendNet c { entry := fld c.c 11 0, kind := .nget, addr := BitVec.ofNat 64 c.src.addr, len := c.len }
      if data.length != c.len then s
      else s.takeData { c with asked := c.len } c.dst data (fun s c => s.retireCmd c 0 true)
    | _ =>
      let cas := fld c.sub 3 0 = 7
      let s := s.sendNet c { entry := fld c.c 11 0, kind := .natom, addr := BitVec.ofNat 64 c.dst.addr, len := 8, aop := if cas then .cas else .add,
                             x := c.b, y := if cas then c.b2 else 0 }
      if data.length != 8 then s
      else s.takeData { c with asked := 8 } c.src data (fun s c => s.retireCmd c 0 true)

/-- Bytes of an SREAD that have come. -/
def EngCmd.came (c : EngCmd) : Nat := if c.codec then c.got.length else c.written
/-- NVMe Reads of an SREAD on their way: each reads at most 1 MiB (R363). -/
def EngCmd.reads (c : EngCmd) : Nat := (c.asked + 2 ^ 20 - 1) / 2 ^ 20 - c.came / 2 ^ 20
/-- NVMe Reads on their way for the storage entry of a command (R363). -/
def State.storOut (s : State) (c : EngCmd) : Nat :=
  s.cores.foldl (fun n e => (e.2.eq.filter (fun x => x.kind == .sread && x.part == c.part && fld x.c 5 0 == fld c.c 5 0)).foldl (fun n x => n + x.reads) n) 0

/-- An SREAD's NVMe Reads go to the target of its entry, each of at most 1 MiB from where the last ended, while fewer than 64 of the
entry are outstanding (R290, R363). -/
def State.askStor (s : State) (core entry : Nat) : Nat → State
  | 0 => s
  | f + 1 => match s.cmd? core entry with
    | none => s
    | some c =>
      if c.len ≤ c.asked || 64 ≤ s.storOut c then s
      else
        let n := min (2 ^ 20) (c.len - c.asked)
        ((s.setNode { s.node with sent := s.node.sent ++ [{ entry := fld c.c 5 0, kind := .sread, addr := BitVec.ofNat 64 (c.src.addr + c.asked), len := n }] }).modCmd
          core entry (fun c => { c with asked := c.asked + n })).askStor core entry f

/-- A storage command asks for its parts, and retires once they have all come (R290, R363). -/
def State.doStor (s : State) (c : EngCmd) : State :=
  if c.came < c.len then s.askStor (coreOf c.gk) c.entry 17
  else if c.codec then s.finishCodec { c with written := c.got.length } (decodeStream (fld c.sub 1 0 = 1) true c.cap c.got []) false
  else s.retireCmd c 0 true

/-- ENGINE_COMMAND_RETIRE (R108, R281): the transfers of a command are performed and it retires. `data` is what a network
peer returned. -/
def execEngineCommandRetire (core entry : Nat) (data : List Byte) (s : State) : Host.Outcome State Fault Refusal :=
  match s.cmd? core entry with
  | none => .next s
  | some c =>
    if c.dropped && c.hold.isNone then .next (s.dropCmd c)
    else if !s.cmdReady c then .next s
    else if c.len = 0 && c.kind != .copyt && c.kind != .natom then .next (s.retireCmd c 0 true)
    else match c.kind with
      | .copy => .next (s.doCopy c)
      | .copyt => .next (s.doCopyt c)
      | .gather => .next (if c.table.isSome && c.len ≤ 8 * c.batch && c.bursts.isEmpty then
          s.finishRec c (if c.npoison != 0 then 2 else if c.nsubst != 0 then 1 else 0) c.npoison c.nsubst c.len (flagIf (c.npoison != 0) fPOISON) else s)
      | .scadd => .next (if c.table.isSome && c.len ≤ 8 * c.batch && c.accs.isEmpty then
          s.finishRec c (if c.npoison != 0 then 2 else if c.nsubst != 0 then 1 else 0) c.npoison c.nsubst c.written (c.flags ||| flagIf (c.npoison != 0) fPOISON) else s)
      | .decomp => .next (s.doDecomp c)
      | .nput | .nget | .natom => .next (s.doNet c data)
      | .sread => .next (s.doStor c)

/-- NETWORK_COMMAND_FAIL (R439): a NAK of the target. -/
def execNetworkCommandFail (core entry : Nat) (written : List Byte) (syndrome : BitVec 16) (s : State) : Host.Outcome State Fault Refusal :=
  match s.cmd? core entry with
  | none => .next s
  | some c =>
    if !(c.kind == .nput || c.kind == .nget || c.kind == .natom) || (c.len = 0 && c.kind != .natom) || !s.cmdReady c || s.peerBehind c then .next s
    else .next (s.netFail c (written.take (c.len - 1)) syndrome.toNat)

/-- RC_RETRANSMIT_TIMEOUT (R439): 1 ms without an acknowledgement; after 7 retries the command fails. The syndrome of a
transport that got no answer has no value in the spec: a free value. -/
def execRcRetransmitTimeout (core entry : Nat) (s : State) : Host.Outcome State Fault Refusal :=
  match s.cmd? core entry with
  | none => .next s
  | some c =>
    if !(c.kind == .nput || c.kind == .nget || c.kind == .natom) || (c.len = 0 && c.kind != .natom) || !s.cmdReady c || s.peerBehind c
        || s.clock.now < c.since + 1000000 * (c.retries + 1) then .next s
    else if c.retries < 7 then .next (s.modCmd core entry (fun c => { c with retries := c.retries + 1 }))
    else
      let x := s.draw
      .next (x.2.netFail c [] (fld x.1 15 0))

/-- A storage command fails: raw with KIND 25, through a codec with STATUS 5 (R290, R439). -/
def State.storFail (s : State) (c : EngCmd) (status : Nat) : State :=
  if c.codec then s.finishRec c 5 0 0 0 0 else s.failCmd c 25 status

/-- STORAGE_COMPLETION (R290, R363): the next NVMe Read of an SREAD completes, with all its bytes; a status other than 0 is a target
error. -/
def execStorageCompletion (core entry : Nat) (status : BitVec 16) (data : List Byte) (s : State) : Host.Outcome State Fault Refusal :=
  match s.cmd? core entry with
  | none => .next s
  | some c =>
    if c.kind != .sread || c.len = 0 || !s.cmdReady c then .next s
    else if status != 0 then .next (s.storFail c status.toNat)
    else
      let s := s.askStor core entry 17
      match s.cmd? core entry with
      | none => .next s
      | some c =>
        if c.asked ≤ c.came || data.length != min (2 ^ 20) (c.len - c.came) then .next s
        else if c.codec then .next (s.modCmd core entry (fun c => { c with got := c.got ++ data }))
        else .next (s.takeData c c.dst data (fun s _ => s))

/-- STORAGE_TIMEOUT (R439): an SREAD that has not completed within 1 s. Its NVMe status has no value: a free value. -/
def execStorageTimeout (core entry : Nat) (s : State) : Host.Outcome State Fault Refusal :=
  match s.cmd? core entry with
  | none => .next s
  | some c =>
    if c.kind != .sread || c.len = 0 || !s.cmdReady c || s.clock.now < c.since + 1000000000 then .next s
    else
      let x := s.draw
      .next (x.2.storFail c (fld x.1 15 0))

/-! ### ENGCTL -/

/-- ENGCTL FROZEN written 1 (R399): the held commands go on, and each failed one restarts. -/
def State.engResume (s : State) (tk : Nat) : State :=
  if ((s.team? tk).bind (·.frozen)).isNone then s
  else
    let l := (s.core (tk / 16)).eq.filter (fun c => c.tk == tk && c.failed)
    (l.foldl (fun s c => (s.freeSlots c).modCmd (tk / 16) c.entry (fun c => c.restart s.clock.now)) s).modTeam tk (fun t => { t with frozen := none })

/-- ENGCTL DISCARD written 1 (R399): the failed and held commands retire without further effect, each once it is no longer counted in
its table (R432). -/
def State.engDiscard (s : State) (tk : Nat) : State :=
  match (s.team? tk).bind (·.frozen) with
  | none => s
  | some _ =>
    let l := (s.core (tk / 16)).eq.filter (fun c => c.tk == tk && s.queueStops c)
    let s := s.modTeam tk (fun t => { t with frozen := none })
    l.foldl (fun s c => (s.modCmd (tk / 16) c.entry (fun c => { c with dropped := true, failed := false, hold := none })).dropCmd { c with dropped := true }) s

/-- ENGCTL_RESUME (R399). -/
def execEngctlResume (tk : Nat) (s : State) : Host.Outcome State Fault Refusal := .next (s.engResume tk)
/-- ENGCTL_DISCARD (R399). -/
def execEngctlDiscard (tk : Nat) (s : State) : Host.Outcome State Fault Refusal := .next (s.engDiscard tk)

end Sys2Proof.Machine
end

