-- ==== Sys2Proof/WellFormed.lean ====
section
/-! DEFINITION. Which instruction terms stand for a word: every field that the opcode uses holds a value it
accepts, and every field it does not use is clear (R3, R143 to R156). -/

namespace Sys2Proof

/-- BK and length agree in a term by construction; IMM forms are named by `Src2` and `Option` (R146). A custom-0
word that is no TX instruction stands for itself (R260). A step has no word; a hart's access is 1, 2, 4 or 8 bytes. -/
def Instr.wellFormed (i : Instr) : Bool :=
  match i.view with
  | .nop _ n => n = 8 || n = 12 || n = 16
  | .j op h o => !jBad op h o && o == jNorm op o
  | .y op _ o => !yBad op o && o == yNorm op o && (match i with
      | .svcOstler .. | .sflagSet .. => !o.f
      | .svcApp .. | .sflagClr .. => o.f
      | _ => true)
  | .k op _ o => !kBad op o && o == kNorm op o
  | .m op _ o => !mBad op o && o == mNorm op o
  | .x op _ o => !xBad op o && o == xNorm op o
  | .t op _ o => !tBad op o && o == tNorm op o
  | .e op _ o => !eBad op o && o == eNorm op o
  | .hart .. => true
  | .other w => w.toNat % 128 == 0x0B && (3 < w.toNat / 2 ^ 12 % 8 || w.toNat / 2 ^ 25 != 0
      || (if w.toNat / 2 ^ 12 % 8 = 2 then w.toNat / 2 ^ 7 % 32 != 0 || w.toNat / 2 ^ 20 % 32 != 0 else w.toNat / 2 ^ 15 % 1024 != 0))
  | .step => match i with
      | .rv64MemoryAccess a => a.size = 1 || a.size = 2 || a.size = 4 || a.size = 8
      | _ => true

end Sys2Proof
end

