-- ==== Sys2Proof/Decode.lean ====
section
/-! DEFINITION. Words of instructions: the decoder, total on any bytes (R141 to R157, R409, R410), and the
encoder, from the same layouts. -/

namespace Sys2Proof

/-- What a word is: an instruction and its bytes, not an instruction (SUBC of R409), or one with a non-zero
reserved field (its lowest such bit, R410). -/
inductive Decoded
  | ok (i : Instr) (len : Nat)
  | bad (subc : Nat)
  | reserved (bit : Nat)
deriving DecidableEq, Repr

/-- The `n` bits of a word from bit `lo`. -/
def fieldAt (w lo n : Nat) : Nat := w / 2 ^ lo % 2 ^ n

/-! ### The encoder -/

/-- LEN of a length in bytes (R141). -/
def lenCode (n : Nat) : Nat := if n = 8 then 1 else if n = 12 then 2 else if n = 16 then 3 else 0
def lenBytes (c : Nat) : Nat := if c = 1 then 8 else if c = 2 then 12 else if c = 3 then 16 else 0

/-- The common header (R143). -/
def hdrWord (op n : Nat) (h : Hdr) : Nat :=
  lenCode n + 2 ^ 2 * h.w.toNat + 2 ^ 3 * op + 2 ^ 11 * h.g.toNat + 2 ^ 14 * h.gn.toNat

/-- Bytes of a format-K word, its B field, and what follows its 64-bit layout (R146). -/
def Src2.bytes : Src2 → Nat
  | .reg _ | .bcast _ => 8
  | .imm32 _ => 12
  | .imm64 _ => 16
def Src2.field : Src2 → Nat
  | .reg r | .bcast r => r.toNat
  | _ => 0
def Src2.tail : Src2 → Nat
  | .imm32 x => x.toNat
  | .imm64 x => x.toNat
  | _ => 0

/-- Format J (R149), Y (R150), K (R145), M (R152), X (R153), T (R154) and E (R155). -/
def jWord (op : Nat) (h : Hdr) (o : JOps) : Nat :=
  hdrWord op 8 h + 2 ^ 15 * o.d.toNat + 2 ^ 23 * o.bar.toNat + 2 ^ 32 * o.disp.toNat
def yWord (op : Nat) (h : Hdr) (o : YOps) : Nat :=
  hdrWord op 8 h + 2 ^ 15 * o.d.toNat + 2 ^ 23 * o.a.toNat + 2 ^ 31 * o.b.toNat + 2 ^ 39 * o.f.toNat + 2 ^ 40 * o.spec.toNat
    + 2 ^ 48 * o.imm.toNat
def kWord (op : Nat) (h : Hdr) (k : KOps) : Nat :=
  hdrWord op k.b.bytes h + 2 ^ 15 * k.d.toNat + 2 ^ 23 * k.a.toNat + 2 ^ 31 * k.b.field + 2 ^ 39 * k.c.toNat + 2 ^ 48 * k.b.bk
    + 2 ^ 50 * k.rm.code + 2 ^ 52 * k.sat.toNat + 2 ^ 53 * k.t.code + 2 ^ 58 * k.sub.toNat + 2 ^ 64 * k.b.tail
def mWord (op : Nat) (h : Hdr) (o : MOps) : Nat :=
  hdrWord op (if o.disp.isSome then 12 else 8) h + 2 ^ 15 * o.d.toNat + 2 ^ 23 * o.a.toNat + 2 ^ 31 * o.b.toNat + 2 ^ 39 * o.am.code
    + 2 ^ 41 * o.peer.toNat + 2 ^ 46 * o.hint.code + 2 ^ 48 * o.qos.toNat + 2 ^ 49 * o.scope.code + 2 ^ 52 * o.ord.code
    + 2 ^ 55 * o.t.code + 2 ^ 60 * o.aop.code + 2 ^ 64 * (o.disp.getD 0).toNat
def xWord (op : Nat) (h : Hdr) (o : XOps) : Nat :=
  hdrWord op 8 h + 2 ^ 15 * o.d.toNat + 2 ^ 23 * o.code.toNat + 2 ^ 32 * o.disp.toNat
def tWord (op : Nat) (h : Hdr) (o : TOps) : Nat :=
  hdrWord op 8 h + 2 ^ 15 * o.ar.toNat + 2 ^ 23 * o.br.toNat + 2 ^ 31 * o.ma.toNat + 2 ^ 36 * o.mb.toNat + 2 ^ 48 * o.tile.toNat
    + 2 ^ 52 * o.regB.toNat + 2 ^ 53 * o.pairA.toNat + 2 ^ 54 * o.tb.code + 2 ^ 59 * o.ta.code
def EOps.rvp (o : EOps) : Nat := match o.arrive with | some (n, _) => n.toNat | none => 0
def EOps.scope (o : EOps) : Nat := match o.arrive with | some (_, sc) => sc.code | none => 0
def eWord (op : Nat) (h : Hdr) (o : EOps) : Nat :=
  hdrWord op 16 h + 2 ^ 15 * o.d.toNat + 2 ^ 23 * o.a.toNat + 2 ^ 31 * o.b.toNat + 2 ^ 39 * o.c.toNat + 2 ^ 47 * o.peer.toNat
    + 2 ^ 52 * o.ssp.code + 2 ^ 55 * o.dsp.code + 2 ^ 58 * o.sub.toNat + 2 ^ 79 * o.rvp + 2 ^ 84 * o.arrive.isSome.toNat
    + 2 ^ 85 * o.scope + 2 ^ 88 * o.imm.isSome.toNat + 2 ^ 96 * (o.imm.getD 0).toNat
/-- R-type words of the custom-0 opcode (R257). -/
def hartWord (f : Nat) (rd rs : BitVec 5) : Nat := 0x0B + 2 ^ 7 * rd.toNat + 2 ^ 12 * f + 2 ^ 15 * rs.toNat

/-- The word of an instruction; a step has none (0). -/
def encode (i : Instr) : Nat :=
  match i.view with
  | .nop h n => hdrWord 0 n h
  | .j op h o => jWord op h o
  | .y op h o => yWord op h o
  | .k op h o => kWord op h o
  | .m op h o => mWord op h o
  | .x op h o => xWord op h o
  | .t op h o => tWord op h o
  | .e op h o => eWord op h o
  | .hart f rd rs => hartWord f rd rs
  | .other w => w.toNat
  | .step => 0

/-- Bytes of an instruction's word. -/
def Instr.bytes (i : Instr) : Nat :=
  match i.view with
  | .nop _ n => n
  | .k _ _ o => o.b.bytes
  | .m _ _ o => if o.disp.isSome then 12 else 8
  | .e .. => 16
  | .hart .. | .other _ => 4
  | .step => 0
  | _ => 8

/-! ### The fields of a word -/

def rawHdr (w : Nat) : Hdr :=
  { w := fieldAt w 2 1 = 1, g := BitVec.ofNat 3 (fieldAt w 11 3), gn := fieldAt w 14 1 = 1 }
def rawJ (w : Nat) : JOps :=
  { d := BitVec.ofNat 8 (fieldAt w 15 8), bar := BitVec.ofNat 3 (fieldAt w 23 3), disp := BitVec.ofNat 32 (fieldAt w 32 32) }
def rawY (w : Nat) : YOps :=
  { d := BitVec.ofNat 8 (fieldAt w 15 8), a := BitVec.ofNat 8 (fieldAt w 23 8), b := BitVec.ofNat 8 (fieldAt w 31 8),
    f := fieldAt w 39 1 = 1, spec := BitVec.ofNat 8 (fieldAt w 40 8), imm := BitVec.ofNat 16 (fieldAt w 48 16) }
/-- B as BK gives it (R146). -/
def rawSrc2 (w : Nat) : Src2 :=
  match fieldAt w 48 2 with
  | 0 => .reg (BitVec.ofNat 8 (fieldAt w 31 8))
  | 1 => .bcast (BitVec.ofNat 8 (fieldAt w 31 8))
  | 2 => .imm32 (BitVec.ofNat 32 (fieldAt w 64 32))
  | _ => .imm64 (BitVec.ofNat 64 (fieldAt w 64 64))
/-- An unassigned type code is read as a type that no opcode of formats K and M lists (R147). -/
def rawK (w : Nat) : KOps :=
  { d := BitVec.ofNat 8 (fieldAt w 15 8), a := BitVec.ofNat 8 (fieldAt w 23 8), b := rawSrc2 w, c := BitVec.ofNat 8 (fieldAt w 39 8),
    rm := rndOfCode (fieldAt w 50 2), sat := fieldAt w 52 1 = 1, t := (typOfCode (fieldAt w 53 5)).getD .q4e,
    sub := BitVec.ofNat 6 (fieldAt w 58 6) }
def rawM (w : Nat) : MOps :=
  { d := BitVec.ofNat 8 (fieldAt w 15 8), a := BitVec.ofNat 8 (fieldAt w 23 8), b := BitVec.ofNat 8 (fieldAt w 31 8),
    am := (amOfCode (fieldAt w 39 2)).getD .vec, peer := BitVec.ofNat 5 (fieldAt w 41 5), hint := (hintOfCode (fieldAt w 46 2)).getD .none,
    qos := fieldAt w 48 1 = 1, scope := (scopeOfCode (fieldAt w 49 3)).getD .lane, ord := (ordOfCode (fieldAt w 52 3)).getD .rlx,
    t := (typOfCode (fieldAt w 55 5)).getD .q4e, aop := (aopOfCode (fieldAt w 60 4)).getD .add,
    disp := if fieldAt w 0 2 = 2 then some (BitVec.ofNat 32 (fieldAt w 64 32)) else none }
/-- Codes of ORD, AM, HINT, AOP and SCOPE that are not an instruction where the field is one (R96, R152). -/
def badCodesM (op w : Nat) : Bool :=
  4 < fieldAt w 52 3 || fieldAt w 39 2 == 3 || (mHasHint op && fieldAt w 46 2 == 3)
    || (mIsAtomic op && 8 < fieldAt w 60 4) || ((mIsAtomic op || fieldAt w 52 3 != 0) && fieldAt w 49 3 == 7)
def rawX (w : Nat) : XOps :=
  { d := BitVec.ofNat 8 (fieldAt w 15 8), code := BitVec.ofNat 8 (fieldAt w 23 8), disp := BitVec.ofNat 32 (fieldAt w 32 32) }
/-- An unassigned type code is read as a type that no matrix operation lists (R264). -/
def rawT (w : Nat) : TOps :=
  { ar := BitVec.ofNat 8 (fieldAt w 15 8), br := BitVec.ofNat 8 (fieldAt w 23 8), ma := BitVec.ofNat 5 (fieldAt w 31 5),
    mb := BitVec.ofNat 5 (fieldAt w 36 5), tile := BitVec.ofNat 4 (fieldAt w 48 4), regB := fieldAt w 52 1 = 1,
    pairA := fieldAt w 53 1 = 1, tb := (typOfCode (fieldAt w 54 5)).getD .f32, ta := (typOfCode (fieldAt w 59 5)).getD .f32 }
/-- A field that a command does not use is reserved (R3, R155). R155 says so of B where LI = 1 and of SCOPE where RVE = 0; that the
RVP of a command without arrival and the IMM32 of one with LI = 0 are so too is DEDUCED (log 83). -/
def rawE (w : Nat) : EOps :=
  { d := BitVec.ofNat 8 (fieldAt w 15 8), a := BitVec.ofNat 8 (fieldAt w 23 8), b := BitVec.ofNat 8 (fieldAt w 31 8),
    c := BitVec.ofNat 8 (fieldAt w 39 8), peer := BitVec.ofNat 5 (fieldAt w 47 5), ssp := (spaceOfCode (fieldAt w 52 3)).getD .global,
    dsp := (spaceOfCode (fieldAt w 55 3)).getD .global, sub := BitVec.ofNat 6 (fieldAt w 58 6),
    arrive := if fieldAt w 84 1 = 1 then some (BitVec.ofNat 5 (fieldAt w 79 5), (scopeOfCode (fieldAt w 85 3)).getD .lane) else none,
    imm := if fieldAt w 88 1 = 1 then some (BitVec.ofNat 32 (fieldAt w 96 32)) else none }
/-- Codes of SSP, DSP, SCOPE and RVP that are not an instruction (R96, R155). -/
def badCodesE (w : Nat) : Bool :=
  decide (23 < fieldAt w 79 5) || fieldAt w 52 3 == 7 || fieldAt w 55 3 == 7 || (fieldAt w 84 1 == 1 && fieldAt w 85 3 == 7)

/-! ### The decoder -/

/-- Number of the lowest bit set, if any. -/
def lowBit (x : Nat) : Option Nat := (List.range 128).find? (fun b => x.testBit b)

/-- A word is refused for a field value; else every bit that its used fields do not give must be zero (R409, R410). -/
def decided (w n : Nat) (refused : Bool) (i : Option Instr) : Decoded :=
  if refused then .bad 4
  else match i with
    | none => .bad 1
    | some i => match lowBit (w ^^^ encode i) with
      | none => .ok i n
      | some b => .reserved b

/-- The word of format `f` and `n` bytes (R156). A NOP with a non-zero bit above the header is no instruction, as the table of R232
says and R409 then does not examine it for reserved fields, though R149 and R206 name those fields reserved (DEDUCED, log 84). -/
def decodeForm (f : Form) (op w n : Nat) : Decoded :=
  let h := rawHdr w
  match f with
  | .nop => decided w n (w / 2 ^ 15 != 0) (some (.nop h n))
  | .j => if n != 8 then .bad 2 else decided w n (jBad op h (rawJ w)) (jMake op h (jNorm op (rawJ w)))
  | .y => if n != 8 then .bad 2 else decided w n (yBad op (rawY w)) (yMake op h (yNorm op (rawY w)))
  | .k => if n != (rawSrc2 w).bytes then .bad 2 else decided w n (kBad op (rawK w)) (kMake op h (kNorm op (rawK w)))
  | .m => if n = 16 || (op = 0x98 && n != 8) then .bad 2
          else decided w n (badCodesM op w || mBad op (rawM w)) (mMake op h (mNorm op (rawM w)))
  | .x => if n != 8 then .bad 2 else decided w n (xBad op (rawX w)) (xMake op h (xNorm op (rawX w)))
  | .t => if n != 8 then .bad 2 else decided w n (tBad op (rawT w)) (tMake op h (tNorm op (rawT w)))
  | .e => if n != 16 then .bad 2 else decided w n (badCodesE w || eBad op (rawE w)) (eMake op h (eNorm op (rawE w)))

/-- The word at byte offset `off` whose bits from the lowest are those of `w`, in the order of R409. -/
def decode (off w : Nat) : Decoded :=
  let n := lenBytes (fieldAt w 0 2)
  if n = 0 then .bad 2
  else if 32 < off % 32 + n then .bad 3
  else match formOf (fieldAt w 3 8) with
    | none => .bad 1
    | some f => decodeForm f (fieldAt w 3 8) (w % 2 ^ (8 * n)) n

/-- A 32-bit word of an RV64 hart: an instruction of the custom-0 opcode (R257, R260), else nothing of this
instruction set. -/
def decodeHart (w : Nat) : Option Instr :=
  if fieldAt w 0 7 != 0x0B then none
  else
    let i := (hartMake (fieldAt w 12 3) (fieldAt w 7 5) (fieldAt w 15 5)).getD (.custom0Illegal (BitVec.ofNat 32 w))
    if encode i = w then some i else some (.custom0Illegal (BitVec.ofNat 32 w))

/-- The instruction that the decoder reads from a table row's word. -/
def decodeTableWord (nbits w : Nat) : Option Instr :=
  if nbits = 32 then decodeHart w
  else match decode 0 w with
    | .ok i _ => some i
    | _ => none

end Sys2Proof
end

