-- ==== Sys2Proof/Machine/Tx.lean ====
section
/-! DEFINITION. Transactions of groups and of RV64 harts, the ticket unit and the serial token (R247 to
R260, R293 to R305), and the trap of a hart (R340). -/

namespace Sys2Proof.Machine

/-! ### Group transactions (R247 to R253) -/

/-- A partition's retry limit (R256). -/
def State.retryLimit (s : State) (part : Nat) : Nat := ((s.part? part).map (·.retry)).getD 4

/-- Lanes that TXBEGIN starts, and those of them that need the serial token (R248). -/
def txStart (i : Issue) : LaneMask := i.exe &&& ~~~i.g.intx
def State.txNeed (s : State) (i : Issue) : LaneMask :=
  maskOf ((lanesOf (txStart i)).filter (fun l => s.retryLimit i.g.part ≤ (sget i.g.txCount l).toNat))

/-- Asks for the serial token once (R256). -/
def State.askToken (s : State) (who : TxAgent) : State :=
  if s.tix.tokReqs.any (fun r => r.who == who) then s
  else s.setTix { s.tix with tokReqs := s.tix.tokReqs ++ [{ who := who, at_ := s.meshNow }] }

/-- TXBEGIN (R248). -/
def execTxbegin (h : Hdr) (o : XOps) (s : State) : Host.Outcome State Fault Refusal :=
  perform s h { len := 8, opc := 0x9c } noFaults
    (fun s i => if s.txNeed i != 0 && s.tix.token != some (.group i.gk) then some (s.askToken (.group i.gk)) else none)
    (fun s i =>
      let start := txStart i
      let need := s.txNeed i
      let s := s.modGroup i.gk (fun g => { g with
        intx := g.intx ||| start, serial := g.serial ||| need, txLabel := setLanes g.txLabel start (fun _ => target i.pc o.disp) })
      s.abortLanes i.gk ((lanesOf (i.exe &&& i.g.intx)).map (fun l => (l, 7, 0))))

/-- TXEND (R252): waits for loads and stores, then asks for a ticket; the group is held until the decision. -/
def execTxend (h : Hdr) (o : XOps) (s : State) : Host.Outcome State Fault Refusal :=
  let _ := o
  perform s h { len := 8, opc := 0x9d } noFaults
    (fun s i => if i.exe != 0 && (i.g.lc != 0 || i.g.sc != 0) then some (s.stamped i.gk 20) else none)
    (fun s i =>
      let c := i.exe &&& i.g.intx
      if c = 0 then s.commitTo i.gk i.exe (i.pc + 8)
      else
        let s := s.modGroup i.gk (fun g => { g with txend := some (c, i.exe, BitVec.ofNat 32 (i.pc + 8)) })
        s.setTix { s.tix with reqs := s.tix.reqs ++ [{ who := .group i.gk, at_ := s.meshNow }] })

/-- TXABORT (R251). -/
def execTxabort (h : Hdr) (o : XOps) (s : State) : Host.Outcome State Fault Refusal :=
  perform s h { len := 8, opc := 0x9e } noFaults noHold (fun s i =>
    s.abortLanes i.gk ((lanesOf (i.exe &&& i.g.intx)).map (fun l => (l, 8, o.code.toNat))))

/-- A lane's status word (R253). -/
def Group.statusWord (g : Group) (l : Nat) : BitVec 32 :=
  setFld (setFld (setFld (sget g.txStatus l) 16 4 (sget g.txCount l).toNat) 20 1 (g.intx.getLsbD l).toNat) 21 1 (g.serial.getLsbD l).toNat

/-- TXSTAT (R253). -/
def execTxstat (h : Hdr) (o : XOps) (s : State) : Host.Outcome State Fault Refusal :=
  perform s h { len := 8, opc := 0x9f, v := [o.d.toNat] } noFaults noHold
    (onGroup (fun i g => g.putV ((lanesOf i.exe).map (fun l => (32 * o.d.toNat + l, i.g.statusWord l)))))

/-! ### The ticket unit (R294, R295, R304) -/

/-- Requester number (R294). -/
def reqNumber : TxAgent → Nat
  | .group gk => coreOf gk
  | .hart h => 256 + h

/-- The request served first: by cycle of arrival, then requester number (R294); of two groups of one core that asked in one cycle, the
one that is listed first (DESIGN CHOICE, log 84). -/
def firstReq : List TixReq → Option TixReq
  | [] => none
  | r :: l => match firstReq l with
    | none => some r
    | some q => if q.at_ < r.at_ || (q.at_ == r.at_ && reqNumber q.who < reqNumber r.who) then some q else some r

/-- TICKET_REQUEST (R294, R304): the ticket unit issues one ticket, at most one in a mesh cycle; while the token is held, to its
holder alone. A request is served after the cycle in which it arrived, when every request of that cycle is there. -/
def execTicketRequest (s : State) : Host.Outcome State Fault Refusal :=
  let open_ := s.tix.reqs.filter (fun r => r.at_ < s.meshNow && (s.tix.token.isNone || s.tix.token == some r.who))
  match (if s.tix.ready ≤ s.meshNow then firstReq open_ else none) with
  | none => .next s
  | some r =>
    let t := s.tix.next
    let s := s.setTix { s.tix with next := t + 1, ready := s.meshNow + 1, reqs := s.tix.reqs.filter (fun q => q.who != r.who), out := s.tix.out ++ [(t, r.who)] }
    .next (match r.who with
      | .hart h => s.modHart h (fun k => { k with ending := some t.toNat })
      | .group _ => s)

/-- A ticket is decided (R295). -/
def State.decided (s : State) (t : BitVec 48) : State :=
  s.setTix { s.tix with decided := t + 1, out := s.tix.out.filter (fun e => e.1 != t) }

/-- Why a lane's commit fails, if it does (R252, R297, R303); a line that has become WINDOW is read where it lies (R80). `pass`: sectors of the lanes passed so far. -/
def State.laneFails (s : State) (gk : Nat) (g : Group) (l : Nat) (pass : List TxSector) : Option Nat :=
  let mine := (s.core (coreOf gk)).rlog.filter (fun e => e.gslot == slotOf gk && e.lane == l)
  let bytes := fun (e : RlogEntry) => setBits e.mask
  let at_ := fun (e : RlogEntry) (j : Nat) => s.locate (e.word * 8 + j)
  if g.doomed.getLsbD l then some 9
  else if mine.any (fun e => e.bad || (bytes e).any (fun j => s.isPoison (at_ e j))) then some 10
  else if mine.any (fun e => (bytes e).any (fun j => (s.rawByte (at_ e j)).toNat != fld e.value (8 * j + 7) (8 * j))) then some 1
  else if mine.any (fun e => (bytes e).any (fun j => pass.any (fun b => b.sector == e.word / 8 && b.mask.getLsbD (e.word % 8 * 8 + j)))) then some 2
  else none

/-- The lanes of a commit in ascending order: sectors of those that pass, failures of the others (R252). -/
def State.decideLanes (s : State) (gk : Nat) (g : Group) : List Nat → List TxSector → List (Nat × Nat × Nat) → List TxSector × List (Nat × Nat × Nat)
  | [], pass, fails => (pass, fails)
  | l :: r, pass, fails =>
    match s.laneFails gk g l pass with
    | some c => s.decideLanes gk g r pass (fails ++ [(l, c, 0)])
    | none => s.decideLanes gk g r (pass ++ (s.core (coreOf gk)).tsec.filter (fun b => b.gslot == slotOf gk && b.lane == l)) fails

/-- The sectors that a commit publishes, each once: the lowest lane that writes it with its virtual address, and its bytes in
ascending lane order, so that a higher lane's byte remains (R252, R297, R305). -/
def published (pass : List TxSector) : List (Nat × (Nat × Nat) × List (Nat × Byte)) :=
  let bytes := fun (b : TxSector) => (setBits b.mask).map (fun j => (j, BitVec.ofNat 8 (fld b.data (8 * j + 7) (8 * j))))
  (pass.map (·.sector)).dedup.map (fun n =>
    let l := pass.filter (fun b => b.sector == n)
    (n, (l.map (fun b => (b.lane, b.va))).headD (0, 0), l.flatMap bytes))

/-- Steps 2 and 3 of R297: every listed sector is locked and gained; a written one is taken from every L1, a read one from an M or
E owner, and a hart whose signature one of them hits is aborted. -/
def State.lockSectors (s : State) (gk : Nat) (c : LaneMask) : State :=
  let k := s.core (coreOf gk)
  let rd := (k.rlog.filter (fun e => e.gslot == slotOf gk && c.getLsbD e.lane)).map (fun e => e.word / 8)
  let wr := (k.tsec.filter (fun b => b.gslot == slotOf gk && c.getLsbD b.lane)).map (·.sector)
  let s := rd.foldl (fun s n => (s.conflict none (64 * n) false).dirShare n) s
  wr.foldl (fun s n => ((s.conflict none (64 * n) true).rowsDrop n).dirTake n) s

/-- The decision of a group's ticket (R252, R297): the lanes still in their transaction are validated, those that pass publish,
in ascending lane order and as one event, and the others fail. A lane that aborted while the ticket waited has nothing left to
decide (R295). Where the undo log has no room for every record, nothing is published and the ticket waits (R298, R374). -/
def State.groupDecision (s : State) (gk : Nat) (t : BitVec 48) : State :=
  match s.group? gk with
  | none => s.decided t
  | some g =>
    match g.txend with
    | none => s.decided t
    | some (c0, exe, next) =>
      let c := c0 &&& g.intx
      let s := s.lockSectors gk c
      let (pass, fails) := s.decideLanes gk g (lanesOf c) [] []
      let pub := published pass
      let by_ := fun (x : Nat × Nat) => { groupWriter gk g (s.regionOrd g x.1) (some x.2) with kind := 2 }
      let secs := pub.map (fun e => (by_ e.2.1, 64 * e.1))
      if !s.logFits secs then s.logFull secs
      else
        let s := pub.foldl (fun s e => s.writeSector (by_ e.2.1) none (.glob (64 * e.1)) e.2.2) s
        let ok := c &&& ~~~maskOf (fails.map (·.1))
        let s := (lanesOf ok).foldl (fun s l => s.dropTx gk l) s
        let s := s.modGroup gk (fun g => { g with
          txend := none, intx := g.intx &&& ~~~ok, serial := g.serial &&& ~~~ok, doomed := g.doomed &&& ~~~ok,
          txCount := (lanesOf ok).foldl (fun m l => sset m l 0) g.txCount,
          txStatus := (lanesOf ok).foldl (fun m l => sset m l (txWord 0 0 0 false false true)) g.txStatus,
          txcause := if c = 0 then g.txcause else 0 }.setEntry (exe &&& ~~~(c0 &&& ~~~c)) (fun _ => next))
        let s := ((s.abortLanes gk fails).tokenBack gk).decided t
        if g.stopEv.isSome then s.regionStop gk else s

/-- GROUP_COMMIT_DECISION (R295, R297): the lowest ticket outstanding, if it is a group's, is decided. -/
def execGroupCommitDecision (s : State) : Host.Outcome State Fault Refusal :=
  match s.tix.out with
  | (t, .group gk) :: _ => .next (if s.tix.token.isNone || s.tix.token == some (.group gk) then s.groupDecision gk t else s)
  | _ => .next s

/-- A hart's integer register; x0 reads zero. -/
def Hart.reg (k : Hart) (r : Nat) : BitVec 64 := if r = 0 then 0 else sget k.x r
def Hart.put (k : Hart) (r : Nat) (v : BitVec 64) : Hart := if r = 0 then k else { k with x := sset k.x r v }

/-- SERIAL_TOKEN_GRANT (R256, R304): once every ticket issued is decided, the oldest request gets the token; a
group gets the cause TXFB with it, which one without a handler discards once it falls due (R334). -/
def execSerialTokenGrant (s : State) : Host.Outcome State Fault Refusal :=
  match s.tix.tokReqs with
  | [] => .next s
  | r :: rest =>
    if s.tix.token.isSome || !s.tix.out.isEmpty then .next s
    else
      let s := s.setTix { s.tix with token := some r.who, tokReqs := rest }
      .next (match r.who with
        | .group gk => s.modGroup gk (fun g => g.raise 2 0)
        | .hart _ => s)

/-! ### RV64 harts (R257 to R260, R340) -/

/-- Whether a trap enters supervisor mode: one below machine mode that is delegated (PRESUMED, log 54). -/
def Hart.toSup (k : Hart) (cause : Nat) : Bool :=
  k.mode != .m && (if cause / 2 ^ 63 = 1 then k.mideleg.getLsbD (cause % 2 ^ 63) else k.medeleg.getLsbD cause)
/-- Where a trap goes: to the base of the vector register, and for an interrupt in its vectored mode 4 bytes further for each code. -/
def vectorAt (tvec : BitVec 64) (cause : Nat) : BitVec 64 :=
  (tvec &&& ~~~3#64) + (if cause / 2 ^ 63 = 1 && tvec.getLsbD 0 then BitVec.ofNat 64 (4 * (cause % 2 ^ 63)) else 0)

/-- The registers of a hart after the entry to a trap (R340; PRESUMED as RISC-V has it, log 54). -/
def Hart.enterTrap (k : Hart) (cause : Nat) (tval : BitVec 64) : Hart :=
  if k.toSup cause then
    { k with sepc := k.pc, scause := BitVec.ofNat 64 cause, stval := tval, pc := vectorAt k.stvec cause, spp := k.mode == .s, mode := .s, spie := k.sie, sie := false }
  else
    { k with mepc := k.pc, mcause := BitVec.ofNat 64 cause, mtval := tval, pc := vectorAt k.mtvec cause, mpp := k.mode, mode := .m, mpie := k.mie, mie := false }

/-- A trap of a hart (R258, R340): a transaction aborts with STOP first, and the trap is then taken at the instruction after its
TX.B. A hart that waits at TX.B gives up its place and the token (R256); one that waits in a NODE-scope release finds its window
anew (R116). -/
def State.hartTrap (s : State) (h cause : Nat) (tval : BitVec 64) : State :=
  ((s.abortHart h 9 0).hartToken h).modHart h (fun k => { k.enterTrap cause tval with relWin := none })

/-- The illegal-instruction exception (mcause 2). The spec gives `mtval` no value here: a free value. -/
def State.hartIllegal (s : State) (h : Nat) : State :=
  let (x, s) := s.draw
  s.hartTrap h 2 x

/-- The hart whose instruction is performed. -/
def onHart (s : State) (f : Nat → Hart → State) : Host.Outcome State Fault Refusal :=
  match s.cur with
  | .hart h => .next (f h (s.hart h))
  | _ => .next s

/-- The transaction slot that TX.B takes: any free one by R258 and R299, here the lowest (DESIGN CHOICE, log 84). -/
def State.freeTxSlot (s : State) : Option Nat := (List.range 64).find? (fun n => (kget s.tix.slots n).isNone)

/-- A hart transaction starts (R258). -/
def State.hartStart (s : State) (h : Nat) (k : Hart) (slot rd : Nat) (serial : Bool) : State :=
  (s.setTix { s.tix with slots := kset s.tix.slots slot h }).setHart h
    { k.put rd 0 with pc := k.pc + 4, slot := some slot, slices := 0, wbuf := [], txVas := [], bufVa := [], serial := serial,
                      ckpt := some { x := k.x, f := k.f, fcsr := k.fcsr, next := k.pc + 4, rd := rd } }

/-- TX.B (R258). -/
def execTxB (rd : BitVec 5) (s : State) : Host.Outcome State Fault Refusal :=
  onHart s (fun h k =>
    let r := rd.toNat
    if k.ckpt.isSome then s.abortHart h 7 0
    else if s.retryLimit (k.part.getD 64) ≤ k.count.toNat then
      if s.tix.token == some (.hart h) then
        match s.freeTxSlot with
        | some n => s.hartStart h k n r true
        | none => s
      else s.askToken (.hart h)
    else match s.freeTxSlot with
      | some n => s.hartStart h k n r false
      | none =>
        let n := min 15 (k.count.toNat + 1)
        let st := txWord 12 0 n false false false
        s.setHart h { k.put r (st.zeroExtend 64) with pc := k.pc + 4, count := BitVec.ofNat 4 n, status := st })

/-- TX.E (R259): takes a ticket and waits for HART_COMMIT_PUBLISH; outside a transaction, an illegal instruction. -/
def execTxE (rd : BitVec 5) (s : State) : Host.Outcome State Fault Refusal :=
  onHart s (fun h k =>
    if k.ckpt.isNone then s.hartIllegal h
    else if k.ending.isSome || s.tix.reqs.any (fun q => q.who == .hart h) then s
    else (s.setHart h { k with endRd := rd.toNat }).setTix { s.tix with reqs := s.tix.reqs ++ [{ who := .hart h, at_ := s.meshNow }] })

/-- TX.A (R259). -/
def execTxA (rs : BitVec 5) (s : State) : Host.Outcome State Fault Refusal :=
  onHart s (fun h k =>
    if k.ckpt.isSome then s.abortHart h 8 ((k.reg rs.toNat).toNat % 256)
    else s.setHart h { k with pc := k.pc + 4 })

/-- TX.S (R253, R259). -/
def execTxS (rd : BitVec 5) (s : State) : Host.Outcome State Fault Refusal :=
  onHart s (fun h k =>
    let st := setFld (setFld (setFld k.status 16 4 k.count.toNat) 20 1 k.ckpt.isSome.toNat) 21 1 k.serial.toNat
    s.setHart h { k.put rd.toNat (st.zeroExtend 64) with pc := k.pc + 4 })

/-- Any other custom-0 word (R260): the illegal-instruction exception. -/
def execCustom0Illegal (w : BitVec 32) (s : State) : Host.Outcome State Fault Refusal :=
  let _ := w
  onHart s (fun h _ => s.hartIllegal h)

end Sys2Proof.Machine
end

