-- ==== Sys2Proof/Machine/Traps.lean ====
section
/-! DEFINITION. What stands at a group's pc_min, and what is taken there before it issues: precise stops and
breakpoints (R35, R41, R344, R376, R378), user traps (R334 to R339), faults of the word (R406 to R410), the watchdog
(R415); resumption (R345, R350). -/

namespace Sys2Proof.Machine

/-! ### The word at pc_min -/

/-- Whether the loop buffer of the group's scheduler holds an offset of its code: such a fetch reaches no home (R43). -/
def State.looped (s : State) (gk : Nat) (g : Group) (pc : Nat) : Bool :=
  match kget (s.core (coreOf gk)).loops (slotOf gk / 16) with
  | some (part, image, lo, hi) => part == g.part && image == g.image && lo ≤ pc && pc < hi
  | none => false

/-- The word at an offset of a group's code, as much as its fetch block holds (R142), the faults of its translation (R325), and
whether it is state of another partition, which is not read (R15, R422). -/
def State.codeWord (s : State) (gk : Nat) (g : Group) (pc : Nat) : (Nat × List FaultInfo × Bool) × State :=
  match s.image? g.part g.image, s.gvar? g with
  | some im, some v =>
    match s.xlate (clusterOf (coreOf gk)) g.part .fetch ((im.base + v.code + pc) % 2 ^ 56) (coreOf gk) with
    | (.ok pa, s) =>
      if s.tagBad g.part pa then ((0, [], true), s)
      else
        let s := if s.looped gk g pc || (kget s.coh.winLines (pa / 256)).isSome then s else (s.touchTag g.part pa).homeRead none pa
        ((ofBytes (s.readBytes (s.locate pa) (min 16 (32 - pc % 32))), [], false), s)
    | (.bad f, s) => ((0, [f], false), s)
  | _, _ => ((0, [], false), s)

/-- Where a group stands (R24): the group with ended yields, pc_min, `act`, the word there, its page fault, and whether it is another
partition's (R422). -/
structure Stand where
  g      : Group
  pc     : Nat
  act    : LaneMask
  word   : Nat
  faults : List FaultInfo
  viol   : Bool := false
  csz    : Nat

/-- Where a running group stands, if a lane is eligible and no commit is awaited (R24, R252). -/
def State.stand? (s : State) (gk : Nat) : Option (Stand × State) :=
  match s.group? gk with
  | none => none
  | some g =>
    if g.st != .running || g.txend.isSome || g.stopEv.isSome then none
    else
      let g := if g.eligible = 0 then { g with yielded := 0 } else g
      let e := g.eligible
      if e = 0 then none
      else
        let pc := g.pcMin e
        let act := g.lanesAt e pc
        let csz := ((s.gvar? g).map (·.csz)).getD 0
        if csz ≤ pc then some ({ g := g, pc := pc, act := act, word := 0, faults := [], csz := csz }, s)
        else
          let r := s.codeWord gk g pc
          some ({ g := g, pc := pc, act := act, word := r.1.1, faults := r.1.2.1.map (fun f => { f with lanes := act }), viol := r.1.2.2, csz := csz }, r.2)

/-- The instruction there, or why there is none (R409, R410). -/
def Stand.ins (t : Stand) : Decoded := if t.csz ≤ t.pc then .bad 5 else decode t.pc t.word

/-- Whether the group is at a waypoint (R35): W is set in an instruction. -/
def Stand.atWp (t : Stand) : Bool :=
  t.faults.isEmpty && t.word.testBit 2 && (match t.ins with
    | .ok _ _ | .reserved _ => true
    | .bad _ => false)

/-- The ordinal of the waypoint there (R36). -/
def State.wpHere (s : State) (t : Stand) : Nat := (((s.gvar? t.g).bind (fun v => v.wpAt t.pc)).map (·.1)).getD 0xFFFF

/-- EVENT, SUBC and OP of the fault of the word there, if it has one (R408 to R410). -/
def Stand.wordFault (t : Stand) : Option (Nat × Nat × Nat) :=
  if !t.faults.isEmpty || t.viol then none
  else match t.ins with
    | .ok _ _ => none
    | .bad n => some (10, n, fieldAt t.word 3 8)
    | .reserved b => some (11, b, fieldAt t.word 3 8)

/-! ### Resumption -/

/-- A parked group runs again (R327, R345, R376): counts start anew, no breakpoint fires where it stands, lanes in MWAIT compare
their line again (R219), and a switch request that waited for its team to run whole takes effect if it does (R63). -/
def State.runAgain (s : State) (gk : Nat) (step : Bool) : State :=
  let s := ((s.modGroup gk (fun g => { g with
    st := .running, quiet := true, since := 0, pendAge := 0, stepReq := g.stepReq || step, stepped := if step then false else g.stepped || !g.stepReq, fault := [] })).resumeOps gk).rewait gk
  match s.group? gk with
  | some g => s.wholeAgain (g.tk gk)
  | none => s

/-- Whether a core's features suffice for a group's image (R350). -/
def State.featOk (s : State) (g : Group) : Bool := (((s.image? g.part g.image).map (·.feat)).getD 0) &&& ~~~Config.features = 0

/-- The record of a refusal (R418, R419). -/
def State.featRecord (s : State) (core part wiid : Nat) : State := s.record 18 2 0 (s.coreUnit core) (some part) 0 1 (BitVec.ofNat 256 wiid)

/-- A partition is refused: one record for it (R418). -/
def State.featPart (s : State) (core part : Nat) : State :=
  if ((s.part? part).map (·.featRec)).getD true then s else (s.modPart part (fun p => { p with featRec := true })).featRecord core part 0

/-- A work item is refused: one record for it (R418). -/
def State.featItem (s : State) (core part queue idx wiid : Nat) : State :=
  match ((s.part? part).bind (fun p => kget p.queues queue)).bind (fun q => q.items.find? (fun x => x.idx == idx)) with
  | none => s
  | some x =>
    if x.feat then s
    else (s.modPart part (fun p => { p with queues := p.queues.map (fun e =>
        if e.1 = queue then (e.1, { e.2 with items := e.2.items.map (fun y => if y.idx == idx then { y with feat := true } else y) }) else e) })).featRecord core part wiid

/-- A group of a workgroup, or a resident program's, is refused (R350, R418). -/
def State.featRefused (s : State) (gk : Nat) (g : Group) : State :=
  match (if g.kind == .lodge then none else s.team? (g.tk gk)) with
  | some t => s.featItem (coreOf gk) g.part t.queue t.item t.wiid.toNat
  | none => s.featPart (coreOf gk) g.part

/-- RESUME and STEP of a parked or halted group (R345, R350). -/
def State.resume (s : State) (gk : Nat) (ord : BitVec 16) (lanes : LaneMask) (step : Bool) : State :=
  match s.group? gk with
  | none => s
  | some g =>
    if g.st == .running || g.event = 1 then s
    else
      let wp := ((s.gvar? g).bind (fun v => v.wps[ord.toNat]?))
      if ord != 0xFFFF && wp.isNone then s
      else if !s.featOk g then s.featRefused gk g
      else
        let m := lanes &&& g.live
        let g := { g with ord := ord, lmask := lanes }
        let g := match wp with
          | some w => if ord = 0xFFFF then g else { g.enterRegion w.kind m w.offs with
              pcv := setLanes g.pcv m (fun _ => BitVec.ofNat 32 w.offs),
              mwait := g.mwait &&& ~~~m, mwaitEnd := if g.mwait &&& ~~~m = 0 then none else g.mwaitEnd,
              yielded := g.yielded &&& ~~~m, rwait := ssets [] (g.rwait.map (fun (e : Nat × BitVec 32) => (e.1, e.2 &&& ~~~m))) }
          | none => g
        (s.setGroup gk g).runAgain gk step

/-- GCTL RESUME (R345). -/
def execGctlResume (gk : Nat) (ord : BitVec 16) (lanes : LaneMask) (s : State) : Host.Outcome State Fault Refusal :=
  .next (s.resume gk ord lanes false)
/-- GCTL STEP (R345). -/
def execGctlStep (gk : Nat) (ord : BitVec 16) (lanes : LaneMask) (s : State) : Host.Outcome State Fault Refusal :=
  .next (s.resume gk ord lanes true)
/-- GCTL HALT (R345). -/
def execGctlHalt (gk : Nat) (s : State) : Host.Outcome State Fault Refusal :=
  .next (s.modGroup gk (fun g => if g.st == .running then { g with haltReq := some 7 } else g))

/-- A halt of every group of some partitions but one, wherever it is saved; a group parked for PAGE stops once its
wake has come (R376). -/
def State.haltParts (s : State) (parts : List Nat) (but : Option Nat) : State :=
  let up := fun (gk : Nat) (g : Group) =>
    if parts.contains g.part && some gk != but && (g.st == .running || g.event = 1) then { g with haltReq := some 7 } else g
  { s with groups := s.groups.map (fun e => (e.1, up e.1 e.2)),
           inn := { s.inn with saved := s.inn.saved.map (fun x => { x with grp := up x.gk x.grp }),
                               swapped := s.inn.swapped.map (fun x => { x with grp := up x.gk x.grp }) } }

/-! ### Precise stops and breakpoints -/

/-- Breakpoints met at a waypoint (R378). -/
def State.breaksAt (s : State) (t : Stand) : List (Nat × Break) :=
  if t.g.quiet then []
  else (((s.part? t.g.part).map (·.breaks)).getD []).filter (fun e =>
    e.2.enable && e.2.image == t.g.image && e.2.var == t.g.var && e.2.ord == s.wpHere t)

/-- The events of the stops that are due at a waypoint: HALT, STEP, BREAK, of which one met in a transaction counts (R255, R345,
R376, R378). -/
def State.stopsAt (s : State) (t : Stand) : List Nat :=
  t.g.haltReq.toList ++ (if t.g.stepReq && t.g.stepped then [3] else [])
    ++ (if (s.breaksAt t).any (fun e => e.2.skip == 0) || t.g.breakReq.isSome then [2] else [])

/-- Whether PRECISE_STOP has something to do where the group stands: it is at a waypoint, and a breakpoint is met or, outside
transactions (R255), a stop is due. -/
def State.stopDue (s : State) (t : Stand) : Bool :=
  t.atWp && (!(s.breaksAt t).isEmpty || (t.g.intx = 0 && !(s.stopsAt t).isEmpty))

/-- Takes one from a list; where several are due at once the spec orders none of them. -/
def State.oneOf (s : State) (l : List Nat) : Nat × State :=
  match l with
  | [x] => (x, s)
  | _ => let x := s.draw
         (l.getD (x.1.toNat % l.length) 0, x.2)

/-- Every breakpoint met counts its SKIP down (R378). -/
def State.meetBreaks (s : State) (t : Stand) : State :=
  (s.breaksAt t).foldl (fun s e => s.modPart t.g.part (fun p => { p with breaks := kset p.breaks e.1 { e.2 with skip := e.2.skip - 1 } })) s

/-- Whether some breakpoints that are met stop, and whether one of them stops all (R378). -/
def State.breakHit (s : State) (t : Stand) : Option Bool :=
  let l := (s.breaksAt t).filter (fun e => e.2.skip == 0)
  if l.isEmpty then none else some (l.any (fun e => e.2.allstop))

/-- PRECISE_STOP (R41, R344, R345, R376, R378): once `lc` and `sc` have drained the group parks at the waypoint; a breakpoint met
while a lane is in a transaction is held (R255). -/
def execPreciseStop (gk : Nat) (s : State) : Host.Outcome State Fault Refusal :=
  match s.stand? gk with
  | none => .next s
  | some (t, s) =>
    if !s.stopDue t then .next s
    else
      let evs := s.stopsAt t
      let hit := s.breakHit t
      let all := t.g.breakReq == some true || hit == some true
      if evs.isEmpty || t.g.intx != 0 then
        .next ((s.meetBreaks t).modGroup gk (fun g => { g with quiet := true, breakReq := if hit.isSome || g.breakReq.isSome then some all else none }))
      else if t.g.lc != 0 || t.g.sc != 0 then .next s
      else
        let n := s.wpHere t
        let e := (s.meetBreaks t).oneOf evs
        let s := e.2.modGroup gk (fun g => { g with arrived := none, lastWp := n, since := 0, breakReq := none })
        let s := (s.park gk e.1).tokenBack gk
        .next (if all then
          match (s.part? t.g.part).bind (·.session) with
          | some ses =>
            let s := s.haltParts (s.sessionParts t.g.part) (some gk)
            (s.setDbg { s.dbg with sessions := match kget s.dbg.sessions ses with
              | some d => kset s.dbg.sessions ses { d with want := true }
              | none => s.dbg.sessions }).haltDone t.g.part
          | none => s.haltParts [t.g.part] (some gk)
        else s)

/-! ### User traps -/

/-- Peer indexes that an instruction names (R78, R155). -/
def peersOf (i : Instr) : List Nat :=
  let sp := fun (o : EOps) => if o.ssp == .peerA || o.ssp == .peerW || o.dsp == .peerA || o.dsp == .peerW then [o.peer.toNat] else []
  match i with
  | .ldx _ o | .stx _ o => [o.peer.toNat]
  | .copy _ o | .copyt _ o => sp o
  | _ => []

/-- The guard of an instruction that a group may be blocked at. -/
def blockHdr (i : Instr) : Option Hdr :=
  match i with
  | .ldx h _ | .stx h _ | .copy h _ | .copyt h _ | .wait h _ | .rvwait h _ => some h
  | _ => none

/-- Whether the group is blocked at the instruction where it stands (R337). -/
def State.blockedAt (s : State) (gk : Nat) (t : Stand) : Bool :=
  match t.ins with
  | .ok i _ =>
    match (blockHdr i).bind (fun h => ({ s with cur := .group gk } : State).issue? h) with
    | none => false
    | some x =>
      match i with
      | .wait _ o => !waitMet x.g o.disp
      | .rvwait _ o => x.exe != 0 && rvInit (s.point x o.spec.toNat) && rvPhase (s.point x o.spec.toNat) != o.f
      | i => x.exe != 0 && (peersOf i).any (fun n => !bndBound (s.binding x n) && !bndGone (s.binding x n))
  | _ => false

/-- A cause TXFB or UINT is held while a lane is in a transaction, and at FETCHW, XACQ, TXEND and a full service
queue (R337). -/
def Group.trapsHeld (g : Group) : Bool :=
  g.intx != 0 || g.txend.isSome || (match g.stamp with
    | some (_, n) => 16 ≤ n
    | none => false)

/-- The causes due where a group stands, or where all its lanes wait in MWAIT (R334, R337). With handler `none` a TRAP and a FLAG are
precise stops, held while a lane is in a transaction (R255). -/
def State.causesDue (s : State) (gk : Nat) (g : Group) (t : Option Stand) : List Nat :=
  if g.handler || g.st != .running || g.stopEv.isSome then []
  else
    let wp := (t.map (·.atWp)).getD false
    let free := (s.handlerOf g).isSome || g.intx = 0
    let trap := g.cause.getLsbD 0 && wp && (s.handlerOf g).isNone && g.intx = 0
    let flag := g.cause.getLsbD 1 && wp && free && (match g.flagAt, t with
      | some p, some t => p.toNat == t.pc
      | none, some _ => true
      | _, none => false)
    let place := !g.trapsHeld && (wp || (match t with
      | some t => t.faults.isEmpty && s.blockedAt gk t
      | none => g.mwait != 0 && g.live &&& ~~~g.mwait = 0))
    (if trap then [0] else []) ++ (if flag then [1] else []) ++ [2, 3].filter (fun c => place && g.cause.getLsbD c)

/-- Takes a user-trap cause (R334, R336): the group enters its handler once `lc` is zero; with handler `none` it parks
for a TRAP held so far or for FLAG at waypoint `wp` once it has drained (R36, R255), and the other causes are discarded. -/
def State.takeTrap (s : State) (gk : Nat) (g : Group) (c wp : Nat) : State :=
  match s.handlerOf g with
  | some off => if g.lc != 0 then s
    else (s.unask gk).modGroup gk (fun g => { g.enterHandler c (g.trapCode c) off (fun l => sget g.pcv l) with arrived := none })
  | none =>
    if c ≤ 1 then
      if g.lc != 0 || g.sc != 0 then s
      else (s.modGroup gk (fun g => { g.takeCause c (g.trapCode c) with arrived := none, lastWp := wp, since := 0 })).park gk (5 + c)
    else s.modGroup gk (fun g => { g with cause := setFld (if c = 3 then setFld g.cause 16 16 0 else g.cause) c 1 0 })

/-- USER_TRAP_ENTRY (R336): the lowest cause due where the group stands is taken. -/
def execUserTrapEntry (gk cause : Nat) (s : State) : Host.Outcome State Fault Refusal :=
  match s.group? gk with
  | none => .next s
  | some g =>
    match s.stand? gk with
    | some (t, s) => .next (if (s.causesDue gk t.g (some t)).head? = some cause then s.takeTrap gk t.g cause (s.wpHere t) else s)
    | none => .next (if (s.causesDue gk g none).head? = some cause then s.takeTrap gk g cause g.lastWp else s)

/-! ### Faults of the word, and the watchdog -/

/-- EXECUTION_FREEZE (R406, R409, R410): the word at pc_min is no instruction, or holds a reserved field that is not
zero. An illegal use of an instruction (R411) is frozen in the same way by the instruction itself. -/
def execExecutionFreeze (gk event subc op : Nat) (lanes : LaneMask) (s : State) : Host.Outcome State Fault Refusal :=
  match s.stand? gk with
  | none => .next s
  | some (t, s) => .next (if t.wordFault = some (event, subc, op) && lanes = t.act then s.freeze gk event subc op lanes t.pc else s)

/-- A watchdog is due once its count is reached (R415). -/
def Group.dogPending (g : Group) : Bool := g.stopPending && 2 ^ 20 ≤ g.pendAge
def Group.dogWaypoint (g : Group) : Bool := 2 ^ 26 ≤ g.since

def State.dog (s : State) (gk subc : Nat) (due : Group → Bool) : State :=
  match s.stand? gk with
  | none => s
  | some (t, s) => if due t.g then s.freeze gk 13 subc (fieldAt t.word 3 8) t.act t.pc else s

/-- WATCHDOG_PENDING_STOP (R415). -/
def execWatchdogPendingStop (gk : Nat) (s : State) : Host.Outcome State Fault Refusal := .next (s.dog gk 1 Group.dogPending)
/-- WATCHDOG_NO_WAYPOINT (R415). -/
def execWatchdogNoWaypoint (gk : Nat) (s : State) : Host.Outcome State Fault Refusal := .next (s.dog gk 2 Group.dogWaypoint)

/-! ### The event queue -/

/-- EVENT_QUEUE_ENTRY_WRITE (R341): the oldest waiting park gets its entry once one is free. -/
def execEventQueueEntryWrite (core : Nat) (s : State) : Host.Outcome State Fault Refusal :=
  .next (s.modCore core (fun c => match c.evPend with
    | (slot, event) :: r =>
      if c.evTail - c.evHead < 64 then
        { c with evq := sset c.evq (c.evTail % 64) (BitVec.ofNat 64 (event * 256 + slot)), evTail := c.evTail + 1, evPend := r }
      else c
    | [] => c))

/-! ### A group's turn -/

/-- What a group's turn performs: an instruction, its own page fault, or nothing. -/
inductive Turned
  | run (i : Instr) (s : State)
  | done (s : State)

/-- Poison met by an instruction fetch reads as zero and is consumed (R400). -/
def State.fetchPoison (s : State) (gk : Nat) (t : Stand) : State :=
  match s.image? t.g.part t.g.image, s.gvar? t.g with
  | some im, some v =>
    match s.xlate (clusterOf (coreOf gk)) t.g.part .fetch ((im.base + v.code + t.pc) % 2 ^ 56) (coreOf gk) with
    | (.ok pa, s) => if s.isPoison (s.locate pa) then s.consume t.g.part (s.locate pa) else s
    | (.bad _, s) => s
  | _, _ => s

/-- The turn of a group (R24, R416): what is due before the instruction, then the fault of the word, then the
instruction. Where a stop and a user trap are due at once the spec orders neither first. -/
def State.turnOf (s : State) (gk : Nat) : Turned :=
  match s.group? gk with
  | none => .done s
  | some g =>
    match s.stand? gk with
    | none => match (s.causesDue gk g none).head? with
      | some c => .run (.userTrapEntry gk c) s
      | none => .done s
    | some (t, s) =>
      if t.g.dogPending then .run (.watchdogPendingStop gk) s
      else if t.g.dogWaypoint then .run (.watchdogNoWaypoint gk) s
      else
        let due := (if s.stopDue t then [Instr.preciseStop gk] else []) ++ ((s.causesDue gk t.g (some t)).head?.map (Instr.userTrapEntry gk)).toList
        match due with
        | [i] => .run i s
        | i :: j :: _ => let x := s.draw
                         .run (if x.1.getLsbD 0 then i else j) x.2
        | [] =>
          if !t.faults.isEmpty then
            let x := s.draw
            .done ((x.2.modGroup gk (fun g => { g with atOff := t.pc, atOp := fld x.1 7 0 })).pageFault gk t.faults)
          else if t.viol then
            let x := s.draw
            .done (x.2.freeze gk 15 6 (fld x.1 7 0) t.act t.pc)
          else match t.wordFault with
            | some (e, n, op) => .run (.executionFreeze gk e n op t.act) (s.fetchPoison gk t)
            | none =>
              if t.g.arrived.isSome then .done s
              else match t.ins with
                | .ok i _ => .run i s
                | _ => .done s

end Sys2Proof.Machine
end

