-- ==== Sys2Proof/Machine/GroupWin.lean ====
section
/-! DEFINITION. The group window (R342, R343, R407): what an Ostler or a debugger reads and writes of a group. -/

namespace Sys2Proof.Machine

/-- The low and high half of a 64-bit register, by word. -/
def half (x : BitVec 64) (w : Nat) : BitVec 32 := BitVec.ofNat 32 (x.toNat / 2 ^ (32 * (w % 2)))
def setHalf (x : BitVec 64) (w : Nat) (v : BitVec 32) : BitVec 64 := setFld x (32 * (w % 2)) 32 v.toNat

/-- STATE of GCTL (R343). -/
def stateCode : RunState → Nat
  | .running => 0 | .parked => 1 | .halted => 2

/-- GCTL as it reads (R343). -/
def Group.gctl (g : Group) : BitVec 64 := pack 64 [(0, 32, g.lmask.toNat), (32, 16, g.ord.toNat), (48, 8, g.event), (58, 2, stateCode g.st)]

/-- Lanes of a group that a precise stop took at a WAIT or RVWAIT where it was stalled, and the code of their wait (R342). -/
def State.blockedLanes (s : State) (gk : Nat) (g : Group) : LaneMask × Nat :=
  if g.st == .running || !atWaypoint g.event then (0, 0)
  else match (s.setGroup gk { g with st := .running }).stand? gk with
    | none => (0, 0)
    | some (t, s) =>
      if !s.blockedAt gk t then (0, 0)
      else match t.ins with
        | .ok (.rvwait _ _) _ => (t.act, 3)
        | .ok (.wait _ _) _ => (t.act, 4)
        | _ => (0, 0)

/-- The state byte of a lane (R342), with the lanes stalled at WAIT or RVWAIT and their code. -/
def Group.laneByte (g : Group) (b : LaneMask × Nat) (l : Nat) : Nat :=
  (g.exited.getLsbD l).toNat + 2 * (if g.rejoining.getLsbD l then 1 else if g.mwait.getLsbD l then 2 else if b.1.getLsbD l then b.2 else 0)
    + 16 * (g.yielded.getLsbD l).toNat + 32 * (if l = 0 && g.handler then 1 else 0)

/-- Word `w` of the window, at byte offset 4 * w (R342). -/
def State.winWord (s : State) (gk : Nat) (g : Group) (w : Nat) : BitVec 32 :=
  if w < 0x2000 then (if g.held.getLsbD (w / 2048) then g.vr (w / 32) (w % 32) else 0)
  else if w < 0x2080 then half (g.sr ((w - 0x2000) / 2)) w
  else if w < 0x2088 then g.pr (w - 0x2080)
  else if w = 0x2088 then pack 32 [(0, 8, g.lc), (8, 8, g.sc), (16, 8, g.cc), (24, 8, g.tc)]
  else if 0x2090 ≤ w && w < 0x2098 then sget g.rmask (w - 0x2090)
  else if w = 0x2098 || w = 0x2099 then half g.sflags w
  else if w = 0x209A || w = 0x209B then half g.cause w
  else if w = 0x209C then g.hmask
  else if w = 0x209E || w = 0x209F then half (s.mseq gk (g.tk gk)) w
  else if w = 0x20A0 || w = 0x20A1 then half g.txcause w
  else if 0x20C0 ≤ w && w < 0x20E0 then sget g.pcv (w - 0x20C0)
  else if 0x20E0 ≤ w && w < 0x2100 then sget g.epcv (w - 0x20E0)
  else if 0x2100 ≤ w && w < 0x2120 then sget g.hpcv (w - 0x2100)
  else if 0x2120 ≤ w && w < 0x2140 then sget g.sepcv (w - 0x2120)
  else if 0x2140 ≤ w && w < 0x2148 then pack 32 ((List.range 4).map (fun j => (8 * j, 8, g.laneByte (s.blockedLanes gk g) (4 * (w - 0x2140) + j))))
  else if w = 0x2148 then pack 32 [(0, 1, g.watch.armed.toNat), (1, 1, g.watch.loc.toNat), (2, 1, g.watch.trig.toNat)]
  else if w = 0x214A || w = 0x214B then half (g.watch.line.zeroExtend 64) w
  else if 0x2150 ≤ w && w < 0x2160 then BitVec.ofNat 32 (fld g.watch.snap (32 * (w - 0x2150) + 31) (32 * (w - 0x2150)))
  else if 0x2180 ≤ w && w < 0x21A0 then g.statusWord (w - 0x2180)
  else if w = 0x21C0 || w = 0x21C1 then half g.gctl w
  else if 0x21C4 ≤ w && w < 0x21C8 then BitVec.ofNat 32 (fld g.xfault (32 * (w - 0x21C4) + 31) (32 * (w - 0x21C4)))
  else 0

/-- Byte of the window of slot `slot` of a core: zero outside the parked and halted states, but for GCTL (R342). -/
def State.winByte (s : State) (core slot off : Nat) : Byte :=
  let w := match s.group? (core * 64 + slot) with
    | some g => if g.st != RunState.running || off / 8 = 0x10E0 then s.winWord (core * 64 + slot) g (off / 4) else 0
    | none => if off / 4 = 0x21C1 then 0x0C000000 else 0
  BitVec.ofNat 8 (w.toNat / 2 ^ (8 * (off % 4)))

/-- A word of a pc, as the window holds it: its two low bits are zero (R342). -/
def pcWord (x : BitVec 32) : BitVec 32 := x &&& ~~~3#32

/-- Writes word `w` of the window; a read-only or reserved word keeps its value (R342, R410). -/
def Group.winPut (g : Group) (w : Nat) (x : BitVec 32) : Group :=
  if w < 0x2000 then (if g.held.getLsbD (w / 2048) then g.putV [(w, x)] else g)
  else if w < 0x2080 then g.putS ((w - 0x2000) / 2) (setHalf (g.sr ((w - 0x2000) / 2)) w x)
  else if w < 0x2088 then g.putP (w - 0x2080) x
  else if 0x2090 ≤ w && w < 0x2098 then { g with rmask := sset g.rmask (w - 0x2090) x }
  else if w = 0x2098 || w = 0x2099 then { g with sflags := setHalf g.sflags w x &&& sflagsMask }
  else if w = 0x209A || w = 0x209B then { g with cause := setHalf g.cause w x &&& causeMask }
  else if w = 0x209C then { g with hmask := x }
  else if 0x20C0 ≤ w && w < 0x20E0 then { g with pcv := sset g.pcv (w - 0x20C0) (pcWord x) }
  else if 0x20E0 ≤ w && w < 0x2100 then { g with epcv := sset g.epcv (w - 0x20E0) (pcWord x) }
  else if 0x2100 ≤ w && w < 0x2120 then { g with hpcv := sset g.hpcv (w - 0x2100) (pcWord x) }
  else if 0x2120 ≤ w && w < 0x2140 then { g with sepcv := sset g.sepcv (w - 0x2120) (pcWord x) }
  else if w = 0x2148 then { g with watch := { g.watch with armed := x.getLsbD 0, loc := x.getLsbD 1, trig := x.getLsbD 2, bound := true } }
  else if w = 0x214A || w = 0x214B then { g with watch := { g.watch with line := (setHalf (g.watch.line.zeroExtend 64) w x).truncate 56, bound := true } }
  else if 0x2150 ≤ w && w < 0x2160 then { g with watch := { g.watch with snap := setFld g.watch.snap (32 * (w - 0x2150)) 32 x.toNat, bound := true } }
  else g

/-- The line that a written watch names (R216, R342). -/
def State.rehome (s : State) (gk : Nat) : State :=
  match s.group? gk with
  | none => s
  | some g =>
    if !g.watch.armed then s
    else if g.watch.loc then
      let base := ((s.team? (g.tk gk)).map (fun t => 4096 * t.abase)).getD 0
      s.setGroup gk { g with watch := { g.watch with home := .aspc (coreOf gk) (base + g.watch.line.toNat % 8192 * 64) } }
    else match s.xlate (clusterOf (coreOf gk)) g.part .load (g.watch.line.toNat * 64 % 2 ^ 56) (coreOf gk) with
      | (.ok pa, s) =>
        let s := if s.isPeer pa then s else s.setDir (pa / 64) { s.dirEnt (pa / 64) with watch := true }
        s.setGroup gk { g with watch := { g.watch with home := .glob pa } }
      | (.bad _, s) => s

/-- Writes bytes of the window of a parked or halted group (R342, R380). -/
def State.winWrite (s : State) (gk off : Nat) (bs : List Byte) : State :=
  match s.group? gk with
  | none => s
  | some g =>
    if g.st == .running then s
    else
      let g' := ((List.range bs.length).foldl (fun (g : Group) j =>
        let o := off + j
        g.winPut (o / 4) (setFld (s.winWord gk g (o / 4)) (8 * (o % 4)) 8 (bs.getD j 0).toNat)) g)
      let s := s.setGroup gk g'
      if off < 0x8580 && 0x8520 < off + bs.length then s.rehome gk else s

end Sys2Proof.Machine
end

