-- ==== Sys2Proof/Machine/Ostler.lean ====
section
/-! DEFINITION. The Ostlers' private region (R341), scratchpad windows (R79 to R81, R422), user-interrupt posts (R339),
wakes, freezes and shoot-downs by application cores (R327, R330, R331, R423), page walks (R324). -/

namespace Sys2Proof.Machine

/-! ### Scratchpad windows -/

/-- Fields of a mapping-table entry (R79), in bytes. -/
def mapVa (e : BitVec 64) : Nat := fld e 63 24 * 65536
def mapSize (e : BitVec 64) : Nat := fld e 23 20 * 65536
def mapOffs (e : BitVec 64) : Nat := fld e 19 16 * 65536
def mapPart (e : BitVec 64) : Nat := fld e 8 3
def mapV (e : BitVec 64) : Bool := e.getLsbD 0

/-- The bits of a mapping-table entry that are not reserved (R79). -/
def mapMask : BitVec 64 := ~~~0x8006#64

/-- Whether two runs of bytes have a byte in common. -/
def crosses (a n b m : Nat) : Bool := a < b + m && b < a + n

/-- Whether an entry may not be mapped: its size, a tag of a target byte, or a valid entry of the partition that it
overlaps, set or being set (R79, R422). A size of 0 and a range that passes the end of the space are refused as a wrong tag is
(DESIGN CHOICE, log 44). -/
def State.mapRefused (s : State) (cluster idx : Nat) (e : BitVec 64) : Bool :=
  let core := mapCore cluster e
  let lim := if mapIsW e then Config.wBytes else Config.aBytes
  mapSize e = 0 || lim < mapOffs e + mapSize e
    || (List.range (mapSize e / 4096)).any (fun k => s.localTag core (mapIsW e) (mapOffs e + 4096 * k) != some (mapPart e))
    || ((List.range 8).any (fun c => (s.cluster c).map.any (fun x =>
        (mapV x.2 || (kget (s.cluster c).setting x.1).isSome) && mapPart x.2 == mapPart e && !(c == cluster && x.1 == idx)
          && (crosses (mapVa e) (mapSize e) (mapVa x.2) (mapSize x.2)
              || (mapCore c x.2 == core && mapIsW x.2 == mapIsW e && crosses (mapOffs e) (mapSize e) (mapOffs x.2) (mapSize x.2))))))

/-- Translates each 64 KiB of a window (R80). -/
def State.mapPages (s : State) (cluster : Nat) (e : BitVec 64) : Nat → Nat → Option (List Nat) × State
  | 0, _ => (some [], s)
  | n + 1, va => match s.xlate cluster (mapPart e) .engWrite (va % 2 ^ 56) with
    | (.bad _, s) => (none, s)
    | (.ok pa, s) => match s.mapPages cluster e n (va + 65536) with
      | (some l, s) => (some (pa :: l), s)
      | (none, s) => (none, s)

/-- WINDOW_MAP (R80, step 1): the window is translated; an entry that may not be mapped sets ERR. A write while BUSY
has no effect. -/
def State.windowMap (s : State) (core idx : Nat) (e : BitVec 64) : State :=
  let cl := clusterOf core
  let k := s.core core
  if k.mapBusy then s
  else if s.mapRefused cl idx e || mapV (sget (s.cluster cl).map idx) || (kget (s.cluster cl).clearing idx).isSome || (kget (s.cluster cl).setting idx).isSome then
    s.setCore core { k with mapIdx := idx, mapErr := true, mapDone := true }
  else match s.mapPages cl e (mapSize e / 65536) (mapVa e) with
    | (none, s) => s.setCore core { s.core core with mapIdx := idx, mapErr := true, mapDone := true }
    | (some l, s) =>
      (s.setCore core { s.core core with mapIdx := idx, mapBusy := true, mapErr := false, mapDone := false }).modCluster cl (fun c => { c with
        map := sset c.map idx (setFld (e &&& mapMask) 0 1 0), setting := kset c.setting idx (l.flatMap (fun pa => (List.range 256).map (fun j => pa + 256 * j))) })

/-- The home slice marks a backing line: every cached copy is written back and invalidated (R80). -/
def State.markLine (s : State) (key off pa : Nat) : State :=
  let s := (List.range 4).foldl (fun (s : State) j =>
    let sec := pa / 64 + j
    ((((s.wbXlate sec none).dropCopies sec none).setDir sec { s.dirEnt sec with state := 5, sharers := 0, owner := 0 }).leaseDrop sec).rowsDrop sec) s
  s.setCoh { s.coh with winLines := kset s.coh.winLines (pa / 256) (key, off), lines := kdel s.coh.lines (pa / 256) }

/-- WINDOW_MAP_VALID (R80, steps 2 and 3). -/
def execWindowMapValid (cluster idx : Nat) (s : State) : Host.Outcome State Fault Refusal :=
  match kget (s.cluster cluster).setting idx with
  | none => .next s
  | some lines =>
    let e := sget (s.cluster cluster).map idx
    let s := (List.range lines.length).foldl (fun (s : State) j => s.markLine (256 * cluster + idx) (mapOffs e + 256 * j) (lines.getD j 0)) s
    let s := s.modCluster cluster (fun c => { c with map := sset c.map idx (setFld e 0 1 1), setting := kdel c.setting idx })
    .next { s with cores := s.cores.map (fun x =>
      if clusterOf x.1 = cluster && x.2.mapBusy && x.2.mapIdx == idx then (x.1, { x.2 with mapBusy := false, mapDone := true }) else x) }

/-- WINDOW_UNMAP (R79, R81): the entry takes the fields written, with V = 0; no new translation uses the window that it mapped, whose
lines begin to be written back, and the range scoreboard holds its range. An entry that is being set is not written (log 44). The
ascending address order of the write-back is that of the physical lines (DESIGN CHOICE, log 81). -/
def State.windowUnmap (s : State) (core idx : Nat) (new : BitVec 64) : State :=
  let cl := clusterOf core
  if (s.core core).mapBusy then s
  else if (kget (s.cluster cl).setting idx).isSome then s.setCore core { s.core core with mapIdx := idx, mapErr := true, mapDone := true }
  else
    let e := sget (s.cluster cl).map idx
    let s := (s.modCore core (fun k => { k with mapIdx := idx, mapErr := false, mapDone := true })).modCluster cl (fun c => { c with
      map := sset c.map idx (setFld (new &&& mapMask) 0 1 0) })
    if !mapV e then s
    else
      let lines := (s.coh.winLines.filter (fun x => x.2.1 == 256 * cl + idx)).map (·.1)
      let s := s.modCluster cl (fun c => { c with old := sset c.old idx e, clearing := kset c.clearing idx lines })
      s.modCore (mapCore cl e) (fun k => { k with rsb := k.rsb ++ [{ wSpace := mapIsW e, tk := 4095 - idx, lo := mapOffs e, hi := mapOffs e + mapSize e, dest := false, cmd := none }] })

/-- WINDOW_MAP (R80). -/
def execWindowMap (core idx : Nat) (entry : BitVec 64) (s : State) : Host.Outcome State Fault Refusal :=
  .next (if mapV entry then s.windowMap core (idx % 256) entry else s)
/-- WINDOW_UNMAP (R81). -/
def execWindowUnmap (core idx : Nat) (entry : BitVec 64) (s : State) : Host.Outcome State Fault Refusal :=
  .next (if mapV entry then s else s.windowUnmap core (idx % 256) entry)

/-- One line of a window goes back, with its poison, to its backing memory (R81). -/
def State.lineBack (s : State) (line : Nat) : State :=
  let src := s.locate (line * 256)
  let bs := (List.range 256).map (fun j => s.rawByte (src.add j))
  let bad := (List.range 4).map (fun j => s.isPoison (src.add (64 * j)))
  let s := s.setCoh { s.coh with winLines := kdel s.coh.winLines line }
  let s := s.putBytes (.glob (line * 256)) bs
  (List.range 4).foldl (fun (s : State) j =>
    (s.setPoison (.glob (line * 256 + 64 * j)) (bad.getD j false)).setDir (line * 4 + j) { s.dirEnt (line * 4 + j) with state := 0 }) s

/-- WINDOW_LINE_WRITEBACK (R81): the next line, with its poison, goes back to its backing memory; with the last line the
range is released. -/
def execWindowLineWriteback (cluster idx : Nat) (s : State) : Host.Outcome State Fault Refusal :=
  match kget (s.cluster cluster).clearing idx with
  | none => .next s
  | some [] =>
    let e := sget (s.cluster cluster).old idx
    let s := s.modCluster cluster (fun c => { c with old := kdel c.old idx, clearing := kdel c.clearing idx })
    .next (s.modCore (mapCore cluster e) (fun k => { k with rsb := k.rsb.filter (fun r => !(r.cmd.isNone && r.tk == 4095 - idx)) }))
  | some (line :: rest) =>
    let s := s.lineBack line
    .next (s.modCluster cluster (fun c => { c with clearing := kset c.clearing idx rest }))

/-! ### User-interrupt posts -/

/-- UPOST (R339): an Ostler posts to a team of its own core. -/
def State.upost (s : State) (core : Nat) (v : BitVec 64) : State :=
  if fld v 7 0 = core then s.postUint core (fld v 19 16) (fld v 47 32) (fld v 63 48) else s

/-- UPOST (R339). -/
def execUpost (core : Nat) (v : BitVec 64) (s : State) : Host.Outcome State Fault Refusal := .next (s.upost core v)

/-! ### The private region (R341) -/

/-- The holder of a team's tile token: the tokens of a swapped-out team stay in place under its partition's tag (R347). -/
def State.tokenOf (s : State) (tk : Nat) (t : Team) (c : Nat) : Option Nat :=
  match s.inn.tiles.find? (fun x => x.part == t.part && x.core == tk / 16) with
  | some x => kget x.token c
  | none => kget (s.core (tk / 16)).token c

/-- The byte that names the holder of a team's tile token. -/
def State.tokenByte (s : State) (tk : Nat) (t : Team) (n : Nat) : Byte :=
  match (setBits t.tiles)[n]? with
  | none => 0
  | some c => match s.tokenOf tk t c with
    | some gk =>
      let g := if gk < 2 ^ 20 then s.group? gk else ((s.inn.saved ++ s.inn.swapped).find? (fun x => x.gk + 2 ^ 20 == gk && x.grp.tk x.gk == tk)).map (·.grp)
      BitVec.ofNat 8 (128 + (g.map (·.grpid)).getD 0)
    | none => 0

/-- A byte of a team page. -/
def State.teamByte (s : State) (tk off : Nat) : Byte :=
  match s.team? tk with
  | none => 0
  | some t =>
    if off < 192 then BitVec.ofNat 8 ((sget t.rv (off / 8)).toNat / 2 ^ (8 * (off % 8)))
    else if 256 ≤ off && off < 512 then BitVec.ofNat 8 ((sget t.bind ((off - 256) / 8)).toNat / 2 ^ (8 * (off % 8)))
    else if 512 ≤ off && off < 528 then s.tokenByte tk t (off - 512)
    else if off = 528 then (if t.frozen.isSome then 1 else 0)
    else 0

/-- A byte of an 8-byte register. -/
def regByte (x off : Nat) : Byte := BitVec.ofNat 8 (x / 2 ^ (8 * (off % 8)))

/-- A byte of the private region of a core's Ostler. -/
def State.privByte (s : State) (core off : Nat) : Byte :=
  let k := s.core core
  if off < 0x400000 then s.winByte core (off / 65536) (off % 65536)
  else if off < 0x410000 then s.teamByte (core * 16 + (off - 0x400000) / 4096) (off % 4096)
  else if off < 0x410400 then BitVec.ofNat 8 ((sget k.reqq ((off - 0x410000) / 64)).toNat / 2 ^ (8 * (off % 64)))
  else if off < 0x410408 then regByte k.reqHead off
  else if off < 0x410410 then regByte k.reqTail off
  else if 0x411000 ≤ off && off < 0x411200 then regByte (sget k.evq ((off - 0x411000) / 8)).toNat off
  else if 0x411200 ≤ off && off < 0x411208 then regByte k.evHead off
  else if 0x411208 ≤ off && off < 0x411210 then regByte k.evTail off
  else if off = 0x412000 then BitVec.ofNat 8 k.mapIdx
  else if off = 0x412007 then BitVec.ofNat 8 (64 * k.mapErr.toNat + 128 * k.mapBusy.toNat)
  else if 0x412008 ≤ off && off < 0x412010 then regByte (sget (s.cluster (clusterOf core)).map k.mapIdx).toNat off
  else 0

/-- A register of 8 bytes with some of its bytes written. -/
def overlay (x base off : Nat) (bs : List Byte) : Nat :=
  ((List.range bs.length).foldl (fun (v : BitVec 64) j => if base ≤ off + j && off + j < base + 8 then setFld v (8 * (off + j - base)) 8 (bs.getD j 0).toNat else v) (BitVec.ofNat 64 x)).toNat

/-- A write to GCTL (R343, R345). A command is accepted with the ORD and LMASK of the same write; bytes not written keep
their values. -/
def State.gctlWrite (s : State) (gk off : Nat) (bs : List Byte) : State :=
  match s.group? gk with
  | none => s
  | some g =>
    let v := BitVec.ofNat 64 (overlay (g.gctl.toNat % 2 ^ 48) 0x8700 off bs)
    match fld v 63 60 with
    | 1 => s.resume gk (BitVec.ofNat 16 (fld v 47 32)) (BitVec.ofNat 32 (fld v 31 0)) false
    | 2 => s.resume gk (BitVec.ofNat 16 (fld v 47 32)) (BitVec.ofNat 32 (fld v 31 0)) true
    | 3 => s.modGroup gk (fun g => if g.st == .running then { g with haltReq := some 7 } else g)
    | _ => s

/-- Whether every group of a team, wherever it is saved, is parked or halted (R341). -/
def State.teamStill (s : State) (tk : Nat) : Bool :=
  s.groups.all (fun e => e.2.tk e.1 != tk || e.2.st != RunState.running)
    && (s.inn.saved ++ s.inn.swapped).all (fun x => x.grp.tk x.gk != tk || x.grp.st != RunState.running)

/-- A write to a team page: rendezvous points while every group of the team is parked or halted, and ENGCTL (R341,
R399). -/
def State.teamWrite (s : State) (tk off : Nat) (bs : List Byte) : State :=
  if s.teamStill tk && off < 192 then
    s.modTeam tk (fun t => { t with rv := (List.range 24).foldl (fun m n =>
      if crosses (8 * n) 8 off bs.length then sset m n (BitVec.ofNat 64 (overlay (sget m n).toNat (8 * n) off bs % 2 ^ 34)) else m) t.rv })
  else if off ≤ 528 && 528 < off + bs.length then
    let b := bs.getD (528 - off) 0
    if b.getLsbD 1 then s.engDiscard tk else if b.getLsbD 0 then s.engResume tk else s
  else s

/-- A write of at most 8 bytes by a core's Ostler to its private region (R341). -/
def State.privWrite (s : State) (core off : Nat) (bs : List Byte) : State :=
  if off < 0x400000 then
    let gk := core * 64 + off / 65536
    let o := off % 65536
    if o / 8 = 0x10E0 then s.gctlWrite gk o bs else s.winWrite gk o bs
  else if off < 0x410000 then s.teamWrite (core * 16 + (off - 0x400000) / 4096) (off % 4096) bs
  else if crosses off bs.length 0x410400 8 then s.modCore core (fun k => { k with reqHead := overlay k.reqHead 0x410400 off bs })
  else if crosses off bs.length 0x411200 8 then s.modCore core (fun k => { k with evHead := overlay k.evHead 0x411200 off bs })
  else if 0x412000 ≤ off && off < 0x412008 then
    s.modCore core (fun k => if k.mapBusy then k else { k with mapIdx := if off = 0x412000 then (bs.headD 0).toNat else k.mapIdx, mapErr := false })
  else if off = 0x412008 && bs.length = 8 then
    let e := BitVec.ofNat 64 (ofBytes bs)
    if mapV e then s.windowMap core (s.core core).mapIdx e else s.windowUnmap core (s.core core).mapIdx e
  else if off = 0x412010 && bs.length = 8 then s.upost core (BitVec.ofNat 64 (ofBytes bs))
  else s

/-- OSTLER_REGISTER_WRITE (R341, R342). -/
def execOstlerRegisterWrite (core off : Nat) (bytes : List Byte) (s : State) : Host.Outcome State Fault Refusal :=
  .next (s.privWrite core off bytes)

/-! ### Supervisor CSRs of application cores -/

/-- A CSR write of an application core: in a transaction it aborts with ILLEGAL first (R259); an Ostler has no such CSR,
and user mode may not write it. -/
def State.csrWrite (s : State) (h : Nat) (ok : Hart → Bool) (f : State → Nat → State) : Host.Outcome State Fault Refusal :=
  let k := s.hart h
  if k.ckpt.isSome then .next (s.abortHart h 6 0)
  else if 16 ≤ h || k.mode == .u || !ok k then .next (s.hartIllegal h)
  else match k.part with
    | none => .next (s.modHart h (fun k => { k with pc := k.pc + 4 }))
    | some p => .next ((f s p).modHart h (fun k => { k with pc := k.pc + 4 }))

/-- XVUINT (R339). -/
def execXvuint (hart : Nat) (v : BitVec 64) (s : State) : Host.Outcome State Fault Refusal :=
  s.csrWrite hart (fun _ => true) (fun s p =>
    match s.team? (fld v 7 0 * 16 + fld v 19 16) with
    | some t => if t.part = p then s.postUint (fld v 7 0) (fld v 19 16) (fld v 47 32) (fld v 63 48) else s
    | none => s)

/-- The group of a park id, and the command of one (R327). A core's logical number is below 32: an id with bit 11 set names
neither. -/
def parkGroup (id : Nat) : Nat := ((bits id 14 12) * 32 + bits id 10 6) * 64 + bits id 5 0
def parkCmd (id : Nat) : Nat × Nat := (bits id 14 12 * 32 + bits id 10 6, bits id 5 0)
def parkNone (id : Nat) : Bool := id.testBit 11

/-- Whether a group is parked for PAGE in a partition, or about to be (R327, R344). -/
def Group.paged (g : Group) (p : Nat) : Bool := g.part == p && ((g.st == .parked && g.event == 1) || (g.st == .running && g.stopEv == some 1))

/-- A wake (R327): a group resumes at its region entry, a command goes on at its page. A group that was evicted while
it was parked runs once it is restored. -/
def State.wake (s : State) (p id : Nat) : State :=
  if parkNone id then s
  else if id < 2 ^ 15 then
    let up := fun (x : Saved) => if x.gk == parkGroup id && x.grp.paged p then { x with grp := { x.grp with st := .running, fault := [], quiet := true, since := 0, pendAge := 0 } } else x
    match (s.group? (parkGroup id)).filter (fun g => g.paged p) with
    | some g => if g.st == .running then s.setGroup (parkGroup id) { g with stopEv := some 0 } else s.runAgain (parkGroup id) false
    | none => s.setInn { s.inn with saved := s.inn.saved.map up, swapped := s.inn.swapped.map up }
  else
    match s.cmd? (parkCmd id).1 (parkCmd id).2 with
    | some c => if c.part = p && c.hold.isSome then s.modCmd (parkCmd id).1 (parkCmd id).2 (fun c => { c with hold := none }) else s
    | none => s

/-- XVWAKE (R327). -/
def execXvwake (hart : Nat) (v : BitVec 64) (s : State) : Host.Outcome State Fault Refusal :=
  s.csrWrite hart (fun _ => fld v 63 16 = 0) (fun s p => s.wake p v.toNat)

/-- SUBC of an engine queue frozen for a cause (R423). -/
def causeSubc : Nat → Nat
  | 1 => 11 | 2 => 7 | 3 => 12 | 4 => 13 | _ => 8

/-- XFAULT of a frozen page park: one of its causes, which nothing orders, and the lanes of all (R423). -/
def State.pageXfault (s : State) (g : Group) : BitVec 128 × State :=
  let c := s.oneOf (g.fault.map (·.cause)).dedup
  (xfaultWord (g.fault.foldl (fun m f => m ||| f.lanes) 0) c.1 g.atOp 16 g.atOff, c.2)

/-- A freeze of a parked agent (R423); a group that was evicted while it was parked is frozen where it is saved. -/
def State.freezeParked (s : State) (p id : Nat) : State :=
  if parkNone id then s
  else if id < 2 ^ 15 then
    let gk := parkGroup id
    let note := fun (s : State) (x : BitVec 128) => s.record 16 2 0 (s.coreUnit (coreOf gk)) (some p) 0 1 (x.zeroExtend 256 ||| BitVec.ofNat 256 (parkId gk * 2 ^ 128))
    match (s.group? gk).filter (fun g => g.paged p) with
    | some g =>
      let x := s.pageXfault g
      let s := x.2.setGroup gk { g with xfault := x.1, fault := [], stopEv := g.stopEv.map (fun _ => 16) }
      note (if g.st == .running then s else s.park gk 16) x.1
    | none =>
      match (s.inn.saved ++ s.inn.swapped).find? (fun x => x.gk == gk && x.grp.paged p) with
      | none => s
      | some y =>
        let x := s.pageXfault y.grp
        let up := fun (z : Saved) => if z == y then { z with grp := { z.grp with xfault := x.1, fault := [], event := 16 } } else z
        let s := x.2.setInn { x.2.inn with saved := x.2.inn.saved.map up, swapped := x.2.inn.swapped.map up }
        note (s.queueEvent (coreOf gk) (slotOf gk) 16) x.1
  else
    match s.cmd? (parkCmd id).1 (parkCmd id).2 with
    | some c => match c.hold with
      | some f => if c.part = p then s.freezeQueue c (causeSubc f.cause) f.va.toNat else s
      | none => s
    | none => s

/-- XVFREEZE (R423). -/
def execXvfreeze (hart : Nat) (v : BitVec 64) (s : State) : Host.Outcome State Fault Refusal :=
  s.csrWrite hart (fun _ => fld v 63 16 = 0) (fun s p => s.freezeParked p v.toNat)

/-! ### Shoot-downs -/

/-- Physical address of the entry of a level on the path to an address, if the tables reach it (R319). -/
def State.entryAt (s : State) (va want : Nat) : Nat → Nat → Option Nat
  | 0, base => if want = 0 then some (base + 16 * (va / 2 ^ lvlShift 0 % lvlEntries 0)) else none
  | l + 1, base =>
    let at_ := base + 16 * (va / 2 ^ lvlShift (l + 1) % lvlEntries (l + 1))
    if want = l + 1 then some at_
    else
      let pte := s.word64 at_
      if pteV pte && !pteLeaf pte then s.entryAt va want l (pteAddr pte) else none

/-- Writes back and invalidates the lines of a page in the L1s of a cluster, which hold them by virtual name (R331). -/
def State.flushPage (s : State) (parts : List Nat) (inside : Nat → Bool) (cluster : Nat) : State :=
  (List.range 32).foldl (fun s k =>
    let c := 32 * cluster + k
    ((s.l1Tags c).filter (fun x => parts.contains x.part && inside (256 * x.vline))).foldl (fun s x => s.l1Evict c x) s) s

/-- Dooms the transactions that hold a log entry, a sector or a signature entry in a page: they are known by the addresses by which
they were translated (R303, R331). -/
def State.doomPage (s : State) (parts : List Nat) (inside : Nat → Bool) : State :=
  let hit := fun (gk l : Nat) =>
    let c := s.core (coreOf gk)
    c.rlog.any (fun e => e.gslot == slotOf gk && e.lane == l && inside e.va) || c.tsec.any (fun e => e.gslot == slotOf gk && e.lane == l && inside e.va)
  let s' : State := { s with groups := s.groups.map (fun e =>
    if parts.contains e.2.part then (e.1, { e.2 with doomed := e.2.doomed ||| maskOf ((lanesOf e.2.intx).filter (fun l => hit e.1 l)) }) else e) }
  let root := fun (k : Hart) => match k.part with
    | some p => parts.contains p
    | none => fld k.satp 63 60 != 0 && (s.rootParts (fld k.satp 39 0 * 4096)).any (fun p => parts.contains p)
  let hs := s.harts.filter (fun e => e.2.ckpt.isSome && root e.2 && e.2.txVas.any inside)
  hs.foldl (fun s e => s.abortHart e.1 9 0) s'

/-- Whether a shoot-down names a TLB entry: its page, or all but global entries (R330, R331). -/
def shootHits (v : BitVec 64) (all : Bool) (parts : List Nat) (e : TlbEnt) : Bool :=
  parts.contains e.part && (if all then !pteG e.pte
    else crosses (e.page * 2 ^ lvlShift e.lvl) (2 ^ lvlShift e.lvl) (fld v 55 0 / 2 ^ lvlShift (fld v 57 56) * 2 ^ lvlShift (fld v 57 56)) (2 ^ lvlShift (fld v 57 56)))

/-- The TLBs that a shoot-down reaches (R331): those of the dies of DIEACC with the RV64 TLBs of their harts, and this package's slices by
PKGACC; every one where ALL is set, or where no entry of that level stands on the path. -/
def State.shootDies (s : State) (root : Nat) (v : BitVec 64) (all : Bool) : List Nat :=
  let every := s.tlbs.map (·.1)
  if all then every
  else match s.entryAt (fld v 55 0) (fld v 57 56) 3 root with
    | none => every
    | some at_ =>
      let c := s.word64 (at_ + 8)
      every.filter (fun d => if d < 16 then c.getLsbD d else if d < 64 then c.getLsbD (16 + s.clock.pkgid) else true)

/-- The invalidations of a shoot-down (R331): the L1 sectors of the page, the TLB entries, and with FRAME the transactions. Every L1 is
searched: one that holds a line of the page has its die's bit set. The leaf's companion word is read at its home (R301). -/
def State.shoot (s : State) (part : Nat) (v : BitVec 64) (all : Bool) : State :=
  let root := ((s.part? part).map (·.root)).getD 0
  let parts := s.rootParts root
  let dies := s.shootDies root v all
  let s := if all then s else s.walkReads root (fld v 55 0)
  let s := (List.range 8).foldl (fun s d => s.flushPage parts (inPage v all) d) s
  let s := dies.foldl (fun (s : State) d => s.setTlb d ((s.tlb d).filter (fun e => !shootHits v all parts e))) s
  if v.getLsbD 61 then s.doomPage parts (inPage v all) else s

/-- XVSHOOT_PAGE (R330, R331). -/
def execXvshootPage (hart : Nat) (v : BitVec 64) (s : State) : Host.Outcome State Fault Refusal :=
  s.csrWrite hart (fun k => !k.busy) (fun s p => if v.getLsbD 62 then s
    else (s.shoot p v false).modHart hart (fun k => { k with busy := true, shoot := v }))
/-- XVSHOOT_ALL (R330, R331). -/
def execXvshootAll (hart : Nat) (v : BitVec 64) (s : State) : Host.Outcome State Fault Refusal :=
  s.csrWrite hart (fun k => !k.busy) (fun s p => if !v.getLsbD 62 then s
    else (s.shoot p v true).modHart hart (fun k => { k with busy := true, shoot := v }))

/-- Whether an access in flight was translated in the range of a shoot-down. -/
def MemOp.shootWaits (v : BitVec 64) (o : MemOp) : Bool :=
  o.accs.any (fun a => match a.place with
    | .glob _ => inPage v (v.getLsbD 62) a.va.toNat
    | _ => false)
def shootWaits (v : BitVec 64) (parts : List Nat) (g : Group) : Bool := parts.contains g.part && g.ops.any (MemOp.shootWaits v)

/-- SHOOTDOWN_COMPLETE (R331): BUSY clears once every access translated with the old entry has been performed, a release that its
home holds among them (R116), and a write that waits there for log space (R374). -/
def execShootdownComplete (hart : Nat) (s : State) : Host.Outcome State Fault Refusal :=
  let k := s.hart hart
  let parts := match k.part with
    | some p => s.rootParts (((s.part? p).map (·.root)).getD 0)
    | none => []
  .next (if k.busy && s.groups.all (fun e => !shootWaits k.shoot parts e.2)
      && s.node.held.all (fun x => !(parts.contains x.by_.part && x.op.shootWaits k.shoot))
      && s.parts.all (fun e => (e.2.log.map (fun l => l.heldWr.all (fun w => !(parts.contains w.by_.part && (w.by_.va.map (inPage k.shoot (k.shoot.getLsbD 62))).getD false)))).getD true)
      then s.setHart hart { k with busy := false } else s)

/-- PAGE_WALK (R324): a miss of a die's TLB is walked and filled; a refusal of an Innkeeper access posts a fault with
park id 0xFFFF (R326, R327). -/
def execPageWalk (die part : Nat) (va : BitVec 64) (acc : Access) (s : State) : Host.Outcome State Fault Refusal :=
  match s.part? part with
  | none => .next s
  | some _ =>
    match s.xlate die part acc (va.toNat % 2 ^ 56) with
    | (.ok _, s) => .next s
    | (.bad f, s) => .next (if acc == .innRead || acc == .innWrite then s.postFault 8 part (faultRecord f 0xFFFF 0 0 0 part 0 0) else s)

end Sys2Proof.Machine
end

