-- ==== Sys2Proof/Machine/UndoLog.lean ====
section
/-! DEFINITION. Undo windows (R366 to R375): snapshots, the start of logging, window advances, log full, and the reverse
step. -/

namespace Sys2Proof.Machine

/-! ### Snapshots (R372) -/

/-- The place of allocations that have no part of the spill area. -/
def noSpill : Nat := 2 ^ 64

/-- A group with nothing in flight: one that still ran is parked with EVENT 4 (R371). -/
def Group.asStopped (g : Group) : Group :=
  let g := if g.st == .running then { g with st := .parked, event := g.stopEv.getD 4 } else g
  { g with ops := [], lc := 0, sc := 0, cc := 0, txend := none, stopEv := none }

/-- Groups and teams of a partition. -/
def State.partGroups (s : State) (part : Nat) : KMap Group := s.groups.filter (fun e => e.2.part == part)

/-- The groups of a partition after step 2 of R371: running groups as a region-entry stop leaves them (R41). -/
def State.stoppedGroups (s : State) (part : Nat) : KMap Group :=
  let run := ((s.partGroups part).filter (fun e => e.2.st == .running)).map (·.1)
  ((run.foldl (fun s gk => s.regionStop gk) s).partGroups part).map (fun e => (e.1, e.2.asStopped))
def State.partTeams (s : State) (part : Nat) : KMap Team := s.teams.filter (fun e => e.2.part == part)

/-- What a swap took of the tiles of a partition out of a core (R347). -/
def State.tilesOut? (s : State) (part core : Nat) : Option TilesOut := s.inn.tiles.find? (fun x => x.part == part && x.core == core)

/-- The local state of a team that stands on its core, but for what is spilled (R68, R372); tiles that a swap took out of the core
are where the swap put them (R347). -/
def State.teamLocal (s : State) (tk : Nat) (t : Team) : TeamSpill :=
  let k := s.core (tk / 16)
  let x := (s.tilesOut? t.part (tk / 16)).getD { part := t.part, core := tk / 16, acc := k.acc, bad := k.tpoison, token := [] }
  let inA := fun o => !t.out.getLsbD 0 && 4096 * t.abase ≤ o && o < 4096 * (t.abase + t.asize)
  let inW := fun o => !t.out.getLsbD 1 && 4096 * t.wbase ≤ o && o < 4096 * (t.wbase + t.wsize)
  let m := !t.out.getLsbD 2
  { off := 0, a := k.a.filter (fun e => inA e.1), w := k.w.filter (fun e => inW e.1), abad := k.apoison.filter (fun e => inA (64 * e)),
    wbad := k.wpoison.filter (fun e => inW (64 * e)), acc := x.acc.filter (fun e => m && t.tiles.getLsbD (e.1 / 4096)),
    tbad := x.bad.filter (fun e => m && t.tiles.getLsbD (e / 256)),
    metar := k.metar.filter (fun e => m && t.mbase.contains e.1) }

/-- The local state of a team, wherever it is (R372). -/
def State.teamAll (s : State) (tk : Nat) (t : Team) : TeamSpill :=
  let x := s.teamLocal tk t
  match kget s.inn.spilled tk with
  | none => x
  | some y => { x with
      a := if t.out.getLsbD 0 then y.a else x.a, abad := if t.out.getLsbD 0 then y.abad else x.abad, w := if t.out.getLsbD 1 then y.w else x.w,
      wbad := if t.out.getLsbD 1 then y.wbad else x.wbad, acc := if t.out.getLsbD 2 then y.acc else x.acc,
      tbad := if t.out.getLsbD 2 then y.tbad else x.tbad, metar := if t.out.getLsbD 2 then y.metar else x.metar }

/-- The tokens of a team's tiles, with their holders, wherever its tiles are (R277, R347, R372). -/
def State.teamTokens (s : State) (tk : Nat) (t : Team) : KMap Nat :=
  if t.out.getLsbD 2 then ((kget s.inn.spilled tk).map (·.token)).getD []
  else (((s.tilesOut? t.part (tk / 16)).map (·.token)).getD (s.core (tk / 16)).token).filter (fun x => t.tiles.getLsbD x.1)

/-- The groups of a partition that are evicted or swapped out (R67, R347). -/
def State.awayGroups (s : State) (part : Nat) : List Saved := (s.inn.saved ++ s.inn.swapped).filter (fun x => x.grp.part == part)

/-- Puts a team's local state back; `a`, `w`, `m` say which parts. -/
def State.putLocal (s : State) (tk : Nat) (t : Team) (x : TeamSpill) (a w m : Bool) : State :=
  let inA := fun o => 4096 * t.abase ≤ o && o < 4096 * (t.abase + t.asize)
  let inW := fun o => 4096 * t.wbase ≤ o && o < 4096 * (t.wbase + t.wsize)
  s.modCore (tk / 16) (fun k => { k with
    a := if a then ssets (k.a.filter (fun e => !inA e.1)) x.a else k.a,
    apoison := if a then x.abad.foldl nins (k.apoison.filter (fun e => !inA (64 * e))) else k.apoison,
    w := if w then ssets (k.w.filter (fun e => !inW e.1)) x.w else k.w,
    wpoison := if w then x.wbad.foldl nins (k.wpoison.filter (fun e => !inW (64 * e))) else k.wpoison,
    acc := if m then ssets (k.acc.filter (fun e => !t.tiles.getLsbD (e.1 / 4096))) x.acc else k.acc,
    tpoison := if m then x.tbad.foldl nins (k.tpoison.filter (fun e => !t.tiles.getLsbD (e / 256))) else k.tpoison,
    metar := if m then ssets (k.metar.filter (fun e => !t.mbase.contains e.1)) x.metar else k.metar })

/-- Whether a matrix operation is one of a partition's teams. -/
def State.opOf (s : State) (part : Nat) (m : MatOp) : Bool := ((s.team? m.tk).map (·.part)) == some part
/-- Matrix operations of a partition's teams on every core. -/
def State.partOps (s : State) (part : Nat) : List MatOp := s.cores.flatMap (fun c => c.2.mq.filter (s.opOf part))

/-- The snapshot of a partition. -/
def State.snapshot (s : State) (part : Nat) (w : BitVec 32) : Snapshot :=
  let teams := s.partTeams part
  let p := (s.part? part).getD {}
  { window := w, groups := s.stoppedGroups part, teams := teams,
    local_ := teams.map (fun e => (e.1, s.teamLocal e.1 e.2)),
    tokens := teams.flatMap (fun e => (s.teamTokens e.1 e.2).map (fun x => (e.1 / 16, x.1, x.2))),
    ops := (s.partOps part).map (fun m => { m with stopped := true }),
    saved := s.inn.saved.filter (fun x => x.grp.part == part), swapped := s.inn.swapped.filter (fun x => x.grp.part == part), spilled := s.inn.spilled.filter (fun e => ((s.team? e.1).map (·.part)) == some part),
    spillUse := p.spillUse, queues := p.queues, rr := p.rr }

/-- A chunk of a snapshot: header and body (R372). -/
def chunk (type core slot : Nat) (body : List Byte) : List Byte :=
  toBytes 64 (pack 512 [(0, 16, type), (16, 8, core), (24, 8, slot), (64, 64, body.length)]).toNat ++ body

/-- Bytes 0x0000 to 0x86FF of a group window. -/
def State.windowBytes (s : State) (gk : Nat) (g : Group) : List Byte :=
  (List.range 0x21C0).flatMap (fun w => toBytes 4 (s.winWord gk g w).toNat)

/-- The body of a team chunk, in the order of R372. -/
def State.teamBody (s : State) (tk : Nat) (t : Team) : List Byte :=
  let k := s.teamAll tk t
  let gs := (s.groups.filter (fun e => e.2.tk e.1 == tk)).map (fun e => (e.1, e.2.grpid))
    ++ ((s.awayGroups t.part).filter (fun x => x.grp.tk x.gk == tk)).map (fun x => (x.gk, x.grp.grpid))
  (List.range 4096).map (fun o => s.teamByte tk o)
    ++ (List.range (4096 * t.asize)).map (fun o => sget k.a (4096 * t.abase + o))
    ++ (List.range (4096 * t.wsize)).map (fun o => sget k.w (4096 * t.wbase + o))
    ++ (setBits t.tiles).flatMap (fun c => (List.range 4096).flatMap (fun i => toBytes 4 (sget k.acc (4096 * c + i)).toNat))
    ++ t.mbase.flatMap (fun m => toBytes 256 (sget k.metar m).toNat)
    ++ (List.range 16).flatMap (fun n => toBytes 8 (match gs.find? (fun e => e.2 == n) with
        | some e => (s.mseq e.1 tk).toNat
        | none => 0))
    ++ (List.range 16).map (fun n => s.tokenByte tk t n)

/-- The bytes of a snapshot; its third chunk is private to the device. -/
def State.snapBytes (s : State) (part : Nat) : List Byte × State :=
  let n := Config.privateBlocks
  let base := s.clock.free
  let private_ := (List.range (8 * n)).flatMap (fun i => toBytes 8 (Config.freeValue (base + i)).toNat)
  ((s.stoppedGroups part).flatMap (fun e => chunk 1 (coreOf e.1) (slotOf e.1) (s.windowBytes e.1 e.2))
    ++ (s.awayGroups part).flatMap (fun x => chunk 1 (coreOf x.gk) (slotOf x.gk) (s.windowBytes x.gk x.grp))
    ++ (s.partTeams part).flatMap (fun e => chunk 2 (e.1 / 16) (e.1 % 16) (s.teamBody e.1 e.2))
    ++ chunk 3 0 part private_, s.setClock { s.clock with free := base + 8 * n })

/-- Bytes of the largest snapshot of a partition (R372, R374): all that its cores can hold. -/
def Part.worstSnapshot (p : Part) : Nat :=
  p.cores.length * (64 * (64 + 0x8700) + 16 * (64 + 4096 + 144) + Config.aBytes + Config.wBytes + 16 * 16384 + 64 * 256)
    + 64 + 64 * Config.privateBlocks

/-! ### Windows -/

/-- What room the policy can make for a new window of `n` bytes; at most 4,096 windows are reachable (R367, R374). -/
def UndoLog.roomWindow (l : UndoLog) (n : Nat) : UndoLog :=
  let l := if l.wins.length < 4096 || l.policy = 0 then l
    else match l.wins with
      | _ :: r => { l with wins := r, recycled := BitVec.ofNat 64 (min (2 ^ 64 - 1) (l.recycled.toNat + 1)), recs := l.recs.filter (fun x => r.any (fun w => w.num == x.win)) }
      | [] => l
  l.room n

/-- Whether a new window of `n` bytes fits (R367, R374). -/
def UndoLog.fitsWindow (l : UndoLog) (n : Nat) : Bool := l.wins.length < 4096 && l.fits n

/-- The log is found full: FULL is set and the session halts (R374). -/
def State.foundFull (s : State) (part : Nat) (l : UndoLog) : State := (s.setLog part { l with full := true }).logHeader part

/-- Window `w` begins with its snapshot (R371, R372, R374, R441). -/
def State.beginWindow (s : State) (part : Nat) (w : BitVec 32) : State :=
  match s.log? part with
  | none => s
  | some l =>
    let snap := s.snapshot part w
    let b := s.snapBytes part
    let s : State := b.2
    let n := alignUp b.1.length 16
    let l' := if l.full then l else l.roomWindow n
    let s := s.dropDirs part l l'
    if l.full || !l'.fitsWindow n then s.foundFull part l'
    else
      match s.hwPuts part (l'.spread l'.tail (b.1 ++ List.replicate (n - b.1.length) 0) (n / 16)) with
      | none => (s.record 27 2 10 0 (some part) 0 1 (BitVec.ofNat 256 w.toNat)).foundFull part l'
      | some s =>
        let win : LogWindow := { num := w, snapOff := l'.tail, recOff := l'.tail + n }
        (s.setLog part { l' with wins := l'.wins ++ [win], tail := l'.tail + n, snaps := snap :: (l'.snaps.filter (fun x => l'.wins.any (fun y => y.num == x.window))) }).logHeader part

/-- The number of the window after the current one; 0 for the first. -/
def UndoLog.nextNum (l : UndoLog) : BitVec 32 := match l.cur with
  | some w => w.num + 1
  | none => 0

/-- Logging starts for a partition (R366): its first window begins. -/
def State.logStart (s : State) (part : Nat) : State :=
  match s.log? part with
  | none => s
  | some l => if l.on then s else (s.setLog part { l with on := true }).beginWindow part l.nextNum

/-! ### Advances (R371, R374) -/

/-- Step 1 of R371: every group of the partitions takes a region-entry stop and parks with EVENT 4; one whose TXEND awaits its
decision does so then (R252). -/
def State.stopParts (s : State) (parts : List Nat) : State :=
  ((s.groups.filter (fun e => parts.contains e.2.part && e.2.st == .running)).map (·.1)).foldl (fun s gk => s.stopGroup gk 4) s

/-- The groups of the partitions that stand at a stop. -/
def State.stoodGroups (s : State) (parts : List Nat) : List Nat := (s.groups.filter (fun e => parts.contains e.2.part && e.2.st != .running)).map (·.1)
/-- Step 2 of R371 for the matrix operations of groups that stood at a precise stop, and their going on after step 4. -/
def State.matStops (s : State) (parts : List Nat) : State := (s.stoodGroups parts).foldl (fun s gk => s.stopOps gk) s
def State.matGoes (s : State) (parts : List Nat) : State :=
  (s.stoodGroups parts).foldl (fun s gk => if ((s.group? gk).map (fun g => atWaypoint g.event)).getD false then s.resumeOps gk else s) s

/-- Whether a group of the partitions has still to stop, or stores to complete (R40, R252). What a full log holds back is not waited
for (R374). -/
def State.stopping (s : State) (parts : List Nat) : Bool :=
  !parts.any (fun p => ((s.log? p).map (·.full)).getD false)
    && s.groups.any (fun e => parts.contains e.2.part && ((e.2.st == .running && e.2.stopEv.isSome) || (e.2.st != .running && !e.2.ops.isEmpty)))

/-- Stores, and releases that have left the core, that a full log holds back, as held writes of the partition (R116, R374). -/
def State.heldStores (s : State) (part : Nat) : List HeldWrite :=
  (s.partGroups part).flatMap (fun e => e.2.ops.flatMap (fun o =>
    (sectorsOf (o.accs.map (fun a => (a.place, toBytes a.size a.data.toNat)))).filterMap (fun x => match x.1 with
      | .glob pa => if o.kind == .store || (o.kind == .release && o.sent.isSome) then some { by_ := o.sectorWriter e.1 e.2 x.1, pa := pa, ws := x.2 } else none
      | _ => none)))

/-- Engine commands of the partitions that have not retired. -/
def State.commandsOf (s : State) (parts : List Nat) : List EngCmd := s.cores.flatMap (fun c => c.2.eq.filter (fun x => parts.contains x.part))

/-- An event of the session of a partition that concerns no group (R379). -/
def State.sessionNote (s : State) (part code : Nat) : State :=
  match (s.part? part).bind (·.session) with
  | some ses => s.plainEvent ses code
  | none => s

/-- Marks the partitions as halted for an advance or a reverse, or as going on. -/
def State.setHalted (s : State) (parts : List Nat) (b : Bool) : State := parts.foldl (fun s p => s.modPart p (fun x => { x with halted := b })) s

/-- Requests for an advance that are folded into the one under way (R371). -/
def State.clearRequests (s : State) (parts : List Nat) : State :=
  parts.foldl (fun s p => s.modPart p (fun x => { x with log := x.log.map (fun l => { l with advReq := false, autoReq := false }) })) s

/-- An advance, or a reverse, begins: the partitions halt; while commands have still to retire the session counts as
halted (R371, R375). -/
def State.beginHalt (s : State) (parts : List Nat) : State :=
  if parts.any (fun p => ((s.part? p).map (·.halted)).getD false) then s
  else
    let s := ((s.setHalted parts true).matStops parts).stopParts parts
    if (s.commandsOf parts).isEmpty then s else s.sessionNote (parts.headD 0) 4

/-- The debug session of a partition. -/
def State.debugger? (s : State) (part : Nat) : Option (Nat × DbgSession) :=
  ((s.part? part).bind (·.session)).bind (fun n => (kget s.dbg.sessions n).map (fun d => (n, d)))

/-- Groups parked with EVENT 4 resume (R371); in a halted session those that the halt left parked stay so, and only a group
that steps resumes (R375 to R377). -/
def State.resumeWindow (s : State) (parts : List Nat) : State :=
  let d := s.debugger? (parts.headD 0)
  let stays := fun (gk : Nat) => match d with
    | some x => x.2.halted && (x.2.solo.map (·.1)) != some gk
    | none => false
  ((s.groups.filter (fun e => parts.contains e.2.part && e.2.st == .parked && e.2.event = 4 && !stays e.1)).map (·.1)).foldl (fun s gk => s.runAgain gk false) s

/-- Steps 3 and 4 of R371. -/
def State.finishAdvance (s : State) (parts : List Nat) : State :=
  let s := parts.foldl (fun s p => match s.log? p with
    | some l => if l.on then s.beginWindow p l.nextNum else s
    | none => s) (s.clearRequests parts)
  let s := (s.setHalted parts false).matGoes parts
  let s := if parts.any (fun p => ((s.log? p).map (·.full)).getD false) then s else s.resumeWindow parts
  match (s.part? (parts.headD 0)).bind (·.session) with
  | none => s
  | some ses =>
    let mine := s.rpc.waiting.filter (fun w => w.isDebug ses 8)
    mine.foldl (fun s w => s.ok w.req []) (s.setRpc { s.rpc with waiting := s.rpc.waiting.filter (fun w => !w.isDebug ses 8) })

/-- LOG_AUTO_ADVANCE (R371): NREC has reached 2^a. -/
def execLogAutoAdvance (part : Nat) (s : State) : Host.Outcome State Fault Refusal :=
  .next (if ((s.log? part).map (fun l => l.on && l.autoReq)).getD false then s.beginHalt (s.sessionParts part) else s)

/-- The session of a partition whose log was found full halts, once (R374). -/
def State.haltFull (s : State) (part : Nat) : State :=
  match s.log? part with
  | none => s
  | some l =>
    if !l.full || l.stopped then s
    else
      let s := ((s.setLog part { l with stopped := true }).stopParts (s.sessionParts part)).sessionNote part 3
      match s.debugger? part with
      | some d => s.setDbg { s.dbg with sessions := kset s.dbg.sessions d.1 { d.2 with halted := true } }
      | none => s

/-- Every session that a full log halts does so before the next turn. -/
def State.haltFullLogs (s : State) : State := s.parts.foldl (fun s e => s.haltFull e.1) s

/-- Held writes are performed once space is free (R374): FULL falls first (R367). -/
def State.releaseHeld (s : State) (part : Nat) : State :=
  match s.log? part with
  | none => s
  | some l =>
    let s := (s.setLog part { l with full := false, stopped := false, heldWr := [] }).logHeader part
    l.heldWr.foldl (fun s h => s.writeSector h.by_ none (.glob h.pa) h.ws) s

/-! ### Reverse (R375, R441) -/

/-- Bytes of the words in a MASK, with their offsets in the sector. -/
def maskBytes (mask : BitVec 16) (old : BitVec 512) : List (Nat × Byte) :=
  (setBits mask).flatMap (fun k => (List.range 4).map (fun j => (4 * k + j, BitVec.ofNat 8 (fld old (8 * (4 * k + j) + 7) (8 * (4 * k + j))))))

/-- Whether the log memory of a record is poisoned (R441). -/
def State.recordBad (s : State) (part : Nat) (l : UndoLog) (off : Nat) : Bool :=
  (List.range 5).any (fun i => match s.vaOf part (l.base + 0x21000 + (off + 16 * i) % l.area) .innRead with
    | (some pa, s) => s.anyPoison (s.locate pa) 16
    | (none, _) => false)

/-- Applies one record (R375): an ordinary write without a record, or a poisoned sector. -/
def State.unwrite (s : State) (part : Nat) (l : UndoLog) (r : UndoRec) : Bool × State :=
  if s.recordBad part l r.off then (true, s.setPoison (.glob (64 * r.sector)) true)
  else (false, s.writeSector { part := part, kind := 3, undo := false } none (.glob (64 * r.sector)) (maskBytes r.mask r.old))

/-- Removes the groups, teams and local state of a partition before its snapshot is loaded. -/
def State.clearPart (s : State) (part : Nat) : State :=
  let gks := (s.partGroups part).map (·.1)
  let tiles := fun (c n : Nat) => s.teams.any (fun e => e.1 / 16 == c && e.2.part == part && e.2.tiles.getLsbD n)
  { s with
    groups := s.groups.filter (fun e => e.2.part != part), teams := s.teams.filter (fun e => e.2.part != part),
    cores := s.cores.map (fun c => (c.1, { c.2 with mq := c.2.mq.filter (fun m => !s.opOf part m), token := c.2.token.filter (fun e => !tiles c.1 e.1) })),
    inn := { s.inn with fetch := s.inn.fetch.filter (fun f => !gks.contains f.gk), saved := s.inn.saved.filter (fun x => x.grp.part != part),
                        swapped := s.inn.swapped.filter (fun x => x.grp.part != part), tiles := s.inn.tiles.filter (fun x => x.part != part),
                        spilled := s.inn.spilled.filter (fun e => ((s.team? e.1).map (·.part)) != some part) },
    tix := { s.tix with token := match s.tix.token with
      | some (.group gk) => if gks.contains gk then none else s.tix.token
      | t => t } }

/-- Token holders that stand for saved groups. -/
def savedHolder (gk : Nat) : Nat := gk + 2 ^ 20

/-- Whether another team holds a part of what a team's allocations were: bit 0 A-space, 1 W-space, 2 tiles and metadata registers. -/
def State.takenBy (s : State) (tk : Nat) (t : Team) : BitVec 3 :=
  let others := (s.teams.filter (fun e => e.1 / 16 == tk / 16 && e.1 != tk)).map (·.2)
  let meet := fun (a n b m : Nat) => a < b + m && b < a + n
  let out := fun (u : Team) => ((s.part? u.part).map (fun p => p.outCores.contains (tk / 16))).getD false
  (if others.any (fun u => !u.out.getLsbD 0 && meet t.abase t.asize u.abase u.asize) then 1 else 0)
    ||| (if others.any (fun u => !u.out.getLsbD 1 && meet t.wbase t.wsize u.wbase u.wsize) then 2 else 0)
    ||| (if others.any (fun u => !u.out.getLsbD 2 && ((!out u && t.tiles &&& u.tiles != 0) || t.mbase.any u.mbase.contains)) then 4 else 0)

/-- Puts a team of a snapshot back (R372, R375): what is spilled in the snapshot stays so, and what another team has taken meanwhile
waits as spilled allocations do (R12, R69); the tiles of a core that the partition is swapped out of go where the swap put them. -/
def State.loadTeam (s : State) (part tk : Nat) (t : Team) (x : TeamSpill) : State :=
  let away := ((s.part? part).map (fun p => p.outCores.contains (tk / 16))).getD false
  let taken := s.takenBy tk t &&& ~~~t.out &&& (if away then 3 else 7)
  let y := (kget s.inn.spilled tk).getD { off := noSpill }
  let s := s.setTeam tk { t with out := t.out ||| taken }
  let s := if taken = 0 then s
    else s.setInn { s.inn with spilled := kset s.inn.spilled tk { y with
      a := if taken.getLsbD 0 then x.a else y.a, abad := if taken.getLsbD 0 then x.abad else y.abad, w := if taken.getLsbD 1 then x.w else y.w,
      wbad := if taken.getLsbD 1 then x.wbad else y.wbad, token := if taken.getLsbD 2 then [] else y.token, acc := if taken.getLsbD 2 then x.acc else y.acc,
      tbad := if taken.getLsbD 2 then x.tbad else y.tbad, metar := if taken.getLsbD 2 then x.metar else y.metar } }
  let s := s.putLocal tk { t with tiles := if away then 0 else t.tiles } x (!(t.out ||| taken).getLsbD 0) (!(t.out ||| taken).getLsbD 1) (!(t.out ||| taken).getLsbD 2)
  if !away || t.out.getLsbD 2 then s
  else
    let o := (s.tilesOut? part (tk / 16)).getD { part := part, core := tk / 16, acc := [], bad := [], token := [] }
    s.setInn { s.inn with tiles := { o with acc := ssets o.acc x.acc, bad := x.tbad.foldl nins o.bad } :: s.inn.tiles.filter (fun y => y != o) }

/-- Puts a group of a snapshot back: swapped out where the partition is out of the core, in its slot where that is free, else as an
evicted one. -/
def State.loadGroup (s : State) (x : Saved) : State :=
  if ((s.part? x.grp.part).map (fun p => p.outCores.contains (coreOf x.gk))).getD false then s.setInn { s.inn with swapped := s.inn.swapped ++ [x] }
  else if (s.group? x.gk).isNone then s.setGroup x.gk x.grp
  else (s.setInn { s.inn with saved := s.inn.saved ++ [x] }).modTeam (x.grp.tk x.gk) (fun t => { t with partial_ := true })

/-- Gives a token back to its holder (R372): it stays with a spilled tile. -/
def State.loadToken (s : State) (part : Nat) (e : Nat × Nat × Nat) : State :=
  let gk := e.2.2 % 2 ^ 20
  let who := if ((s.group? gk).map (fun g => g.part == part)).getD false then gk else savedHolder gk
  match s.teams.find? (fun t => t.1 / 16 == e.1 && t.2.part == part && t.2.tiles.getLsbD e.2.1 && t.2.out.getLsbD 2) with
  | some t => s.setInn { s.inn with spilled := kset s.inn.spilled t.1 (let y := (kget s.inn.spilled t.1).getD { off := noSpill }
                                                                     { y with token := kset y.token e.2.1 who }) }
  | none => match s.tilesOut? part e.1 with
  | some o => s.setInn { s.inn with tiles := { o with token := kset o.token e.2.1 who } :: s.inn.tiles.filter (fun y => y != o) }
  | none => s.modCore e.1 (fun k => { k with token := kset k.token e.2.1 who })

/-- Loads a snapshot (R375). -/
def State.loadSnapshot (s : State) (part : Nat) (x : Snapshot) : State :=
  let s := s.clearPart part
  let s := s.setInn { s.inn with saved := s.inn.saved ++ x.saved, spilled := x.spilled.foldl (fun m e => kset m e.1 e.2) s.inn.spilled }
  let s := x.teams.foldl (fun s e => s.loadTeam part e.1 e.2 ((kget x.local_ e.1).getD { off := 0 })) s
  let here := x.groups.map (fun e => ({ gk := e.1, ord := s.clock.seqno, shadow := true, grp := e.2 } : Saved))
  let s := (here ++ x.swapped).foldl (fun (s : State) y => s.loadGroup y) s
  let s := x.tokens.foldl (fun s e => s.loadToken part e) s
  let s := x.ops.foldl (fun s m => s.modCore (coreOf m.gk) (fun k => { k with mq := k.mq ++ [m] })) s
  s.modPart part (fun p => { p with queues := x.queues, rr := x.rr, spillUse := x.spillUse })

/-- REVERSE of one partition to a window (R375): records applied, poisoned ones, and the sums of the counts. -/
def State.reversePart (s : State) (part : Nat) (w : BitVec 32) : (Nat × Nat × List Nat) × State :=
  match s.log? part with
  | none => ((0, 0, [0, 0, 0, 0]), s)
  | some l =>
    match l.wins.findIdx? (fun x => x.num == w), l.snaps.find? (fun x => x.window == w) with
    | some i, some snap =>
      let win := l.wins.getD i { num := w, snapOff := 0, recOff := 0 }
      let late := l.wins.drop i
      let recs := l.recs.filter (fun r => win.recOff ≤ r.off)
      let r := recs.foldl (fun (x : Nat × State) r =>
        let u := x.2.unwrite part l r
        (x.1 + u.1.toNat, u.2)) (0, s)
      let held := r.2.heldStores part
      let s : State := r.2.loadSnapshot part snap
      let l' := { l with wins := l.wins.take i ++ [{ win with nrec := 0 }], tail := win.recOff, recs := l.recs.filter (fun r => !(win.recOff ≤ r.off)),
                         snaps := l.snaps.filter (fun x => (l.wins.take (i + 1)).any (fun y => y.num == x.window)), advReq := false, autoReq := false, heldWr := l.heldWr ++ held }
      let s := ((s.dropDirs part { l with wins := late.drop 1 } { l' with wins := [] }).setLog part l').logHeader part
      let sum := fun (f : LogWindow → Nat) => late.foldl (fun n x => n + f x) 0
      ((recs.length, r.1, [sum (·.nrpc), sum (·.nnet), sum (·.nstor), sum (·.npeer)]), s.releaseHeld part)
    | _, _ => ((0, 0, [0, 0, 0, 0]), s)

/-- A REVERSE whose commands have all retired is applied to every partition of the session; its reply waits for the start of
the window after next (R115, R375). -/
def State.finishReverse (s : State) (ses : Nat) : State :=
  match (kget s.dbg.sessions ses).bind (fun d => d.rev.map (fun w => (d, w))) with
  | none => s
  | some (d, w) =>
    let due := fun (x : Waiting) => x.isDebug ses 9 && x.until_.isNone
    if !s.rpc.waiting.any due then s
    else
      let x := d.parts.foldl (fun (x : (Nat × Nat × List Nat) × State) p =>
        let y := x.2.reversePart p w
        ((x.1.1 + y.1.1, x.1.2.1 + y.1.2.1, List.zipWith (· + ·) x.1.2.2 y.1.2.2), y.2)) ((0, 0, [0, 0, 0, 0]), s.clearRequests d.parts)
      let s : State := x.2
      let res := ([w.toNat, x.1.1] ++ x.1.2.2 ++ [x.1.2.1]).map (BitVec.ofNat 64)
      let mine := s.rpc.waiting.filter (fun y => y.isDebug ses 8)
      let s := s.setRpc { s.rpc with waiting := (s.rpc.waiting.filter (fun y => !y.isDebug ses 8)).map (fun y =>
        if due y then { y with until_ := some ((s.window + 2) * s.clock.winLen), res := res } else y) }
      mine.foldl (fun (s : State) y => s.ok y.req []) s

/-- WINDOW_ADVANCE_SNAPSHOT (R371, R375): an advance that is asked for begins; one whose commands have all retired ends, and a
reverse in its place is applied. -/
def execWindowAdvanceSnapshot (part : Nat) (s : State) : Host.Outcome State Fault Refusal :=
  let parts := s.sessionParts part
  match s.part? part with
  | none => .next s
  | some p =>
    if p.halted then
      if !(s.commandsOf parts).isEmpty || s.stopping parts || (s.debugger? part).any (fun d => d.2.solo.isSome) then .next s
      else match s.debugger? part with
        | some d => .next (if d.2.rev.isSome then s.finishReverse d.1 else s.finishAdvance parts)
        | none => .next (s.finishAdvance parts)
    else if parts.any (fun q => ((s.log? q).map (·.advReq)).getD false) then .next (s.beginHalt parts)
    else .next s

end Sys2Proof.Machine
end

