-- ==== Sys2Proof/Machine/Innkeeper.lean ====
section
/-! DEFINITION. The Innkeeper: queues, work items and dependences (R47 to R54, R417), arbitration and fit (R55 to R58),
the grant (R59, R60, R77), variant switches (R61 to R65, R414), partial eviction and restore (R66 to R69). -/

namespace Sys2Proof.Machine

/-! ### Work items (R50) -/

def Item.image (x : Item) : Nat := fld x.raw 15 0
def Item.vmask (x : Item) : Nat := fld x.raw 19 16
def Item.ovl (x : Item) : Bool := x.raw.getLsbD 20
def Item.cap (x : Item) : Bool := x.raw.getLsbD 21
def Item.und (x : Item) : Bool := x.raw.getLsbD 22
def Item.gx (x : Item) : Nat := fld x.raw 79 64
def Item.gy (x : Item) : Nat := fld x.raw 95 80
def Item.gz (x : Item) : Nat := fld x.raw 111 96
def Item.argp (x : Item) : BitVec 56 := BitVec.ofNat 56 (fld x.raw 183 128)
def Item.caddr (x : Item) : Nat := fld x.raw 503 448
def Item.cinc (x : Item) : Nat := fld x.raw 575 512
/-- Counter addresses and thresholds of the dependences that are present (R50, R52). -/
def Item.deps (x : Item) : List (Nat × Nat) :=
  [(fld x.raw 247 192, fld x.raw 319 256), (fld x.raw 375 320, fld x.raw 447 384)].filter (fun e => e.1 != 0)
/-- The number of workgroups (R51). -/
def Item.total (x : Item) : Nat := x.gx * x.gy * x.gz
/-- Every workgroup has retired, or the item is rejected (R53, R417). -/
def Item.over_ (x : Item) : Bool := x.rejected || x.total ≤ x.retired
/-- The work item id (R51). -/
def wiidOf (queue idx : Nat) : BitVec 32 := BitVec.ofNat 32 (queue * 2 ^ 26 + idx % 2 ^ 26)
/-- A reserved field is not zero (R50, R417). -/
def Item.reservedSet (x : Item) : Bool :=
  [(511, 504), (383, 376), (255, 248), (191, 184), (127, 112), (63, 23)].any (fun e => fld x.raw e.1 e.2 != 0)

/-- Variants of an image that an item permits, in preference order (R50, R58). -/
def permitted (im : Image) (vmask : Nat) : List Nat := (List.range im.vars.length).filter (fun v => vmask.testBit v)

def Queue.item? (q : Queue) (idx : Nat) : Option Item := q.items.find? (fun x => x.idx == idx)
def Queue.putItem (q : Queue) (x : Item) : Queue :=
  if (q.item? x.idx).isSome then { q with items := q.items.map (fun y => if y.idx == x.idx then x else y) } else { q with items := q.items ++ [x] }
def State.queue? (s : State) (part n : Nat) : Option Queue := (s.part? part).bind (fun p => kget p.queues n)
def State.setQueue (s : State) (part n : Nat) (q : Queue) : State := s.modPart part (fun p => { p with queues := kset p.queues n q })

/-! ### The Innkeeper's memory accesses -/

/-- An address as the Innkeeper translates it, through I/O die 0 (R326): a refusal posts a fault with park id 0xFFFF. State of
another partition is not reached (R15, R422). -/
def State.innAt (s : State) (part va : Nat) (acc : Access) : Option Nat × State :=
  match s.xlate 8 part acc (va % 2 ^ 56) with
  | (.ok pa, s) => (if s.tagBad part pa then none else some pa, s)
  | (.bad f, s) => (none, s.postFault 8 part (faultRecord f 0xFFFF 0 0 0 part 0 0))

/-- Bytes that the Innkeeper reads, aligned and within two sectors: the reads meet hart signatures and L1 owners as any agent's at
the home slice (R87, R301). -/
def State.innRead (s : State) (part va n : Nat) : Option (List Byte) × State :=
  match s.innAt part va .innRead with
  | (some pa, s) =>
    let s := s.loadEffects none none pa
    let s := if (pa + n - 1) / 64 = pa / 64 then s else s.loadEffects none none (pa + n - 1)
    (some (s.readBytes (s.locate pa) n), if s.anyPoison (s.locate pa) n then s.consume part (s.locate pa) else s)
  | (none, s) => (none, s)

/-- The writer of an Innkeeper's write (R370). -/
def innWriter (part va : Nat) : Writer := { part := part, kind := 3, va := some va }

/-- Whether the Innkeeper grants a partition nothing: it is swapped, advances its window, is halted for want of log
space, or is being destroyed (R347, R355, R371, R374). -/
def Part.held (p : Part) : Bool :=
  p.swapOut.isSome || !p.outCores.isEmpty || p.halted || p.solo || p.dying.isSome || ((p.log.map (·.full)).getD false)

/-! ### Queues (R48, R49, R53, R54) -/

/-- Writes head and place to the head line (R48); the write is owed while the line does not translate. -/
def State.headLine (s : State) (part n : Nat) : State :=
  match s.queue? part n with
  | none => s
  | some q =>
    match s.innAt part q.headLine .innWrite with
    | (some pa, s) => (s.setQueue part n { q with stale := false }).write (innWriter part q.headLine) none (.glob pa) (toBytes 8 q.head ++ toBytes 8 q.place)
    | (none, s) => s.setQueue part n { q with stale := true }

/-- Head passes every leading item that has retired and is paid for (R54). -/
def advanceHead : Nat → Queue → Queue
  | 0, q => q
  | f + 1, q =>
    match q.item? q.head with
    | some x => if q.head < q.place && x.over_ && !x.unpaid then advanceHead f { q with head := q.head + 1, items := q.items.filter (fun y => y.idx != q.head) } else q
    | none => q

/-- Advances head and writes the head line if head moved or `changed`. -/
def State.advanceQueue (s : State) (part n : Nat) (changed : Bool) : State :=
  match s.queue? part n with
  | none => s
  | some q =>
    let q' := advanceHead (q.place - q.head) q
    let s := s.setQueue part n q'
    if changed || q'.head != q.head || q'.stale then s.headLine part n else s

/-- The completion increment of an item whose last workgroup has retired (R54): at a peer's counter it is a NODE-scope
release, which its home holds (R116). -/
def State.payItem (s : State) (part n : Nat) (x : Item) : State :=
  let put := fun (s : State) (x : Item) => match s.queue? part n with
    | some q => s.setQueue part n (q.putItem x)
    | none => s
  if x.caddr = 0 then put s { x with unpaid := false }
  else
    match s.innAt part x.caddr .innWrite with
    | (none, s) => put s x
    | (some pa, s) =>
      let due := match x.sent with
        | some w => s.holdOver w
        | none => !s.isPeer pa
      if due then
        (put s { x with unpaid := false }) |> fun s => (s.atomicAt (innWriter part x.caddr) (.glob pa) .add .n64 x.cinc 0).2.2.2
      else put s { x with sent := some (x.sent.getD s.window) }

/-- The item whose completion is owed for longest. -/
def Queue.owed? (q : Queue) : Option Item :=
  (q.items.filter (·.unpaid)).foldl (fun b x => match b with
    | none => some x
    | some y => if x.order < y.order then some x else b) none

/-- Completions that are owed are paid in the order of retirement, as far as they can be (R54). -/
def State.payLoop : Nat → Nat → Nat → State → State
  | 0, _, _, s => s
  | f + 1, part, n, s =>
    match (s.queue? part n).bind (·.owed?) with
    | none => s
    | some x =>
      let s := s.payItem part n x
      if ((s.queue? part n).bind (fun q => q.item? x.idx)).any (·.unpaid) then s else State.payLoop f part n s

/-- Every completion that is owed is tried, in order of retirement, and head advances (R54). -/
def State.payQueue (s : State) (part n : Nat) : State :=
  match s.queue? part n with
  | none => s
  | some q => (State.payLoop q.items.length part n s).advanceQueue part n false

/-- A queue is marked as one of whose lines could not be read, and so as having no ready item (R326). -/
def State.queueFault (s : State) (part n : Nat) (b : Bool) : State :=
  match s.queue? part n with
  | some q => s.setQueue part n { q with faulted := b }
  | none => s

/-- Reads the tail (R48, R49): a value at or below the current tail is ignored. Where the line does not translate, the queue has no
ready item (R326). -/
def State.readTail (s : State) (part n : Nat) : State :=
  match s.queue? part n with
  | none => s
  | some q =>
    match s.innRead part q.tailLine 8 with
    | (some bs, s) => s.setQueue part n { q with tail := max q.tail (ofBytes bs), faulted := false }
    | (none, s) => s.queueFault part n true

/-- Whether every dependence of an item holds (R52); none where a counter cannot be read (R326). -/
def State.depsHold (s : State) (part : Nat) : List (Nat × Nat) → Option Bool × State
  | [] => (some true, s)
  | d :: r =>
    match s.innRead part d.1 8 with
    | (some bs, s) => if d.2 ≤ ofBytes bs then s.depsHold part r else (some false, s)
    | (none, s) => (none, s)

/-- Whether an item is rejected (R417). -/
def State.rejects (s : State) (part : Nat) (x : Item) : Bool :=
  x.total = 0 || x.reservedSet || (match s.image? part x.image with
    | some im => (permitted im x.vmask).isEmpty
    | none => true)

/-- Makes the item at `place` ready, if it can be, rejecting those that may not be (R50, R52, R53, R417). -/
def State.readyLoop : Nat → Nat → Nat → State → State
  | 0, _, _, s => s
  | f + 1, part, n, s =>
    match s.queue? part n with
    | none => s
    | some q =>
      if q.tail ≤ q.place then s
      else
        let r : Option Item × State := match q.item? q.place with
          | some x => (some x, s)
          | none => match s.innRead part (q.ring + q.place % 2 ^ q.log2 * 128) 128 with
            | (some bs, s) => (some { idx := q.place, raw := BitVec.ofNat 1024 (ofBytes bs) }, s)
            | (none, s) => (none, s)
        match r.1 with
        | none => r.2.queueFault part n true
        | some x =>
          let s : State := r.2.setQueue part n (q.putItem x)
          if x.ready then s
          else if !x.ovl && ((q.item? (q.place - 1)).map (fun y => y.idx != q.place && !y.over_)).getD false then s
          else
            let d := s.depsHold part x.deps
            let s : State := d.2
            if d.1.isNone then s.queueFault part n true
            else if d.1 == some false then s
            else
              let q := q.putItem x
              if s.rejects part x then
                let s := s.setQueue part n { q.putItem { x with rejected := true } with place := q.place + 1 }
                let s := s.record 17 2 10 0 (some part) 0 1 (BitVec.ofNat 256 (wiidOf n x.idx).toNat)
                State.readyLoop f part n (s.advanceQueue part n true)
              else s.setQueue part n { q.putItem { x with ready := true } with readyAt := some s.meshNow }

/-- The next item of a queue is made ready where it can be, unless the queue waits for a retry (R326). -/
def State.readyQueue (s : State) (part n : Nat) : State :=
  match s.queue? part n with
  | some q => if q.faulted then s else State.readyLoop (q.tail - q.place + 1) part n s
  | none => s

/-- Brings a queue up to date: what is owed, and its next item. -/
def State.refreshQueue (s : State) (part n : Nat) : State := (s.payQueue part n).readyQueue part n

/-- What the Innkeeper tries again in a queue that met a fault, or that owes a completion (R326). -/
def State.retryQueue (s : State) (part n : Nat) : State :=
  match s.queue? part n with
  | some q =>
    if q.faulted then (s.readTail part n).refreshQueue part n
    else if q.stale || q.items.any (·.unpaid) then s.refreshQueue part n
    else s
  | none => s

/-- The queues of a partition. -/
def State.queueNos (s : State) (part : Nat) : List Nat := ((s.part? part).map (fun p => p.queues.map (·.1))).getD []

/-- Every queue of a partition is looked at again: tails, items and dependences (R49, R52, R326). -/
def State.refreshPart (s : State) (part : Nat) : State :=
  (s.queueNos part).foldl (fun s n => (s.readTail part n).refreshQueue part n) s

/-- What a write to a watched line of one queue makes the Innkeeper try again in the others of the partition (R326). -/
def State.retryOthers (s : State) (part n : Nat) : State :=
  ((s.queueNos part).filter (· != n)).foldl (fun s m => s.retryQueue part m) s

/-- What a visibility window's start makes the Innkeeper do (R52, R326): it tries again what faulted, and reads the counters of
waiting items anew. -/
def State.windowPart (s : State) (part : Nat) : State :=
  (s.queueNos part).foldl (fun s n => (s.retryQueue part n).readyQueue part n) s

/-! ### Demand and fit (R57, R58) -/

/-- A variant's demand (R57); spaces in units of 4 KiB. -/
structure Demand where
  grp   : Nat
  blk   : Nat
  a     : Nat
  w     : Nat
  tiles : Nat
  metas : Nat

def Variant.demand (v : Variant) : Demand :=
  { grp := v.ngrp, blk := v.ngrp + v.pool, a := max 1 ((v.abytes + 4095) / 4096), w := (v.wbytes + 4095) / 4096, tiles := v.tiles, metas := v.metas }

/-- What a team, or a window write-back, holds of its core. -/
structure Hold where
  grp   : Nat := 0
  blk   : Nat := 0
  a     : List (Nat × Nat) := []
  w     : List (Nat × Nat) := []
  tiles : BitVec 16 := 0
  metas : List Nat := []

/-- Whether two ranges of pages meet. -/
def rangesMeet (x y : Nat × Nat) : Bool := x.1 < y.1 + y.2 && y.1 < x.1 + x.2

/-- Lowest free offset of `n` pages among `total`, outside the used ranges (R58). -/
def lowestFree (total : Nat) (used : List (Nat × Nat)) (n : Nat) : Option Nat :=
  let ok := (0 :: used.map (fun r => r.1 + r.2)).filter (fun o => o + n ≤ total && !used.any (fun r => rangesMeet (o, n) r))
  match ok with
  | [] => none
  | l => some (minOf l)

/-- Resources reserved for an upshift (R63), as Team.reserved lists them: groups, blocks, A-space pages at the end,
W-space base and pages, tiles, and metadata registers. -/
def Team.resv (t : Team) (i : Nat) : Nat := t.reserved.getD i 0

/-- Groups of a team that stand in their slots, and those that are evicted (R67). -/
def State.teamGroups (s : State) (tk : Nat) : List (Nat × Group) := s.groups.filter (fun e => e.2.tk e.1 == tk)
def State.teamSaved (s : State) (tk : Nat) : List Saved := s.inn.saved.filter (fun x => x.grp.tk x.gk == tk)

/-- What a team holds of its core (R57, R63, R67, R68). The groups, blocks and tiles of a swapped partition are out of the
core (R347). -/
def State.holdOf (s : State) (tk : Nat) (t : Team) : Hold :=
  let n := (s.teamGroups tk).length
  let ext := (s.teamSaved tk).foldl (fun k x => k + x.grp.extBlocks) 0
  let out := ((s.part? t.part).map (fun p => p.outCores.contains (tk / 16))).getD false
  { grp := if out then 0 else n + t.resv 0,
    blk := if out then 0 else n + t.pool - ext + t.resv 1,
    a := if t.out.getLsbD 0 then [] else [(t.abase, t.asize + t.resv 2)],
    w := (if t.out.getLsbD 1 || t.wsize = 0 then [] else [(t.wbase, t.wsize)]) ++ (if t.resv 4 = 0 then [] else [(t.resv 3, t.resv 4)]),
    tiles := if out || t.out.getLsbD 2 then 0 else t.tiles ||| BitVec.ofNat 16 (t.resv 5),
    metas := if t.out.getLsbD 2 then [] else t.mbase ++ t.reserved.drop 6 }

/-- Every hold on a core but those of the teams in `but`. -/
def State.holds (s : State) (core : Nat) (but : List Nat) : List Hold :=
  (s.teams.filter (fun e => e.1 / 16 == core && !but.contains e.1)).map (fun e => s.holdOf e.1 e.2)
    ++ ((s.core core).rsb.filter (fun r => r.cmd.isNone)).map (fun r =>
        if r.wSpace then { w := [(r.lo / 4096, (r.hi + 4095) / 4096 - r.lo / 4096)] } else { a := [(r.lo / 4096, (r.hi + 4095) / 4096 - r.lo / 4096)] })

/-- Lodge groups of a core: each team slot that a partition holds takes a group slot and a block for one (R20). -/
def State.lodges (s : State) (core : Nat) : Nat := s.parts.foldl (fun n e => n + ((kget e.2.slots core).getD []).length) 0

/-- Tiles and metadata registers in use. -/
def tilesOf (hs : List Hold) : BitVec 16 := hs.foldl (fun m h => m ||| h.tiles) 0
def metasOf (hs : List Hold) : List Nat := hs.flatMap (·.metas)

/-- Whether a demand is free beside the holds (R58). -/
def fitsIn (lodges : Nat) (hs : List Hold) (d : Demand) : Bool :=
  lodges + hs.foldl (fun n h => n + h.grp) 0 + d.grp ≤ Config.groupSlots
    && lodges + hs.foldl (fun n h => n + h.blk) 0 + d.blk ≤ Config.blocks
    && popCount (tilesOf hs) + d.tiles ≤ 16 && (metasOf hs).length + d.metas ≤ 64
    && (lowestFree 128 (hs.flatMap (·.a)) d.a).isSome && (d.w = 0 || (lowestFree 192 (hs.flatMap (·.w)) d.w).isSome)

/-- Whether a core can run teams. -/
def State.coreRuns (s : State) (core : Nat) : Bool :=
  !(s.core core).gone && !(s.cluster (clusterOf core)).removed && !(s.cluster (clusterOf core)).gated

/-- The first permitted variant that fits a core (R58). -/
def State.fitting (s : State) (core : Nat) (im : Image) (vmask : Nat) : Option Nat :=
  (permitted im vmask).find? (fun v => match im.vars[v]? with
    | some x => fitsIn (s.lodges core) (s.holds core []) x.demand
    | none => false)

/-! ### Ranks and arbitration (R55, R56, R64) -/

/-- The ageing count of a queue (R55). -/
def State.ageing (s : State) (q : Queue) : Nat :=
  match q.readyAt with
  | some t => min (2 ^ 32 - 1) (s.meshNow - t)
  | none => 0
/-- The effective priority of a queue (R55). -/
def State.effective (s : State) (p : Part) (q : Queue) : Nat := min 7 (q.prio + s.ageing q / p.ageStep)

/-- The ready item of a queue; a queue with an unread line has none (R326). -/
def Queue.ready? (q : Queue) : Option Item := if q.faulted then none else (q.item? q.place).bind (fun x => if x.ready then some x else none)

/-- Rank of an item's queue, and of a team (R64). -/
def rankLt (x y : Nat × Nat) : Bool := x.1 < y.1 || (x.1 == y.1 && x.2 < y.2)
def State.teamRank (s : State) (t : Team) : Nat × Nat := (((s.part? t.part).map (·.prio)).getD 0, t.basePrio)

/-- Partitions of the waiting FETCHW requests of a core. -/
def State.askers (s : State) (core : Nat) : List Nat :=
  ((s.inn.fetch.filter (fun f => coreOf f.gk == core)).filterMap (fun f => (s.group? f.gk).map (·.part))).dedup

/-- Ready items waiting for a core, with their partitions, queues and ranks. -/
def State.waitingItems (s : State) (core : Nat) : List (Nat × Nat × Item × Image × (Nat × Nat)) :=
  (s.askers core).flatMap (fun part => match s.part? part with
    | none => []
    | some p => if p.held then [] else p.queues.filterMap (fun e =>
        match e.2.ready? with
        | none => none
        | some x => (kget p.images x.image).map (fun im => (part, e.1, x, im, (p.prio, s.effective p e.2)))))

/-- Whether restoring an evicted group comes before a grant of a rank on a core (R69). -/
def State.restoreFirst (s : State) (core : Nat) (rank : Nat × Nat) : Bool :=
  s.inn.saved.any (fun x => coreOf x.gk == core && (match s.team? (x.grp.tk x.gk) with
    | some t => !rankLt (s.teamRank t) rank && !((s.part? t.part).map (·.held)).getD true
    | none => false))

/-- The winner of the arbitration for a request: queue, item, image and variant (R56). -/
def State.arbitrate (s : State) (core part : Nat) : Option (Nat × Item × Image × Nat) :=
  match s.part? part with
  | none => none
  | some p =>
    let can := (s.waitingItems core).filterMap (fun (e : Nat × Nat × Item × Image × (Nat × Nat)) =>
      if e.1 != part || s.restoreFirst core e.2.2.2.2 || e.2.2.2.1.feat &&& ~~~Config.features != 0 then none
      else (s.fitting core e.2.2.2.1 e.2.2.1.vmask).map (fun v => (e.2.1, e.2.2.1, e.2.2.2.1, v)))
    let key := fun (n : Nat) => match kget p.queues n with
      | some q => (s.effective p q, s.ageing q, 63 - (n + 64 - p.rr) % 64)
      | none => (0, 0, 0)
    let lt := fun (x y : Nat × Nat × Nat) => x.1 < y.1 || (x.1 == y.1 && (x.2.1 < y.2.1 || (x.2.1 == y.2.1 && x.2.2 < y.2.2)))
    can.foldl (fun b c => match b with
      | none => some c
      | some x => if lt (key x.1) (key c.1) then some c else b) none

/-! ### The binding table (R76, R77) -/

/-- A workgroup's linear number (R77). -/
def linear (x : Item) (t : Team) : Nat := t.wgx + x.gx * (t.wgy + x.gy * t.wgz)

/-- An entry that names a placed team (R76). -/
def boundEntry (tk : Nat) (t : Team) : BitVec 64 :=
  pack 64 [(63, 1, 1), (56, 5, tk / 16 % 32), (52, 4, tk % 16), (40, 8, t.abase), (32, 8, t.asize % 128), (24, 8, t.wbase), (16, 8, t.wsize)]
/-- An entry whose team is gone (R76). What its other fields hold then is not stated (R77); they are 0 here (DESIGN CHOICE,
log 82). -/
def goneEntry : BitVec 64 := 0x4000000000000000

/-- The placed teams of an item. -/
def State.mates (s : State) (part queue idx : Nat) : List (Nat × Team) :=
  s.teams.filter (fun e => e.1 < 4096 && e.2.part == part && e.2.queue == queue && e.2.item == idx)

/-- The binding table of a team at grant, and its entry in the tables of the others (R77). -/
def State.bindTeam (s : State) (tk : Nat) (x : Item) (placed : Nat) : State :=
  match s.team? tk with
  | none => s
  | some t =>
    let l := linear x t
    let mates := s.mates t.part t.queue t.item
    let entry := fun (m : Nat) =>
      if x.total ≤ m then goneEntry
      else match mates.find? (fun e => linear x e.2 == m) with
        | some e => if e.1 / 512 = tk / 512 then boundEntry e.1 e.2 else goneEntry
        | none => if m < placed then goneEntry else 0
    let tab := (List.range 32).foldl (fun (b : SMap 64) j => sset b j (if j = 0 then boundEntry tk t else entry (l ^^^ j))) []
    let s := s.setTeam tk { t with bind := tab }
    mates.foldl (fun s e =>
      let j := linear x e.2 ^^^ l
      if e.1 = tk || 32 ≤ j then s
      else s.modTeam e.1 (fun u => { u with bind := sset u.bind j (if e.1 / 512 = tk / 512 then boundEntry tk t else goneEntry) })) s

/-- Rewrites the entries that name a switched team (R77). -/
def State.rebindTeam (s : State) (tk : Nat) : State :=
  match s.team? tk with
  | none => s
  | some t =>
    match (s.queue? t.part t.queue).bind (fun q => q.item? t.item) with
    | none => s.setTeam tk { t with bind := sset t.bind 0 (boundEntry tk t) }
    | some x =>
      (s.mates t.part t.queue t.item).foldl (fun s e =>
        let j := linear x e.2 ^^^ linear x t
        if 32 ≤ j then s
        else s.modTeam e.1 (fun u => if j = 0 || bndBound (sget u.bind j) then { u with bind := sset u.bind j (boundEntry tk t) } else u)) s

/-- Entries that name a retired team change to GONE (R77). -/
def State.unbindTeam (s : State) (tk : Nat) (t : Team) (x : Item) : State :=
  (s.mates t.part t.queue t.item).foldl (fun s e =>
    let j := linear x e.2 ^^^ linear x t
    if e.1 = tk || j = 0 || 32 ≤ j then s
    else s.modTeam e.1 (fun u => if bndBound (sget u.bind j) then { u with bind := sset u.bind j goneEntry } else u)) s

/-! ### Placing groups (R58, R59, R60) -/

/-- The mailbox above its ready flag (R60). -/
def mailbox (t : Team) (metas : Nat) : BitVec 512 :=
  pack 512 [(32, 32, t.wiid.toNat), (64, 16, t.wgx), (80, 16, t.wgy), (96, 16, t.wgz), (112, 2, t.var), (128, 56, t.argp.toNat),
    (192, 8, t.abase), (200, 8, t.asize % 128), (208, 8, t.wbase), (216, 8, t.wsize), (224, 16, t.tiles.toNat), (240, 6, metas),
    (248, 6, t.pool), (256, 5, t.ngrp), (264, 6, t.queue)]

/-- Writes the mailbox from byte 4, then sets the ready flag (R59, R60, R63). -/
def State.writeMailbox (s : State) (tk : Nat) (t : Team) : State :=
  let at_ := Place.aspc (tk / 16) (4096 * t.abase)
  let s := s.write (innWriter t.part 0) none (at_.add 4) ((toBytes 64 (mailbox t t.mbase.length).toNat).drop 4)
  s.write (innWriter t.part 0) none at_ [1, 0, 0, 0]

/-- The scheduler with the most free group slots, the lowest on a tie (R58). -/
def State.freeSlot? (s : State) (core : Nat) : Option Nat :=
  let free := fun k => ((List.range 16).map (fun j => 16 * k + j)).filter (fun j => (s.group? (core * 64 + j)).isNone)
  let best := (List.range 4).foldl (fun b k => if (free b).length < (free k).length then k else b) 0
  (free best).head?

/-- A group of a team at its creation (R30). -/
def newGroup (part image var : Nat) (kind : RoleKind) (budget grpid tslot off : Nat) : Group :=
  { part := part, image := image, var := var, kind := kind, budget := budget, grpid := grpid, tslot := tslot,
    pcv := setLanes [] 0xFFFFFFFF (fun _ => BitVec.ofNat 32 off), epcv := setLanes [] 0xFFFFFFFF (fun _ => BitVec.ofNat 32 off) }

/-- Kinds and budgets of a variant's groups in role order (R18, R21). -/
def groupRoles (v : Variant) : List (RoleKind × Nat) := v.roles.flatMap (fun r => List.replicate r.count (r.kind, r.budget))

/-- Creates the groups of a team, in ascending `grpid` order (R58, R59). -/
def State.makeGroups (s : State) (tk : Nat) (t : Team) (v : Variant) (off : Nat) : State :=
  (groupRoles v).zipIdx.foldl (fun s e =>
    match s.freeSlot? (tk / 16) with
    | some slot => s.setGroup (tk / 16 * 64 + slot) (newGroup t.part t.image t.var e.1.1 e.1.2 e.2 (tk % 16) off)
    | none => s) s

/-- Lowest free tiles and metadata registers (R58). -/
def lowTiles (used : BitVec 16) (n : Nat) : BitVec 16 :=
  ((setBits (~~~used)).take n).foldl (fun m i => m ||| BitVec.ofNat 16 (2 ^ i)) 0
def lowMetas (used : List Nat) (n : Nat) : List Nat := ((List.range 64).filter (fun i => !used.contains i)).take n

/-- Tiles are granted zero with their tokens at the matrix unit, metadata registers zero (R30). -/
def Core.clearTeam (k : Core) (tiles : BitVec 16) (metas : List Nat) : Core :=
  { k with acc := k.acc.filter (fun e => !tiles.getLsbD (e.1 / 4096)), tpoison := k.tpoison.filter (fun e => !tiles.getLsbD (e / 256)), token := k.token.filter (fun e => !tiles.getLsbD e.1),
           metar := k.metar.filter (fun e => !metas.contains e.1) }

/-- A team whose allocations are taken for a variant (R57, R58, R63): `keepA` is the base that a switch keeps. -/
def Team.allot (t : Team) (hs : List Hold) (var : Nat) (v : Variant) (keepA : Option Nat) : Team :=
  let d := v.demand
  { t with var := var, ngrp := v.ngrp, pool := v.pool, poolFree := v.pool,
           abase := keepA.getD ((lowestFree 128 (hs.flatMap (·.a)) d.a).getD 0), asize := d.a,
           wbase := if d.w = 0 then 0 else (lowestFree 192 (hs.flatMap (·.w)) d.w).getD 0, wsize := d.w,
           tiles := lowTiles (tilesOf hs) d.tiles, mbase := lowMetas (metasOf hs) d.metas,
           rv := [], request := none, reserved := [], freeSince := [] }

/-! ### Upshift quantum (R65) -/

/-- Whether an outranking item waits for a core (R65). -/
def State.pressed (s : State) (core : Nat) (rank : Nat × Nat) : Bool := (s.waitingItems core).any (fun e => rankLt rank e.2.2.2.2)

/-- Whether a switch of a team to a variant fits (R63): its own holdings count as free, its A-space base stays. -/
def State.switchFits (s : State) (tk : Nat) (t : Team) (v : Variant) : Bool :=
  let core := tk / 16
  let hs := s.holds core [tk]
  let d := v.demand
  t.abase + d.a ≤ 128 && !(hs.flatMap (·.a)).any (fun r => rangesMeet (t.abase, d.a) r)
    && fitsIn (s.lodges core) ({ a := [(t.abase, d.a)] } :: hs) { d with a := 0 }

/-- The permitted variants before the current one that fit, most preferred first (R65). -/
def State.better (s : State) (tk : Nat) (t : Team) : List Nat :=
  match s.image? t.part t.image with
  | none => []
  | some im => ((permitted im t.vmask.toNat).filter (· < t.var)).filter (fun v => match im.vars[v]? with
      | some x => s.switchFits tk t x
      | none => false)

/-- Whether a team's groups named different switch ordinals and have still to be resumed: it is posted no new request (R414). -/
def State.disagreed (s : State) (tk : Nat) : Bool :=
  s.groups.any (fun e => e.2.tk e.1 == tk && e.2.st != .running && e.2.event == 14)
    || s.inn.saved.any (fun x => x.grp.tk x.gk == tk && x.grp.st != .running && x.grp.event == 14)

/-- The variants to which a team may be upshifted now. -/
def State.upshiftable (s : State) (tk : Nat) (t : Team) : List Nat :=
  if tk < 4096 && t.request.isNone && !s.disagreed tk && !((s.part? t.part).map (·.held)).getD true && !s.pressed (tk / 16) (s.teamRank t)
  then s.better tk t else []

/-- The time since which the resources of each better variant have stayed free is kept for each team of a core (R65). -/
def State.trackFree (s : State) (core : Nat) : State :=
  { s with teams := s.teams.map (fun e =>
      if e.1 / 16 = core && e.1 < 4096 then
        (e.1, { e.2 with freeSince := (s.upshiftable e.1 e.2).map (fun v => (v, (kget e.2.freeSince v).getD s.clock.now)) }) else e) }

/-- The most preferred variant whose resources have stayed free for the quantum (R65). -/
def State.upshiftDue (s : State) (t : Team) : Option Nat :=
  (t.freeSince.find? (fun e => e.2 + ((s.part? t.part).map (·.quantum)).getD 0 ≤ s.clock.now)).map (·.1)

/-! ### Switch requests (R63, R64) -/

/-- What an upshift to a variant reserves beyond the current demand (R63). -/
def State.reserveFor (s : State) (tk : Nat) (t : Team) (v : Variant) : List Nat :=
  let d := v.demand
  let n := (s.teamGroups tk).length
  let all := s.holds (tk / 16) []
  let more := popCount t.tiles
  [d.grp - n, d.blk - (n + t.pool), d.a - t.asize,
    if d.w ≤ t.wsize then 0 else (lowestFree 192 ((s.holds (tk / 16) [tk]).flatMap (·.w)) d.w).getD 0, if d.w ≤ t.wsize then 0 else d.w,
    (lowTiles (tilesOf all) (d.tiles - more)).toNat] ++ lowMetas (metasOf all) (d.metas - t.mbase.length)

/-- Posts a switch request: the groups of the team get a user interrupt with VEC 0x8000 (R63, R339). -/
def State.requestSwitch (s : State) (tk target : Nat) (up : Bool) : State :=
  match s.team? tk with
  | none => s
  | some t =>
    let res := if up then match s.variant? t.part t.image target with
      | some v => s.reserveFor tk t v
      | none => [] else []
    (s.setTeam tk { t with request := some target, later := !s.teamWhole tk, reserved := res, freeSince := [] }).postUint (tk / 16) (tk % 16) 0xFFFF 0x8000

/-- A team's hold once a switch to a variant is done. -/
def Hold.switched (h : Hold) (t : Team) (v : Variant) : Hold :=
  let d := v.demand
  { h with grp := d.grp, blk := d.blk, a := [(t.abase, d.a)], w := if d.w = 0 then [] else [(t.wbase, d.w)],
           tiles := lowTiles 0 d.tiles, metas := List.range d.metas }

/-- Holds of a core when the teams in `l` have switched to the variants named. Tiles and metadata registers only count. -/
def State.holdsAfter (s : State) (core : Nat) (l : List (Nat × Variant)) : List Hold :=
  let base := s.holds core (l.map (·.1))
  l.foldl (fun hs e => match s.team? e.1 with
    | none => hs
    | some t =>
      let d := e.2.demand
      let w := (lowestFree 192 (hs.flatMap (·.w)) d.w).getD 192
      let tu := lowTiles (tilesOf hs) d.tiles
      let mu := lowMetas (metasOf hs) d.metas
      { grp := d.grp, blk := d.blk, a := [(t.abase, d.a)], w := if d.w = 0 then [] else [(w, d.w)], tiles := tu, metas := mu } :: hs) base

/-- Whether some permitted variant of an item fits once the switches are done (R64). -/
def State.covered (s : State) (core : Nat) (im : Image) (vmask : Nat) (l : List (Nat × Variant)) : Bool :=
  (permitted im vmask).any (fun v => match im.vars[v]? with
    | some x => fitsIn (s.lodges core) (s.holdsAfter core l) x.demand
    | none => false)

/-- Teams of a core in the order of R64: lowest rank first, within one rank the youngest grant first. -/
def insertBy (lt : Nat × Team → Nat × Team → Bool) (x : Nat × Team) : List (Nat × Team) → List (Nat × Team)
  | [] => [x]
  | y :: r => if lt x y then x :: y :: r else y :: insertBy lt x r
def State.candidates (s : State) (core : Nat) (rank : Nat × Nat) : List (Nat × Team) :=
  let lt := fun (x y : Nat × Team) => rankLt (s.teamRank x.2) (s.teamRank y.2) || (s.teamRank x.2 == s.teamRank y.2 && y.2.grantSeq < x.2.grantSeq)
  (s.teams.filter (fun e => e.1 < 4096 && e.1 / 16 == core && rankLt (s.teamRank e.2) rank
    && !((s.part? e.2.part).map (·.held)).getD true)).foldl (fun l e => insertBy lt e l) []

/-- The downshifts that an item's shortfall asks for (R64): the teams to switch and their targets, from the candidates on. -/
def State.downshifts (s : State) (core : Nat) (im : Image) (vmask : Nat) :
    List (Nat × Team) → List (Nat × Variant) → List (Nat × Nat) → List (Nat × Nat)
  | [], _, new => new
  | e :: r, l, new =>
    if s.covered core im vmask l then new
    else if e.2.request.isSome || e.2.partial_ || s.disagreed e.1 then s.downshifts core im vmask r l new
    else match s.image? e.2.part e.2.image with
      | none => s.downshifts core im vmask r l new
      | some ti =>
        let after := ((permitted ti e.2.vmask.toNat).filter (e.2.var < ·)).filterMap (fun v => (ti.vars[v]?).map (fun x => (v, x)))
        match after.getLast? with
        | none => s.downshifts core im vmask r l new
        | some last =>
          let pick := (after.find? (fun x => s.covered core im vmask ((e.1, x.2) :: l))).getD last
          s.downshifts core im vmask r ((e.1, pick.2) :: l) (new ++ [(e.1, pick.1)])

/-- Switches already requested of a core's candidates, as they will leave it. -/
def State.requested (s : State) (cs : List (Nat × Team)) : List (Nat × Variant) :=
  cs.filterMap (fun e => match e.2.request with
    | some v => if e.2.var < v then (s.variant? e.2.part e.2.image v).map (fun x => (e.1, x)) else none
    | none => none)

/-- A ready item that waits for a core: partition, queue, item, image and rank. -/
abbrev Wanting := Nat × Nat × Item × Image × (Nat × Nat)

/-- Adds an item to a list in descending rank; of equal rank it comes last. -/
def insertRank (x : Wanting) : List Wanting → List Wanting
  | [] => [x]
  | y :: r => if rankLt y.2.2.2.2 x.2.2.2.2 then x :: y :: r else y :: insertRank x r

/-- The ready items that wait for a core and fit it in no variant, highest rank first. -/
def State.shortItems (s : State) (core : Nat) : List Wanting :=
  ((s.waitingItems core).filter (fun e => (s.fitting core e.2.2.2.1 e.2.2.1.vmask).isNone)).foldl (fun l e => insertRank e l) []

/-- The recorded shortfall of an item's next workgroup on a core. -/
def State.press? (s : State) (core : Nat) (e : Wanting) : Option Press :=
  s.inn.press.find? (fun p => p.core == core && p.part == e.1 && p.queue == e.2.1 && p.item == e.2.2.1.idx && p.wg == e.2.2.1.placed)

/-- The shortfall of one item on a core is recorded, and downshifts are requested for it (R64, R66). -/
def State.pressItem (s : State) (core : Nat) (e : Wanting) : State :=
  match e with
  | (part, queue, x, im, rank) =>
    let cs := s.candidates core rank
    if cs.isEmpty then s
    else
      let new := s.downshifts core im x.vmask cs (s.requested cs) []
      let press : Press := match s.press? core e with
        | some p => if p.asked || new.isEmpty then p else { p with since := s.clock.now, asked := true }
        | none => { core := core, part := part, queue := queue, item := x.idx, wg := x.placed, since := s.clock.now, asked := !new.isEmpty }
      let rest := s.inn.press.filter (fun p => some p != s.press? core e)
      new.foldl (fun s e => s.requestSwitch e.1 e.2 false) (s.setInn { s.inn with press := press :: rest })

/-- SWITCH_REQUEST_POST on one core (R64, R66): the shortfall of each item is recorded, and downshifts are requested for it, the item
of highest rank first; a workgroup that is short no more, or that no team is outranked by, has no record. -/
def State.pressCore (s : State) (core : Nat) : State :=
  let l := (s.shortItems core).filter (fun e => !(s.candidates core e.2.2.2.2).isEmpty)
  let s := s.setInn { s.inn with press := s.inn.press.filter (fun p => p.core != core || l.any (fun e => s.press? core e == some p)) }
  l.foldl (fun s e => s.pressItem core e) s

/-- Every core with a waiting request, or with a recorded shortfall, is looked at again. -/
def State.pressAll (s : State) : State :=
  let cores := (s.inn.fetch.map (fun f => coreOf f.gk) ++ s.inn.press.map (·.core)).dedup
  cores.foldl (fun s c => (s.pressCore c).trackFree c) s

/-! ### The grant (R46, R59) -/

/-- The page entries that software has appended to a capture block, each with the offset of its pre-image in the capture
region (R383). -/
def State.capturePages (s : State) (part base arglen : Nat) (c : Capture) : List ((Nat × Nat × BitVec 64) × Nat) × State :=
  match s.innRead part (base + c.off) 64 with
  | (none, s) => ([], s)
  | (some _, s) =>
    let head := (List.range 4).foldl (fun (x : List Byte × State) i => match x.2.innRead part (base + c.off + 64 * i) 64 with
      | (some bs, s) => (x.1 ++ bs, s)
      | (none, s) => (x.1, s)) (([] : List Byte), s)
    let r := (List.range (Config.capturePages (BitVec.ofNat 2048 (ofBytes head.1)))).foldl (fun (x : List ((Nat × Nat × BitVec 64) × Nat) × Nat × State) _ =>
      match x.2.2.innRead part (base + x.2.1) 64 with
      | (some bs, s) =>
        let e := Config.captureEntry (BitVec.ofNat 512 (ofBytes bs))
        (x.1 ++ [(e, x.2.1 + 64)], x.2.1 + 64 + e.2.1, s)
      | (none, s) => (x.1, x.2.1, s)) (([] : List ((Nat × Nat × BitVec 64) × Nat)), c.off + 256 + arglen, head.2)
    (r.1, r.2.2)

/-- Where the last capture block, with the pages appended to it, ends (R383). -/
def State.captureEnd (s : State) (part : Nat) (p : Part) (base arglen used : Nat) : Nat × State :=
  match p.captures.getLast? with
  | none => (used, s)
  | some c =>
    let x := s.capturePages part base arglen c
    (match x.1.getLast? with
      | some e => max used (e.2 + e.1.2.1)
      | none => used, x.2)

/-- Lines of 64 bytes that the Innkeeper reads; false, with the fault posted, where one does not translate (R326). -/
def State.innLines (s : State) (part va : Nat) : Nat → Option (List Byte) × State
  | 0 => (some [], s)
  | n + 1 => match s.innLines part va n with
    | (none, s) => (none, s)
    | (some l, s) => match s.innRead part (va + 64 * n) 64 with
      | (some bs, s) => (some (l ++ bs), s)
      | (none, s) => (none, s)

/-- Whether lines of 64 bytes can be written for the Innkeeper; the fault of one that cannot is posted (R326). -/
def State.innOpen (s : State) (part va : Nat) : Nat → Bool × State
  | 0 => (true, s)
  | n + 1 => match s.innOpen part va n with
    | (false, s) => (false, s)
    | (true, s) => let x := s.innAt part (va + 64 * n) .innWrite
                   (x.1.isSome, x.2)

/-- The workgroup's capture block, before the first workgroup of an item with CAP (R383). False: a line of the argument block or of the
capture block does not translate, and nothing is written (R326). -/
def State.captureItem (s : State) (part queue : Nat) (x : Item) (im : Image) : Bool × State :=
  match (s.part? part).bind (fun p => p.capture.map (fun c => (p, c))) with
  | none => (true, s)
  | some (p, base, size, arglen, used₀) =>
    if !x.cap || x.placed != 0 then (true, s)
    else
      let w : Nat × State := s.captureEnd part p base arglen used₀
      let used := w.1
      if size < used + 256 + arglen then (true, w.2)
      else match w.2.innLines part x.argp.toNat (arglen / 64) with
        | (none, s) => (false, s)
        | (some args, s) =>
          match s.innOpen part (base + used) ((256 + arglen) / 64) with
          | (false, s) => (false, s)
          | (true, s) =>
            let c : Capture := { seqno := p.captures.length, image := x.image, wiid := wiidOf queue x.idx, item := toBytes 128 x.raw.toNat, args := args, off := used }
            let head := toBytes 256 (Config.captureHeader c.seqno im.imgid x.image c.wiid x.raw arglen 0).toNat
            let s := (List.range ((256 + arglen) / 64)).foldl (fun (s : State) k =>
              (s.hwPut part (base + used + 64 * k) (((head ++ args).drop (64 * k)).take 64)).getD s) s
            (true, s.modPart part (fun p => { p with capture := some (base, size, arglen, used + 256 + arglen), captures := p.captures ++ [c] }))

/-- Logging starts with the first workgroup of an item with UND (R366). -/
def State.undItem (s : State) (part : Nat) (x : Item) : State :=
  if !x.und || x.placed != 0 then s
  else match s.log? part with
    | none => s.modPart part (fun p => { p with unlogged := p.unlogged + 1 })
    | some l => if l.on then s else s.logStart part

/-- A grant: the workgroup is withdrawn, its team, groups, bindings and mailbox are made, and the lodge group gets it
(R59). An item whose capture block cannot be written leaves its queue without a ready item until a retry (R326, R383). -/
def State.grant (s : State) (lodge : Nat) (part queue : Nat) (x : Item) (im : Image) (var : Nat) : State :=
  match s.part? part, s.group? lodge, im.vars[var]? with
  | some p, some lg, some v =>
    match s.captureItem part queue x im with
    | (false, s) => s.queueFault part queue true
    | (true, s) =>
      let core := coreOf lodge
      let tk := core * 16 + lg.tslot
      let n := x.placed
      let last := n + 1 == x.total
      let s := s.modPart part (fun p => { p with rr := (queue + 1) % 64 })
      let s := match s.queue? part queue with
        | some q =>
          let q := q.putItem { x with placed := n + 1 }
          s.setQueue part queue (if last then { q with place := q.place + 1, readyAt := none } else q)
        | none => s
      let s := if last then s.headLine part queue else s
      let hs := s.holds core []
      let q := (kget p.queues queue).map (·.prio)
      let t : Team := {
        part := part, image := x.image, var := var, wiid := wiidOf queue x.idx,
        wgx := n % x.gx, wgy := n / x.gx % x.gy, wgz := n / (x.gx * x.gy), argp := x.argp, queue := queue, item := x.idx,
        vmask := BitVec.ofNat 4 x.vmask, grantSeq := s.clock.seqno, basePrio := q.getD 0 }
      let t := t.allot hs var v none
      let s := (s.setClock { s.clock with seqno := s.clock.seqno + 1 }).modCore core (fun k => k.clearTeam t.tiles t.mbase)
      let s := (s.setTeam tk t).bindTeam tk x (n + 1)
      let s := s.makeGroups tk t v ((v.wps.head?.map (·.offs)).getD 0)
      let s := s.writeMailbox tk t
      let s := (s.deliver lodge).setInn
        { s.inn with fetch := s.inn.fetch.filter (fun f => f.gk != lodge), grants := max s.inn.grants s.meshNow + 1 }
      ((s.undItem part x).readyQueue part queue).trackFree core
  | _, _, _ => s

/-- Requests that could be granted now, each with what it would be granted. -/
def State.grantable (s : State) : List (Fetch × Nat × Nat × Item × Image × Nat) :=
  s.inn.fetch.filterMap (fun f => match s.group? f.gk with
    | none => none
    | some g =>
      if (s.team? (coreOf f.gk * 16 + g.tslot)).isSome || !s.coreRuns (coreOf f.gk) then none
      else (s.arbitrate (coreOf f.gk) g.part).map (fun w => (f, g.part, w.1, w.2.1, w.2.2.1, w.2.2.2)))

/-- Order of service (R46): arrival, then core, then team slot. -/
def State.servedBefore (s : State) (a b : Fetch) : Bool :=
  let k := fun (f : Fetch) => coreOf f.gk * 16 + ((s.group? f.gk).map (·.tslot)).getD 0
  a.at_ < b.at_ || (a.at_ == b.at_ && k a < k b)

/-- Makes the record of R418 for every waiting item whose image needs a feature that no core has. -/
def State.featRecords (s : State) : State :=
  ((s.inn.fetch.map (fun f => coreOf f.gk)).dedup.flatMap (fun c => (s.waitingItems c).map (fun e => (c, e)))).foldl (fun s e =>
    if e.2.2.2.2.1.feat &&& ~~~Config.features = 0 then s else s.featItem e.1 e.2.1 e.2.2.1 e.2.2.2.1.idx (wiidOf e.2.2.1 e.2.2.2.1.idx).toNat) s

/-- The request that is served next, with what it is granted (R46). -/
def State.firstGrant (s : State) : Option (Fetch × Nat × Nat × Item × Image × Nat) :=
  s.grantable.foldl (fun (b : Option (Fetch × Nat × Nat × Item × Image × Nat)) c => match b with
    | none => some c
    | some x => if s.servedBefore c.1 x.1 then some c else b) none

/-- One grant; a request whose item cannot be placed after all stays waiting, and the next is served (R46, R326). -/
def State.grantLoop : Nat → State → State
  | 0, s => s
  | n + 1, s => match s.firstGrant with
    | none => s
    | some (f, part, queue, x, im, var) =>
      let s := s.grant f.gk part queue x im var
      if ((s.queue? part queue).map (·.faulted)).getD false && s.inn.fetch.any (· == f) then State.grantLoop n s else s

/-- INNKEEPER_GRANT (R46, R59, R65). -/
def execInnkeeperGrant (s : State) : Host.Outcome State Fault Refusal :=
  let s := ((s.inn.fetch.map (fun f => coreOf f.gk)).dedup).foldl (fun (s : State) c => s.trackFree c) s.featRecords
  .next (if s.meshNow + 1 < s.inn.grants then s.pressAll else (State.grantLoop (s.inn.fetch.length + 1) s).pressAll)

/-- TAIL_LINE_WRITE (R49, R326). -/
def execTailLineWrite (part queue : Nat) (s : State) : Host.Outcome State Fault Refusal :=
  .next ((((s.readTail part queue).refreshQueue part queue).retryOthers part queue).pressAll)

/-- DEPENDENCE_COUNTER_CHANGE (R52, R326). -/
def execDependenceCounterChange (part queue : Nat) (s : State) : Host.Outcome State Fault Refusal :=
  .next (((if ((s.queue? part queue).map (·.faulted)).getD false then s.retryQueue part queue else s.readyQueue part queue).retryOthers part queue).pressAll)

/-! ### Retirement (R45, R54) -/

/-- WORKGROUP_RETIRE (R45, R54, R60, R61, R77, R399). -/
def execWorkgroupRetire (tk : Nat) (s : State) : Host.Outcome State Fault Refusal :=
  match s.team? tk with
  | none => .next s
  | some t =>
    if 4096 ≤ tk || !(s.teamGroups tk).isEmpty || !(s.teamSaved tk).isEmpty || ((s.part? t.part).map (fun p => p.swapOut.isSome || !p.outCores.isEmpty)).getD false then .next s
    else
      let owed := ((s.queue? t.part t.queue).bind (·.owed?)).isSome
      let s := if t.frozen.isSome then s.engDiscard tk else s
      let s := s.write (innWriter t.part 0) none (.aspc (tk / 16) (4096 * t.abase)) [0, 0, 0, 0]
      let s := (s.modCore (tk / 16) (fun k => { k with token := k.token.filter (fun e => !t.tiles.getLsbD e.1) })).delTeam tk
      let s := match (s.queue? t.part t.queue).bind (fun q => q.item? t.item) with
        | none => s
        | some x =>
          let s := s.unbindTeam tk t x
          let y := { x with retired := x.retired + 1, unpaid := x.total == x.retired + 1, order := s.clock.seqno }
          match s.queue? t.part t.queue with
          | some q => s.setQueue t.part t.queue (q.putItem y)
          | none => s
      let s := s.setClock { s.clock with seqno := s.clock.seqno + 1 }
      .next (((if owed then s.readyQueue t.part t.queue else s.refreshQueue t.part t.queue).pressAll).trackFree (tk / 16))

/-! ### Variant switches (R63, R65, R414) -/

/-- UPSHIFT_QUANTUM_EXPIRY (R65). -/
def execUpshiftQuantumExpiry (tk : Nat) (s : State) : Host.Outcome State Fault Refusal :=
  let s := s.trackFree (tk / 16)
  match s.team? tk with
  | none => .next s
  | some t =>
    match s.upshiftDue t with
    | some v => .next ((s.requestSwitch tk v true).trackFree (tk / 16))
    | none => .next s

/-- Every group of a team that has not ended has arrived and can switch (R63). -/
def switchArrived (gs : List (Nat × Group)) : Bool := !gs.isEmpty && gs.all (fun e => e.2.arrived.isSome && e.2.st == .running && !e.2.handler)

/-- The switch itself (R63). -/
def State.doSwitch (s : State) (tk : Nat) (t : Team) (gs : List (Nat × Group)) (k target : Nat) : State :=
  match s.image? t.part t.image with
  | none => s
  | some im =>
    match im.vars[target]? with
    | none => s
    | some v =>
      let keep := ((gs.foldl (fun (b : Option Group) e => match b with
        | none => some e.2
        | some g => if e.2.grpid < g.grpid then some e.2 else b) none).map (·.s)).getD []
      let off := match (im.switch[k]?).bind (fun r => r[target]?) with
        | some n => ((v.wps[n]?).map (·.offs)).getD 0
        | none => 0
      let s := gs.foldl (fun s e => s.endGroup e.1) s
      let hs := s.holds (tk / 16) [tk]
      match s.team? tk with
      | none => s
      | some t =>
        let t := t.allot hs target v (some t.abase)
        let s := s.modCore (tk / 16) (fun c => c.clearTeam t.tiles t.mbase)
        let s := (s.setTeam tk t).rebindTeam tk
        let s := s.writeMailbox tk t
        let s := s.makeGroups tk t v off
        let s := { s with groups := s.groups.map (fun (e : Nat × Group) => if e.2.tk e.1 = tk && e.2.grpid = 0 then (e.1, { e.2 with s := keep.filter (fun x => decide (x.1 < 16)) }) else e) }
        s.trackFree (tk / 16)

/-- VARIANT_SWITCH (R63, R414). -/
def execVariantSwitch (tk : Nat) (s : State) : Host.Outcome State Fault Refusal :=
  match s.team? tk with
  | none => .next s
  | some t =>
    let gs := s.teamGroups tk
    match t.request with
    | none => .next s
    | some target =>
      if t.partial_ || !switchArrived gs then .next s
      else
        let ks := (gs.filterMap (fun e => e.2.arrived)).dedup
        match ks with
        | [k] =>
          if gs.any (fun e => e.2.lc != 0 || e.2.sc != 0 || e.2.cc != 0 || e.2.tc != 0) || (s.core (tk / 16)).rsb.any (fun r => r.tk == tk && r.cmd.isSome) then .next s
          else if !((s.variant? t.part t.image target).map (fun v => s.switchFits tk t v)).getD false then .next s
          else .next (s.doSwitch tk t gs k target)
        | _ =>
          let s := s.setTeam tk { t with request := none, reserved := [] }
          .next (gs.foldl (fun s e => s.freeze e.1 14 0 0x16 e.2.live (e.2.pcMin e.2.live)) s)

/-! ### Partial eviction, spill and restore (R66 to R69) -/

/-- Bytes of shadow storage in use on a core: the blocks of the groups saved there (R67, R347). -/
def State.shadowUsed (s : State) (core : Nat) : Nat :=
  (s.inn.saved ++ s.inn.swapped).foldl (fun n x => if x.shadow && coreOf x.gk = core then n + 8192 * popCount x.grp.held else n) 0

/-- Takes a group that is to be saved out of its slot; tokens it holds stay with it, and its stopped matrix operations keep their
places in the order of acceptance (R67, R274, R276). -/
def State.takeOut (s : State) (gk : Nat) : State :=
  (s.delGroup gk).modCore (coreOf gk) (fun k => { k with
    token := k.token.map (fun (e : Nat × Nat) => if e.2 = gk then (e.1, savedHolder gk) else e) })

/-- Whether a group can be saved: the decision of a TXEND is not awaited (R252), and its stores have completed (R40). -/
def Group.saveable (g : Group) : Bool := g.txend.isNone && g.sc == 0

/-- Evicts one group (R67): one that is parked or halted takes the region-entry stop too. Where it is not saveable yet, it goes at a later turn. A group for whose state neither the shadow storage
nor the spill area has room stays in its slot, stopped at its region entry, and goes on from there: the spec gives no rule
(DESIGN CHOICE, log 24). -/
def State.evict (s : State) (gk : Nat) : State :=
  match s.group? gk with
  | none => s
  | some g0 =>
    let stay := s
    let s := if g0.txend.isNone then s.regionStop gk else s
    match s.group? gk with
    | none => s
    | some g =>
      let bytes := 8192 * popCount g.held
      let fits := s.shadowUsed (coreOf gk) + bytes ≤ Config.shadowBytes
      let r : Option Nat × State := if fits then (none, s) else match s.spillTake g.part bytes with
        | some x => (some x.1, x.2)
        | none => (none, s)
      if !g.saveable then stay
      else if !fits && r.1.isNone then (if g.st == .running then s.resumeOps gk else s)
      else
        let s : State := r.2
        let s := s.setInn { s.inn with saved := s.inn.saved ++ [{ gk := gk, ord := s.clock.seqno, shadow := fits, spill := r.1, grp := g }] }
        let s := (s.setClock { s.clock with seqno := s.clock.seqno + 1 }).takeOut gk
        s.modTeam (g.tk gk) (fun t => { t with partial_ := true, freeSince := [] })

/-- The victims in the order of R66: from the lowest-ranked partition whose teams are outranked, the youngest grant
first, within a team in descending `grpid`. Of partitions of equal, lowest priority the one of the lower tag gives the victims: the
spec names no tie-break (DESIGN CHOICE, log 25). -/
def State.victims (s : State) (core : Nat) (rank : Nat × Nat) : List Nat :=
  let cs := s.candidates core rank
  match cs with
  | [] => []
  | _ =>
    let prio := fun (p : Nat) => ((s.part? p).map (·.prio)).getD 0
    let low := cs.foldl (fun b e => if prio e.2.part < prio b || (prio e.2.part = prio b && e.2.part < b) then e.2.part else b) ((cs.head?.map (fun e => e.2.part)).getD 0)
    let lt := fun (x y : Nat × Team) => decide (y.2.grantSeq < x.2.grantSeq)
    let teams := (cs.filter (fun e => e.2.part == low)).foldl (fun l e => insertBy lt e l) []
    teams.flatMap (fun e =>
      let gs := s.teamGroups e.1
      ((List.range 16).reverse.filterMap (fun n => (gs.find? (fun g => g.2.grpid == n)).map (·.1))))

/-- Holds of a core with some groups evicted, the allocations of fully evicted teams counted as free but those of `keep` (R66, R68). -/
def State.holdsEvicted (s : State) (core : Nat) (gone keep : List Nat) : List Hold :=
  let left := fun (tk : Nat) => (s.teamGroups tk).filter (fun e => !gone.contains e.1)
  s.holds core ((s.teams.filter (fun e => e.1 / 16 == core)).map (·.1))
    ++ (s.teams.filter (fun e => e.1 / 16 == core)).map (fun e =>
      let h := s.holdOf e.1 e.2
      let out := (s.teamGroups e.1).filter (fun g => gone.contains g.1)
      let h := { h with grp := h.grp - out.length, blk := h.blk - out.foldl (fun n g => n + 1 + g.2.extBlocks) 0 }
      if (left e.1).isEmpty && !(out.isEmpty && (s.teamSaved e.1).isEmpty) && !keep.contains e.1 then { h with a := [], w := [], tiles := 0, metas := [] } else h)

/-- Whether the group slots and blocks of a demand are free (R66). -/
def slotsFit (lodges : Nat) (hs : List Hold) (d : Demand) : Bool :=
  lodges + hs.foldl (fun n h => n + h.grp) 0 + d.grp ≤ Config.groupSlots && lodges + hs.foldl (fun n h => n + h.blk) 0 + d.blk ≤ Config.blocks

/-- The fewest victims that free the slots and blocks of a demand, if eviction makes the whole demand fit (R66). -/
def State.evictionFor (s : State) (core : Nat) (vs : List Nat) (d : Demand) : Option (List Nat) :=
  ((List.range (vs.length + 1)).map (fun n => vs.take n)).find? (fun l => slotsFit (s.lodges core) (s.holdsEvicted core l []) d)
    |>.bind (fun l => if fitsIn (s.lodges core) (s.holdsEvicted core l []) d then some l else none)

/-- The grace of a shortfall has passed (R66). -/
def State.graceOver (s : State) (p : Press) : Bool := p.since + ((s.part? p.part).map (·.grace)).getD 0 ≤ s.clock.now

/-- The groups that are evicted for an item whose grace has passed (R66). -/
def State.evictedFor (s : State) (core : Nat) (e : Wanting) : Option (List Nat) :=
  if ((s.press? core e).map s.graceOver).getD false then
    let vs := s.victims core e.2.2.2.2
    (permitted e.2.2.2.1 e.2.2.1.vmask).findSome? (fun v => (e.2.2.2.1.vars[v]?).bind (fun y => s.evictionFor core vs y.demand))
  else none

/-- SWITCH_GRACE_EXPIRY (R66, R67): groups are evicted for the item of highest rank for which that helps. -/
def execSwitchGraceExpiry (core : Nat) (s : State) : Host.Outcome State Fault Refusal :=
  let s := s.pressCore core
  .next (match (s.shortItems core).findSome? (fun e => s.evictedFor core e) with
    | some l => (l.foldl (fun s gk => s.evict gk) s).trackFree core
    | none => s)

/-- The fully evicted teams of a core, in the order in which victims are taken (R64, R66). -/
def State.emptied (s : State) (core : Nat) (rank : Nat × Nat) : List Nat :=
  ((s.candidates core rank).map (·.1)).filter (fun tk => (s.teamGroups tk).isEmpty && !(s.teamSaved tk).isEmpty)

/-- The fully evicted teams without whose allocations a demand does not fit a core: each that can be spared is spared, those last
in the order of victims first (R68). -/
def State.neededOf (s : State) (core : Nat) (d : Demand) : List Nat → List Nat → List Nat
  | [], keep => keep
  | tk :: r, keep => s.neededOf core d r (if fitsIn (s.lodges core) (s.holdsEvicted core [] (tk :: keep)) d then tk :: keep else keep)

/-- Whether an outranking demand of a core needs the allocations of a fully evicted team (R68): a permitted variant fits
with them, and not without. -/
def State.spillWanted (s : State) (core tk : Nat) : Bool :=
  (s.shortItems core).any (fun e =>
    let l := s.emptied core e.2.2.2.2
    l.contains tk && (match (permitted e.2.2.2.1 e.2.2.1.vmask).findSome? (fun v => (e.2.2.2.1.vars[v]?).filter (fun y =>
        fitsIn (s.lodges core) (s.holdsEvicted core [] []) y.demand)) with
      | some y => !(s.neededOf core y.demand l.reverse []).contains tk
      | none => false))

/-- Whether the range scoreboard shows no command in an allocation (R68). -/
def rsbClear (k : Core) (w : Bool) (base size : Nat) : Bool :=
  k.rsb.all (fun r => r.wSpace != w || !rangesMeet (r.lo, r.hi - r.lo) (4096 * base, 4096 * size))

/-- Bytes of the allocations of a team (R68). -/
def Team.allocBytes (t : Team) : Nat := 4096 * (t.asize + t.wsize) + 16384 * popCount t.tiles + 256 * t.mbase.length

/-- ALLOCATION_SPILL (R68): the allocations of a fully evicted team go to the spill area, each once no command targets it. -/
def execAllocationSpill (tk : Nat) (s : State) : Host.Outcome State Fault Refusal :=
  match s.team? tk with
  | none => .next s
  | some t =>
    let core := tk / 16
    if !(s.teamGroups tk).isEmpty || (s.teamSaved tk).isEmpty || !s.spillWanted core tk then .next s
    else
      let r : Option (Nat × State) := match kget s.inn.spilled tk with
        | some x => some (x.off, s)
        | none => s.spillTake t.part t.allocBytes
      match r with
      | none => .next s
      | some (off, s) =>
        let k := s.core core
        let a := !t.out.getLsbD 0 && rsbClear k false t.abase t.asize
        let w := !t.out.getLsbD 1 && rsbClear k true t.wbase t.wsize
        let m := !t.out.getLsbD 2 && !k.mq.any (fun o => o.tk == tk && o.kind == .ldmeta)
        let old := (kget s.inn.spilled tk).getD { off := off }
        let x := s.teamLocal tk t
        let new : TeamSpill := { old with
          a := if a then x.a else old.a, abad := if a then x.abad else old.abad, w := if w then x.w else old.w, wbad := if w then x.wbad else old.wbad,
          acc := if m then x.acc else old.acc, tbad := if m then x.tbad else old.tbad, metar := if m then x.metar else old.metar,
          token := if m then s.teamTokens tk t else old.token }
        let s := if m then s.modCore core (fun k => { k with token := k.token.filter (fun e => !t.tiles.getLsbD e.1) }) else s
        let s := s.setInn { s.inn with spilled := kset s.inn.spilled tk new }
        let bit := fun (b : Bool) (i : Nat) => if b then BitVec.ofNat 3 (2 ^ i) else 0
        .next (s.setTeam tk { t with out := t.out ||| bit a 0 ||| bit w 1 ||| bit m 2 })

/-- A team's spilled allocations go back to their places. -/
def State.unspill (s : State) (tk : Nat) (t : Team) : State :=
  match kget s.inn.spilled tk with
  | none => s
  | some x =>
    let s := (s.putLocal tk t x (t.out.getLsbD 0) (t.out.getLsbD 1) (t.out.getLsbD 2)).modCore (tk / 16) (fun k =>
      { k with token := if t.out.getLsbD 2 then x.token.foldl (fun m e => kset m e.1 e.2) k.token else k.token })
    ((s.setInn { s.inn with spilled := kdel s.inn.spilled tk }).modPart t.part (fun p => { p with spillUse := kdel p.spillUse x.off })).setTeam tk { t with out := 0 }

/-- Whether a team's spilled allocations are free again (R69). -/
def State.spillFree (s : State) (tk : Nat) (t : Team) : Bool :=
  let hs := s.holds (tk / 16) [tk]
  (!t.out.getLsbD 0 || !(hs.flatMap (·.a)).any (fun r => rangesMeet (t.abase, t.asize) r))
    && (!t.out.getLsbD 1 || t.wsize = 0 || !(hs.flatMap (·.w)).any (fun r => rangesMeet (t.wbase, t.wsize) r))
    && (!t.out.getLsbD 2 || (tilesOf hs &&& t.tiles == 0 && !t.mbase.any (fun m => (metasOf hs).contains m)))

/-- Puts a saved group back into its slot, with its tokens; one that runs resumes: its counts start anew (R415), its matrix operations go
on, and lanes in MWAIT compare their line again (R349). -/
def State.putBack (s : State) (x : Saved) : State :=
  let tiles := ((s.team? (x.grp.tk x.gk)).map (·.tiles)).getD 0
  let s := (s.setGroup x.gk x.grp).modCore (coreOf x.gk) (fun k => { k with
    token := k.token.map (fun (e : Nat × Nat) => if e.2 = savedHolder x.gk && tiles.getLsbD e.1 then (e.1, x.gk) else e) })
  if x.grp.st == .running then ((s.modGroup x.gk (fun g => { g with quiet := true, since := 0, pendAge := 0 })).resumeOps x.gk).rewait x.gk else s

/-- The oldest eviction on a core whose partition is not held. -/
def State.oldestSaved (s : State) (core : Nat) : Option Saved :=
  (s.inn.saved.filter (fun x => coreOf x.gk == core && !((s.part? x.grp.part).map (·.held)).getD true)).foldl (fun b x => match b with
    | none => some x
    | some y => if x.ord < y.ord then some x else b) none

/-- Whether a restore must wait for an outranking item that the core can take now or once allocations are spilled. -/
def State.outranked (s : State) (core : Nat) (rank : Nat × Nat) : Bool :=
  (s.waitingItems core).any (fun e => rankLt rank e.2.2.2.2 && e.2.2.2.1.feat &&& ~~~Config.features == 0
    && (permitted e.2.2.2.1 e.2.2.1.vmask).any (fun v => match e.2.2.2.1.vars[v]? with
      | some y => fitsIn (s.lodges core) (s.holdsEvicted core [] []) y.demand
      | none => false))

/-- GROUP_RESTORE (R69, R350): the oldest evicted group returns to its slot once that, its blocks and its team's
allocations are free. -/
def execGroupRestore (core : Nat) (s : State) : Host.Outcome State Fault Refusal :=
  match s.oldestSaved core with
  | none => .next s
  | some x =>
    let tk := x.grp.tk x.gk
    match s.team? tk with
    | none => .next s
    | some t =>
      if !s.featOk x.grp then .next (s.featRefused x.gk x.grp)
      else if (s.group? x.gk).isSome || !s.coreRuns core || s.outranked core (s.teamRank t) || !s.spillFree tk t
          || !slotsFit (s.lodges core) (s.holds core []) { grp := 1, blk := popCount x.grp.held, a := 0, w := 0, tiles := 0, metas := 0 } then .next s
      else
        let s := s.unspill tk t
        let s := s.setInn { s.inn with saved := s.inn.saved.filter (fun y => y != x) }
        let s := match x.spill with
          | some off => s.modPart x.grp.part (fun p => { p with spillUse := kdel p.spillUse off })
          | none => s
        let s := s.putBack x
        let s := (s.modTeam tk (fun t => { t with partial_ := !(s.teamSaved tk).isEmpty })).wholeAgain tk
        .next ((s.maybeEnd x.gk).trackFree core)

end Sys2Proof.Machine
end

