-- ==== Sys2Proof/Machine/Trace.lean ====
section
/-! DEFINITION. Firefly samples and trace buffers (R381, R382, R442), and the retry of held postings (R447). -/

namespace Sys2Proof.Machine

/-! ### Firefly (R381) -/

/-- FIREFLY_TAG: when the gap has run out the scheduler is to tag its next issue, and draws the next gap, 1 to 8,191. -/
def execFireflyTag (core sched : Nat) (s : State) : Host.Outcome State Fault Refusal :=
  let n := sched % 4
  if sget (s.core core).fireGap n != 0 || (s.core core).fireArm.contains n then .next s
  else
    let x := s.draw
    .next (x.2.modCore core (fun k => { k with fireArm := nins k.fireArm n, fireGap := sset k.fireGap n (BitVec.ofNat 16 (1 + x.1.toNat % 8191)) }))

/-- Whether a tagged instruction has written back or retired. -/
def State.tagDone (s : State) (t : FireTag) : Bool :=
  t.cancel || (match formOf t.op with
    | some .m => !((s.group? t.gk).filter (fun g => g.tk t.gk == t.tk)).any (fun g => g.ops.any (fun o => o.id == t.id && o.opc == t.op && o.at_ == t.off))
    | some .t => !(s.core (coreOf t.gk)).mq.any (fun m => m.gk == t.gk && m.tk == t.tk && m.issued == t.id)
    | some .e => !(s.core (coreOf t.gk)).eq.any (fun c => c.gk == t.gk && c.tk == t.tk && c.issued == t.id)
    | _ => true)

/-- The record with its latencies, which are free values, and LEVEL. Of a cancelled instruction the later stages read 0. -/
def fireDone (t : FireTag) (x y : BitVec 64) : BitVec 512 :=
  t.data ||| pack 512 [(304, 16, fld x 15 0), (288, 16, fld x 31 16), (272, 16, fld x 47 32), (256, 16, if t.cancel then 0 else fld x 63 48),
    (240, 16, if t.cancel then 0 else fld y 15 0), (237, 3, t.lvl), (236, 1, t.cancel.toNat)]

/-- FIREFLY_RECORD: the oldest tagged instruction of a scheduler that has retired makes its record. -/
def execFireflyRecord (core sched : Nat) (s : State) : Host.Outcome State Fault Refusal :=
  match (s.core core).fireTag.find? (fun t => slotOf t.gk / 16 == sched && s.tagDone t) with
  | none => .next s
  | some t =>
    let x := s.draw
    let y := x.2.draw
    let s := y.2.modCore core (fun k => { k with fireTag := k.fireTag.erase t })
    .next (s.traceRecord (clusterOf core) (fld t.data 381 376) (fireDone t x.1 y.1))

/-! ### Trace rings (R382, R447) -/

/-- A trace record that is a loss record (R442). -/
def isLoss (rec : BitVec 512) : Bool := fld rec 191 184 = 2
/-- The record of KIND 29 that goes with a loss record. -/
def State.lossNote (s : State) (part : Nat) (rec : BitVec 512) : State :=
  if isLoss rec then s.record 29 1 11 0 (some part) 0 1 (BitVec.ofNat 256 (fld rec 447 416)) else s
/-- A loss record (R442). -/
def State.lossRecord (s : State) (cluster cause part n : Nat) : BitVec 512 :=
  pack 512 [(448, 64, s.clock.now), (416, 32, min (2 ^ 32 - 1) n), (376, 6, part), (368, 3, cluster), (360, 8, cause), (184, 8, 2)]

/-- DROP in the header of a trace ring. -/
def State.writeDrop (s : State) (part : Nat) : State :=
  match s.part? part with
  | none => s
  | some p => match p.tring with
    | some r => (s.hwPut part (r.base + 8) (toBytes 8 p.drop)).getD s
    | none => s

/-- Posts the records of a buffer in order; those of a partition whose ring is absent or does not translate stay. -/
def drainTrace : List (Nat × BitVec 512) → List Nat → State → List (Nat × BitVec 512) × State
  | [], _, s => ([], s)
  | (part, rec) :: r, stuck, s =>
    let keep := fun (s : State) => let x := drainTrace r (part :: stuck) s
                                   ((part, rec) :: x.1, x.2)
    if stuck.contains part then keep s
    else match (s.part? part).bind (·.tring) with
      | none => if (s.part? part).isNone then drainTrace r stuck s else keep s
      | some ring => match s.ringPost part ring 8 false (fun _ => rec) with
        | .posted s => drainTrace r stuck (s.lossNote part rec)
        | .full s => drainTrace r stuck (((s.lossNote part rec).modPart part (fun p => { p with drop := p.drop + 1 })).writeDrop part)
        | .unmapped s => keep s

/-- Requests of TRACE DRAIN are answered once every record written before them has drained (R382). -/
def State.traceDrained (s : State) : State :=
  let due := fun (w : Waiting) => w.req.opcode == 0x000C && !s.clusters.any (fun c => c.2.trace.any (fun e => w.recs.contains e))
  let mine := s.rpc.waiting.filter due
  mine.foldl (fun s w => s.ok w.req []) (s.setRpc { s.rpc with waiting := s.rpc.waiting.filter (fun w => !due w) })

/-- Drains the buffer of one cluster. -/
def State.drainCluster (s : State) (cluster : Nat) : State :=
  let x := drainTrace (s.cluster cluster).trace [] s
  (x.2.modCluster cluster (fun c => { c with trace := x.1 })).traceDrained

/-- TRACE_BUFFER_DRAIN (R382). -/
def execTraceBufferDrain (cluster : Nat) (s : State) : Host.Outcome State Fault Refusal := .next (s.drainCluster cluster)

/-- The dies and clusters whose postings may be held; an overflow that could not be noted is noted (R447). -/
def State.retryPostings (s : State) : State :=
  let s := s.parts.foldl (fun s e => s.overflow e.1) s
  let s := (List.range 10).foldl (fun s d => if (s.cluster d).hold.isEmpty then s else s.drainFaults d) s
  (List.range 8).foldl (fun s c => if (s.cluster c).trace.isEmpty then s else s.drainCluster c) s

/-- RING_HEAD_ADVANCE (R329, R447): held fault and trace records are posted; a service record is retried by its `SVC`. -/
def execRingHeadAdvance (part : Nat) (s : State) : Host.Outcome State Fault Refusal :=
  .next (if (s.part? part).isSome then (s.overflow part).retryPostings else s)

/-- The buffer of a cluster that is gone is lost (R442): the Porter writes a loss record for each partition. -/
def State.traceLost (s : State) (cluster cause : Nat) : State :=
  let l := (s.cluster cluster).trace
  let new := ((l.map (·.1)).dedup).map (fun p => (p, s.lossRecord cluster cause p (l.filter (fun e => e.1 == p)).length))
  (s.modCluster cluster (fun c => { c with trace := new })).drainCluster cluster

/-- A record of a buffer is lost to an uncorrectable error (R442): a loss record stands in the buffer and drains with it;
further losses of the partition before that are added to it. -/
def State.traceTorn (s : State) (cluster idx : Nat) : State :=
  let l := (s.cluster cluster).trace
  match l[idx]? with
  | none => s
  | some (p, rec) =>
    if isLoss rec then s
    else
      let rest := l.eraseIdx idx
      let new := match rest.findIdx? (fun e => e.1 == p && isLoss e.2) with
        | some j => rest.modify j (fun (e : Nat × BitVec 512) => (e.1, setFld e.2 416 32 (min (2 ^ 32 - 1) (fld e.2 447 416 + 1))))
        | none => l.set idx (p, s.lossRecord cluster 2 p 1)
      s.modCluster cluster (fun c => { c with trace := new })

end Sys2Proof.Machine
end

