-- ==== Sys2Proof/Machine/Node.lean ====
section
/-! DEFINITION. Directories and leases by themselves (R86 to R90), requests of peer packages (R92, R115, R116), visibility
windows (R114), node links (R359, R360, R437, R438) and time (R361, R428). -/

namespace Sys2Proof.Machine

/-! ### Node links (R10) -/

/-- The package on a node link (R10). -/
def State.linkPeer (s : State) (link : Nat) : Nat := (s.clock.pkgid + link + 1) % 8
def State.link (s : State) (l : Nat) : Link := (kget s.node.links l).getD {}
def State.setLink (s : State) (l : Nat) (x : Link) : State := s.setNode { s.node with links := kset s.node.links l x }
/-- Whether a link carries flits: a link to an absent package is held down (R10). -/
def State.linkUp (s : State) (l : Nat) : Bool := l < 7 && s.clock.present.getLsbD (s.linkPeer l) && (s.link l).up
/-- Links to present packages that are up. -/
def State.linksUp (s : State) : List Nat := (List.range 7).filter s.linkUp

/-- The link to a package (R10). -/
def State.linkOf (s : State) (p : Nat) : Nat := (p + 7 - s.clock.pkgid % 8) % 8

/-- Whether a peer package is there, and its link carries its messages (R10). -/
def State.reached (s : State) (p : Nat) : Bool := p < 8 && s.linkUp (s.linkOf p)

/-! ### Directories (R86, R87) -/

/-- Whether a sector is a plain line of this package: populated, homed here, in no window. -/
def State.ownLine (s : State) (pa : Nat) : Bool := !s.isGone pa && !s.isPeer pa && (kget s.coh.winLines (pa / 256)).isNone

/-- Whether an L1 holds the line of a sector: its tag names it, so that a sector of it has a place there (R84). -/
def State.l1Tagged (s : State) (core sector : Nat) : Bool := (s.l1Tags core).any (fun x => x.pline == sector / 4)

/-- DIRECTORY_READ (R84, R87, R301): a core asks for a further sector of a line that its L1 holds. -/
def execDirectoryRead (core sector : Nat) (s : State) : Host.Outcome State Fault Refusal :=
  .next (if s.ownLine (64 * sector) && s.l1Tagged core sector && s.l1 core sector = 0 then (s.conflict none (64 * sector) false).dirRead core sector else s)

/-- DIRECTORY_OWNERSHIP (R84, R87, R218, R301, R313): of a sector of a line that the core's L1 holds; with WATCH set a write notice goes
out. -/
def execDirectoryOwnership (core sector : Nat) (s : State) : Host.Outcome State Fault Refusal :=
  .next (if s.ownLine (64 * sector) && s.l1Tagged core sector && s.l1 core sector != 4 then
    let w := (s.dirEnt sector).watch
    let s := ((s.conflict none (64 * sector) true).dirOwn core sector).rowsDrop sector
    if w then s.notice (.glob (64 * sector)) else s
  else s)

/-- DIRECTORY_WRITE_BACK (R85, R87): an M or O copy is written back, its address translated, and leaves L1; an E or S copy leaves
silently, and the directory keeps its entry. -/
def execDirectoryWriteBack (core sector : Nat) (s : State) : Host.Outcome State Fault Refusal := .next (s.l1WriteBack core sector)

/-- L2_EVICTION (R86, R218): a line leaves L2. -/
def execL2Eviction (line : Nat) (s : State) : Host.Outcome State Fault Refusal := .next (s.l2Evict line)

/-- LEASE_REBASE (R90). -/
def execLeaseRebase (slice : Nat) (s : State) : Host.Outcome State Fault Refusal := .next (s.rebase slice)

/-- PACKET_PROMOTION (R94): a packet that has waited 256 mesh cycles is sent first; QoS and arbitration alter timing only
(R93), which this model leaves out. -/
def execPacketPromotion (s : State) : Host.Outcome State Fault Refusal := .next s

/-- PEER_LINE_READ (R87, R88, R89, R301, R428): the home of a peer line serves a read and the line's lease copies are filled; a line
homed here is served to a peer package as a coherent read of each of its sectors. A link that is down carries neither (R10). -/
def execPeerLineRead (sector : Nat) (s : State) : Host.Outcome State Fault Refusal :=
  .next (if s.isGone (64 * sector) then s
    else if s.isPeer (64 * sector) then (if s.reached (pkgOf (64 * sector)) then s.leaseLine (sector / 4) else s)
    else if s.linksUp.isEmpty || (kget s.coh.winLines (sector / 4)).isSome then s
    else (List.range 4).foldl (fun s k => (s.conflict none (256 * (sector / 4) + 64 * k) false).dirShare (4 * (sector / 4) + k)) s)

/-! ### Requests of peer packages (R92, R115, R116, R311, R316) -/

/-- Whether an access of a peer package waits at the home of its bytes: behind a write that the undo log holds there (R374), or for
the range scoreboard of a window's core (R83). -/
def State.peerWaits (s : State) (pa n : Nat) : Bool :=
  (List.range n).any (fun k => s.logHeld (pa + k) && (kget s.coh.winLines ((pa + k) / 256)).isNone) || s.scoredAt (.glob pa) n true (fun _ => false)

/-- A release of a peer package is held at its home (R116). -/
def State.peerHold (s : State) (pkg ns : Nat) (op : MemOp) : State :=
  (s.setNode { s.node with held := s.node.held ++ [{ gk := peerKey pkg, id := s.clock.seqno, sent := ns, by_ := peerWriter, op := { op with id := s.clock.seqno } }] }).setClock
    { s.clock with seqno := s.clock.seqno + 1 }

/-- Whether a package performs something at the memory of another package, or at its own: both are there (R10, R106). -/
def State.awayAt (s : State) (pkg pa : Nat) (release : Option Nat) : Bool :=
  pkg < 8 && s.clock.present.getLsbD pkg && pkg != s.clock.pkgid && !s.node.lost.getLsbD pkg && !s.isGone pa && (release.map (fun ns => s.holdOver ns)).getD true

/-- PEER_WRITE_THROUGH (R10, R83, R88, R106, R115, R116, R428): a write of a peer package to memory homed here is performed; a
NODE-scope release that left in window Ns is held at its home until its time. For memory of another package the turn stands for the
performance there, which for a release comes no sooner than its time. -/
def execPeerWriteThrough (pkg pa : Nat) (data : List Byte) (release : Option Nat) (s : State) : Host.Outcome State Fault Refusal :=
  if s.isPeer pa then .next (if s.awayAt pkg pa release then s.landAway pa data else s)
  else if !s.reached pkg then .next s
  else if ((release.map (fun ns => s.holdOver ns)).getD true) then
    .next (if s.peerWaits pa data.length then s else s.write peerWriter none (.glob pa) data)
  else .next (s.peerHold pkg (release.getD 0) {
      id := 0, kind := .release, scope := .node, ord := .rel,
      accs := data.zipIdx.map (fun e => { lane := 0, place := .glob (pa + e.2), size := 1, data := e.1.zeroExtend 64 }) })

/-- Byte `off` of a row whose first byte is at `pa`: rows run on in the 4 KiB pieces of their stack (R307). -/
def rowByte (pa off : Nat) : Nat :=
  let lo := pa % 4096 + off
  (pa / 2 ^ 15 + lo / 4096) * 2 ^ 15 + pa / 4096 % 8 * 4096 + lo % 4096

/-- A row of `rlen` sectors as the Scarab of this package reads it for a peer (R312, R313). -/
def State.peerRow (s : State) (pa rlen : Nat) : List (Byte × Bool) × State :=
  let l := (List.range rlen).map (fun k => rowByte pa (64 * k))
  let x := s.readSpans 64 (l.map (fun a => (Place.glob a, 64)))
  (x.1, if x.1.any (·.2) then x.2 else x.2.keepRow (pa / 4096 % 8) (l.map (· / 64)))

/-- OPERATION_PACKET (R83, R92, R115, R116, R311, R316): an atomic of a peer package is performed at its home slice, or held there if
it is a NODE-scope release, and its result goes back; a row is read, or updated once, for a peer's GATHER or SCADD, by the Scarab of
its stack. `t`, `x` and `y` are the type and operands of an atomic. For memory of another package the turn stands for the performance
there (R106). -/
def execOperationPacket (pkg pa : Nat) (op : PacketOp) (t : Typ) (x y : BitVec 64) (s : State) : Host.Outcome State Fault Refusal :=
  if s.isPeer pa then .next (match op with
    | .atomic op release => if s.awayAt pkg pa release then s.peerAtomic pkg pa op t x y else s
    | .row _ => s
    | .rowAdd bf sums =>
      let n := sums.length * (if bf then 2 else 4) / 64
      let cells := (List.range n).flatMap (fun k => (List.range 64).map (fun j => Place.glob (rowByte pa (64 * k + j))))
      if !s.awayAt pkg pa none || cells.any s.isPoison then s
      else
        let new := (rowSum bf sums (cells.map s.readByte)).1
        (List.range n).foldl (fun (s : State) k => s.landAway (rowByte pa (64 * k)) ((new.drop (64 * k)).take 64)) s)
  else if !s.reached pkg then .next s
  else match op with
    | .atomic op release =>
      if ((release.map (fun ns => s.holdOver ns)).getD true) then .next (if s.peerWaits pa t.bytes then s else s.peerAtomic pkg pa op t x y)
      else .next (s.peerHold pkg (release.getD 0) {
          id := 0, kind := .atomic, scope := .node, ord := .rel, t := t, aop := op,
          accs := [{ lane := 0, place := .glob pa, size := t.bytes, data := x, new := y }] })
    | .row rlen =>
      let r := s.peerRow pa rlen
      .next (r.2.setNode { r.2.node with answers := r.2.node.answers ++ [(pkg, ofBytes (r.1.map (·.1)))] })
    | .rowAdd bf sums =>
      let n := sums.length * (if bf then 2 else 4) / 64
      if (List.range n).any (fun k => s.logHeld (rowByte pa (64 * k))) then .next s
      else
        let r := s.peerRow pa n
        if r.1.any (·.2) then .next r.2
        else .next (r.2.writeSpans peerWriter ((List.range n).map (fun k => (.glob (rowByte pa (64 * k)), 64))) []
          ((rowSum bf sums (r.1.map (·.1))).1.map (fun b => (b, false))))

/-! ### Visibility windows (R114, R218, R360) -/

/-- CRC-16 with polynomial 0x8005 (R359). The spec gives the polynomial alone: here each byte enters with its top bit first, from an
initial value of zero, with nothing inverted (DESIGN CHOICE, log 58). -/
def crc16 (bs : List Byte) : Nat :=
  bs.foldl (fun c b => (List.range 8).foldl (fun (c : Nat) _ => if 2 ^ 15 ≤ c then (c * 2 % 2 ^ 16) ^^^ 0x8005 else c * 2) (c ^^^ (b.toNat * 256))) 0

/-- Fields of a flit (R359): byte k of the flit is bits 8k + 7 to 8k. -/
def flitSeq (f : BitVec 2048) : BitVec 12 := BitVec.ofNat 12 (fld f 47 36)
def flitAck (f : BitVec 2048) : BitVec 12 := BitVec.ofNat 12 (fld f 35 24)
def flitLc (f : BitVec 2048) : Nat := fld f 23 22
def flitCred (f : BitVec 2048) : Nat := fld f 21 16
def flitLcr (f : BitVec 2048) : Nat := fld f 15 14
/-- The payload bytes in use; FILL is 0 to 248. -/
def flitPayload (f : BitVec 2048) : List Byte := (List.range (min 248 (fld f 7 0))).map (fun k => BitVec.ofNat 8 (fld f (8 * (8 + k) + 7) (8 * (8 + k))))
/-- The CRC of the 256 bytes with its own field zero. -/
def flitCrc (f : BitVec 2048) : Nat := crc16 (toBytes 256 (setFld f 48 16 0).toNat)
def flitOk (f : BitVec 2048) : Bool := fld f 63 48 == flitCrc f

/-- A flit of a channel with its payload (R359). -/
def flitOf (seq ack : BitVec 12) (lc : Nat) (payload : List Byte) : BitVec 2048 :=
  let p := payload.take 248
  let f := pack 2048 [(0, 8, p.length), (22, 2, lc), (24, 12, ack.toNat), (36, 12, seq.toNat), (64, 1984, ofBytes p)]
  setFld f 48 16 (flitCrc f)

/-- A flit is sent on a link: it takes the next SEQ, acknowledges what has arrived, and waits for its ACK; the last 1,024 are kept
(R359, R360). -/
def Link.send (x : Link) (lc : Nat) (payload : List Byte) : Link :=
  { x with txSeq := x.txSeq + 1, unack := (x.unack ++ [flitOf x.txSeq x.rxSeq lc payload]).drop (x.unack.length + 1 - 1024) }

/-- PEER_WATCH_REREAD (R218): a watched peer line is read again while a lane waits. -/
def State.rereadWatches (s : State) : State :=
  { s with groups := s.groups.map (fun e =>
      let w := e.2.watch
      match w.home with
      | .glob pa =>
        if w.armed && w.bound && s.isPeer pa && e.2.mwait != 0 && BitVec.ofNat 512 (ofBytes (s.readBytes (.glob pa) 64)) != w.snap then
          (e.1, { e.2 with watch := { w with trig := true } })
        else e
      | _ => e) }

/-- Replies that wait for a time (R375): a REVERSE is answered at the start of its window. -/
def State.timedReplies (s : State) : State :=
  let due := fun (w : Waiting) => match w.until_ with
    | some t => w.req.opcode == 0x000B && fld (w.req.slot 0) 15 0 == 9 && t ≤ s.clock.now
    | none => false
  let mine := s.rpc.waiting.filter due
  mine.foldl (fun s w =>
    let s := s.ok w.req w.res
    match kget s.dbg.sessions w.dbg with
    | some d => (s.setHalted d.parts false).setDbg { s.dbg with sessions := kset s.dbg.sessions w.dbg { d with rev := none, halted := true } }
    | none => s) (s.setRpc { s.rpc with waiting := s.rpc.waiting.filter (fun w => !due w) })

/-- VISIBILITY_WINDOW_START (R52, R114, R218, R326, R360, R375, R447): markers go out, watched peer lines and counters are
read again, and held postings and faulting queues are retried. -/
def execVisibilityWindowStart (s : State) : Host.Outcome State Fault Refusal :=
  let s := s.linksUp.foldl (fun (s : State) l => s.setLink l (((s.link l).send 1 (Config.linkMessage 0 s.window)).send 2 (Config.linkMessage 0 s.window))) s
  let s := s.rereadWatches.retryPostings
  let s := (s.parts.map (·.1)).foldl (fun s p => s.windowPart p) s
  .next s.pressAll.timedReplies

/-! ### Node links (R359, R360, R437) -/

/-- WINDOW_MARKER (R360): a marker with window number `n` arrives on LC1 or LC2. -/
def execWindowMarker (link lc n : Nat) (s : State) : Host.Outcome State Fault Refusal :=
  let x := s.link link
  .next (if !s.linkUp link then s else if lc = 1 then s.setLink link { x with mark1 := n } else if lc = 2 then s.setLink link { x with mark2 := n } else s)

/-- A retransmission, counted within 1 ms of the first (R437). -/
def Link.resend (x : Link) (now : Nat) : Link :=
  if x.resends != 0 && now < x.resentAt + 1000000 then { x with resends := x.resends + 1 } else { x with resends := 1, resentAt := now }

/-- An ACK is taken: the flits up to it are acknowledged; one that names no flit on its way, nor the last acknowledged, is
out of order and resends (R360). -/
def Link.takeAck (x : Link) (ack : BitVec 12) (now : Nat) : Link :=
  match x.unack.findIdx? (fun f => flitSeq f == ack) with
  | some i => { x with unack := x.unack.drop (i + 1), ackAt := now }
  | none => match x.unack with
    | [] => x
    | a :: _ => if flitSeq a = ack + 1 then x else x.resend now

/-- FLIT_RESEND_TIMEOUT (R360): 2 µs without a new ACK. -/
def execFlitResendTimeout (link : Nat) (s : State) : Host.Outcome State Fault Refusal :=
  let x := s.link link
  .next (if s.linkUp link && !x.unack.isEmpty && x.ackAt + 2000 ≤ s.clock.now then s.setLink link { x.resend s.clock.now with ackAt := s.clock.now } else s)

/-- A record of KIND 21: its SEV, UNIT and DETAIL have no value in the spec (log 4). -/
def State.syncRecord (s : State) : State :=
  let x := s.draw
  x.2.note 21 (fld x.1 1 0) 6 (fld x.1 31 16) none 0 1

/-- PEER_LOSS (R438). -/
def State.losePeer (s : State) (p : Nat) : State :=
  if !s.clock.present.getLsbD p || s.node.lost.getLsbD p || p = s.clock.pkgid then s
  else
    let s := s.setNode { s.node with lost := s.node.lost ||| BitVec.ofNat 8 (2 ^ p), held := s.node.held.filter (fun h => h.gk != peerKey p) }
    let s := s.setCoh { s.coh with leases := s.coh.leases.filter (fun e => pkgOf (64 * e.1) != p), l1 := s.coh.l1.filter (fun e => pkgOf (64 * (e.1 % 2 ^ 46)) != p) }
    let left := (List.range 8).filter (fun k => s.clock.present.getLsbD k && !s.node.lost.getLsbD k)
    let s := if s.clock.gm = p then s.setClock { s.clock with gm := left.headD s.clock.pkgid } else s
    (s.parts.filter (fun e => e.2.pool.contains p)).foldl (fun s e => s.record 23 3 6 (s.linkOf p) (some e.1) 0 1 (pack 256 [(0, 16, s.linkOf p), (48, 16, p)])) s

/-- A link is down, and its peer lost (R437). -/
def State.dropLink (s : State) (link : Nat) : State := (s.setLink link { s.link link with up := false }).losePeer (s.linkPeer link)

/-- LINK_RETRAIN (R437, R405): after more than 16 retransmissions within 1 ms the link runs on with the quarters of its width
that still train. -/
def execLinkRetrain (link lanesOk : Nat) (s : State) : Host.Outcome State Fault Refusal :=
  let x := s.link link
  if !s.linkUp link || x.resends ≤ 16 then .next s
  else
    let w := min x.width (if 4 ≤ lanesOk then 4 else if 2 ≤ lanesOk then 2 else lanesOk)
    let s := s.setLink link { x with width := w, resends := 0 }
    if w = 0 then .next (s.dropLink link)
    else .next (if w < x.width then s.record 23 3 6 link none 0 1 (pack 256 [(0, 16, link), (48, 16, 0xFF)]) else s)

/-- LINK_DOWN (R437): no flit for 10 ms. -/
def execLinkDown (link : Nat) (s : State) : Host.Outcome State Fault Refusal :=
  let x := s.link link
  .next (if s.linkUp link && (x.width = 0 || x.lastRx + 10000000 ≤ s.clock.now) then s.dropLink link else s)

/-! ### Time (R361, R428) -/

/-- Acknowledged mode begins: every lease copy goes, and the Syncs that end it are counted from here (R428). -/
def State.enterUnsync (s : State) : State :=
  ((s.setClock { s.clock with unsync := true, good := 0 }).setCoh { s.coh with leases := [], l1 := s.coh.l1.filter (fun e => !s.isPeer (64 * (e.1 % 2 ^ 46))) }).syncRecord

/-- NODE_LINK_FLIT (R359, R360, R428): a flit whose CRC checks and whose SEQ follows is accepted, with its ACK, credits and
payload, which goes on the stream of its channel: a message may continue in the next flit. Any other is dropped. The announcement of
another package that its clock is off begins acknowledged mode. -/
def execNodeLinkFlit (link : Nat) (f : BitVec 2048) (s : State) : Host.Outcome State Fault Refusal :=
  let x := { s.link link with lastRx := s.clock.now }
  if !s.linkUp link then .next s
  else if !flitOk f || flitSeq f != x.rxSeq + 1 then .next (s.setLink link x)
  else
    let x := { x with
      rxSeq := flitSeq f, cred := sset x.cred (flitLcr f) (sget x.cred (flitLcr f) + BitVec.ofNat 8 (flitCred f)),
      inbox := if (flitPayload f).isEmpty then x.inbox else kset x.inbox (flitLc f) ((kget x.inbox (flitLc f)).getD [] ++ flitPayload f) }
    let s := s.setLink link (x.takeAck (flitAck f) s.clock.now)
    .next (if flitLc f = 0 && Config.isUnsync (flitPayload f) && !s.clock.unsync then s.enterUnsync else s)

/-- Whether this package is the node's grandmaster (R361). -/
def State.isMaster (s : State) : Bool := s.clock.gm == s.clock.pkgid

/-- The clock is corrected by a Sync: how far, of the offset measured, the servo of IEEE 1588 steps is not in the spec, and is a free
value; time does not go back (DESIGN CHOICE, log 58). -/
def State.correct (s : State) (offset : Nat) : State :=
  let x := s.draw
  x.2.setClock { x.2.clock with now := x.2.clock.now + x.1.toNat % (offset + 1), offset := offset, syncAt := x.2.clock.now + 125000 }

/-- PTP_SYNC (R361, R428): the offset in ns measured at a Sync, which comes every 125 µs; the package corrects its clock. The
grandmaster follows a fabric grandmaster, if it has one, and else runs free. Above 32 ns the offset from the grandmaster is announced on
every link, and begins acknowledged mode. That ends once every package has measured 8 offsets in a row below 16 ns; when the others have
is a free value (DESIGN CHOICE, log 58). -/
def execPtpSync (offset : Nat) (s : State) : Host.Outcome State Fault Refusal :=
  if s.clock.now < s.clock.syncAt || (s.isMaster && s.clock.fabric.isNone) then .next s
  else if s.isMaster then .next (s.correct offset)
  else
    let x := (s.correct offset).draw
    let good := if offset < 16 then s.clock.good + 1 else 0
    let s : State := x.2.setClock { x.2.clock with good := good }
    let s := if 32 < offset then s.linksUp.foldl (fun (s : State) l => s.setLink l ((s.link l).send 0 (Config.linkMessage 1 offset))) s else s
    if !s.clock.unsync && 32 < offset then .next s.enterUnsync
    else if s.clock.unsync && 8 ≤ good && !x.1.getLsbD 0 then .next (s.setClock { s.clock with unsync := false }).syncRecord
    else .next s

end Sys2Proof.Machine
end

