-- ==== Sys2Proof/Machine/Porter.lean ====
section
/-! DEFINITION. The Porter and the errors of storage: soft errors and scrubs (R401, R402, R426, R427, R431, R440), removal
of units (R405, R444), power, heat and gating (R16, R17, R443), package reset and recovery (R445, R446). -/

namespace Sys2Proof.Machine

/-! ### Freezes that name no instruction (R398, R408) -/

/-- A group freezes with EVENT 8 or 9, wherever it is: a running one takes a region-entry stop, after the decision of a TXEND that it
awaits (R252). -/
def State.freezeHere (s : State) (gk event : Nat) : State :=
  match s.group? gk with
  | some g => if g.st == .running then s.stopGroup gk event else s.park gk event
  | none =>
    let up := fun (x : Saved) => if x.gk = gk then { x with grp := { x.grp with st := RunState.parked, event := event } } else x
    if (s.inn.saved ++ s.inn.swapped).any (fun x => x.gk == gk) then
      (s.setInn { s.inn with saved := s.inn.saved.map up, swapped := s.inn.swapped.map up }).queueEvent (coreOf gk) (slotOf gk) event
    else s

/-- A group that is saved freezes where it is (R408). -/
def State.freezeSaved (s : State) (x : Saved) (event : Nat) : State :=
  let up := fun (y : Saved) => if y == x then { y with grp := { y.grp with st := RunState.parked, event := event } } else y
  (s.setInn { s.inn with saved := s.inn.saved.map up, swapped := s.inn.swapped.map up }).queueEvent (coreOf x.gk) (slotOf x.gk) event

/-- The partition of a group, wherever it is. -/
def State.partOf (s : State) (gk : Nat) : Option Nat :=
  match s.group? gk with
  | some g => some g.part
  | none => ((s.inn.saved ++ s.inn.swapped).find? (fun x => x.gk == gk)).map (·.grp.part)

/-! ### Soft errors (R401, R426, R427, R431, R440, R442) -/

/-- CLASS, UNIT, partition and address of a record for a site (R403). -/
def State.siteUnit (s : State) : EccSite → Nat × Nat × Option Nat × Nat
  | .regfile gk => (0, s.coreUnit (coreOf gk), s.partOf gk, 0)
  | .space c w sec => (0, s.coreUnit c, s.localTag c w (64 * sec), 0)
  | .tile c _ | .tag c | .l1Tag c _ | .loop c _ | .rlog c _ | .tsec c _ => (0, s.coreUnit c, none, 0)
  | .tlb i _ => (0, s.coreUnit (32 * (i % 8)), none, 0)
  | .l1 c sec => (0, s.coreUnit c, kget s.mem.tags (sec / 4), 64 * sec)
  | .l2 sec | .dir sec | .lease sec => (2, s.homeSlice (64 * sec), kget s.mem.tags (sec / 4), 64 * sec)
  | .leaseBase i | .signature i => (2, i, none, 0)
  | .dram sec => let u := s.unitOf (.glob (64 * sec)); (u.1, u.2, kget s.mem.tags (sec / 4), 64 * sec)
  | .trace c _ => (11, c, none, 0)
  | .history e => (9, e, none, 0)

/-- The directory entry of a sector is rebuilt (R426): every copy is invalidated with its data written back. -/
def State.repairDir (s : State) (sec : Nat) : State :=
  let d := s.dirEnt sec
  if d.state = 5 then s else ((s.wbXlate sec none).dropCopies sec none).setDir sec { d with state := 0, sharers := 0, owner := 0 }

/-- The lease copies homed at a slice go, and its base is the present time (R427). -/
def State.dropLeases (s : State) (slice : Nat) : State :=
  s.setCoh { s.coh with leases := s.coh.leases.filter (fun e => s.homeSlice (64 * e.1) != slice),
                        base := sset s.coh.base slice (BitVec.ofNat 64 (s.clock.now / 64 * 64)) }

/-- A lane's transaction aborts with POISON (R431). -/
def State.poisonLane (s : State) (core gslot lane : Nat) : State :=
  match s.group? (core * 64 + gslot) with
  | some g => if g.intx.getLsbD lane then s.abortLanes (core * 64 + gslot) [(lane, 10, 0)] else s
  | none => s

/-- What an uncorrectable error does (R401), and the SEV of its record. An entry that parity finds bad goes, and is fetched again: the
ranges of a core's loop buffers with its instruction cache (R43), and an L1 line with the data that it owes its home. The data that L2
holds of a sector in M or O is no one's: the owner's copy stands. -/
def State.uncorrectable (s : State) : EccSite → Nat × State
  | .regfile gk => (2, s.freezeHere gk 8)
  | .space c w sec => (1, s.setPoison (if w then .wspc c (64 * sec) else .aspc c (64 * sec)) true)
  | .tile c sec => (1, s.modCore c (fun k => { k with tpoison := nins k.tpoison sec }))
  | .l1 c sec => match s.l1 c sec with
    | 3 | 4 => (1, s.setPoison (.glob (64 * sec)) true)
    | _ => (0, s.setL1 c sec 0)
  | .tag c => (0, s.modCore c (fun k => { k with loops := [] }))
  | .loop c n => (0, s.modCore c (fun k => { k with loops := kdel k.loops n }))
  | .l1Tag c n => (0, match (s.l1Tags c)[n]? with
      | some x => s.l1Evict c x
      | none => s)
  | .tlb i n => (0, { s with tlbs := s.tlbs.map (fun e => if e.1 = i then (e.1, e.2.eraseIdx n) else e) })
  | .l2 sec =>
    if s.isPeer (64 * sec) then (0, s.leaseDrop sec)
    else if (s.dirEnt sec).state = 3 || (s.dirEnt sec).state = 4 then (1, s)
    else (1, s.setPoison (.glob (64 * sec)) true)
  | .dir sec => (0, s.repairDir sec)
  | .dram sec => (1, s.setPoison (.glob (64 * sec)) true)
  | .lease sec => (0, s.leaseDrop sec)
  | .leaseBase i => (0, s.dropLeases i)
  | .rlog c n => (1, match (s.core c).rlog[n]? with
      | some e => s.poisonLane c e.gslot e.lane
      | none => s)
  | .tsec c n => (1, match (s.core c).tsec[n]? with
      | some e => s.poisonLane c e.gslot e.lane
      | none => s)
  | .signature _ => (1, s.tix.slots.foldl (fun s e => s.abortHart e.2 10 0) s)
  | .trace c n => (1, s.traceTorn c n)
  | .history e =>
    let hit := fun (c : EngCmd) => c.unit == some e
    if s.cores.any (fun k => k.2.eq.any hit) then
      (3, { s with cores := s.cores.map (fun k => (k.1, { k.2 with eq := k.2.eq.map (fun c => if hit c then { c with torn := true } else c) })) })
    else (3, s.markRemoved 9 e)

/-- KIND of an error of a site: SRAM or DRAM, corrected or not (R403). -/
def siteKind (x : EccSite) (ok : Bool) : Nat :=
  match x with
  | .dram _ => if ok then 2 else 4
  | _ => if ok then 1 else 3

/-- SOFT_ERROR_DETECT (R401, R403, R404): a corrected error changes nothing but the counter and the records. -/
def execSoftErrorDetect (site : EccSite) (correctable : Bool) (s : State) : Host.Outcome State Fault Refusal :=
  let u := s.siteUnit site
  let r : Nat × State := if correctable then (0, s) else s.uncorrectable site
  .next (r.2.note (siteKind site correctable) r.1 u.1 u.2.1 u.2.2.1 u.2.2.2 1)

/-- MEMORY_SCRUB (R402): found 0 nothing, 1 a corrected error, else an uncorrectable one, which poisons the sector. -/
def execMemoryScrub (sector found : Nat) (s : State) : Host.Outcome State Fault Refusal :=
  let u := s.unitOf (.glob (64 * sector))
  if s.isGone (64 * sector) || s.isPeer (64 * sector) then .next s
  else match found with
    | 0 => .next s
    | 1 => .next (s.note 2 0 u.1 u.2 none (64 * sector) 1)
    | _ => .next ((s.setPoison (.glob (64 * sector)) true).note 4 1 u.1 u.2 none (64 * sector) 1)

/-! ### Removal of units (R405, R444) -/

/-- A core is removed at run time (R405): its groups freeze with EVENT 9, and the partitions bound to it get a record. -/
def State.removeCore (s : State) (c : Nat) : State :=
  if (s.core c).gone then s
  else
    let s := s.modCore c (fun k => { k with gone := true })
    let away := (s.inn.saved ++ s.inn.swapped).filter (fun x => coreOf x.gk == c)
    let s := ((s.groups.map (·.1)).filter (fun gk => coreOf gk == c)).foldl (fun s gk => s.freezeHere gk 9) s
    let s := away.foldl (fun s x => s.freezeSaved x 9) s
    let s := s.setPorter { s.porter with removed := s.porter.removed ++ [(0, s.coreUnit c)] }
    match (s.parts.filter (fun e => e.2.cores.contains c)).map (·.1) with
    | [] => s.note 6 3 0 (s.coreUnit c) none 0 1
    | l => l.foldl (fun s p => s.note 6 3 0 (s.coreUnit c) (some p) 0 1) s

/-- Old homes of a stop's spans whose slice moves when slice `i` goes: the read and write signatures of the slice are
held at each new home (R299, R405), whose directory holds no more lines than before. -/
def State.moveSlice (s : State) (i : Nat) : State :=
  let stop := (List.range 4).map (fun k => i / 4 * 4 + k)
  let at_ := fun (s : State) (j : Nat) => s.homeSlice (j / 4 * 4096 + j % 4 * 1024)
  let moved := stop.filter (fun j => at_ s j == i)
  let s' := s.dropLeases i |>.markRemoved 2 i
  let new := (moved.map (at_ s')).dedup
  let sigs := new.foldl (fun (m : SMap 2048) j => (s.tix.slots.flatMap (fun e => [true, false].map (fun w => (e.1, w)))).foldl (fun m e =>
    sset m (sigKey e.1 j e.2) (sget m (sigKey e.1 j e.2) ||| sget s.tix.sigs (sigKey e.1 i e.2))) m) s.tix.sigs
  let bit := fun (j : Nat) => BitVec.ofNat 32 (2 ^ j)
  let s' := new.foldl (fun (s : State) j => s.l2Room j ((s.l2Held j).length - Config.l2Lines)) s'
  { s'.setTix { s'.tix with sigs := sigs } with
      harts := s'.harts.map (fun e => (e.1, if e.2.slices &&& bit i = 0 then e.2 else { e.2 with slices := new.foldl (fun m j => m ||| bit j) e.2.slices })) }

/-- A session is lost: later requests of its queue pair reach nothing; those begun go on, and their replies are discarded (R354,
R436). -/
def State.loseSession (s : State) (n : Nat) : State := s.setRpc { s.rpc with sessions := kdel s.rpc.sessions n }

/-- The scratchpads, tiles, queues and trace buffer of a cluster are lost (R444). Lines windowed onto them are poisoned. -/
def State.loseCluster (s : State) (i cause : Nat) (withStop : Bool) : State :=
  let cores := (List.range 32).map (fun k => 32 * i + k)
  let s := cores.foldl (fun s c => s.removeCore c) s
  let lost := s.coh.winLines.filter (fun e => e.2.1 / 256 == i)
  let s := s.setCoh { s.coh with winLines := s.coh.winLines.filter (fun e => e.2.1 / 256 != i),
                                 dir := s.coh.dir.filter (fun e => !lost.any (fun l => l.1 == e.1 / 4)), l1 := s.coh.l1.filter (fun e => e.1 / 2 ^ 46 / 32 != i),
                                 tags := s.coh.tags.filter (fun e => e.1 / 32 != i) }
  let s := lost.foldl (fun s e => (List.range 4).foldl (fun s k => s.setPoison (.glob (256 * e.1 + 64 * k)) true) s) s
  let s := cores.foldl (fun s c => s.modCore c (fun k => { k with
    a := [], w := [], acc := [], metar := [], apoison := [], wpoison := [], tpoison := [], mq := [], eq := [], rsb := [], rlog := [], tsec := [] })) s
  let s := { s with cores := s.cores.map (fun (e : Nat × Core) => (e.1, { e.2 with rsb := e.2.rsb.filter (fun r => match r.cmd with
    | some x => x.1 / 32 != i
    | none => true) })) }
  let s := (s.modCluster i (fun c => { c with removed := true, map := [], setting := [], clearing := [] })).traceLost i cause
  if !withStop then s
  else
    let dirty := s.coh.l1.filter (fun e => 3 ≤ e.2 && !s.isPeer (64 * (e.1 % 2 ^ 46)) && (inHbm (64 * (e.1 % 2 ^ 46)) || inCap (64 * (e.1 % 2 ^ 46))) && stopOf (64 * (e.1 % 2 ^ 46)) == i)
    let s := [(3, i), (4, 2 * i), (4, 2 * i + 1)].foldl (fun (s : State) u => if s.porter.removed.contains u then s else s.markRemoved u.1 u.2) s
    let s := s.setCoh { s.coh with l1 := s.coh.l1.filter (fun e => !s.isGone (64 * (e.1 % 2 ^ 46)) || s.isPeer (64 * (e.1 % 2 ^ 46))) }
    dirty.foldl (fun s e => s.consume ((kget s.mem.tags (e.1 % 2 ^ 46 / 4)).getD 64) (.glob (64 * (e.1 % 2 ^ 46)))) s

/-- UNIT_REMOVAL (R405, R436, R442, R444). -/
def State.removeUnit (s : State) : UnitName → State
  | .core c => if 256 ≤ c then s else s.removeCore c
  | .slice i => if 32 ≤ i || s.porter.removed.contains (2, i) then s else s.moveSlice i
  | .stack m => if 8 ≤ m || s.porter.removed.contains (3, m) then s else s.markRemoved 3 m
  | .channel c => if 16 ≤ c || s.porter.removed.contains (4, c) then s else s.markRemoved 4 c
  | .port i =>
    if 16 ≤ i || s.porter.removed.contains (7, i) then s
    else
      let s : State := { s.markRemoved 7 i with parts := s.parts.map (fun (e : Nat × Part) => (e.1, { e.2 with ports := e.2.ports &&& ~~~(BitVec.ofNat 16 (2 ^ i)) })) }
      ((s.rpc.sessions.filter (fun e => e.2.port == i)).map (·.1)).foldl (fun s n => s.loseSession n) s
  | .appCore i =>
    if 16 ≤ i || s.porter.removed.contains (8, i) then s
    else ({ s.markRemoved 8 i with parts := s.parts.map (fun (e : Nat × Part) => (e.1, { e.2 with apps := e.2.apps &&& ~~~(BitVec.ofNat 16 (2 ^ i)) })) }).abortHart i 9 0
  | .decomp i =>
    if 8 ≤ i || s.porter.removed.contains (9, i) then s
    else
      let s := s.markRemoved 9 i
      (s.cores.flatMap (fun k => (k.2.eq.filter (fun c => c.unit == some i)).map (fun c => (k.1, c.entry)))).foldl (fun s e =>
        let u := s.pickDecomp
        s.modCmd e.1 e.2 (fun c => { c with unit := u })) s
  | .cluster i withStop => if 8 ≤ i || (s.cluster i).removed then s else s.loseCluster i 3 withStop


/-! ### Reset and firmware (R445, R446) -/

/-- The cores of each cluster that bring-up leaves out (R5, R405): those that failed, and as many of the former spares as
leave 32 enabled. -/
def State.bringUp (s : State) : KMap (List Nat) :=
  (List.range 8).map (fun c =>
    let off := (kget s.porter.off c).getD []
    let bad := (List.range 34).filter (fun p => s.porter.removed.contains (0, 64 * c + p))
    (c, bad ++ ((off.filter (fun p => !bad.contains p)).take (2 - bad.length))))

/-- Package reset (R445, R446): everything is as State.reset has it, but the time, the package's number and place, the
firmware image, and what has left the package; the image sets the admin list; units that were removed are found failed
again, a spare taking the place of a core. An image that does not verify puts the package into recovery. -/
def State.packageReset (s : State) : State :=
  let r : State := { State.reset with
    agenda := s.agenda,
    clock := { State.reset.clock with now := s.clock.now, pkgid := s.clock.pkgid, present := s.clock.present, gm := s.clock.gm, free := s.clock.free, seqno := s.clock.seqno },
    porter := { State.reset.porter with image := s.porter.image, torn := s.porter.torn, admins := Config.firmwareAdmins s.porter.image, off := s.bringUp },
    node := { State.reset.node with sent := s.node.sent, answers := s.node.answers }, rpc := { State.reset.rpc with replies := s.rpc.replies, rdmaOut := s.rpc.rdmaOut } }
  let r := s.porter.removed.foldl (fun (r : State) u => r.markRemoved u.1 u.2) r
  let r : State := { r with cores := ((List.range 256).filter (fun c => 34 < c % 32 + 1 + ((kget r.porter.off (c / 32)).getD []).length)).map (fun c => (c, ({ gone := true } : Core))),
                            clusters := (s.clusters.filter (fun e => e.2.removed)).map (fun e => (e.1, ({ removed := true } : Cluster))) }
  if s.porter.torn || !Config.firmwareVerifies r.porter.image then
    (r.setPorter { r.porter with recovery := true }).record 30 3 11 0 none 0 1 1
  else r

/-- PACKAGE_RESET (R445). -/
def execPackageReset (s : State) : Host.Outcome State Fault Refusal := .next s.packageReset

/-! ### Power and heat (R16, R443) -/

/-- The arithmetic clock a step lower, but not below 1.3 GHz. -/
def Porter.lower (p : Porter) : Porter := { p with mhz := max 1300 (p.mhz - 100) }

/-- A record of KIND 28: the temperature in units of 0.125 °C, and an action code to which the spec gives no values (R435). -/
def State.heatRecord (s : State) (sev temp : Nat) : State :=
  let x := s.draw
  x.2.record 28 sev 11 0 none 0 1 (pack 256 [(0, 16, 8 * temp), (16, 48, x.1.toNat)])

/-- The hottest reading, and the hottest cluster die that remains, the lowest on a tie. -/
def State.hottest (s : State) : Nat := s.porter.temps.foldl (fun m e => max m e.2) 0
def State.hottestCluster (s : State) : Option Nat :=
  let t := fun i => (kget s.porter.temps i).getD 0
  ((List.range 8).filter (fun i => !(s.cluster i).removed)).foldl (fun b i => match b with
    | none => some i
    | some x => if t x < t i then some i else b) none

/-- The hottest cluster is removed for heat (R443, R444). Whether its memory stop goes with it is free. -/
def State.removeHottest (s : State) : State :=
  match s.hottestCluster with
  | none => s
  | some i =>
    let x := s.draw
    (x.2.loseCluster i 1 (x.1.getLsbD 0)).heatRecord 3 ((kget s.porter.temps i).getD 0)

/-- THERMAL_SAMPLE (R443): a reading in °C of one die's hottest sensor. -/
def execThermalSample (die temp : Nat) (s : State) : Host.Outcome State Fault Refusal :=
  let s := s.setPorter { s.porter with temps := kset s.porter.temps die temp }
  let top := s.hottest
  let p := s.porter
  if 125 ≤ top then .next ((s.heatRecord 3 top).packageReset)
  else if top < 95 then .next (s.setPorter { p with hot := false, coolAt := if p.hot then s.clock.now else p.coolAt, hotAt := none })
  else
    let p := { p with hot := true, therm := true }
    let p := if 105 ≤ top then { p with mhz := 1300 } else p.lower
    let p := { p with hotAt := if 115 ≤ top && p.mhz = 1300 then some (p.hotAt.getD s.clock.now) else none }
    .next (if p.mhz = s.porter.mhz then s.setPorter p else (s.setPorter p).heatRecord 0 top)

/-- THERMAL_HOLD_EXPIRY (R443): 115 °C for 10 ms at 1.3 GHz. -/
def execThermalHoldExpiry (s : State) : Host.Outcome State Fault Refusal :=
  match s.porter.hotAt with
  | some t => .next (if t + 10000000 ≤ s.clock.now && s.porter.mhz = 1300 then (s.setPorter { s.porter with hotAt := none }).removeHottest else s)
  | none => .next s

/-- COOLANT_FLOW_LOSS (R443). -/
def execCoolantFlowLoss (s : State) : Host.Outcome State Fault Refusal := .next s.removeHottest

/-- POWER_CAP_EXCEEDED (R16): the package's power in W; above the cap the clock goes down a step. Power at the cap is not below
it. -/
def execPowerCapExceeded (watts : Nat) (s : State) : Host.Outcome State Fault Refusal :=
  let p := { s.porter with watts := watts }
  .next (s.setPorter (if p.cap < watts then { p.lower with above := true }
    else if p.cap = watts then { p with above := true }
    else { p with above := false, powerAt := if p.above then s.clock.now else p.powerAt }))

/-- The cap is set (R16): whether the last reading of power is below it. The time for which power must stay below a lower cap counts from
here: what it was before is not known of that cap (DESIGN CHOICE, log 84). -/
def Porter.setCap (p : Porter) (cap now : Nat) : Porter :=
  let above := cap ≤ p.watts
  { p with cap := cap, above := above, powerAt := if cap < p.cap || (p.above && !above) then now else p.powerAt }

/-- CLOCK_RAISE_TIMER (R16, R443): a step up once power has been below the cap, and every die below 95 °C, for 1 ms. The spec gives the
steps no spacing: once the first millisecond has passed each turn of the timer raises the clock a step (DESIGN CHOICE, log 84). -/
def execClockRaiseTimer (s : State) : Host.Outcome State Fault Refusal :=
  let p := s.porter
  if p.above || p.hot || s.clock.now < p.powerAt + 1000000 || s.clock.now < p.coolAt + 1000000 || 2600 ≤ p.mhz then .next s
  else
    let q := { p with mhz := min 2600 (p.mhz + 100) }
    .next (if p.therm then (s.setPorter { q with therm := q.mhz != 2600 }).heatRecord 0 s.hottest else s.setPorter q)

/-- Whether a partition is bound to a core of a cluster (R17). -/
def State.clusterBound (s : State) (cluster : Nat) : Bool := s.parts.any (fun e => e.2.cores.any (fun c => clusterOf c == cluster))

/-- CLUSTER_POWER_GATE (R17): a cluster asked to gate does so once its trace buffer has drained, and the request is answered. One to
whose cores a partition has been bound meanwhile is not gated, and the request is refused as one that finds it bound. -/
def execClusterPowerGate (cluster : Nat) (s : State) : Host.Outcome State Fault Refusal :=
  if !(s.cluster cluster).gateReq then .next s
  else
    let s := s.drainCluster cluster
    let bound := s.clusterBound cluster
    if !bound && !(s.cluster cluster).trace.isEmpty then .next s
    else
      let mine := s.rpc.waiting.filter (fun w => w.req.opcode == 0x0011 && w.dbg == cluster)
      .next (mine.foldl (fun s w => if bound then s.refuse w.req 11 else s.ok w.req []) ((s.modCluster cluster (fun c => { c with gateReq := false, gated := !bound })).setRpc
        { s.rpc with waiting := s.rpc.waiting.filter (fun w => !(w.req.opcode == 0x0011 && w.dbg == cluster)) }))

end Sys2Proof.Machine
end

