-- ==== Sys2Proof/Machine/Swap.lean ====
section
/-! DEFINITION. Partition swaps (R347 to R350): the steps on each core, and the exchange with shadow storage. -/

namespace Sys2Proof.Machine

/-- Steps 1 and 2 (R347): every group of the partition takes a region-entry stop, a parked or halted one too, and its matrix
operations stop. One whose TXEND awaits its decision does so after it (R252). -/
def State.swapStop (s : State) (part : Nat) : State :=
  (s.partGroups part).foldl (fun (s : State) e => if e.2.txend.isNone then (s.regionStop e.1).stopOps e.1 else s) s

/-- Whether step 3 has ended on a core: its groups have stopped with every store complete, the partition's engine commands and
LDMETA operations have retired, and its scoreboard entries are gone (R40, R252, R274, R347, R348). -/
def State.swapReady (s : State) (part core : Nat) : Bool :=
  let mine := fun (tk : Nat) => ((s.team? tk).map (·.part)) == some part
  (s.partGroups part).all (fun e => coreOf e.1 != core || e.2.saveable) && (s.core core).mq.all (fun m => m.kind != .ldmeta || !mine m.tk)
    && (s.core core).eq.all (fun c => c.part != part) && (s.core core).rsb.all (fun r => r.cmd.isNone || !mine r.tk)

/-- The partition's teams on a core. -/
def State.teamsOn (s : State) (part core : Nat) : KMap Team := s.teams.filter (fun e => e.1 < 4096 && e.1 / 16 == core && e.2.part == part)

/-- The blocks and tiles of a partition leave a core (R347): its groups, and its tiles with the tokens, which stay under the
partition's tag. Stopped matrix operations keep their order (R276). -/
def State.swapOutCore (s : State) (part core : Nat) : State :=
  let gs := (s.partGroups part).filter (fun e => coreOf e.1 == core)
  let s := gs.foldl (fun (s : State) e =>
    (s.setInn { s.inn with swapped := s.inn.swapped ++ [{ gk := e.1, ord := s.clock.seqno, shadow := true, grp := e.2 }] }).takeOut e.1) s
  let tiles := (s.teamsOn part core).foldl (fun m e => m ||| e.2.tiles) (0 : BitVec 16)
  let k := s.core core
  let out : TilesOut := {
    part := part, core := core, acc := k.acc.filter (fun e => tiles.getLsbD (e.1 / 4096)),
    bad := k.tpoison.filter (fun e => tiles.getLsbD (e / 256)), token := k.token.filter (fun e => tiles.getLsbD e.1) }
  let s := s.setCore core { k with
    acc := k.acc.filter (fun e => !tiles.getLsbD (e.1 / 4096)), tpoison := k.tpoison.filter (fun e => !tiles.getLsbD (e / 256)),
    token := k.token.filter (fun e => !tiles.getLsbD e.1) }
  (s.setInn { s.inn with tiles := s.inn.tiles ++ [out] }).modPart part (fun p => { p with outCores := nins p.outCores core })

/-- The tiles of a partition return to a core; a team whose tiles are in use waits for them as a spilled one does (R69). -/
def State.tilesBack (s : State) (part core : Nat) : State :=
  match s.inn.tiles.find? (fun x => x.part == part && x.core == core) with
  | none => s
  | some x =>
    let s := s.setInn { s.inn with tiles := s.inn.tiles.filter (fun y => y != x) }
    (s.teamsOn part core).foldl (fun (s : State) e =>
      let t := e.2
      let acc := x.acc.filter (fun w => t.tiles.getLsbD (w.1 / 4096))
      let bad := x.bad.filter (fun w => t.tiles.getLsbD (w / 256))
      if tilesOf (s.holds core [e.1]) &&& t.tiles = 0 then
        s.modCore core (fun k => { k with
          acc := ssets k.acc acc, tpoison := bad.foldl nins k.tpoison,
          token := (x.token.filter (fun w => t.tiles.getLsbD w.1)).foldl (fun m w => kset m w.1 w.2) k.token })
      else
        let here := s.teamLocal e.1 t
        (s.setInn { s.inn with spilled := kset s.inn.spilled e.1 { off := noSpill, acc := acc, tbad := bad, metar := here.metar,
                                                                           token := x.token.filter (fun w => t.tiles.getLsbD w.1) } }).setTeam e.1
          { t with out := t.out ||| 4 }) s

/-- The blocks and tiles of a partition return to a core, and its groups resume (R347, R349, R350): a group whose slot or
blocks are in use, or whose image the core lacks a feature for, stays saved; a lodge group takes any free slot (R20). -/
def State.swapInCore (s : State) (part core : Nat) : State :=
  let s := (s.modPart part (fun p => { p with outCores := ndel p.outCores core })).tilesBack part core
  let mine := s.inn.swapped.filter (fun x => coreOf x.gk == core && x.grp.part == part)
  let s := s.setInn { s.inn with swapped := s.inn.swapped.filter (fun x => !mine.contains x) }
  mine.foldl (fun (s : State) x =>
    let ok := s.featOk x.grp
    let stay := (s.group? x.gk).isSome || ((s.team? (x.grp.tk x.gk)).map (fun t => t.out.getLsbD 2)).getD false
      || !slotsFit (s.lodges core) (s.holds core []) { grp := 1, blk := popCount x.grp.held, a := 0, w := 0, tiles := 0, metas := 0 }
    if ok && x.grp.kind == .lodge then
      let slot := if (s.group? x.gk).isNone then slotOf x.gk else (s.freeSlot? core).getD (slotOf x.gk)
      s.putBack { x with gk := core * 64 + slot }
    else if ok && !stay then s.putBack x
    else
      let s := if ok then s else s.featPart core part
      (s.setInn { s.inn with saved := s.inn.saved ++ [x] }).modTeam (x.grp.tk x.gk) (fun t => { t with partial_ := true })) s

/-- Step 4 on every core where step 3 has ended; the swap is answered when the last core is done (R347, R348, R354). -/
def State.swapStep (s : State) (part : Nat) : State :=
  match s.part? part with
  | none => s
  | some p =>
    match p.swapOut with
    | none => s
    | some other =>
      let s := s.swapStop part
      let due := p.cores.filter (fun c => !p.outCores.contains c && s.swapReady part c)
      let s := due.foldl (fun s c => (s.swapOutCore part c).swapInCore other c) s
      let left := ((s.part? part).map (fun q => p.cores.filter (fun c => !q.outCores.contains c))).getD []
      if !left.isEmpty then s
      else
        let s := s.modPart part (fun q => { q with swapOut := none })
        let mine := s.rpc.waiting.filter (fun w => w.req.opcode == 0x0010 && w.req.part == part)
        (mine.foldl (fun s w => s.ok w.req []) (s.setRpc { s.rpc with waiting := s.rpc.waiting.filter (fun w => !(w.req.opcode == 0x0010 && w.req.part == part)) })).pressAll

/-- PARTITION_SWAP_EXCHANGE (R347, R348). -/
def execPartitionSwapExchange (part : Nat) (s : State) : Host.Outcome State Fault Refusal := .next (s.swapStep part)

end Sys2Proof.Machine
end

