-- ==== Sys2Proof/Machine/Rpc.lean ====
section
/-! DEFINITION. The RPC service (R351 to R358, R436): sessions, refusals, partitions, queues, exposed memory, queries, peer and
storage tables, swaps and management (R13, R14, R47, R225, R328, R347, R357, R362, R363, R404, R445). -/

namespace Sys2Proof.Machine

/-! ### Sessions (R351, R436, R446) -/

/-- Whether a request of a session, which may be lost by now, has begun and is not done (R354). -/
def State.begun (s : State) (session : Nat) : Bool :=
  s.rpc.waiting.any (fun w => w.req.session == session) || s.parts.any (fun e => (e.2.dying.map (·.session)) == some session)

/-- RPC_SESSION_OPEN (R351, R446): the number names a new queue pair, so it is none that a begun request carries; in recovery only port 0 is up, for the GIDs of the fuses. -/
def execRpcSessionOpen (session : Nat) (gid : BitVec 128) (port : Nat) (s : State) : Host.Outcome State Fault Refusal :=
  .next (if (kget s.rpc.sessions session).isSome || s.begun session || 16 ≤ port || s.porter.removed.contains (7, port)
      || (s.porter.recovery && (port != 0 || !Config.fuseGids.contains gid)) then s
    else s.setRpc { s.rpc with sessions := kset s.rpc.sessions session { gid := gid, port := port } })

/-- RPC_SEND_OVERSIZE (R436): the queue pair enters its error state, without a reply. -/
def execRpcSendOversize (session : Nat) (s : State) : Host.Outcome State Fault Refusal :=
  .next (match kget s.rpc.sessions session with
    | some x => s.setRpc { s.rpc with sessions := kset s.rpc.sessions session { x with err := true } }
    | none => s)

/-- RPC_SESSION_LOSS (R354, R436). -/
def execRpcSessionLoss (session : Nat) (s : State) : Host.Outcome State Fault Refusal := .next (s.loseSession session)

/-- UNIT_REMOVAL (R405, R436, R442, R444). -/
def execUnitRemoval (u : UnitName) (s : State) : Host.Outcome State Fault Refusal := .next (s.removeUnit u)

/-! ### Refusals (R353, R356) -/

/-- One ground of refusal: whether it holds, the reply code, and the body field that DETAIL names (`fieldOffset`). -/
abbrev Ground : Type := Bool × Nat × Option Nat

/-- The first body field that is refused with a code (R353). -/
def firstField (code : Nat) (l : List (Nat × Option Nat)) : Option Nat :=
  (l.filter (fun e => e.1 == code)).foldl (fun o e => match o, e.2 with
    | none, y => y
    | some x, some y => some (if fieldOffset y < fieldOffset x then y else x)
    | some x, none => some x) none

/-- A request is refused for a ground that holds, or performed. The spec ranks the grounds in no order: where several codes
apply a free value chooses; of the fields refused with that code the first is named (R353). In recovery every request but MGMT IMAGE
is refused with DENIED (R446). -/
def State.judge (s : State) (r : Rpc) (l : List Ground) (run : State → State) : State :=
  let hold := (if s.porter.recovery && !(r.opcode = 0x0011 && fld (r.slot 0) 15 0 = 8) then [((true, 5, none) : Ground)] else l).filter (·.1) |>.map (·.2)
  match (hold.map (·.1)).dedup with
  | [] => run s
  | [c] => s.refuse r c (firstField c hold)
  | cs =>
    let x := s.draw
    let c := cs.getD (x.1.toNat % cs.length) 1
    x.2.refuse r c (firstField c hold)

/-- GID and class of the session of a request (R351). -/
def State.gidOf (s : State) (r : Rpc) : BitVec 128 := ((kget s.rpc.sessions r.session).map (·.gid)).getD 0
def State.isAdmin (s : State) (r : Rpc) : Bool := s.porter.admins.contains (s.gidOf r)

/-- LEN is the body's length, in slots that `ok` accepts (R352, R356). -/
def lenOk (r : Rpc) (ok : Nat → Bool) : Bool := r.len == 8 * r.body.length && ok r.body.length

/-- Grounds common to every request: VERSION, REPLY, LEN, reserved fields of the header (R352, R356). -/
def common (r : Rpc) (ok : Nat → Bool) : List Ground :=
  [(fld r.hdr 35 32 != 1 || r.hdr.getLsbD 16, 1, none), (!lenOk r ok, 2, none),
   (fld r.hdr 31 24 != 0 || fld r.hdr 23 17 != 0 || fld r.hdr 15 6 != 0, 3, none)]

/-- A request of the ADMIN class that names no partition in its header. -/
def State.admin (s : State) (r : Rpc) (ok : Nat → Bool) (l : List Ground) (run : State → State) : State :=
  s.judge r (common r ok ++ [(!s.isAdmin r && !s.porter.recovery, 5, none)] ++ l) run

/-- A request on a partition: `admin` where its class is ADMIN; an OWNER session acts on its own partitions (R351, R355). -/
def State.onPart (s : State) (r : Rpc) (admin : Bool) (ok : Nat → Bool) (l : Part → List Ground) (run : Part → State → State) : State :=
  match s.part? r.part with
  | none => s.judge r (common r ok ++ [(true, 4, none), (admin && !s.isAdmin r, 5, none)]) id
  | some p => s.judge r (common r ok ++ [(!(s.isAdmin r || (!admin && p.owners.contains (s.gidOf r))), 5, none)] ++ l p) (run p)

/-! ### Numbers, frames and mappings that the service chooses -/

/-- A number below `bound` that is not in use: the spec does not say which one the service takes. -/
def State.freshNum (s : State) (bound : Nat) (used : List Nat) : Option Nat × State :=
  let x := s.draw
  (((List.range (min bound (used.length + 1))).map (fun j => (x.1.toNat + j) % bound)).find? (fun n => !used.contains n), x.2)

/-- The tables and frames of a tree of tables whose root, of a level, is at `base` (R319, R321), as ranges. -/
def State.treeRanges (s : State) : Nat → Nat → List (Nat × Nat)
  | l, base =>
    let pte := (s.mem.bytes.filter (fun e => base ≤ e.1 && e.1 < base + 16 * lvlEntries l && (e.1 - base) % 16 == 0 && e.2.getLsbD 0)).map (fun e => s.word64 e.1)
    (base, 16 * lvlEntries l) :: pte.flatMap (fun p =>
      if pteLeaf p then [(pteAddr p, 2 ^ lvlShift l)]
      else match l with
        | 0 => []
        | k + 1 => s.treeRanges k (pteAddr p))
/-- Memory that the tables of every partition use or map. -/
def State.usedRanges (s : State) : List (Nat × Nat) := s.parts.flatMap (fun e => s.treeRanges 3 e.2.root)

/-- Whether a frame is free: populated, mapped by no partition, no line of it tagged (R12, R13, R15). A frame of a declared table
pool that nothing maps or has touched counts as free: the spec does not say that a pool reserves it (DESIGN CHOICE, log 84). -/
def State.frameFree (s : State) (used : List (Nat × Nat)) (size pa : Nat) : Bool :=
  !s.isGone pa && !s.mem.gone.any (fun r => rangesMeet (r.1, r.2 - r.1) (pa, size)) && !used.any (rangesMeet (pa, size))
    && !s.mem.tags.any (fun e => pa ≤ 256 * e.1 && 256 * e.1 < pa + size)

/-- The first free frame from number `n` on, of at most `fuel`, in HBM4E from `base`. -/
def State.frameFrom (s : State) (used : List (Nat × Nat)) (size base : Nat) : Nat → Nat → Option Nat
  | 0, _ => none
  | f + 1, n =>
    let pa := base + n % (0x8000000000 / size) * size
    if s.frameFree used size pa then some pa else s.frameFrom used size base f (n + 1)

/-- A cleared frame of `size` bytes of this package's HBM4E that is in no use; nothing else constrains the choice. -/
def State.newFrame (s : State) (size : Nat) : Option Nat × State :=
  let x := s.draw
  match x.2.frameFrom x.2.usedRanges size (s.clock.pkgid * 2 ^ 49) (0x8000000000 / size) x.1.toNat with
  | none => (none, x.2)
  | some pa =>
    let out := fun (a : Nat) => !(pa ≤ a && a < pa + size)
    (some pa, x.2.setMem { x.2.mem with bytes := x.2.mem.bytes.filter (fun e => out e.1), poison := x.2.mem.poison.filter (fun n => out (64 * n)) })

/-- A leaf onto a frame (R321): `attr` gives the bits below the frame's address. -/
def leafOf (pa attr : Nat) : BitVec 64 :=
  pack 64 [(14, 43, pa / 512), (10, 3, pkgOf pa), (13, 1, if inCap pa then 1 else 0), (0, 10, attr)]

/-- Bytes that the service writes at a physical address for a partition, as a write of the hardware at the home (R87, R119, R218). -/
def State.svcWrite (s : State) (part pa : Nat) (bs : List Byte) : State :=
  (sectorsOf [(.glob pa, bs)]).foldl (fun s e => s.hwSector part e.1 e.2) s

/-- Enters a leaf of level `top` for an address, from the table at `base` of a level down (R319, R321); tables that are
missing are made, and a leaf that stands there stays. None: no frame is free for a table. The tables of partition `part` are its own
(R13, R15). -/
def State.mapFrom (s : State) (part va top : Nat) (pte : BitVec 64) : Nat → Nat → Option State
  | 0, base =>
    let at_ := base + 16 * (va / 2 ^ 16 % 32)
    some (if pteV (s.word64 at_) then s else s.svcWrite part at_ (toBytes 8 pte.toNat ++ toBytes 8 0))
  | l + 1, base =>
    let at_ := base + 16 * (va / 2 ^ lvlShift (l + 1) % lvlEntries (l + 1))
    let e := s.word64 at_
    if pteV e && pteLeaf e then some s
    else if l + 1 ≤ top then some (s.svcWrite part at_ (toBytes 8 pte.toNat ++ toBytes 8 0))
    else if pteV e then s.mapFrom part va top pte l (pteAddr e)
    else match s.newFrame (16 * lvlEntries l) with
      | (none, _) => none
      | (some f, s) =>
        let s := (List.range (16 * lvlEntries l / 256)).foldl (fun (s : State) i => s.touchTag part (f + 256 * i)) s
        (s.svcWrite part at_ (toBytes 8 (pack 64 [(14, 43, f / 512), (0, 1, 1)]).toNat ++ toBytes 8 0)).mapFrom part va top pte l f

/-- Maps bytes at a 64 KiB-aligned address of a partition onto new frames that hold them. None: too few frames are free. -/
def State.mapBytes (s : State) (part root va : Nat) (bs : List Byte) (wr : Bool) : Option State :=
  (List.range ((bs.length + 0xFFFF) / 0x10000)).foldl (fun (o : Option State) j =>
    o.bind (fun s => match s.newFrame 0x10000 with
      | (none, _) => none
      | (some f, s) =>
        let s := s.putBytes (.glob f) ((bs.drop (0x10000 * j)).take 0x10000)
        let s := (List.range 256).foldl (fun (s : State) i => s.touchTag part (f + 256 * i)) s
        s.mapFrom part ((va + 0x10000 * j) % 2 ^ 56) 0 (leafOf f (if wr then 15 else 7)) 3 root)) (some s)

/-- Whether a page of a tree of tables has no entry. -/
def State.unmapped (s : State) (root va : Nat) : Bool :=
  match s.walk root (va % 2 ^ 56) with
  | .stop 1 _ pte _ => !pteV pte
  | _ => false

/-- The first place from `va` on, of at most `fuel`, at which `n` pages have no entry. -/
def State.gapFrom (s : State) (root n : Nat) : Nat → Nat → Nat
  | 0, va => va
  | f + 1, va =>
    if va + 0x10000 * n ≤ 2 ^ 56 && (List.range n).all (fun j => s.unmapped root (va + 0x10000 * j)) then va
    else s.gapFrom root n f ((va + 0x10000) % 2 ^ 56)

/-- An address, 64 KiB-aligned, at which `n` pages have no entry; nothing else constrains the choice. -/
def State.newVa (s : State) (root n : Nat) : Nat × State :=
  let x := s.draw
  (s.gapFrom root n (2 ^ 40) (x.1.toNat % 2 ^ 40 * 2 ^ 16), x.2)

/-- Whether `n` bytes from an address translate for an access of the service (R356 FAULT). -/
def State.reach (s : State) (part va n : Nat) (acc : Access) : Bool × State :=
  (List.range ((va % 0x10000 + n + 0xFFFF) / 0x10000)).foldl (fun x j =>
    if !x.1 then x
    else match x.2.vaOf part ((if j = 0 then va else va / 0x10000 * 0x10000 + 0x10000 * j) % 2 ^ 56) acc with
      | (some _, s) => (true, s)
      | (none, s) => (false, s)) (true, s)

/-! ### PART_CREATE, PART_DESTROY (R13, R14, R225, R328, R355) -/

end Sys2Proof.Machine

namespace Sys2Proof

/-- Slot i of the body as a number. -/
def Rpc.num (r : Rpc) (i : Nat) : Nat := (r.slot i).toNat

/-- A field of n slots from slot i. -/
def Rpc.wide (r : Rpc) (i n : Nat) : Nat := (List.range n).foldl (fun x j => x + (r.slot (i + j)).toNat * 2 ^ (64 * j)) 0

end Sys2Proof

namespace Sys2Proof.Machine

/-- Team slots of a core that partitions hold. -/
def State.slotsTaken (s : State) (core : Nat) : List Nat := s.parts.flatMap (fun e => (kget e.2.slots core).getD [])

/-- Cores that a PART_CREATE names. -/
def createCores (r : Rpc) : List Nat := (List.range 256).filter (fun c => (r.wide 8 4).testBit c)

/-- Grounds of PART_CREATE (R13, R14, R55, R65, R66, R225, R256, R306, R308, R320, R328). -/
def State.createBad (s : State) (r : Rpc) : List Ground :=
  let cores := createCores r
  let n := r.num 12
  [(cores.any (fun c => (s.core c).gone), 3, some 8), (n < 1 || 16 < n, 3, some 12), (2 ^ 16 ≤ r.num 13, 3, some 13), (2 ^ 16 ≤ r.num 14, 3, some 14),
   (7 < r.num 15, 3, some 15), (r.num 16 % 0x400000 != 0 || 2 ^ 52 ≤ r.num 16, 3, some 16),
   (r.num 18 % 64 != 0 || 2 ^ 56 ≤ r.num 18, 3, some 18), (r.num 19 < 6 || 16 < r.num 19, 3, some 19),
   (r.num 20 % 64 != 0 || 2 ^ 56 ≤ r.num 20 || (r.num 13 = 0 && r.num 20 != 0), 3, some 20), (r.num 20 != 0 && (r.num 21 < 4 || 12 < r.num 21), 3, some 21),
   (r.num 22 % 32 != 0 || 2 ^ 56 ≤ r.num 22, 3, some 22), (r.num 23 < 1 || 65536 < r.num 23, 3, some 23),
   ((List.range 8).any (fun i => 7 < fld (r.slot 24) (8 * i + 7) (8 * i) || (r.num 25 ≤ i && fld (r.slot 24) (8 * i + 7) (8 * i) != 0)), 3, some 24),
   (r.num 25 < 1 || 8 < r.num 25, 3, some 25), (r.num 26 % 0x10000 != 0, 3, some 26), (r.num 27 % 0x10000 != 0, 3, some 27),
   (2 ^ 56 ≤ r.num 28, 3, some 28), (2 ^ 56 < r.num 28 + r.num 29, 3, some 29),
   (r.num 30 < 2 ^ 12 || 2 ^ 24 < r.num 30 || popCount (r.slot 30) != 1, 3, some 30), (r.num 31 < 1000 || 1000000 < r.num 31, 3, some 31),
   (r.num 32 < 10000 || 10000000 < r.num 32, 3, some 32), (r.num 33 < 1 || 15 < r.num 33, 3, some 33),
   (64 ≤ s.parts.length || cores.any (fun c =>
      4 ≤ (s.parts.filter (fun e => e.2.cores.contains c)).length || 16 < (s.slotsTaken c).length + n)
    || s.parts.any (fun e => e.2.apps &&& BitVec.ofNat 16 (r.num 13) != 0), 6, none)]

/-- The partition that a PART_CREATE describes. -/
def State.newPart (s : State) (r : Rpc) (root : Nat) : Part :=
  let cores := createCores r
  let up := fun (cls n : Nat) => (List.range 16).foldl (fun m i => if n.testBit i && !s.porter.removed.contains (cls, i) then m ||| BitVec.ofNat 16 (2 ^ i) else m) (0 : BitVec 16)
  { owners := ((List.range 4).map (fun i => BitVec.ofNat 128 (r.wide (2 * i) 2))).filter (· != 0),
    cores := cores, slots := cores.map (fun c => (c, ((List.range 16).filter (fun t => !(s.slotsTaken c).contains t)).take (r.num 12))),
    apps := up 8 (r.num 13), ports := up 7 (r.num 14), prio := r.num 15, root := root, quota := r.num 17,
    fring := ⟨r.num 18, r.num 19⟩, sring := if r.num 20 = 0 then none else some ⟨r.num 20, r.num 21⟩, tdBase := r.num 22, tdCount := r.num 23,
    pool := (List.range (r.num 25)).map (fun i => fld (r.slot 24) (8 * i + 7) (8 * i)), pbase := r.num 26, psize := r.num 27,
    spill := r.num 28, spillSz := r.num 29, ageStep := r.num 30, grace := r.num 31, quantum := r.num 32, retry := r.num 33 }

/-- HEAD line, header line and slots of a ring. -/
def ringSpan (x : Ring) : Nat × Nat := ((x.base + 2 ^ 56 - 64) % 2 ^ 56, 128 + 64 * 2 ^ x.n)

/-- PART_CREATE (R13, R14, R355). Under a root that the service allocates nothing is mapped yet, so that no ring can translate: the
rings are then not tested (DESIGN CHOICE, log 87), and postings to them are held (R447). -/
def execPartCreate (r : Rpc) (s : State) : Host.Outcome State Fault Refusal :=
  .next (s.admin r (fun n => n == 34) (s.createBad r) (fun s =>
    let t := s.freshNum 64 (s.parts.map (·.1))
    match t.1 with
    | none => t.2.refuse r 6
    | some tag =>
      match (if r.num 16 = 0 then t.2.newFrame 0x400000 else (some (r.num 16), t.2) : Option Nat × State) with
      | (none, s) => s.refuse r 6
      | (some f, s') =>
      let p := s.newPart r f
      let made := s'.setPart tag p
      let fresh := r.num 16 == 0
      let a := if fresh then (true, made) else made.reach tag (ringSpan p.fring).1 (ringSpan p.fring).2 .innWrite
      let b : Bool × State := match p.sring with
        | some x => if fresh then (true, a.2) else a.2.reach tag (ringSpan x).1 (ringSpan x).2 .innWrite
        | none => (true, a.2)
      if !a.1 then s.refuse r 10 (some 18)
      else if !b.1 then s.refuse r 10 (some 20)
      else
        let s : State := b.2
        let s := (s.hwPut tag p.fring.base (toBytes 64 0)).getD s
        let s := match p.sring with
          | some x => (s.hwPut tag x.base (toBytes 16 0)).getD s
          | none => s
        let s := (setBits p.apps).foldl (fun (s : State) h => s.modHart h (fun k => { k with part := some tag })) s
        s.ok r [BitVec.ofNat 64 tag, BitVec.ofNat 64 f]))

/-- A window whose target is a partition's goes at once, its lines written back (R15, R81). -/
def State.dropWindows (s : State) (part : Nat) : State :=
  s.clusters.foldl (fun (s : State) c => ((s.cluster c.1).old ++ (s.cluster c.1).map).foldl (fun (s : State) e =>
    if s.localTag (mapCore c.1 e.2) (mapIsW e.2) (mapOffs e.2) != some part then s
    else
      let lines := (s.coh.winLines.filter (fun x => x.2.1 == 256 * c.1 + e.1)).map (·.1)
      let s := lines.foldl (fun (s : State) l => s.lineBack l) s
      let s := s.modCluster c.1 (fun x => { x with map := sset x.map e.1 0, old := kdel x.old e.1, setting := kdel x.setting e.1, clearing := kdel x.clearing e.1 })
      s.modCore (mapCore c.1 e.2) (fun k => { k with rsb := k.rsb.filter (fun r => !(r.cmd.isNone && r.tk == 4095 - e.1)) })) s) s

/-- Everything that a partition owns is freed (R355): groups, teams, queues, images with the code that loop buffers hold (R43),
windows, tags, TLB entries, L1 lines, its place in a session, its application cores. -/
def State.freePart (s : State) (part : Nat) : State :=
  match s.part? part with
  | none => s
  | some p =>
    let s := (List.range 8).foldl (fun (s : State) d => s.flushPage [part] (fun _ => true) d) (s.dropWindows part)
    let s := (s.partGroups part).foldl (fun (s : State) e => (s.regionStop e.1).endGroup e.1) s
    let s := (setBits p.apps).foldl (fun (s : State) h => (s.abortHart h 9 0).modHart h (fun k => { k with part := none })) s
    let tiles := fun (c n : Nat) => s.teams.any (fun e => e.1 / 16 == c && e.2.part == part && e.2.tiles.getLsbD n)
    let ses := p.session
    let s : State := { s with
      cores := s.cores.map (fun (c : Nat × Core) => (c.1, { c.2 with
        loops := c.2.loops.filter (fun e => e.2.1 != part), mq := c.2.mq.filter (fun m => ((s.team? m.tk).map (·.part)) != some part), token := c.2.token.filter (fun e => !tiles c.1 e.1) })),
      teams := s.teams.filter (fun e => e.2.part != part), tlbs := s.tlbs.map (fun (e : Nat × List TlbEnt) => (e.1, e.2.filter (fun x => x.part != part))),
      clusters := s.clusters.map (fun (c : Nat × Cluster) => (c.1, { c.2 with hold := c.2.hold.filter (fun e => e.1 != part), trace := c.2.trace.filter (fun e => e.1 != part) })),
      parts := kdel s.parts part, mem := { s.mem with tags := s.mem.tags.filter (fun e => e.2 != part) },
      inn := { s.inn with
        saved := s.inn.saved.filter (fun x => x.grp.part != part), swapped := s.inn.swapped.filter (fun x => x.grp.part != part),
        spilled := s.inn.spilled.filter (fun e => ((s.team? e.1).map (·.part)) != some part), tiles := s.inn.tiles.filter (fun x => x.part != part),
        press := s.inn.press.filter (fun x => x.part != part) } }
    match ses.bind (fun n => (kget s.dbg.sessions n).map (fun d => (n, d))) with
    | none => s.setDbg { s.dbg with replays := s.dbg.replays.filter (fun x => x.tag != part) }
    | some (n, d) =>
      let left := d.parts.filter (· != part)
      s.setDbg { s.dbg with replays := s.dbg.replays.filter (fun x => x.tag != part), sessions := if left.isEmpty then kdel s.dbg.sessions n else kset s.dbg.sessions n { d with parts := left } }

/-- Partitions to be destroyed whose engine commands have all retired are freed, and the requests answered (R355). -/
def State.finishDying (s : State) : State :=
  s.parts.foldl (fun (s : State) e => match e.2.dying with
    | some r => if (s.commandsOf [e.1]).isEmpty then ((s.freePart e.1).ok r []).pressAll else s
    | none => s) s

/-- The destruction of a partition begins (R45, R355): waiting FETCHW requests complete with their lanes exited. -/
def State.startDestroy (s : State) (part : Nat) (r : Rpc) : State :=
  let lodges := (s.inn.fetch.map (·.gk)).filter (fun gk => ((s.group? gk).map (·.part)) == some part)
  let s := lodges.foldl (fun (s : State) gk => (s.modGroup gk (fun g => g.exit g.live)).maybeEnd gk) s
  (s.modPart part (fun p => { p with dying := some r })).finishDying

/-- PART_DESTROY (R45, R355). -/
def execPartDestroy (r : Rpc) (s : State) : Host.Outcome State Fault Refusal :=
  .next (s.onPart r true (fun n => n == 0) (fun p =>
    [(p.swapOut.isSome || s.parts.any (fun e => e.2.swapOut == some r.part) || s.dbg.replays.any (fun x => x.tag == r.part && !x.done_), 7, none),
     (p.dying.isSome, 4, none)]) (fun _ s => s.startDestroy r.part r))

/-! ### Queues (R47, R48) -/

/-- QUEUE_CREATE (R47, R48): the head line is written before the reply. Slot 2, the ring size, holds the n of 2^n entries: R47 and
R355 do not say which of the two it holds (DESIGN CHOICE, log 29). -/
def execQueueCreate (r : Rpc) (s : State) : Host.Outcome State Fault Refusal :=
  let lineBad := fun (i : Nat) => r.num i % 64 != 0 || 2 ^ 56 ≤ r.num i || (r.num 1 ≤ r.num i && r.num i < r.num 1 + 128 * 2 ^ r.num 2)
  .next (s.onPart r false (fun n => n == 6) (fun p =>
    [(63 < r.num 0 || (kget p.queues (r.num 0)).isSome, 3, some 0), (r.num 1 % 4096 != 0 || 2 ^ 56 ≤ r.num 1, 3, some 1), (r.num 2 < 4 || 16 < r.num 2, 3, some 2),
     (lineBad 3, 3, some 3), (lineBad 4 || r.num 3 = r.num 4, 3, some 4), (7 < r.num 5, 3, some 5), (p.dying.isSome, 11, none)]) (fun _ s =>
    let a := s.reach r.part (r.num 1) 1 .innRead
    let b := a.2.reach r.part (r.num 3) 1 .innWrite
    let c := b.2.reach r.part (r.num 4) 1 .innRead
    if !a.1 then s.refuse r 10 (some 1)
    else if !b.1 then s.refuse r 10 (some 3)
    else if !c.1 then s.refuse r 10 (some 4)
    else
      let s := c.2.setQueue r.part (r.num 0) { ring := r.num 1, log2 := r.num 2, headLine := r.num 3, tailLine := r.num 4, prio := r.num 5 }
      (s.headLine r.part (r.num 0)).ok r []))

/-- QUEUE_DESTROY (R355). -/
def execQueueDestroy (r : Rpc) (s : State) : Host.Outcome State Fault Refusal :=
  .next (s.onPart r false (fun n => n == 1) (fun p => match kget p.queues (r.num 0) with
    | none => [(true, 3, some 0)]
    | some q => [(q.head != q.tail, 7, none)]) (fun _ s =>
      ((s.modPart r.part (fun p => { p with queues := kdel p.queues (r.num 0) })).setInn
        { s.inn with press := s.inn.press.filter (fun x => !(x.part == r.part && x.queue == r.num 0)) }).ok r []))

/-! ### Exposed memory (R358) -/

/-- MEM_EXPOSE (R358). -/
def execMemExpose (r : Rpc) (s : State) : Host.Outcome State Fault Refusal :=
  .next (s.onPart r false (fun n => n == 3) (fun p =>
    [(r.num 0 % 0x10000 != 0 || 2 ^ 56 ≤ r.num 0, 3, some 0), (r.num 1 % 0x10000 != 0 || r.num 1 = 0 || 2 ^ 40 < r.num 1, 3, some 1), (7 < r.num 2, 3, some 2),
     (256 ≤ p.exposed.length, 6, none)]) (fun p s =>
    let a := s.freshNum 256 (p.exposed.map (·.1))
    let x := a.2.draw
    let used := s.parts.flatMap (fun e => e.2.exposed.map (fun y => y.2.rkey.toNat))
    let key := if used.contains (x.1.toNat % 2 ^ 32) then ((List.range (used.length + 1)).find? (fun n => !used.contains n)).getD 0 else x.1.toNat % 2 ^ 32
    match a.1 with
    | none => x.2.refuse r 6
    | some n =>
      (x.2.modPart r.part (fun p => { p with exposed := kset p.exposed n { base := r.num 0, len := r.num 1, bits := BitVec.ofNat 3 (r.num 2), rkey := BitVec.ofNat 32 key } })).ok r
        [BitVec.ofNat 64 n, BitVec.ofNat 64 key]))

/-- MEM_UNEXPOSE (R358): an access of a host is one step here, so none is outstanding. -/
def execMemUnexpose (r : Rpc) (s : State) : Host.Outcome State Fault Refusal :=
  .next (s.onPart r false (fun n => n == 1) (fun p => [((kget p.exposed (r.num 0)).isNone, 3, some 0)]) (fun _ s =>
    (s.modPart r.part (fun p => { p with exposed := kdel p.exposed (r.num 0) })).ok r []))

/-! ### Queries (R5, R355, R403, R404) -/

/-- An error record as its 512 bits (R403). -/
def ErrRec.word (x : ErrRec) : BitVec 512 :=
  pack 512 [(448, 64, x.seqno), (384, 64, x.time), (376, 8, x.kind), (372, 4, x.sev), (368, 4, x.cls), (352, 16, x.unit), (351, 1, x.part.isSome.toNat),
    (345, 6, x.part.getD 0), (288, 52, x.addr), (256, 32, min (2 ^ 32 - 1) x.count), (0, 256, x.detail.toNat)]

/-- Frames of the memory map that are absent (R405): stacks, channels and ranges. -/
def State.absent (s : State) : List Nat :=
  (s.porter.removed.filter (fun u => u.1 == 3 || u.1 == 4)).flatMap (fun u => [u.1, u.2]) ++ s.mem.gone.flatMap (fun g => [g.1, g.2])

/-- A query that replies with results in a layout that the spec leaves open. -/
def State.query (s : State) (r : Rpc) (admin : Bool) (res : Part → State → List Nat) : State :=
  s.onPart r admin (fun n => n == 1) (fun _ => []) (fun p s => s.ok r (Config.replyLayout (0x000A0000 + r.num 0) (res p s)))

/-- QUERY item 0: the partition's state, with the absent frames and UNLOGGED (R355, R366, R405). -/
def execQueryPartitionState (r : Rpc) (s : State) : Host.Outcome State Fault Refusal :=
  .next (s.query r false (fun p s => [r.part, p.prio, p.root, p.quota, p.apps.toNat, p.ports.toNat, p.unlogged, p.resident.getD (2 ^ 16)] ++ p.cores
    ++ p.images.map (·.1) ++ p.queues.map (·.1) ++ s.absent))
/-- QUERY item 1: head, place and tail of every queue (R48, R355). -/
def execQueryQueueIndices (r : Rpc) (s : State) : Host.Outcome State Fault Refusal :=
  .next (s.query r false (fun p _ => p.queues.flatMap (fun e => [e.1, e.2.head, e.2.place, e.2.tail])))
/-- QUERY item 2: the counters of R404, and the records that the session may see (R403, R440). -/
def execQueryErrorCounters (r : Rpc) (s : State) : Host.Outcome State Fault Refusal :=
  .next (s.query r false (fun p s => [p.poisoned, p.markers, p.streams] ++ s.porter.ce.flatMap (fun e => [e.1, e.2.toNat]) ++ s.porter.ue.flatMap (fun e => [e.1, e.2.toNat])
    ++ (s.porter.recs.filter (fun x => s.isAdmin r || x.part == some r.part)).map (fun x => x.word.toNat)))
/-- QUERY item 3: the spare cores (R5, R355). -/
def execQuerySpareStatus (r : Rpc) (s : State) : Host.Outcome State Fault Refusal :=
  .next (s.query r true (fun _ s => s.porter.off.flatMap (fun e => e.1 :: e.2)))

/-! ### Peer and storage tables (R362, R363) -/

/-- Entry k of a table-setting request. -/
def tabEntry (r : Rpc) (k : Nat) : BitVec 512 := BitVec.ofNat 512 (r.wide (2 + 8 * k) 8)

/-- Grounds of an entry's fields: reserved bits and limits, each with the byte in which the field starts (R353, R362, R363). -/
def tabBad (ports : BitVec 16) (stor : Bool) (r : Rpc) (k : Nat) : List Ground :=
  let e := tabEntry r k
  let byte := fun (i : Nat) => some (atByte (16 + 64 * k + i))
  let port := e.getLsbD 0 && !ports.getLsbD (fld e 11 8)
  [(fld e 7 1 != 0, 3, byte 0), (port || fld e (if stor then 191 else 143) 12 != 0, 3, byte 1), (fld e (if stor then 295 else 303) 256 != 0, 3, byte 32),
   (stor && e.getLsbD 0 && (fld e 303 296 < 9 || 16 < fld e 303 296), 3, byte 37)]

/-- Whether a command of the partition in flight names an entry of the peer or storage table. -/
def State.tabBusy (s : State) (part : Nat) (stor : Bool) (n : Nat) : Bool :=
  (s.commandsOf [part]).any (fun c => if stor then c.kind == .sread && fld c.c 5 0 == n
    else (c.kind == .nput || c.kind == .nget || c.kind == .natom) && fld c.c 11 0 == n)

/-- Local QPNs that the partitions' queue pairs use (R11, R362, R363). -/
def State.usedQpns (s : State) : List Nat := s.parts.flatMap (fun e => (e.2.peers ++ e.2.stor).map (fun x => fld x.2 359 336))

/-- PEER_SET and STORAGE_SET: whether each peer answers is the world's, a free value; so are the local QPNs, which no other queue pair
has (R11). -/
def State.setTable (s : State) (r : Rpc) (stor : Bool) : State :=
  let size := if stor then 64 else 4096
  s.onPart r false (fun n => 2 ≤ n && n == 2 + 8 * r.num 1) (fun p =>
    ([(size ≤ r.num 0, 3, some 0), (size < r.num 0 + r.num 1, 3, some 1)] : List Ground) ++ (List.range (min size (r.num 1))).flatMap (tabBad p.ports stor r)
      ++ [((List.range (min size (r.num 1))).any (fun k => s.tabBusy r.part stor (r.num 0 + k)), 7, none)]) (fun _ s =>
    let x := s.draw
    if x.1.getLsbD 0 && (List.range (r.num 1)).any (fun k => (tabEntry r k).getLsbD 0) then x.2.refuse r 12
    else
      let y := (List.range (r.num 1)).foldl (fun (y : List (BitVec 64) × State) k =>
        let q := y.2.freshNum (2 ^ 24) y.2.usedQpns
        let qpn := q.1.getD 0
        let e := setFld (tabEntry r k) 336 24 qpn
        (y.1 ++ [BitVec.ofNat 64 qpn], q.2.modPart r.part (fun p =>
          if stor then { p with stor := kset p.stor (r.num 0 + k) e }
          else { p with peers := kset p.peers (r.num 0 + k) e, peerErr := ndel p.peerErr (r.num 0 + k) }))) (([] : List (BitVec 64)), x.2)
      y.2.ok r y.1)

/-- PEER_SET (R362). -/
def execPeerSet (r : Rpc) (s : State) : Host.Outcome State Fault Refusal := .next (s.setTable r false)
/-- STORAGE_SET (R363). -/
def execStorageSet (r : Rpc) (s : State) : Host.Outcome State Fault Refusal := .next (s.setTable r true)

/-! ### SWAP (R347 to R350) -/

/-- SWAP (R347, R355, R356): the swap starts, and is answered when its last core is done. -/
def execSwap (r : Rpc) (s : State) : Host.Outcome State Fault Refusal :=
  .next (s.onPart r true (fun n => n == 1) (fun p => match s.part? (r.num 0) with
    | none => [(true, 3, some 0)]
    | some q => [(r.num 0 == r.part || q.cores != p.cores, 3, some 0), (p.swapOut.isSome || q.swapOut.isSome || s.parts.any (fun e => e.2.swapOut == some r.part || e.2.swapOut == some (r.num 0)), 7, none),
        (!p.outCores.isEmpty || p.dying.isSome || q.dying.isSome || p.halted || q.halted, 11, none)]) (fun _ s =>
    let s := (s.modPart r.part (fun p => { p with swapOut := some (r.num 0) })).swapStop r.part
    (s.setRpc { s.rpc with waiting := s.rpc.waiting ++ [{ req := r }] }).swapStep r.part))

/-! ### MGMT (R357) -/

/-- A MGMT request: its class, its length, and the reserved bits of slot 0. -/
def State.mgmt (s : State) (r : Rpc) (ok : Nat → Bool) (l : List Ground) (run : State → State) : State :=
  s.admin r ok ((fld (r.slot 0) 63 16 != 0, 3, some (atByte 2)) :: l) run

/-- POWERCAP (R16, R357). -/
def execMgmtPowercap (r : Rpc) (s : State) : Host.Outcome State Fault Refusal :=
  .next (s.mgmt r (fun n => n == 2) [(r.num 1 < 1000 || 2800 < r.num 1 || r.num 1 % 50 != 0, 3, some 1)] (fun s =>
    (s.setPorter (s.porter.setCap (r.num 1) s.clock.now)).ok r [r.slot 1]))

/-- Grounds of GATE: cluster and action. -/
def gateBad (r : Rpc) : List Ground := [(7 < r.num 1, 3, some 1), (1 < r.num 2, 3, some 2)]

/-- GATE, action gate (R17, R357): answered once the trace buffer has drained. -/
def execMgmtGate (r : Rpc) (s : State) : Host.Outcome State Fault Refusal :=
  .next (s.mgmt r (fun n => n == 3) (gateBad r ++ [(s.parts.any (fun e => e.2.cores.any (fun c => clusterOf c == r.num 1)), 11, none)]) (fun s =>
    let c := r.num 1
    if (s.cluster c).trace.isEmpty then (s.modCluster c (fun x => { x with gated := true, gateReq := false })).ok r []
    else (s.modCluster c (fun x => { x with gateReq := true })).setRpc { s.rpc with waiting := s.rpc.waiting ++ [{ req := r, dbg := c }] }))

/-- GATE, action ungate (R17, R357). -/
def execMgmtUngate (r : Rpc) (s : State) : Host.Outcome State Fault Refusal :=
  .next (s.mgmt r (fun n => n == 3) (gateBad r) (fun s => ((s.modCluster (r.num 1) (fun x => { x with gated := false })).ok r [])))

/-- VCWEIGHT (R94, R357). -/
def execMgmtVcweight (r : Rpc) (s : State) : Host.Outcome State Fault Refusal :=
  .next (s.mgmt r (fun n => n == 3) [(r.num 1 < 1 || 15 < r.num 1, 3, some 1), (r.num 2 < 1 || 15 < r.num 2, 3, some 2)] (fun s =>
    (s.setPorter { s.porter with vc1 := r.num 1, vc2 := r.num 2 }).ok r []))

/-- WINDOW (R114, R357): refused while a partition exists on any package of the node; those of other packages are not in
this state, so that their existence is a free value. -/
def execMgmtWindow (r : Rpc) (s : State) : Host.Outcome State Fault Refusal :=
  let x := s.draw
  let away := s.clock.present.toNat != 2 ^ s.clock.pkgid && x.1.getLsbD 0
  .next (x.2.mgmt r (fun n => n == 2) [(!([256, 512, 1024, 2048, 4096].contains (r.num 1)), 3, some 1), (!s.parts.isEmpty || away, 11, none)] (fun s =>
    (s.setClock { s.clock with winLen := r.num 1 }).ok r []))

/-- Grounds of ADMINLIST: the action. -/
def adminBad (r : Rpc) : List Ground := [(1 < r.num 1, 3, some 1)]

/-- ADMINLIST, action add (R351, R357). -/
def execMgmtAdminlistAdd (r : Rpc) (s : State) : Host.Outcome State Fault Refusal :=
  let gid := BitVec.ofNat 128 (r.wide 2 2)
  .next (s.mgmt r (fun n => n == 4) (adminBad r ++ [(16 ≤ s.porter.admins.length && !s.porter.admins.contains gid, 6, none)]) (fun s =>
    let l := if s.porter.admins.contains gid then s.porter.admins else s.porter.admins ++ [gid]
    (s.setPorter { s.porter with admins := l }).ok r [BitVec.ofNat 64 l.length]))

/-- ADMINLIST, action remove (R351, R357). -/
def execMgmtAdminlistRemove (r : Rpc) (s : State) : Host.Outcome State Fault Refusal :=
  let gid := BitVec.ofNat 128 (r.wide 2 2)
  .next (s.mgmt r (fun n => n == 4) (adminBad r ++ [(gid == s.gidOf r, 11, none)]) (fun s =>
    let l := s.porter.admins.filter (· != gid)
    (s.setPorter { s.porter with admins := l }).ok r [BitVec.ofNat 64 l.length]))

/-- GRANDMASTER (R357, R361). -/
def execMgmtGrandmaster (r : Rpc) (s : State) : Host.Outcome State Fault Refusal :=
  .next (s.mgmt r (fun n => n == 4) [(1 < r.num 1, 3, some 1), (255 < r.num 3, 3, some 3)] (fun s =>
    (s.setClock { s.clock with fabric := if r.num 1 = 1 then some (r.slot 2, r.num 3) else none }).ok r []))

/-- CLEARCNT (R357, R404). -/
def execMgmtClearcnt (r : Rpc) (s : State) : Host.Outcome State Fault Refusal :=
  let hit := fun (k : Nat) => (r.num 1 = 15 || k / 65536 == r.num 1) && (r.num 2 = 0xFFFF || k % 65536 == r.num 2)
  .next (s.mgmt r (fun n => n == 4) [(11 < r.num 1 && r.num 1 != 15, 3, some 1), (0xFFFF < r.num 2, 3, some 2), (1 < r.num 3, 3, some 3)] (fun s =>
    let s := s.setPorter { s.porter with ce := s.porter.ce.filter (fun e => !hit e.1), ue := s.porter.ue.filter (fun e => !hit e.1) }
    let s : State := if r.num 3 = 1 then { s with parts := s.parts.map (fun (e : Nat × Part) => (e.1, { e.2 with poisoned := 0, markers := 0, streams := 0 })) } else s
    s.ok r []))

/-- Bytes of an IMAGE chunk, and the image received up to and with it (R357). -/
def imageChunk (r : Rpc) : List Byte := (r.body.drop 4).flatMap (fun x => toBytes 8 x.toNat)
def State.imageWith (s : State) (r : Rpc) : List Byte := (if r.num 1 = 0 then [] else s.porter.staged) ++ imageChunk r

/-- Grounds of an IMAGE chunk (R357). -/
def State.imageBad (s : State) (r : Rpc) : List Ground :=
  [(r.num 1 % 8 != 0, 3, some 1), (r.num 2 < 8 || 4048 < r.num 2 || r.num 2 % 8 != 0, 3, some 2), (1 < r.num 3, 3, some 3),
   (r.num 1 != 0 && r.num 1 != s.porter.staged.length, 11, none)]

/-- IMAGE (R357, R435, R445, R446): a chunk is staged; one that nothing refuses and that ends an image has it verified, refused with
IMAGE or written, and verified again. In recovery the package then resets. -/
def execMgmtImage (r : Rpc) (s : State) : Host.Outcome State Fault Refusal :=
  let all := s.imageWith r
  .next (s.mgmt r (fun n => n == 4 + r.num 2 / 8) (s.imageBad r) (fun s =>
    if r.num 3 = 0 then (s.setPorter { s.porter with staged := all }).ok r [BitVec.ofNat 64 all.length]
    else if !Config.firmwareVerifies all then (s.record 30 0 11 0 none 0 1 1).refuse r 8
    else
      let s := (s.record 30 0 11 0 none 0 1 0).setPorter { s.porter with image := all, staged := [], torn := false }
      let s := (s.record 30 0 11 0 none 0 1 2).ok r [BitVec.ofNat 64 all.length]
      if s.porter.recovery then s.packageReset else s))

/-- POWER_FAILURE (R445): power fails and returns, and the package resets; `write` is the request whose verified image was being
written, which leaves an image that does not verify. -/
def execPowerFailure (write : Option Rpc) (s : State) : Host.Outcome State Fault Refusal :=
  match write with
  | none => .next s.packageReset
  | some r =>
    let all := s.imageWith r
    if r.num 3 != 1 || (s.imageBad r).any (·.1) || !Config.firmwareVerifies all then .next s.packageReset
    else
      let x := s.draw
      let n := x.1.toNat % (all.length + 1)
      .next (x.2.setPorter { s.porter with image := all.take n ++ s.porter.image.drop n, torn := true }).packageReset

/-! ### Requests that name no operation -/

/-- A request of an unknown operation is refused with BADOP; a QUERY of an unknown item names a field outside its limits
(R356). -/
def execBadopRequest (r : Rpc) (s : State) : Host.Outcome State Fault Refusal :=
  .next (if r.opcode = 0x000A then s.judge r (common r (fun n => n == 1) ++ [(true, 3, some 0)]) id
    else s.judge r [(true, 1, if [0x0B, 0x0C, 0x0D, 0x11].contains r.opcode then some 0 else none)] id)

end Sys2Proof.Machine
end

