-- ==== Sys2Proof/Machine/Image.lean ====
section
/-! DEFINITION. Kernel images (R33, R39, R62, R161 to R171): the checks of image-load; IMAGE_LOAD, IMAGE_UNLOAD and
RESIDENT_START (R44, R220, R355). -/

namespace Sys2Proof

/-- The instructions of R39: an E waypoint must follow each. -/
def Instr.once : Instr → Bool
  | .atom .. | .atoma .. | .copy .. | .copyt .. | .gather .. | .scadd .. | .decomp .. | .nput .. | .nget .. | .natom .. | .sread ..
  | .mma .. | .mmas .. | .mmab .. | .tkrel .. | .rvarrive .. | .svcOstler .. | .svcApp .. | .fetchw .. | .txend .. | .wmark .. => true
  | .st _ o | .sta _ o => o.ord == .rel
  | _ => false

/-- The feature bits that an instruction requires (R165). -/
def Instr.feat : Instr → BitVec 64
  | .mma _ o => if o.ta == .q4e || o.tb == .q4e then 1 else 0
  | .mmas _ o => if o.ta == .q4e || o.tb == .q4e then 3 else 2
  | .mmab _ o => if o.ta == .q4e || o.tb == .q4e then 5 else 4
  | .ldmeta .. => 2
  | .decomp .. => 8
  | .sread _ o => if o.sub.toNat % 4 = 0 then 16 else 24
  | .nput .. | .nget .. | .natom .. => 32
  | .txbegin .. | .txend .. | .txabort .. | .txstat .. => 64
  | .gather .. | .scadd .. => 128
  | _ => 0

/-- DISP of an instruction whose target is in the code (R161, R171). -/
def Instr.disp? : Instr → Option (BitVec 32)
  | .bra _ o | .jmp _ o | .call _ o => some o.disp
  | .txbegin _ o => some o.disp
  | _ => none

/-- Header of a word of a group (R143). -/
def Instr.hdr (i : Instr) : Hdr :=
  match i.view with
  | .nop h _ | .j _ h _ | .y _ h _ | .k _ h _ | .m _ h _ | .x _ h _ | .t _ h _ | .e _ h _ => h
  | _ => {}

/-- Ordinal that a SWITCHV carries (R62, R171). -/
def Instr.switchOrd : Instr → Option Nat
  | .switchv _ o => some o.imm.toNat
  | _ => none

end Sys2Proof

namespace Sys2Proof.Machine

/-- `n` bytes of an image from an offset, as a number (R166). -/
def imgNum (img : List Byte) (off n : Nat) : Nat := ofBytes ((img.drop off).take n)

/-- The instructions of a variant's code (R142, R171): offset, instruction and length of each; `none` where a word does not
decode. -/
def scanCode (img : List Byte) (code csz : Nat) : Nat → Nat → Option (List (Nat × Instr × Nat))
  | 0, _ => some []
  | f + 1, off =>
    if csz ≤ off then some []
    else match decode off (imgNum img (code + off) 16) with
      | .ok i n => (scanCode img code csz f (off + n)).map (fun l => (off, i, n) :: l)
      | _ => none

/-- A role entry (R167). -/
def roleKind (n : Nat) : RoleKind := if n = 0 then .copy else if n = 1 then .matrix else .general

/-- The variant that a descriptor gives (R167 to R169). -/
def parseVariant (img : List Byte) (k : Nat) : Variant :=
  let d := 0x40 + 64 * k
  let n := fun (o b : Nat) => imgNum img (d + o) b
  let wp := n 0x10 4
  { code := n 0 8, csz := n 8 4, handler := if n 0xC 4 = 0xFFFFFFFF then none else some (n 0xC 4),
    wps := (List.range (n 0x14 4)).map (fun j => {
      offs := imgNum img (wp + 64 * j) 4, kind := imgNum img (wp + 64 * j + 4) 1,
      sword := imgNum img (wp + 64 * j + 5) 1, live := BitVec.ofNat 384 (imgNum img (wp + 64 * j + 16) 48) }),
    abytes := n 0x20 4, wbytes := n 0x24 4, carry := n 0x28 4, pool := n 0x2C 1, tiles := n 0x2D 1, metas := n 0x2E 1, ngrp := n 0x2F 1,
    roles := (List.range (n 0x1D 1)).map (fun j => { kind := roleKind (n (0x30 + 4 * j) 1), count := n (0x31 + 4 * j) 1, budget := n (0x32 + 4 * j) 1 }),
    rings := (List.range (n 0x1C 1)).map (fun j => BitVec.ofNat 64 (imgNum img (n 0x18 4 + 8 * j) 8)) }

/-- Points of a ring (R162). -/
def ringPoints (e : BitVec 64) : List Nat :=
  let n := fld e 7 0
  (List.range n).map (fun j => fld e 15 8 + j) ++ (List.range n).map (fun j => fld e 23 16 + j)

/-- Limits and reserved fields of a descriptor and its tables (R162, R167 to R169, R171). -/
def limitsOk (img : List Byte) (k : Nat) (v : Variant) : Bool :=
  let d := 0x40 + 64 * k
  let n := fun (o b : Nat) => imgNum img (d + o) b
  let inside := fun (off len : Nat) => off + len ≤ img.length
  v.code % 64 == 0 && v.csz % 32 == 0 && inside v.code v.csz
    && 1 ≤ n 0x14 4 && n 0x14 4 ≤ 65536 && inside (n 0x10 4) (64 * n 0x14 4)
    && n 0x1C 1 ≤ 12 && inside (n 0x18 4) (8 * n 0x1C 1) && n 0x1E 2 == 0 && 1 ≤ n 0x1D 1 && n 0x1D 1 ≤ 4
    && 1 ≤ v.abytes && v.abytes ≤ 524288 && v.wbytes ≤ 786432 && v.carry % 64 == 0 && 64 ≤ v.carry && v.carry ≤ v.abytes
    && v.pool ≤ 48 && v.tiles ≤ 16 && v.metas ≤ 32 && v.ngrp == (v.roles.map (·.count)).sum && v.ngrp ≤ 16
    && (List.range 4).all (fun j => if j < n 0x1D 1 then n (0x30 + 4 * j) 1 ≤ 2 && n (0x33 + 4 * j) 1 == 0 else n (0x30 + 4 * j) 4 == 0)
    && v.roles.all (fun r => 1 ≤ r.count && r.count ≤ 16 && 1 ≤ r.budget && r.budget ≤ 4)
    && v.wps.zipIdx.all (fun e =>
      let at_ := n 0x10 4 + 64 * e.2
      e.1.kind ≤ 2 && (e.1.kind == 1 || e.1.sword == 0) && imgNum img (at_ + 6) 10 == 0 && !e.1.live.getLsbD 320 && fld e.1.live 383 376 == 0)
    && v.rings.all (fun e => 1 ≤ fld e 7 0 && fld e 7 0 ≤ 12 && fld e 63 24 == 0 && (ringPoints e).all (· < 24))
    && decide (v.rings.flatMap ringPoints).Nodup

/-- Offsets in ascending order. -/
def ascends : List Nat → Bool
  | a :: b :: r => a < b && ascends (b :: r)
  | _ => true

/-- Waypoints, instructions, targets, features and handler of a variant (R33, R39, R62, R171). -/
def codeOk (v : Variant) (feat : BitVec 64) (l : List (Nat × Instr × Nat)) : Bool :=
  let insAt := fun (off : Nat) => (l.find? (fun e => e.1 == off)).map (fun e => e.2.1)
  let isE := fun (off : Nat) => match v.wpAt off with
    | some (_, w) => w.kind == 0
    | none => false
  ((v.wps.head?.map (fun w => decide (w.kind ≤ 1))).getD false) && ascends (v.wps.map (·.offs))
    && v.wps.all (fun w => match insAt w.offs with
      | some i => i.hdr.w && (if w.kind = 1 then i.switchOrd == some w.sword else i.switchOrd.isNone)
      | none => false)
    && l.all (fun e =>
      let i := e.2.1
      let wp := v.wpAt e.1
      (!i.hdr.w || wp.isSome) && (i.switchOrd.isNone || wp.isSome) && (!i.once || isE (e.1 + e.2.2)) && i.feat &&& ~~~feat == 0
        && (match i.disp? with
          | some x => 0 ≤ (e.1 : Int) + x.toInt && (insAt ((e.1 : Int) + x.toInt).toNat).isSome
          | none => true))
    && (match v.handler with
      | some h => isE h
      | none => true)

/-- Switch ordinals of a variant. -/
def switchOrds (v : Variant) : List Nat := (v.wps.filter (·.kind == 1)).map (·.sword)

/-- Relocations of an image (R169). -/
def relocs (img : List Byte) : List Nat := (List.range (imgNum img 0x2C 4)).map (fun j => imgNum img (imgNum img 0x28 4 + 8 * j) 6)

/-- An image, unless a condition of R171 refuses it. FEAT is checked before, by the caller. R171 names the limits of R162 and R167 and
the reserved fields; that the fixed header fields, the alignments and the places of the tables, and the rows of the switch table that
R166 to R169 state refuse an image too is a DESIGN CHOICE (log 84). -/
def parseImage (img : List Byte) (base : Nat) : Option Image :=
  let n := fun (o b : Nat) => imgNum img o b
  let inside := fun (off len : Nat) => off + len ≤ img.length
  let nvar := n 0xC 1
  let vars := (List.range nvar).map (parseVariant img)
  let scount := n 0x34 2
  let feat := BitVec.ofNat 64 (n 0x10 8)
  let head := 0x140 ≤ img.length && n 0 4 == 0x4B565833 && n 4 2 == 1 && n 6 2 == 0x140 && 1 ≤ nvar && nvar ≤ 4 && n 0xD 3 == 0 && n 0x36 2 == 0
    && n 0x38 8 == img.length && n 0x18 8 % 64 == 0 && (n 0x18 8 != 0 || n 0x20 8 == 0) && inside (n 0x18 8) (n 0x20 8)
    && inside (n 0x28 4) (8 * n 0x2C 4) && inside (n 0x30 4) (8 * scount) && scount ≤ 256
    && n (0x40 + 64 * nvar) (64 * (4 - nvar)) == 0
  if !head || !(vars.zipIdx.all (fun e => limitsOk img e.2 e.1)) then none
  else
    let codes := vars.map (fun v => scanCode img v.code v.csz (v.csz / 8) 0)
    let rows := (List.range scount).map (fun k => (List.range 4).map (fun j => n (n 0x30 4 + 8 * k + 2 * j) 2))
    let rowOk := fun (k : Nat) (row : List Nat) => row.zipIdx.all (fun e => match vars[e.2]? with
      | none => e.1 == 0xFFFF
      | some v => match v.wps[e.1]? with
        | some w => w.kind == 1 && w.sword == k
        | none => false)
    let relOk := fun (j : Nat) =>
      let off := (relocs img).getD j 0
      n (n 0x28 4 + 8 * j + 6) 2 == 0 && imgNum img off 8 < n 0x20 8 && (vars.zip codes).any (fun e => match e.2 with
        | none => false
        | some l => l.any (fun x => e.1.code + x.1 + 8 == off && (match x.2.1 with
          | .smovi _ _ => true
          | _ => false) && x.2.2 == 16))
    let ok := (vars.zip codes).all (fun e => match e.2 with
        | some l => codeOk e.1 feat l
        | none => false)
      && vars.all (fun v => (switchOrds v).length == scount && (List.range scount).all (fun k => (switchOrds v).contains k))
      && rows.zipIdx.all (fun e => rowOk e.2 e.1)
      && vars.all (fun v => v.carry == ((vars.head?.map (·.carry)).getD 0))
      && (List.range (n 0x2C 4)).all relOk
    if ok then some { base := base, size := img.length, imgid := BitVec.ofNat 32 (n 8 4), feat := feat, vars := vars, switch := rows } else none

/-- Bytes of a partition as the service reads them, sector by sector (R323, R402). -/
def State.fetchBytes (s : State) (part va n : Nat) : Option (List Byte) × State :=
  (List.range ((va % 64 + n + 63) / 64)).foldl (fun (x : Option (List Byte) × State) j =>
    match x.1 with
    | none => x
    | some l =>
      let lo := if j = 0 then va else va / 64 * 64 + 64 * j
      let hi := min (va + n) (va / 64 * 64 + 64 * (j + 1))
      match x.2.vaOf part (lo % 2 ^ 56) .innRead with
      | (none, s) => (none, s)
      | (some pa, s) =>
        let p := s.locate pa
        (some (l ++ s.readBytes p (hi - lo)), if s.anyPoison p (hi - lo) then s.consume part p else s)) (some [], s)

/-- Adds the constant segment's address to the relocated fields (R170). The spec gives no rule for this write: it is made through a
translation for reading, so that read-only code can be relocated, and is else a write of the hardware at the home (DESIGN CHOICE,
log 84). -/
def State.relocate (s : State) (part va : Nat) (img : List Byte) (const : Nat) : State :=
  (relocs img).foldl (fun (s : State) off =>
    (toBytes 8 ((imgNum img off 8 + const) % 2 ^ 64)).zipIdx.foldl (fun (s : State) e =>
      match s.vaOf part ((va + off + e.2) % 2 ^ 56) .innRead with
      | (some pa, s) => s.svcWrite part pa [e.1]
      | (none, s) => s) s) s

/-- IMAGE_LOAD (R165, R170, R171, R355): FEAT is checked before the other conditions. A refusal leaves no effect (R356). -/
def execImageLoad (r : Rpc) (s : State) : Host.Outcome State Fault Refusal :=
  .next (s.onPart r false (fun n => n == 2) (fun p =>
    [(2 ^ 56 ≤ r.num 0, 3, some 0), (2 ^ 56 < r.num 0 + r.num 1 || r.num 1 = 0, 3, some 1), (p.dying.isSome, 11, none), (65536 ≤ p.images.length, 6, none)]) (fun p s =>
    match s.fetchBytes r.part (r.num 0) (r.num 1) with
    | (none, _) => s.refuse r 10 (some 0)
    | (some img, t) =>
      if 0x18 ≤ img.length && imgNum img 0x10 8 / 512 != 0 then s.refuse r 9
      else match parseImage img (r.num 0) with
        | none => s.refuse r 8
        | some im =>
          let a := t.freshNum 65536 (p.images.map (·.1))
          match a.1 with
          | none => s.refuse r 6
          | some h =>
            let bytes := (img.drop (imgNum img 0x18 8)).take (imgNum img 0x20 8)
            let va := a.2.newVa p.root ((bytes.length + 0xFFFF) / 0x10000)
            match va.2.mapBytes r.part p.root va.1 bytes false with
            | none => s.refuse r 6
            | some s =>
            let s := s.relocate r.part (r.num 0) img va.1
            (s.modPart r.part (fun p => { p with images := kset p.images h { im with const := va.1 } })).ok r [BitVec.ofNat 64 h, BitVec.ofNat 64 va.1]))

/-- Whether an image is in use: the resident program, a team, a saved group, or a waiting item (R52, R355). -/
def State.imageBusy (s : State) (part h : Nat) (p : Part) : Bool :=
  p.resident == some h || s.teams.any (fun e => e.2.part == part && e.2.image == h)
    || (s.inn.saved ++ s.inn.swapped).any (fun x => x.grp.part == part && x.grp.image == h)
    || p.queues.any (fun e => e.2.items.any (fun x => !x.rejected && x.image == h) || (List.range (e.2.tail - e.2.head)).any (fun j =>
      let idx := e.2.head + j
      !e.2.items.any (fun x => x.idx == idx) && (match s.vaOf part ((e.2.ring + 128 * (idx % 2 ^ e.2.log2)) % 2 ^ 56) .innRead with
        | (some pa, _) => ofBytes (s.readBytes (s.locate pa) 2) == h
        | (none, _) => false)))

/-- IMAGE_UNLOAD (R43, R355, R356): loop buffers that hold the image's code are cleared. -/
def execImageUnload (r : Rpc) (s : State) : Host.Outcome State Fault Refusal :=
  .next (s.onPart r false (fun n => n == 1) (fun p => if (kget p.images (r.num 0)).isNone then [(true, 3, some 0)] else [(s.imageBusy r.part (r.num 0) p, 7, none)]) (fun _ s =>
    let s : State := { s with cores := s.cores.map (fun (c : Nat × Core) => (c.1, { c.2 with loops := c.2.loops.filter (fun e => !(e.2.1 == r.part && e.2.2.1 == r.num 0)) })) }
    (s.modPart r.part (fun p => { p with images := kdel p.images (r.num 0) })).ok r []))

/-- A partition's resident program starts (R44): a lodge group in every team slot of the partition. It takes the lowest free slot of
the scheduler with the most free slots, as R58 places the groups of a team; for a lodge group the spec names no slot (DESIGN CHOICE,
log 24). -/
def State.startResident (s : State) (part h : Nat) : State :=
  match s.part? part with
  | none => s
  | some p =>
    let off := ((((kget p.images h).bind (fun im => im.vars.head?)).bind (fun v => v.wps.head?)).map (·.offs)).getD 0
    let s := s.modPart part (fun p => { p with resident := some h })
    p.slots.foldl (fun (s : State) c => c.2.foldl (fun (s : State) t =>
      if (s.core c.1).gone then s
      else match s.freeSlot? c.1 with
        | some slot => s.setGroup (c.1 * 64 + slot) (newGroup part h 0 .lodge 1 0 t off)
        | none => s) s) s

/-- RESIDENT_START (R20, R44, R220). -/
def execResidentStart (r : Rpc) (s : State) : Host.Outcome State Fault Refusal :=
  .next (s.onPart r false (fun n => n == 1) (fun p => (match (kget p.images (r.num 0)).bind (fun im => im.vars.head?) with
    | none => [(true, 3, some 0)]
    | some v => [(v.ngrp != 1 || v.pool != 0 || v.tiles != 0 || v.metas != 0, 3, some 0)]) ++ [(p.resident.isSome || p.dying.isSome, 11, none)]) (fun _ s =>
    (s.startResident r.part (r.num 0)).ok r []))

end Sys2Proof.Machine
end

