-- ==== Sys2Proof/Machine/Debug.lean ====
section
/-! DEFINITION. The DEBUG and TRACE requests (R365 to R382, R441) and their time limits. -/

namespace Sys2Proof.Machine

/-! ### Sessions -/

/-- A request of DEBUG, TRACE or REPLAY: the reserved bits of slot 0 (R355). -/
def subBad (r : Rpc) : Ground := (fld (r.slot 0) 63 16 != 0, 3, some (atByte 2))

/-- A DEBUG request on a partition of a debug session; of a partition in none it is refused with STATE (R380). -/
def State.onSession (s : State) (r : Rpc) (ok : Nat → Bool) (l : Part → Nat → DbgSession → List Ground) (run : Part → Nat → DbgSession → State → State) : State :=
  s.onPart r false ok (fun p => subBad r :: (match s.debugger? r.part with
    | none => [(true, 11, none)]
    | some d => l p d.1 d.2)) (fun p s => match s.debugger? r.part with
      | none => s
      | some d => run p d.1 d.2 s)

def State.setSession (s : State) (n : Nat) (d : DbgSession) : State := s.setDbg { s.dbg with sessions := kset s.dbg.sessions n d }

/-- A request that is answered later (R354). -/
def State.await (s : State) (w : Waiting) : State := s.setRpc { s.rpc with waiting := s.rpc.waiting ++ [w] }

/-- Whether an advance or a reverse of the session is under way (R371, R375). -/
def State.moving (s : State) (d : DbgSession) : Bool := d.rev.isSome || d.parts.any (fun p => ((s.part? p).map (·.halted)).getD false)

/-- ATTACH (R365): the session's partitions are the request's. -/
def execDebugAttach (r : Rpc) (s : State) : Host.Outcome State Fault Refusal :=
  let tags := ((List.range (r.body.length - 1)).map (fun i => r.num (i + 1))).dedup
  .next (s.onPart r false (fun n => 2 ≤ n && n ≤ 9) (fun _ =>
    let ground := fun (code : Nat) (bad : Nat → Bool) => ((tags.any bad, code, (r.body.drop 1).findIdx? (fun x => bad x.toNat) |>.map (· + 1)) : Ground)
    [subBad r, ground 4 (fun t => (s.part? t).isNone),
     ground 5 (fun t => !(s.isAdmin r || ((s.part? t).map (fun p => p.owners.contains (s.gidOf r))).getD true)),
     ground 7 (fun t => ((s.part? t).bind (·.session)).isSome)]) (fun _ s =>
    let used := s.dbg.sessions.map (·.1) ++ s.rpc.waiting.map (·.dbg)
    let n := ((List.range (used.length + 1)).find? (fun n => !used.contains n)).getD 0
    let s := tags.foldl (fun (s : State) t => s.modPart t (fun p => { p with session := some n })) s
    (s.setSession n { parts := tags }).ok r []))

/-- DETACH (R365): refused with BUSY while an advance, a reverse, a halt or a SOLO of the session is under way (log 73). -/
def execDebugDetach (r : Rpc) (s : State) : Host.Outcome State Fault Refusal :=
  .next (s.onSession r (fun n => n == 1) (fun _ _ d => [(s.moving d || d.solo.isSome || d.want, 7, none)]) (fun _ n d s =>
    let s := d.parts.foldl (fun (s : State) t => s.modPart t (fun p => { p with session := none, solo := false })) s
    (s.setDbg { s.dbg with sessions := kdel s.dbg.sessions n }).ok r []))

/-! ### The undo log (R366, R367, R374) -/

/-- LOG_SETUP (R366, R374): header and directory are cleared; a log that is on begins its first window. -/
def execDebugLogSetup (r : Rpc) (s : State) : Host.Outcome State Fault Refusal :=
  .next (s.onSession r (fun n => n == 5) (fun p _ d =>
    [(r.num 1 % 0x10000 != 0 || 2 ^ 56 < r.num 1 + r.num 2, 3, some 1), (r.num 2 % 0x10000 != 0 || r.num 2 < 2 ^ 20 || 2 ^ 36 < r.num 2 || r.num 2 - 0x21000 < p.worstSnapshot, 3, some 2),
     (1 < r.num 3, 3, some 3), (r.num 4 != 0 && (r.num 4 < 10 || 30 < r.num 4), 3, some 4), (s.moving d, 7, none)]) (fun p _ _ s =>
    match s.vaOf r.part (r.num 1) with
    | (none, s) => s.refuse r 10 (some 1)
    | (some pa, s) =>
      if pkgOf pa != s.clock.pkgid then s.refuse r 3 (some 1)
      else
        let on := (p.log.map (·.on)).getD false
        let s := (List.range 0x840).foldl (fun (s : State) i => (s.hwPut r.part (r.num 1 + (if i = 0 then 0 else 0xFC0) + 64 * i) (toBytes 64 0)).getD s) s
        let l : UndoLog := { base := r.num 1, size := r.num 2, policy := r.num 3, auto := r.num 4, on := on, heldWr := (p.log.map (·.heldWr)).getD [],
                             advReq := (p.log.map (·.advReq)).getD false }
        let s := s.setLog r.part l
        let s := if on then s.beginWindow r.part 0 else s.logHeader r.part
        (s.releaseHeld r.part).ok r []))

/-- LOG_ON (R366). -/
def execDebugLogOn (r : Rpc) (s : State) : Host.Outcome State Fault Refusal :=
  .next (s.onSession r (fun n => n == 1) (fun p _ d => [(p.log.isNone, 11, none), (s.moving d, 7, none)]) (fun _ _ _ s => (s.logStart r.part).ok r []))

/-- LOG_OFF (R366, R374): held writes are performed. -/
def execDebugLogOff (r : Rpc) (s : State) : Host.Outcome State Fault Refusal :=
  .next (s.onSession r (fun n => n == 1) (fun p _ d => [(p.log.isNone, 11, none), (s.moving d, 7, none)]) (fun _ _ _ s =>
    match s.log? r.part with
    | none => s
    | some l => (((s.setLog r.part { l with on := false, full := false }).releaseHeld r.part).logHeader r.part).ok r []))

/-! ### Halt, resume, advance, reverse (R371, R375, R376) -/

/-- HALT (R376): answered once every group of the session has stopped. -/
def execDebugHalt (r : Rpc) (s : State) : Host.Outcome State Fault Refusal :=
  .next (s.onSession r (fun n => n == 1) (fun _ _ _ => []) (fun _ n d s =>
    ((s.haltParts d.parts none).setSession n { d with want := true }).await { req := r, dbg := n } |>.haltDone r.part))

/-- RESUME of a group that is evicted or swapped out (R376). -/
def Group.resumeAway (g : Group) : Group :=
  if g.st == .running then g
  else if g.event = 1 then { g with haltReq := none }
  else { g with st := .running, quiet := true, since := 0, pendAge := 0, stepReq := false, stepped := true, fault := [], ord := 0xFFFF, lmask := 0xFFFFFFFF }

/-- RESUME (R376): every parked or halted group resumes, but one parked for PAGE. -/
def execDebugResume (r : Rpc) (s : State) : Host.Outcome State Fault Refusal :=
  .next (s.onSession r (fun n => n == 1) (fun _ _ d => [(s.moving d, 11, none)]) (fun _ n d s =>
    let away := fun (l : List Saved) => l.map (fun (x : Saved) => if d.parts.contains x.grp.part then { x with grp := x.grp.resumeAway } else x)
    let gks := (s.groups.filter (fun e => d.parts.contains e.2.part && e.2.st != .running)).map (·.1)
    let s := gks.foldl (fun (s : State) gk =>
      if ((s.group? gk).map (·.event)) = some 1 then s.modGroup gk (fun g => { g with haltReq := none }) else s.resume gk 0xFFFF 0xFFFFFFFF false) s
    let s := s.setInn { s.inn with saved := away s.inn.saved, swapped := away s.inn.swapped }
    let s := d.parts.foldl (fun (s : State) t => s.modPart t (fun p => { p with solo := false })) s
    (s.setSession n { d with halted := false, want := false }).ok r []))

/-- ADVANCE (R371): folded into an advance under way; answered when it is complete. -/
def execDebugAdvance (r : Rpc) (s : State) : Host.Outcome State Fault Refusal :=
  .next (s.onSession r (fun n => n == 1) (fun _ _ d => [(d.rev.isSome, 7, none)]) (fun _ n d s => (s.await { req := r, dbg := n }).beginHalt d.parts))

/-- REVERSE (R375): to a window that is reachable in the log of every partition of the session. -/
def execDebugReverse (r : Rpc) (s : State) : Host.Outcome State Fault Refusal :=
  let w := BitVec.ofNat 32 (r.num 1)
  .next (s.onSession r (fun n => n == 2) (fun _ _ d =>
    [(2 ^ 32 ≤ r.num 1 || (d.parts.filter (fun t => !((s.part? t).map (·.scratch)).getD false)).any (fun t => !(((s.log? t).map (fun l => l.wins.any (fun x => x.num == w))).getD false)), 3, some 1), (d.rev.isSome, 7, none)]) (fun _ n d s =>
    let s := ((s.setSession n { d with rev := some w }).await { req := r, dbg := n }).beginHalt d.parts
    if (s.commandsOf d.parts).isEmpty && !s.stopping d.parts then s.finishReverse n else s))

/-! ### Solo stepping (R377) -/

/-- Whether a group is one of a session's. -/
def State.ofSession (s : State) (d : DbgSession) (core slot : Nat) : Bool :=
  core < 256 && slot < 64 && ((s.group? (core * 64 + slot)).map (fun g => d.parts.contains g.part)).getD false

/-- Grounds of a group's name in slots 1 and 2. -/
def State.groupBad (s : State) (r : Rpc) (d : DbgSession) : List Ground :=
  [(256 ≤ r.num 1, 3, some 1), (64 ≤ r.num 2, 3, some 2), (!s.ofSession d (r.num 1) (r.num 2), 3, some 1)]

/-- Whether the session counts as halted: it was halted, or an advance waits for commands to retire (R371). -/
def State.countsHalted (s : State) (d : DbgSession) : Bool := if s.moving d then d.rev.isNone && !(s.commandsOf d.parts).isEmpty else d.halted

/-- SOLO (R377): the group performs STEP commands, one after another. -/
def execDebugSolo (r : Rpc) (s : State) : Host.Outcome State Fault Refusal :=
  .next (s.onSession r (fun n => n == 5) (fun _ _ d =>
    s.groupBad r d ++ [(r.num 3 < 1 || 65535 < r.num 3, 3, some 3), (r.num 4 < 1000 || 10 ^ 9 < r.num 4, 3, some 4),
      (!s.countsHalted d, 11, none), (d.solo.isSome, 7, none)]) (fun _ n d s =>
    let gk := r.num 1 * 64 + r.num 2
    let s := d.parts.foldl (fun (s : State) t => s.modPart t (fun p => { p with solo := true })) s
    let s := (s.setSession n { d with solo := some (gk, r.num 3, s.clock.now + r.num 4) }).await { req := r, dbg := n, until_ := some (s.clock.now + r.num 4) }
    s.resume gk 0xFFFF 0xFFFFFFFF true))

/-- The end of SOLO: its reply, and session event 2 (R377, R379). -/
def State.soloEnd (s : State) (n : Nat) (d : DbgSession) (gk : Nat) (blocked : Bool) : State :=
  let x := s.draw
  let s : State := x.2
  let ord := match s.group? gk with
    | some g => if blocked then s.regionOrd g (lowest g.live) else g.lastWp
    | none => fld x.1 15 0
  let bytes := match s.group? gk with
    | some g => (List.range 32).map (g.laneByte (s.blockedLanes gk g))
    | none => List.replicate 32 1
  let s := d.parts.foldl (fun (s : State) t => s.modPart t (fun p => { p with solo := false })) s
  let s := s.setSession n { d with solo := none }
  let mine := s.rpc.waiting.filter (fun w => w.isDebug n 0xA)
  let s := s.setRpc { s.rpc with waiting := s.rpc.waiting.filter (fun w => !w.isDebug n 0xA) }
  (mine.foldl (fun (s : State) w => s.ok w.req (Config.replyLayout 0x000B000A ([blocked.toNat, ord] ++ bytes))) s).sessionEvent n 2 (coreOf gk) (slotOf gk) ord

/-- A stepping group that has stopped takes its next step, or ends; one that was woken from a PAGE park steps on. -/
def State.soloStep (s : State) (n : Nat) (d : DbgSession) : State :=
  match d.solo with
  | none => s
  | some (gk, k, lim) =>
    match s.group? gk with
    | none => s.soloEnd n d gk false
    | some g =>
      if g.st == .running then (if g.stepReq then s else s.setGroup gk { g with stepReq := true, stepped := false })
      else if g.event = 1 || g.event = 4 then s
      else if g.event = 3 && 1 < k then (s.setSession n { d with solo := some (gk, k - 1, lim) }).resume gk 0xFFFF 0xFFFFFFFF true
      else s.soloEnd n d gk (g.event = 7 && lim ≤ s.clock.now)

/-- Every session that steps. -/
def State.soloSteps (s : State) : State := s.dbg.sessions.foldl (fun (s : State) e => s.soloStep e.1 e.2) s

/-- SOLO_TIMEOUT (R377): the group takes a region-entry stop, after the decision of a TXEND that it awaits (R252), and the reply says
BLOCKED. -/
def execSoloTimeout (session : Nat) (s : State) : Host.Outcome State Fault Refusal :=
  .next (match kget s.dbg.sessions session with
    | none => s
    | some d => match d.solo with
      | none => s
      | some (gk, _, lim) =>
        if s.clock.now < lim then s
        else
          let run := ((s.group? gk).map (fun g => g.st == .running)).getD false
          let s := if run then s.stopGroup gk 7 else s
          if ((s.group? gk).map (fun g => g.st == .running)).getD false then s
          else s.soloEnd session ((kget s.dbg.sessions session).getD d) gk true)

/-! ### Breakpoints and events (R378, R379) -/

/-- BREAK_SET (R378). -/
def execDebugBreakSet (r : Rpc) (s : State) : Host.Outcome State Fault Refusal :=
  .next (s.onSession r (fun n => n == 7) (fun _ _ _ =>
    [(63 < r.num 1, 3, some 1), (2 ^ 16 ≤ r.num 2, 3, some 2), (3 < r.num 3, 3, some 3), (2 ^ 16 ≤ r.num 4, 3, some 4), (2 ^ 32 ≤ r.num 5, 3, some 5), (3 < r.num 6, 3, some 6)]) (fun _ _ _ s =>
    (s.modPart r.part (fun p => { p with breaks := kset p.breaks (r.num 1) {
        image := r.num 2, var := r.num 3, ord := r.num 4, skip := r.num 5, enable := (r.slot 6).getLsbD 0, allstop := (r.slot 6).getLsbD 1 } })).ok r []))

/-- BREAK_CLEAR (R378). -/
def execDebugBreakClear (r : Rpc) (s : State) : Host.Outcome State Fault Refusal :=
  .next (s.onSession r (fun n => n == 2) (fun _ _ _ => [(63 < r.num 1, 3, some 1)]) (fun _ _ _ s =>
    (s.modPart r.part (fun p => match kget p.breaks (r.num 1) with
      | some b => { p with breaks := kset p.breaks (r.num 1) { b with enable := false } }
      | none => p)).ok r []))

/-- WAITEV (R379): the oldest queued event, else the next one, or the time limit. -/
def execDebugWaitev (r : Rpc) (s : State) : Host.Outcome State Fault Refusal :=
  .next (s.onSession r (fun n => n == 2) (fun _ _ _ => [(10 ^ 10 < r.num 1, 3, some 1)]) (fun _ n d s =>
    match d.events with
    | (c, core, slot, ord) :: rest => (s.setSession n { d with events := rest, lost := 0 }).ok r (eventResult c core slot ord d.lost)
    | [] => s.await { req := r, dbg := n, until_ := some (s.clock.now + r.num 1) }))

/-- WAITEV_TIMEOUT (R379): the time limit of a waiting WAITEV has passed. -/
def execWaitevTimeout (session : Nat) (s : State) : Host.Outcome State Fault Refusal :=
  let due := fun (w : Waiting) => w.isWaitev && w.dbg == session && decide ((w.until_.getD 0) ≤ s.clock.now)
  .next (match s.rpc.waiting.find? due with
    | none => s
    | some w =>
      let x := s.draw
      let lost := ((kget s.dbg.sessions session).map (·.lost)).getD 0
      let s := x.2.setRpc { s.rpc with waiting := s.rpc.waiting.erase w }
      let s := match kget s.dbg.sessions session with
        | some d => s.setSession session { d with lost := 0 }
        | none => s
      s.ok w.req (eventResult 0 (fld x.1 7 0) (fld x.1 13 8) (fld x.1 31 16) lost))

/-! ### The group window (R342, R380) -/

/-- Grounds of GREAD and GWRITE: group, offset, length; and that the group is parked or halted. -/
def State.windowBad (s : State) (r : Rpc) (d : DbgSession) : List Ground :=
  s.groupBad r d ++ ([(0x10000 < r.num 3, 3, some 3), (4000 < r.num 4 || 0x10000 < r.num 3 + r.num 4, 3, some 4),
    (((s.group? (r.num 1 * 64 + r.num 2)).map (fun g => g.st == .running)).getD true, 11, none)] : List Ground)

/-- Bytes as reply slots; what fills the last slot is free (R353). -/
def State.slotsOf (s : State) (bs : List Byte) : List (BitVec 64) × State :=
  let x := s.draw
  let bs := bs ++ (toBytes 8 x.1.toNat).take (alignUp bs.length 8 - bs.length)
  ((List.range (bs.length / 8)).map (fun i => BitVec.ofNat 64 (ofBytes ((bs.drop (8 * i)).take 8))), x.2)

/-- GREAD (R380). -/
def execDebugGread (r : Rpc) (s : State) : Host.Outcome State Fault Refusal :=
  .next (s.onSession r (fun n => n == 5) (fun _ _ d => s.windowBad r d) (fun _ _ _ s =>
    let x := s.slotsOf ((List.range (r.num 4)).map (fun i => s.winByte (r.num 1) (r.num 2) (r.num 3 + i)))
    x.2.ok r x.1))

/-- GWRITE (R380): the words of GCTL that it covers are written as a command (R343, R345). -/
def execDebugGwrite (r : Rpc) (s : State) : Host.Outcome State Fault Refusal :=
  .next (s.onSession r (fun n => 5 ≤ n && n == 5 + (r.num 4 + 7) / 8) (fun _ _ d => s.windowBad r d) (fun _ _ _ s =>
    let gk := r.num 1 * 64 + r.num 2
    let bs := ((r.body.drop 5).flatMap (fun x => toBytes 8 x.toNat)).take (r.num 4)
    let s := s.winWrite gk (r.num 3) bs
    (if crosses (r.num 3) bs.length 0x8700 8 then s.gctlWrite gk (r.num 3) bs else s).ok r []))

/-! ### TRACE (R381, R382) -/

/-- TRACE SETUP (R382): the header of the ring is cleared. -/
def execTraceSetup (r : Rpc) (s : State) : Host.Outcome State Fault Refusal :=
  .next (s.onPart r false (fun n => n == 3) (fun _ => [subBad r, (r.num 1 % 64 != 0 || 2 ^ 56 ≤ r.num 1, 3, some 1), (r.num 2 < 10 || 24 < r.num 2, 3, some 2)]) (fun _ s =>
    let x : Ring := ⟨r.num 1, r.num 2⟩
    let a := s.reach r.part (ringSpan x).1 (ringSpan x).2 .innWrite
    if !a.1 then s.refuse r 10 (some 1)
    else ((((a.2.hwPut r.part x.base (toBytes 64 0)).getD a.2).modPart r.part (fun p => { p with tring := some x, drop := 0 })).retryPostings).ok r []))

/-- TRACE ENABLE (R381): slot 1 turns Firefly on or off. -/
def execTraceEnable (r : Rpc) (s : State) : Host.Outcome State Fault Refusal :=
  .next (s.onPart r false (fun n => n == 2) (fun _ => [subBad r, (1 < r.num 1, 3, some 1)]) (fun _ s =>
    (s.modPart r.part (fun p => { p with fire := r.num 1 == 1 })).ok r []))

/-- TRACE DRAIN (R382): answered once every record written before it has drained. -/
def execTraceDrain (r : Rpc) (s : State) : Host.Outcome State Fault Refusal :=
  .next (s.onPart r false (fun n => n == 1) (fun _ => [subBad r]) (fun _ s => (s.await { req := r, recs := s.clusters.flatMap (fun c => c.2.trace.filter (fun e => e.1 == r.part)) }).traceDrained))

/-- TRACE STATUS (R382): Firefly, the ring, DROP, and the records that have not drained. -/
def execTraceStatus (r : Rpc) (s : State) : Host.Outcome State Fault Refusal :=
  .next (s.onPart r false (fun n => n == 1) (fun _ => [subBad r]) (fun p s =>
    s.ok r (Config.replyLayout 0x000C0004 ([p.fire.toNat, p.drop, (s.clusters.flatMap (fun c => c.2.trace.filter (fun e => e.1 == r.part))).length]
      ++ (match p.tring with
        | some x => [x.base, x.n]
        | none => [])))))

end Sys2Proof.Machine
end

