-- ==== Sys2Proof/Machine/Rv64Fp.lean ====
section
/-! DEFINITION. The F and D words and the compressed words of an RV64 hart (R340), as the RISC-V manuals have them; the spec names these
sets and gives no words (PRESUMED, log 30). -/

namespace Sys2Proof.Machine

/-! ### Formats, rounding and flags -/

/-- The formats of F and D. -/
def fmtS : Fmt := Fmt.of .f32
def fmtD : Fmt := ⟨11, 52, 1023, true⟩

/-- The rounding modes RNE, RTZ, RDN and RUP by their codes; RMM rounds as RNE but for ties. -/
def rvRnd : Nat → Rnd
  | 1 => .rtz | 2 => .rdn | 3 => .rup | _ => .rne

/-- A result under a rounding mode. `op f r n` is the result in format f, of operands whose patterns are n times those of the format
asked for: with one more fraction bit the patterns are doubled. Under RMM a tie, which one more bit represents exactly, goes away
from zero. -/
def rvRounded (op : Fmt → Rnd → Nat → Nat × Flags) (f : Fmt) (rm : Nat) : Nat × Flags :=
  let x := op f (rvRnd rm) 1
  if rm != 4 || x.2 &&& fINX = 0 || x.2 &&& fOVF != 0 || (op { f with fb := f.fb + 1 } .rtz 2).2 &&& fINX != 0 then x
  else op f (if f.sgn x.1 then .rdn else .rup) 1

/-- An operation on patterns of one format. -/
def rvBin (op : FloatOp) (f : Fmt) (rm a b c : Nat) : Nat × Flags := rvRounded (fun g r n => op g r (n * a) (n * b) (n * c)) f rm

/-- The four fused operations: the sign of the product, and of the addend. -/
def opFused (np nc : Bool) : FloatOp := fun f r a b c =>
  let flip := fun (b : Bool) (x : FVal) => if b then x.flip else x
  f.fmaV r (flip np (f.decode a)) (f.decode b) (flip nc (f.decode c))

/-- Conversion between the formats. -/
def rvConv (src dst : Fmt) (rm a : Nat) : Nat × Flags :=
  rvRounded (fun g r _ => match src.decode a with
    | .nan sig => g.nanRes sig
    | .inf n => (g.signBit n + g.infPat, 0)
    | .fin n m e => g.round r false n m e false) dst rm

/-- Conversion from an integer. -/
def rvFromInt (f : Fmt) (rm : Nat) (x : Int) : Nat × Flags := rvRounded (fun g r _ => g.round r false (decide (x < 0)) x.natAbs 0 false) f rm

/-- Conversion to an integer from lo to hi: what is out of range, and a NaN as a large positive number, gives the nearest of them. -/
def rvToInt (f : Fmt) (rm a : Nat) (lo hi : Int) : Int × Flags :=
  match f.decode a with
  | .nan _ => (hi, fINV)
  | .inf n => (if n then lo else hi, fINV)
  | .fin n m e =>
    let r := roundAt (rvRnd rm) n m e false 0
    let v := signedM n (if rm = 4 then ((roundAt .rtz n (2 * m) e false 0).1 + 1) / 2 else r.1)
    if v < lo then (lo, fINV) else if hi < v then (hi, fINV) else (v, flagIf r.2 fINX)

/-- The comparisons FLE, FLT and FEQ by funct3; the first two are signalling. -/
def rvFcmp (f : Fmt) (f3 a b : Nat) : Bool × Flags :=
  let x := f.decode a
  let y := f.decode b
  if x.isNan || y.isNan then (false, flagIf (f3 != 2 || x.isSig || y.isSig) fINV)
  else (match f3 with
    | 0 => !y.lt false x
    | 1 => x.lt false y
    | _ => !x.lt false y && !y.lt false x, 0)

/-- FCLASS: the bit of the class of a pattern. -/
def rvClass (f : Fmt) (a : Nat) : Nat :=
  let n := f.sgn a
  2 ^ (match f.decode a with
    | .nan sig => if sig then 8 else 9
    | .inf _ => if n then 0 else 7
    | .fin _ m _ => if m = 0 then (if n then 3 else 4) else if f.exp a = 0 then (if n then 2 else 5) else if n then 1 else 6)

/-- Flags as `fflags` holds them: NV, DZ, OF, UF, NX. -/
def rvFlags (x : Flags) : Nat :=
  [(fINV, 16), (fDZ, 8), (fOVF, 4), (fUNF, 2), (fINX, 1)].foldl (fun n e => if x &&& e.1 != 0 then n + e.2 else n) 0

/-! ### Registers -/

/-- A single-precision pattern in its box. -/
def nanBox (x : Nat) : BitVec 64 := BitVec.ofNat 64 (0xFFFFFFFF00000000 + x % 2 ^ 32)
/-- The pattern of a register in a format; what is no box is the canonical NaN of F. -/
def Hart.fpat (k : Hart) (d : Bool) (r : Nat) : Nat :=
  let x := (sget k.f r).toNat
  if d then x else if x / 2 ^ 32 = 0xFFFFFFFF then x % 2 ^ 32 else fmtS.cnan
/-- A register written, which makes FS dirty. -/
def Hart.fput (k : Hart) (d : Bool) (r : Nat) (x : Nat) : Hart := { k with f := sset k.f r (if d then BitVec.ofNat 64 x else nanBox x), fs := 3 }
/-- Flags accrued. -/
def Hart.accrue (k : Hart) (x : Flags) : Hart := if x = 0 then k else { k with fcsr := k.fcsr ||| BitVec.ofNat 64 (rvFlags x), fs := 3 }

/-! ### F and D (opcodes OP-FP and the fused ones) -/

/-- The rounding mode of a word: its rm field, or frm where that is DYN; none where it names no mode. -/
def Hart.rounding (k : Hart) (rm : Nat) : Option Nat :=
  let m := if rm = 7 then fld k.fcsr 7 5 else rm
  if m ≤ 4 then some m else none

/-- Least and greatest integer of FCVT, by the code in rs2: W, WU, L, LU. -/
def rvRange : Nat → Int × Int
  | 0 => (-(2 ^ 31), 2 ^ 31 - 1) | 1 => (0, 2 ^ 32 - 1) | 2 => (-(2 ^ 63), 2 ^ 63 - 1) | _ => (0, 2 ^ 64 - 1)

/-- The two-operand operation of funct5 that rounds. -/
def rvFop : Nat → Option FloatOp
  | 0 => some opFadd | 1 => some opFsub | 2 => some opFmul | 3 => some opFdiv | _ => none

/-- An F or D word that reads and writes registers alone; none where it is no such word, or FS is off. -/
def Hart.fpWord (k : Hart) (n : Nat) : Option Hart :=
  let d := bits n 25 25 = 1
  let f := if d then fmtD else fmtS
  let rd := bits n 11 7
  let f3 := bits n 14 12
  let r2 := bits n 24 20
  let a := k.fpat d (bits n 19 15)
  let b := k.fpat d r2
  let x := k.reg (bits n 19 15)
  let op := bits n 31 27
  let res := fun (y : Nat × Flags) => (k.fput d rd y.1).accrue y.2
  if k.fs = 0 || bits n 26 26 = 1 then none
  else if bits n 6 0 != 0x53 then
    (k.rounding f3).map (fun rm => res (rvBin (opFused (bits n 3 3 = 1) (bits n 2 2 = 1)) f rm a b (k.fpat d op)))
  else match op with
  | 0x04 => if f3 = 0 then some (k.fput d rd (a % 2 ^ (f.eb + f.fb) + f.signBit (f.sgn b)))
    else if f3 = 1 then some (k.fput d rd (a % 2 ^ (f.eb + f.fb) + f.signBit (!f.sgn b)))
    else if f3 = 2 then some (k.fput d rd (a % 2 ^ (f.eb + f.fb) + f.signBit (f.sgn a != f.sgn b))) else none
  | 0x05 => if f3 < 2 then some (res (opFminmax (f3 = 1) f .rne a b 0)) else none
  | 0x0B => if r2 = 0 then (k.rounding f3).map (fun rm => res (rvBin opFsqrt f rm a 0 0)) else none
  | 0x08 => if r2 = (if d then 0 else 1) then (k.rounding f3).map (fun rm => res (rvConv (if d then fmtS else fmtD) f rm (k.fpat (!d) (bits n 19 15)))) else none
  | 0x14 => if f3 < 3 then let y := rvFcmp f f3 a b
                           some ((k.put rd (BitVec.ofNat 64 y.1.toNat)).accrue y.2) else none
  | 0x18 => if r2 < 4 then (k.rounding f3).map (fun rm =>
        let y := rvToInt f rm a (rvRange r2).1 (rvRange r2).2
        (k.put rd (if r2 < 2 then (BitVec.ofInt 32 y.1).signExtend 64 else BitVec.ofInt 64 y.1)).accrue y.2) else none
  | 0x1A => if r2 < 4 then (k.rounding f3).map (fun rm =>
        res (rvFromInt f rm (match r2 with
          | 0 => (x.setWidth 32).toInt
          | 1 => (x.setWidth 32).toNat
          | 2 => x.toInt
          | _ => x.toNat))) else none
  | 0x1C => if r2 != 0 then none
    else if f3 = 0 then some (k.put rd (if d then sget k.f (bits n 19 15) else ((sget k.f (bits n 19 15)).setWidth 32).signExtend 64))
    else if f3 = 1 then some (k.put rd (BitVec.ofNat 64 (rvClass f a))) else none
  | 0x1E => if r2 = 0 && f3 = 0 then some (k.fput d rd (if d then x.toNat else x.toNat % 2 ^ 32)) else none
  | op => (rvFop op).bind (fun o => (k.rounding f3).map (fun rm => res (rvBin o f rm a b 0)))

/-! ### Compressed words -/

/-- Words of the I, S, R, B, U and J formats. -/
def rvWordI (imm rs f3 rd op : Nat) : BitVec 32 := pack 32 [(20, 12, imm), (15, 5, rs), (12, 3, f3), (7, 5, rd), (0, 7, op)]
def rvWordS (imm r2 rs f3 op : Nat) : BitVec 32 := pack 32 [(25, 7, imm / 32), (20, 5, r2), (15, 5, rs), (12, 3, f3), (7, 5, imm), (0, 7, op)]
def rvWordR (f7 r2 rs f3 rd op : Nat) : BitVec 32 := pack 32 [(25, 7, f7), (20, 5, r2), (15, 5, rs), (12, 3, f3), (7, 5, rd), (0, 7, op)]
def rvWordB (imm r2 rs f3 : Nat) : BitVec 32 :=
  pack 32 [(31, 1, imm / 4096), (25, 6, imm / 32), (20, 5, r2), (15, 5, rs), (12, 3, f3), (8, 4, imm / 2), (7, 1, imm / 2048), (0, 7, 0x63)]
def rvWordJ (imm rd : Nat) : BitVec 32 :=
  pack 32 [(31, 1, imm / 2 ^ 20), (21, 10, imm / 2), (20, 1, imm / 2048), (12, 8, imm / 4096), (7, 5, rd), (0, 7, 0x6F)]

/-- A number put together from bit ranges of a word: (high, low, place). -/
def rvBits (c : Nat) (l : List (Nat × Nat × Nat)) : Nat := l.foldl (fun x e => x + bits c e.1 e.2.1 * 2 ^ e.2.2) 0
/-- An immediate of n bits, with its sign, as a number of 32 bits. -/
def sext32 (n x : Nat) : Nat := (BitVec.ofInt 32 (toSigned n x)).toNat

/-- The word that a compressed word stands for; none where it stands for none. -/
def rvExpand (c : Nat) : Option (BitVec 32) :=
  let rd := bits c 11 7
  let r2 := bits c 6 2
  let x := bits c 9 7 + 8
  let y := bits c 4 2 + 8
  let i6 := sext32 6 (rvBits c [(12, 12, 5), (6, 2, 0)])
  let sh := rvBits c [(12, 12, 5), (6, 2, 0)]
  let o4 := rvBits c [(12, 10, 3), (6, 6, 2), (5, 5, 6)]
  let o8 := rvBits c [(12, 10, 3), (6, 5, 6)]
  let l4 := rvBits c [(12, 12, 5), (6, 4, 2), (3, 2, 6)]
  let l8 := rvBits c [(12, 12, 5), (6, 5, 3), (4, 2, 6)]
  let s4 := rvBits c [(12, 9, 2), (8, 7, 6)]
  let s8 := rvBits c [(12, 10, 3), (9, 7, 6)]
  let br := sext32 9 (rvBits c [(12, 12, 8), (11, 10, 3), (6, 5, 6), (4, 3, 1), (2, 2, 5)])
  match c % 4, bits c 15 13 with
  | 0, 0 => let i := rvBits c [(12, 11, 4), (10, 7, 6), (6, 6, 2), (5, 5, 3)]
            if i = 0 then none else some (rvWordI i 2 0 y 0x13)
  | 0, 1 => some (rvWordI o8 x 3 y 0x07)
  | 0, 2 => some (rvWordI o4 x 2 y 0x03)
  | 0, 3 => some (rvWordI o8 x 3 y 0x03)
  | 0, 5 => some (rvWordS o8 y x 3 0x27)
  | 0, 6 => some (rvWordS o4 y x 2 0x23)
  | 0, 7 => some (rvWordS o8 y x 3 0x23)
  | 1, 0 => some (rvWordI i6 rd 0 rd 0x13)
  | 1, 1 => if rd = 0 then none else some (rvWordI i6 rd 0 rd 0x1B)
  | 1, 2 => some (rvWordI i6 0 0 rd 0x13)
  | 1, 3 =>
    if sh = 0 then none
    else if rd = 2 then some (rvWordI (sext32 10 (rvBits c [(12, 12, 9), (6, 6, 4), (5, 5, 6), (4, 3, 7), (2, 2, 5)])) 2 0 2 0x13)
    else some (pack 32 [(12, 20, i6), (7, 5, rd), (0, 7, 0x37)])
  | 1, 4 => match bits c 11 10 with
    | 0 => some (rvWordI sh x 5 x 0x13)
    | 1 => some (rvWordI (0x400 + sh) x 5 x 0x13)
    | 2 => some (rvWordI i6 x 7 x 0x13)
    | _ => match bits c 12 12, bits c 6 5 with
      | 0, 0 => some (rvWordR 0x20 y x 0 x 0x33)
      | 0, 1 => some (rvWordR 0 y x 4 x 0x33)
      | 0, 2 => some (rvWordR 0 y x 6 x 0x33)
      | 0, _ => some (rvWordR 0 y x 7 x 0x33)
      | _, 0 => some (rvWordR 0x20 y x 0 x 0x3B)
      | _, 1 => some (rvWordR 0 y x 0 x 0x3B)
      | _, _ => none
  | 1, 5 => some (rvWordJ (sext32 12 (rvBits c [(12, 12, 11), (11, 11, 4), (10, 9, 8), (8, 8, 10), (7, 7, 6), (6, 6, 7), (5, 3, 1), (2, 2, 5)])) 0)
  | 1, 6 => some (rvWordB br 0 x 0)
  | 1, _ => some (rvWordB br 0 x 1)
  | 2, 0 => some (rvWordI sh rd 1 rd 0x13)
  | 2, 1 => some (rvWordI l8 2 3 rd 0x07)
  | 2, 2 => if rd = 0 then none else some (rvWordI l4 2 2 rd 0x03)
  | 2, 3 => if rd = 0 then none else some (rvWordI l8 2 3 rd 0x03)
  | 2, 4 =>
    if bits c 12 12 = 0 then
      (if r2 != 0 then some (rvWordR 0 r2 0 0 rd 0x33) else if rd = 0 then none else some (rvWordI 0 rd 0 0 0x67))
    else if r2 != 0 then some (rvWordR 0 r2 rd 0 rd 0x33)
    else if rd = 0 then some 0x00100073 else some (rvWordI 0 rd 0 1 0x67)
  | 2, 5 => some (rvWordS s8 r2 2 3 0x27)
  | 2, 6 => some (rvWordS s4 r2 2 2 0x23)
  | 2, 7 => some (rvWordS s8 r2 2 3 0x23)
  | _, _ => none

end Sys2Proof.Machine
end

