-- ==== Sys2Proof/Machine/Harts.lean ====
section
/-! DEFINITION. RV64 harts: translation, instruction fetch, memory accesses, interrupts (R98, R117, R225, R258, R259,
R300 to R303, R320, R325, R326, R340, R341, R421), and host RDMA (R111, R358). -/

namespace Sys2Proof.Machine

/-- Whether a hart is an Ostler, and its core (R340). -/
def ostlerCore (h : Nat) : Option Nat := if 16 ≤ h then some (h - 16) else none
/-- The die whose TLB a hart's own TLB misses to: an Ostler its cluster's, an application core an I/O die's (R323). -/
def hartDie (h : Nat) : Nat := if 16 ≤ h then clusterOf (h - 16) else ioTlb (h / 8)
/-- The number of a hart's own TLB (R323). -/
def hartTlb (h : Nat) : Nat := 64 + h

/-- Physical address of the Ostlers' private region (R341). -/
def privBase : Nat := 0x1000000000000
def inPriv (pa : Nat) : Bool := privBase ≤ bits pa 48 0 && bits pa 48 0 < privBase + 0x440000

/-- The privilege mode in which a hart accesses data: MPRV names that of MPP (R340, R341). -/
def Hart.dataMode (k : Hart) (acc : Access) : Mode := if acc != .xfetch && k.mode == .m && k.mprv then k.mpp else k.mode

/-- Whether a hart's address is not translated: machine mode, or `satp` MODE 0 (R320, R340). -/
def Hart.bare (k : Hart) (acc : Access) : Bool := k.dataMode acc == .m || fld k.satp 63 60 = 0

/-- The partition for which a hart accesses memory: an application core's own, or the one whose root an Ostler's `satp` names where
it translates (R320; DEDUCED, log 85); 64 where there is none. -/
def State.hartPart (s : State) (k : Hart) (acc : Access) : Nat :=
  k.part.getD (if k.bare acc then 64 else (s.rootParts (fld k.satp 39 0 * 4096)).headD 64)

/-- The undo-log writer of a hart (R370); one of no partition writes for none, and no log records it. -/
def State.hartWriter (s : State) (h : Nat) (k : Hart) (kind : Nat) (va : Option Nat := none) : Writer :=
  { part := s.hartPart k .store, kind := kind, src := h, hart := true, own := k.slot, va := va }

/-- A miss of a hart's own TLB (R323). -/
def State.hartMiss (s : State) (h part : Nat) (acc : Access) (va : Nat) : Xlate × State :=
  let r := s.translate (hartDie h) part (fld (s.hart h).satp 39 0 * 4096) acc (va % 2 ^ 56) (if 16 ≤ h then h - 16 else 0)
  match r.1, tlbFind (r.2.tlb (hartDie h)) part (va % 2 ^ 56) with
  | .ok pa, some e => (.ok pa, r.2.tlbFill (hartTlb h) e)
  | x, _ => (x, r.2)

/-- An address that is not translated, and names no memory: an access fault (R70, R421). -/
def Hart.wild (k : Hart) (acc : Access) (va : Nat) : Bool := (if k.bare acc then 2 ^ 52 else 2 ^ 56) ≤ va

/-- Translation of a hart's address (R320, R340): by its own TLB, filled from that of its die (R323). -/
def State.hartXlate (s : State) (h : Nat) (acc : Access) (va : Nat) : Xlate × State :=
  let k := s.hart h
  let part := s.hartPart k acc
  if k.bare acc then (.ok (va % 2 ^ 52), s)
  else match tlbFind (s.tlb (hartTlb h)) part (va % 2 ^ 56) with
    | some e =>
      if !isWrite acc || e.wr || (refused acc e.pte).isSome then (e.answer s acc (va % 2 ^ 56), s)
      else s.hartMiss h part acc va
    | none => s.hartMiss h part acc va

/-- The instruction that a hart fetches, or the trap it takes instead (R326, R400). -/
inductive HartFetch
  | word (w : BitVec 32) (s : State)
  | trap (s : State)

/-- Two bytes of an instruction, at an address: a read at its home (R301), which reaches no state of another partition (R422). -/
def State.hartParcel (s : State) (h : Nat) (va : BitVec 64) : HartFetch :=
  if (s.hart h).wild .xfetch va.toNat then .trap (s.hartTrap h 1 va) else
  match s.hartXlate h .xfetch va.toNat with
  | (.bad _, s) => .trap (s.hartTrap h 12 va)
  | (.ok pa, s) =>
    let part := s.hartPart (s.hart h) .xfetch
    if part < 64 && s.tagBad part pa then .trap (s.hartTrap h 1 va) else
    let s := if (kget s.coh.winLines (pa / 256)).isSome then s else (s.touchTag part pa).homeRead (s.hart h).slot pa
    if s.anyPoison (s.locate pa) 2 then .trap ((s.consume part (s.locate pa)).hartTrap h 1 va)
    else .word (BitVec.ofNat 32 (ofBytes (s.readBytes (s.locate pa) 2))) s

/-- The word at a hart's pc: two bytes for a compressed one, whose low two bits are not both set, else four (R340). -/
def State.hartFetch (s : State) (h : Nat) : HartFetch :=
  match s.hartParcel h (s.hart h).pc with
  | .trap s => .trap s
  | .word lo s =>
    if lo.toNat % 4 != 3 then .word lo s
    else match s.hartParcel h ((s.hart h).pc + 2) with
      | .trap s => .trap s
      | .word hi s => .word (lo ||| hi <<< 16) s

/-! ### Memory accesses -/

/-- Whether a hart's Ostler region answers an address (R341): machine mode with MPRV clear, or `satp` MODE 0. -/
def State.privAt (s : State) (h pa : Nat) : Option Nat :=
  let k := s.hart h
  match ostlerCore h with
  | some core => if inPriv pa && pkgOf pa == s.clock.pkgid && ((k.mode == .m && !k.mprv) || fld k.satp 63 60 = 0) then some core else none
  | none => none

/-- mcause of a fault of an access: page fault, misaligned address, access fault (R326, R421, R422). -/
def faultCause (op : HartOp) (page misaligned access : Nat × Nat × Nat) (n : Nat) : Nat :=
  let x := match n with
    | 0 => page
    | 1 => misaligned
    | _ => access
  match op with
  | .load | .lr => x.1
  | .fetch => x.2.2
  | _ => x.2.1
def causePage (op : HartOp) : Nat := faultCause op (13, 15, 12) (4, 6, 0) (5, 7, 1) 0
def causeAlign (op : HartOp) : Nat := faultCause op (13, 15, 12) (4, 6, 0) (5, 7, 1) 1
def causeAccess (op : HartOp) : Nat := faultCause op (13, 15, 12) (4, 6, 0) (5, 7, 1) 2

/-- The kind of access that translation tests. -/
def hartAcc : HartOp → Access
  | .load | .lr => .load
  | .store => .store
  | .fetch => .xfetch
  | _ => .atomic

/-- A loaded value as the register takes it. -/
def extLoad (a : HartAcc) (x : Nat) : BitVec 64 := if a.sext then BitVec.ofInt 64 (toSigned (8 * a.size) x) else BitVec.ofNat 64 x

/-- Bytes of the word of an access. -/
def accLen (a : HartAcc) : BitVec 64 := if a.comp then 2 else 4
/-- The data that an access stores. -/
def Hart.src (k : Hart) (a : HartAcc) : BitVec 64 := if a.fp then sget k.f a.rs.toNat else k.reg a.rs.toNat

/-- The access is done: the result goes to rd and the hart goes on. -/
def State.hartDone (s : State) (a : HartAcc) (v : Option (BitVec 64)) : State :=
  s.modHart a.hart (fun k => let k := match v with
      | some x => if a.fp then k.fput (a.size == 8) a.rd.toNat x.toNat else k.put a.rd.toNat x
      | none => k
    { k with pc := k.pc + accLen a })

/-- Byte `j` of an access at offset `o` of a sector: what the transaction has buffered there, else `x` (R300). -/
def bufByte (buf : BitVec 64 × BitVec 512) (o j : Nat) (x : Byte) : Byte :=
  if buf.1.getLsbD (o + j) then BitVec.ofNat 8 (fld buf.2 (8 * (o + j) + 7) (8 * (o + j))) else x

/-- The bytes of a transactional store go to the hart's write buffer (R300). -/
def Hart.buffer (k : Hart) (va pa size d : Nat) : Hart :=
  let buf := (kget k.wbuf (pa / 64)).getD (0, 0)
  let o := pa % 64
  { k with bufVa := kset k.bufVa (pa / 64) va, wbuf := kset k.wbuf (pa / 64) ((List.range size).foldl (fun m j => m ||| BitVec.ofNat 64 (2 ^ (o + j))) buf.1, setFld buf.2 (8 * o) (8 * size) d) }

/-- Whether the write buffer has no room for a sector. -/
def Hart.bufFull (k : Hart) (pa : Nat) : Bool := (kget k.wbuf (pa / 64)).isNone && 128 ≤ k.wbuf.length

/-- A transactional access of a hart (R259, R300 to R303). -/
def State.hartTx (s : State) (h : Nat) (a : HartAcc) (pa : Nat) : State :=
  let k := s.hart h
  let wr := a.op == .store
  let sl := s.homeSlice pa
  let sec := pa / 64
  if s.isPeer pa then s.abortHart h 5 0
  else if (kget s.coh.winLines (pa / 256)).isSome then s.abortHart h 11 0
  else if wr && k.bufFull pa then s.abortHart h 4 0
  else if s.sigWaits k.slot pa wr then s
  else
    let part := s.hartPart k (hartAcc a.op)
    let s := (s.touchTag part pa).conflict k.slot pa wr
    let s := match k.slot with
      | some n => s.setTix { s.tix with sigs := sset s.tix.sigs (sigKey n sl wr) (sigAdd (sget s.tix.sigs (sigKey n sl wr)) pa) }
      | none => s
    let s := s.modHart h (fun k => { k with slices := k.slices ||| BitVec.ofNat 32 (2 ^ sl), txVas := nins k.txVas a.va.toNat })
    let buf := (kget k.wbuf sec).getD (0, 0)
    let o := pa % 64
    if wr then (((s.rowsDrop sec).dirTake sec).modHart h (fun k => k.buffer a.va.toNat pa a.size (k.src a).toNat)).hartDone a none
    else
      let s := s.dirShare sec
      let byte := fun j => bufByte buf o j (s.readByte (.glob (pa + j)))
      if (List.range a.size).any (fun j => !buf.1.getLsbD (o + j) && s.isPoison (.glob (pa + j))) then
        (s.consume part (.glob pa)).hartTrap h 5 a.va
      else s.hartDone a (some (extLoad a (ofBytes ((List.range a.size).map byte))))

/-- The 64-bit or 32-bit integer type of an AMO. -/
def amoType (size : Nat) (op : Aop) (uns : Bool := false) : Typ := match size, op, uns with
  | 8, .min, false | 8, .max, false => .i64
  | 8, _, _ => .n64
  | _, .min, false | _, .max, false => .i32
  | _, _, _ => .n32

/-- Whether a release of a hart acts at NODE scope (R117). -/
def Hart.nodeRelease (k : Hart) (a : HartAcc) : Bool :=
  k.sentPeer && (match a.op with
    | .fence _ w _ => w
    | .amo _ | .sc => a.rl
    | _ => false)

/-- A NODE-scope release of a hart waits as R116 gives before it is performed. -/
def State.nodeWait (s : State) (h : Nat) (k : Hart) : Option State :=
  match k.relWin with
  | none => if s.clock.unsync then none else some (s.setHart h { k with relWin := some s.window })
  | some n => if s.holdOver n then none else some s

/-- An access outside transactions, once translated (R98, R117). LR is performed as an atomic is, at its home with every copy
invalidated, and so is an SC that holds its reservation (R92, R98). The range scoreboard of a window stalls the accesses of groups, of the matrix unit and of engines;
R83 does not name a hart's, which goes through (DESIGN CHOICE, log 84). -/
def State.hartPlain (s : State) (h : Nat) (a : HartAcc) (pa : Nat) : State :=
  let k := s.hart h
  let p := Place.glob pa
  let part := s.hartPart k (hartAcc a.op)
  let w := s.hartWriter h k 0 (some a.va.toNat)
  let peer := s.isPeer pa
  let s := if a.aq && peer then s.leaseAcquire else s
  match a.op with
  | .load =>
    let s := (s.touchTag part pa).loadEffects none none pa
    if s.loadPoison p a.size then (s.consume part (s.locate pa)).hartTrap h 5 a.va
    else s.hartDone a (some (extLoad a (ofBytes (s.loadValue p a.size))))
  | .lr =>
    let q := s.locate pa
    let s := (s.touchTag part pa).atHome none q
    if s.anyPoison q a.size then (s.consume part q).hartTrap h 5 a.va
    else (s.modHart h (fun k => { k with resv := some (pa / 64) })).hartDone a (some (extLoad a (ofBytes (s.readBytes q a.size))))
  | .store =>
    ((s.write w none p (toBytes a.size (k.src a).toNat)).modHart h (fun k => { k with
      sentPeer := k.sentPeer || peer, relWin := if peer then none else k.relWin })).hartDone a none
  | .sc =>
    if k.resv == some (pa / 64) then
      (((s.atHome none (s.locate pa)).write w none p (toBytes a.size (k.src a).toNat)).modHart h (fun k => { k with
        resv := none, relWin := none, sentPeer := if a.rl then peer else k.sentPeer || peer })).hartDone a (some 0)
    else (s.modHart h (fun k => { k with resv := none, relWin := none })).hartDone a (some 1)
  | .amo op =>
    let r := s.atomicAt w p op (amoType a.size op a.uns) (k.reg a.rs.toNat).toNat 0
    if r.2.2.1 then r.2.2.2.hartTrap h 7 a.va
    else ((r.2.2.2.touchTag part pa).modHart h (fun k => { k with relWin := none, sentPeer := if a.rl then peer else k.sentPeer || peer })).hartDone a (some (extLoad { a with sext := true } r.1))
  | .fence _ _ _ | .fetch => s

/-- RV64_MEMORY_ACCESS (R98, R117, R259, R341): one access of a hart. Misaligned addresses trap, and addresses that are not translated
take an access fault (R70, R421); AMO, LR and SC in a transaction abort it with ILLEGAL, and a FENCE there has no effect. A FENCE
raised to NODE scope whose successor set holds reads is also an acquire there (R91, R116; DEDUCED, log 85). In a transaction a store to
the private region is buffered as every other is (R259). -/
def execRv64MemoryAccess (a : HartAcc) (s : State) : Host.Outcome State Fault Refusal :=
  let h := a.hart
  let k := s.hart h
  let tx := k.ckpt.isSome
  if k.ending.isSome || s.tix.reqs.any (fun q => q.who == .hart h) then .next s
  else match a.op with
  | .fence _ _ n =>
    if tx then .next (s.hartDone a none)
    else if k.nodeRelease a then
      match s.nodeWait h k with
      | some s => .next s
      | none =>
        let s := if n then s.leaseAcquire else s
        .next ((s.setHart h { k with relWin := none, sentPeer := false }).hartDone a none)
    else .next (s.hartDone a none)
  | op =>
    if tx && !(op == .load || op == .store || op == .fetch) then .next (s.abortHart h 6 0)
    else if a.va.toNat % a.size != 0 && op != .fetch then .next (s.hartTrap h (causeAlign op) a.va)
    else if k.wild (hartAcc op) a.va.toNat then .next (s.hartTrap h (causeAccess op) a.va)
    else match s.hartXlate h (hartAcc op) a.va.toNat with
      | (.bad _, s) => .next (s.hartTrap h (causePage op) a.va)
      | (.ok pa, s) =>
        match s.privAt h pa with
        | some core =>
          let off := pa % 2 ^ 49 - privBase
          if op == .load then
            let v := ofBytes ((List.range a.size).map (fun j => bufByte ((kget k.wbuf (pa / 64)).getD (0, 0)) (pa % 64) j (s.privByte core (off + j))))
            let s := if crosses off a.size 0x412007 1 then s.modCore core (fun c => { c with mapDone := false }) else s
            .next (s.hartDone a (some (extLoad a v)))
          else if tx && op == .store then
            .next (if k.bufFull pa then s.abortHart h 4 0 else (s.modHart h (fun k => k.buffer a.va.toNat pa a.size (k.src a).toNat)).hartDone a none)
          else if op == .store then .next ((s.privWrite core off (toBytes a.size (k.src a).toNat)).hartDone a none)
          else .next (s.hartTrap h (causeAccess op) a.va)
        | none =>
          if inPriv pa then .next (s.hartTrap h (causeAccess op) a.va)
          else if s.hartPart k (hartAcc op) < 64 && s.tagBad (s.hartPart k (hartAcc op)) pa then .next (s.hartTrap h (causeAccess op) a.va)
          else if op == .fetch then .next (if s.anyPoison (s.locate pa) a.size then (s.consume (s.hartPart k .xfetch) (s.locate pa)).hartTrap h 1 a.va else s)
          else if tx then .next (s.hartTx h a pa)
          else if s.logHeld pa then .next s
          else if k.nodeRelease a then
            match s.nodeWait h k with
            | some s => .next s
            | none => .next (s.hartPlain h a pa)
          else .next (s.hartPlain h a pa)

/-! ### The commit of a hart transaction -/

/-- Runs of neighbouring offsets, each within 8 bytes. -/
def runsOf : List Nat → List (Nat × Nat)
  | [] => []
  | a :: r => match runsOf r with
    | (b, n) :: t => if b = a + 1 && b % 8 != 0 then (a, n + 1) :: t else (a, 1) :: (b, n) :: t
    | [] => [(a, 1)]

/-- The buffered bytes of a sector of the private region are written as a commit publishes them (R259, R341; DEDUCED, log 85). -/
def State.privCommit (s : State) (core pa : Nat) (buf : BitVec 64 × BitVec 512) : State :=
  (runsOf (setBits buf.1)).foldl (fun s r =>
    s.privWrite core (pa % 2 ^ 49 - privBase + r.1) ((List.range r.2).map (fun j => bufByte buf r.1 j 0))) s

/-- Publication of a hart's commit (R259, R302), which waits where the undo log has no room for all of it (R305, R374). -/
def State.hartDecision (s : State) (h : Nat) (t : BitVec 48) : State :=
  let k := s.hart h
  let w := s.hartWriter h k 2
  let by_ := fun (sec : Nat) => { w with va := kget k.bufVa sec }
  let secs := (k.wbuf.filter (fun e => !inPriv (64 * e.1))).map (fun e => (by_ e.1, 64 * e.1))
  if k.ending != some t.toNat || k.ckpt.isNone then s.decided t
  else if !s.logFits secs then s.logFull secs
  else
    let s : State := k.wbuf.foldl (fun (s : State) e =>
      if inPriv (e.1 * 64) then s.privCommit (h - 16) (e.1 * 64) e.2
      else s.writeSector (by_ e.1) none (.glob (e.1 * 64)) ((setBits e.2.1).map (fun j => (j, BitVec.ofNat 8 (fld e.2.2 (8 * j + 7) (8 * j)))))) s
    let s : State := match k.slot with
      | some slot => s.freeSlot slot
      | none => s
    let s : State := if s.tix.token = some (.hart h) then s.setTix { s.tix with token := none } else s
    (s.modHart h (fun k => { k.put k.endRd (t.zeroExtend 64) with
      pc := k.pc + 4, ckpt := none, slot := none, slices := 0, wbuf := [], txVas := [], bufVa := [], count := 0, status := txWord 0 0 0 false false true,
      serial := false, ending := none })).decided t

/-- HART_COMMIT_PUBLISH (R302): the lowest ticket outstanding, if it is a hart's, is decided. -/
def execHartCommitPublish (s : State) : Host.Outcome State Fault Refusal :=
  match s.tix.out with
  | (t, .hart h) :: _ => .next (if s.tix.token.isNone || s.tix.token == some (.hart h) then s.hartDecision h t else s)
  | _ => .next s

/-! ### Interrupts -/

/-- Whether an Ostler's machine external interrupt is pending: a group event, a request or a mapping completion is
unread (R340). -/
def State.meip (s : State) (core : Nat) : Bool :=
  let k := s.core core
  k.evHead != k.evTail || k.reqHead != k.reqTail || k.mapDone

/-- Whether an application core's supervisor external interrupt is pending: TAIL of its partition's service ring
differs from HEAD (R225). -/
def State.seip (s : State) (part : Nat) : Bool :=
  match (s.part? part).bind (·.sring) with
  | none => false
  | some r => match s.hwWord part r.base, s.hwWord part (r.base - 64) with
    | some (t, _), some (hd, _) => t != hd
    | _, _ => false

/-- The register `mip`: what software has set, and the external interrupt of the hart (R225, R340). -/
def State.mip (s : State) (hart : Nat) : BitVec 64 :=
  let k := s.hart hart
  k.mipr ||| (match ostlerCore hart with
    | some core => if s.meip core then 0x800 else 0
    | none => if (k.part.map (fun p => s.seip p)).getD false then 0x200 else 0)

/-- The interrupt that a hart takes: pending, enabled, and permitted by the mode and its enable bit; those of machine mode before
those delegated, each in the order that RISC-V gives (PRESUMED, log 54). -/
def State.interruptDue (s : State) (hart : Nat) : Option Nat :=
  let k := s.hart hart
  let p := s.mip hart &&& k.mier
  let order := [11, 3, 7, 9, 1, 5].filter (fun n => p.getLsbD n)
  match order.find? (fun n => !k.mideleg.getLsbD n && (k.mode != .m || k.mie)) with
  | some n => some n
  | none => order.find? (fun n => k.mideleg.getLsbD n && (k.mode == .u || (k.mode == .s && k.sie)))

/-- HART_INTERRUPT (R225, R258, R340): a pending interrupt is taken where its enables and the privilege mode permit; a transaction
first aborts with STOP. -/
def execHartInterrupt (hart : Nat) (s : State) : Host.Outcome State Fault Refusal :=
  .next (match s.interruptDue hart with
    | some n => s.hartTrap hart (2 ^ 63 + n) 0
    | none => s)

/-! ### Host RDMA (R358) -/

/-- The region that an RKEY names, with its partition. -/
def State.regionOf (s : State) (rkey : BitVec 32) : Option (Nat × Region) :=
  (s.parts.flatMap (fun e => e.2.exposed.map (fun r => (e.1, r.2)))).find? (fun x => x.2.rkey == rkey)

/-- Answers a host's RDMA request. -/
def State.rdmaAnswer (s : State) (n : Nat) (data : List Byte) : State := s.setRpc { s.rpc with rdmaOut := s.rpc.rdmaOut ++ [(n, data)] }

/-- An RDMA access of `n` bytes: the pieces of its range, or the NAK it gets (R358, R421, R422). `bit` is the access
bit of MEM_EXPOSE; writes into a partition that advances its undo window wait (R371), and so do those to a sector at whose home a
write waits for log space (R374). The network and storage engine is on I/O die 1 (R4). -/
def State.rdma (s : State) (rkey : BitVec 32) (va : BitVec 64) (n bit : Nat) (acc : Access) (f : Nat → List (Place × Nat) → State → State) : State :=
  match s.regionOf rkey with
  | none => s.rdmaAnswer 1 []
  | some (part, r) =>
    let a := va.toNat
    if !r.bits.getLsbD bit || a < r.base || r.base + r.len < a + n || (bit = 2 && a % 8 != 0) then s.rdmaAnswer 1 []
    else if isWrite acc && (((s.part? part).map (·.halted)).getD false) then s
    else if isWrite acc && (((s.log? part).map (·.full)).getD false) then s.rdmaAnswer 3 []
    else
      let sp := s.spans (ioTlb 1) 0 part acc (.glob va) (chunks a n)
      match sp.page with
      | some x => (sp.s.postFault (ioTlb 1) part (faultRecord x 0xFFFF 0 0 0 part 0 0)).rdmaAnswer 1 []
      | none =>
        if sp.viol then sp.s.rdmaAnswer 1 []
        else if isWrite acc && sp.ok.any (fun x => match s.behindWindow x.1 with
          | .glob pa => s.logHeld pa
          | _ => false) then s
        else f part sp.ok sp.s

/-- RDMA_READ (R358). -/
def execRdmaRead (rkey : BitVec 32) (va : BitVec 64) (len : Nat) (s : State) : Host.Outcome State Fault Refusal :=
  .next (s.rdma rkey va len 0 .engRead (fun part l s =>
    let x := s.readSpans part l
    if x.1.any (·.2) then x.2.rdmaAnswer 2 [] else x.2.rdmaAnswer 0 (x.1.map (·.1))))

/-- RDMA_WRITE (R111, R358): relaxed writes, ended by a release at PACKAGE scope. The spec orders the writes of one message among
themselves in no way; here they are performed as one step (DESIGN CHOICE, log 7). -/
def execRdmaWrite (rkey : BitVec 32) (va : BitVec 64) (data : List Byte) (s : State) : Host.Outcome State Fault Refusal :=
  .next (s.rdma rkey va data.length 1 .engWrite (fun part l s =>
    (s.writeSpans { part := part, kind := 3, va := some va.toNat } l ((chunks va.toNat data.length).map (·.1)) (data.map (fun b => (b, false)))).rdmaAnswer 0 []))

/-- RDMA_ATOMIC (R358): an 8-byte fetch-and-add of `x`, or compare-and-swap of comparand `x` and new value `y`. -/
def execRdmaAtomic (rkey : BitVec 32) (va : BitVec 64) (cas : Bool) (x y : BitVec 64) (s : State) : Host.Outcome State Fault Refusal :=
  .next (s.rdma rkey va 8 2 .engWrite (fun part l s =>
    match l with
    | (p, _) :: _ =>
      let r := s.atomicAt { part := part, kind := 3, va := some va.toNat } p (if cas then .cas else .add) .n64 x.toNat y.toNat
      if r.2.2.1 then r.2.2.2.rdmaAnswer 2 [] else r.2.2.2.rdmaAnswer 0 (toBytes 8 r.1)
    | [] => s))

end Sys2Proof.Machine
end

