-- ==== Sys2Proof/Machine/Matrix.lean ====
section
/-! DEFINITION. The matrix instructions of format T (R262 to R279). -/

namespace Sys2Proof.Machine

/-- The core tile that a team tile names, and the core's metadata register (R263). -/
def State.coreTile (s : State) (i : Issue) (t : Nat) : Option Nat := (s.team? (i.g.tk i.gk)).bind (fun x => (setBits x.tiles)[t]?)
def State.coreMeta (s : State) (i : Issue) (m : Nat) : Option Nat := (s.team? (i.g.tk i.gk)).bind (fun x => x.mbase[m]?)

/-- `n` consecutive vector registers. -/
def vrun (r : BitVec 8) (n : Nat) : List Nat := (List.range n).map (fun q => r.toNat + q)

/-- The scalar pair that a register field names. -/
def Group.pair (g : Group) (r : BitVec 8) : BitVec 64 × BitVec 64 := (g.sr r.toNat, g.sr (r.toNat + 1))

/-- A name beyond the grant (R263, SUBC 3). -/
def tileFault (t : Nat) (s : State) (i : Issue) : List Flt :=
  if i.exe != 0 && (s.coreTile i t).isNone then [{ subc := 3, lanes := i.exe }] else []

/-- The holder of a core tile's token (R277). -/
def State.holder (s : State) (gk tile : Nat) : Option Nat := kget (s.core (coreOf gk)).token tile

/-- A scratchpad operand's faults: pair fields (SUBC 10), else a byte outside the allocation (R268, R269, R420). -/
def pairFault (t : Typ) (k : Nat) (sparse : Bool) (size : Nat) (p : BitVec 64 × BitVec 64) (m : LaneMask) : List Flt :=
  if pairBad t sparse p then [{ subc := 10, lanes := m }]
  else if pairOut t k sparse size p then [{ event := 15, subc := 3, lanes := m }] else []

/-- Illegal uses of a matrix operation (R292). -/
def matFaults (o : TOps) (sparse : Bool) (s : State) (i : Issue) : List Flt :=
  if i.exe = 0 then []
  else
    let t := s.team? (i.g.tk i.gk)
    let k := matK o.ta o.tb
    tileFault o.tile.toNat s i
    ++ (if sparse && ((s.coreMeta i o.ma.toNat).isNone || (s.coreMeta i o.mb.toNat).isNone) then [{ subc := 3, lanes := i.exe }] else [])
    ++ (match s.coreTile i o.tile.toNat with
        | some c => if s.holder i.gk c == some i.gk then [{ subc := 2, lanes := i.exe }] else []
        | none => [])
    ++ (if o.pairA then pairFault o.ta k sparse (4096 * (t.map (·.asize)).getD 0) (i.g.pair o.ar) i.exe else [])
    ++ (if o.regB then [] else pairFault o.tb k sparse (4096 * (t.map (·.wsize)).getD 0) (i.g.pair o.br) i.exe)

/-- Stalls of acceptance (R32, R276): a full queue or counter, a team that a swap saves, a token elsewhere, a waiting TKACQ. -/
def State.matHold (s : State) (i : Issue) (tile : Option Nat) : Bool :=
  63 ≤ i.g.tc || ((s.part? i.g.part).map (fun p => p.swapOut.isSome)).getD false || Config.mqEntries ≤ ((s.core (coreOf i.gk)).mq.filter (fun m => !m.stopped)).length ||
  match tile with
  | none => false
  | some t => (s.holder i.gk t).isSome ||
      s.groups.any (fun e => coreOf e.1 == coreOf i.gk && e.2.st == .running && (e.2.stamp.map (·.2)) == some t)

/-- Blocks that a run of vector registers meets, as a mask of blocks 1 to 3 and 0 (R222). -/
def runBlocks (l : List Nat) : BitVec 4 := l.foldl (fun m r => m ||| BitVec.ofNat 4 (2 ^ (r / 64))) 0

/-- Accepts an operation (R112, R276): registers and local spaces are kept as they stand, with the group's earlier
stores still in flight; `tc` rises. -/
def State.matAccept (s : State) (i : Issue) (regs : List Nat) (o : MatOp) : State :=
  let c := s.core (coreOf i.gk)
  let pend := (i.g.ops.filter (fun p => p.kind == .store || p.kind == .release)).flatMap (fun p => p.accs.flatMap (fun a =>
    (List.range a.size).map (fun j => ((match a.place with
      | .glob pa => s.locate pa
      | q => q).add j, BitVec.ofNat 8 (fld a.data (8 * j + 7) (8 * j))))))
  let fresh := fun (w : Bool) (m : SMap 8) => pend.foldl (fun m e => match e.1 with
    | .aspc k off => if !w && k = coreOf i.gk then sset m off e.2 else m
    | .wspc k off => if w && k = coreOf i.gk then sset m off e.2 else m
    | .glob _ => m) m
  let op := { o with
    gk := i.gk, tk := i.g.tk i.gk, exe := i.exe, regs := i.g.v.filter (fun e => regs.contains (e.1 / 32)),
    old := i.g.oldv.filter (fun e => regs.contains (e.1 / 32)), blocks := runBlocks regs,
    aOld := fresh false c.a, wOld := fresh true c.w, issued := i.g.nextOp, pick := s.clock.free }
  ((s.setClock { s.clock with free := s.clock.free + 2 ^ 21 }).modCore (coreOf i.gk) (fun c => { c with mq := c.mq ++ [op] })).modGroup i.gk
    (fun g => { g with tc := g.tc + 1, nextOp := g.nextOp + 1, oldv := [] })

/-- A matrix operation: MMA, MMAS, MMAB (R270 to R272, R276). -/
def matOp (opc : Nat) (kind : MatKind) (h : Hdr) (o : TOps) (s : State) : Host.Outcome State Fault Refusal :=
  let ra := if o.pairA then [] else vrun o.ar (matRegs o.ta o.tb o.ta)
  let rb := if o.regB then vrun o.br (matRegs o.ta o.tb o.tb) else []
  let sparse := kind = .mmas
  perform s h { len := 8, opc := opc, roles := [.matrix], v := ra ++ rb, noTx := true, access := true,
                s := (if o.pairA then [o.ar.toNat, o.ar.toNat + 1] else []) ++ (if o.regB then [] else [o.br.toNat, o.br.toNat + 1]) }
    (matFaults o sparse)
    (fun s i => if i.exe != 0 && s.matHold i (s.coreTile i o.tile.toNat) then some s else none)
    (fun s i =>
      match s.coreTile i o.tile.toNat with
      | none => s
      | some t => if i.exe = 0 then s
        else (s.matAccept i (ra ++ rb) {
          kind := kind, gk := i.gk, tk := i.g.tk i.gk, tile := t, tname := o.tile.toNat, ta := o.ta, tb := o.tb,
          aReg := if o.pairA then none else some o.ar.toNat, bReg := if o.regB then some o.br.toNat else none,
          aPair := if o.pairA then i.g.pair o.ar else (0, 0), bPair := if o.regB then (0, 0) else i.g.pair o.br,
          ma := (s.coreMeta i o.ma.toNat).getD 0, mb := (s.coreMeta i o.mb.toNat).getD 0 }).commitTo i.gk i.exe (i.pc + 8))

/-- MMA (R270). -/
def execMma (h : Hdr) (o : TOps) (s : State) : Host.Outcome State Fault Refusal := matOp 0xa0 .mma h o s
/-- MMAS (R271). -/
def execMmas (h : Hdr) (o : TOps) (s : State) : Host.Outcome State Fault Refusal := matOp 0xa1 .mmas h o s
/-- MMAB (R272). -/
def execMmab (h : Hdr) (o : TOps) (s : State) : Host.Outcome State Fault Refusal := matOp 0xa2 .mmab h o s

/-- LDMETA (R275). -/
def execLdmeta (h : Hdr) (o : TOps) (s : State) : Host.Outcome State Fault Refusal :=
  let r := o.ar.toNat
  perform s h { len := 8, opc := 0xa3, roles := [.matrix], s := [r], access := true }
    (fun s i =>
      let x := i.g.sr r
      let size := 4096 * ((s.team? (i.g.tk i.gk)).map (·.asize)).getD 0
      if i.exe = 0 then []
      else (if (s.coreMeta i o.ma.toNat).isNone then [{ subc := 3, lanes := i.exe }] else [])
        ++ (if fld x 63 20 != 0 || x.toNat % 64 != 0 then [{ subc := 10, lanes := i.exe }]
            else if size < fld x 19 0 + 256 then [{ event := 15, subc := 3, lanes := i.exe }] else []))
    (fun s i => if i.exe != 0 && s.matHold i none then some s else none)
    (fun s i => if i.exe = 0 then s
      else s.matAccept i [] { kind := .ldmeta, gk := i.gk, tk := i.g.tk i.gk, aPair := (i.g.sr r, 0), ma := (s.coreMeta i o.ma.toNat).getD 0 })

/-- TKACQ (R277): waits for the token, for the tile's operations, and for its turn. -/
def execTkacq (h : Hdr) (o : TOps) (s : State) : Host.Outcome State Fault Refusal :=
  perform s h { len := 8, opc := 0xa4, roles := [.matrix, .general], access := true } (tileFault o.tile.toNat)
    (fun s i =>
      match s.coreTile i o.tile.toNat with
      | none => none
      | some t =>
        if i.exe = 0 || s.holder i.gk t == some i.gk then none
        else if (s.holder i.gk t).isSome || (s.core (coreOf i.gk)).mq.any (fun m => m.onTile (i.g.tk i.gk) t) || s.behind i t then some (s.stamped i.gk t)
        else none)
    (fun s i =>
      match s.coreTile i o.tile.toNat with
      | none => s
      | some t => if i.exe = 0 then s else s.modCore (coreOf i.gk) (fun c => { c with token := kset c.token t i.gk }))

/-- TKREL (R277). -/
def execTkrel (h : Hdr) (o : TOps) (s : State) : Host.Outcome State Fault Refusal :=
  perform s h { len := 8, opc := 0xa5, roles := [.matrix, .general], noTx := true, access := true } (tileFault o.tile.toNat) noHold
    (fun s i =>
      match s.coreTile i o.tile.toNat with
      | none => s
      | some t => if i.exe = 0 then s
        else (if s.holder i.gk t == some i.gk then s.modCore (coreOf i.gk) (fun c => { c with token := kdel c.token t }) else s).commitTo i.gk i.exe (i.pc + 8))

/-- Faults of ACCLD, ACCST and ACCZ: a name beyond the grant, or the token not held (R263, R278). -/
def accFaults (o : TOps) (s : State) (i : Issue) : List Flt :=
  tileFault o.tile.toNat s i ++ (match s.coreTile i o.tile.toNat with
    | some t => if i.exe != 0 && s.holder i.gk t != some i.gk then [{ subc := 2, lanes := i.exe }] else []
    | none => [])

/-- Accumulator word and register word of lane l and register q of the run (R278). -/
def accKey (t l q : Nat) : Nat := 4096 * t + 64 * (2 * l + q / 64) + q % 64
def accPairs (t r : Nat) (m : LaneMask) : List (Nat × Nat) :=
  (lanesOf m).flatMap (fun l => (List.range 128).map (fun q => (accKey t l q, 32 * (r + q) + l)))

/-- ACCLD (R278). -/
def execAccld (h : Hdr) (o : TOps) (s : State) : Host.Outcome State Fault Refusal :=
  perform s h { len := 8, opc := 0xa6, roles := [.matrix, .general], v := vrun o.ar 128, access := true } (accFaults o) noHold
    (fun s i => match s.coreTile i o.tile.toNat with
      | none => s
      | some t =>
        let c := s.core (coreOf i.gk)
        let l := accPairs t o.ar.toNat i.exe
        let bad := c.accBad (l.map (·.1))
        (s.accConsume (coreOf i.gk) i.g.part bad).modGroup i.gk (fun g =>
          (g.putV (l.map (fun e => (e.2, c.accWord e.1)))).addFlags (flagIf (!bad.isEmpty) fPOISON)))
/-- ACCST (R278). -/
def execAccst (h : Hdr) (o : TOps) (s : State) : Host.Outcome State Fault Refusal :=
  perform s h { len := 8, opc := 0xa7, roles := [.matrix, .general], v := vrun o.ar 128, access := true } (accFaults o) noHold
    (fun s i => match s.coreTile i o.tile.toNat with
      | none => s
      | some t => s.modCore (coreOf i.gk) (fun c => c.putAcc ((accPairs t o.ar.toNat i.exe).map (fun e => (e.1, sget i.g.v e.2)))))
/-- ACCZ (R278). -/
def execAccz (h : Hdr) (o : TOps) (s : State) : Host.Outcome State Fault Refusal :=
  perform s h { len := 8, opc := 0xa8, roles := [.matrix, .general], access := true } (accFaults o) noHold
    (fun s i => match s.coreTile i o.tile.toNat with
      | none => s
      | some t => s.modCore (coreOf i.gk) (fun c => c.putAcc ((accPairs t 0 i.exe).map (fun e => (e.1, 0)))))

/-- OPFENCE (R279): waits for the results of earlier vector instructions; later matrix operations read new values. -/
def execOpfence (h : Hdr) (o : TOps) (s : State) : Host.Outcome State Fault Refusal :=
  let _ := o
  perform s h { len := 8, opc := 0xa9, roles := [.matrix], always := true, access := true } noFaults
    (fun s i => if i.g.ops.any (fun p => (p.kind == .load || p.kind == .atomic) && !p.scalar) then some s else none)
    (onGroup (fun _ g => { g with oldv := [] }))

end Sys2Proof.Machine
end

