-- ==== Sys2Proof/Machine/Replay.lean ====
section
/-! DEFINITION. Capture and replay (R383, R384). -/

namespace Sys2Proof.Machine

/-- REPLAY SETUP (R383). -/
def execReplaySetup (r : Rpc) (s : State) : Host.Outcome State Fault Refusal :=
  .next (s.onPart r false (fun n => n == 4) (fun _ => [subBad r, (r.num 1 % 0x10000 != 0 || 2 ^ 56 ≤ r.num 1, 3, some 1), (r.num 2 = 0 || 2 ^ 36 < r.num 2 || 2 ^ 56 < r.num 1 + r.num 2, 3, some 2),
    (r.num 3 < 64 || 65536 < r.num 3 || r.num 3 % 64 != 0, 3, some 3)]) (fun _ s =>
    match s.vaOf r.part (r.num 1) with
    | (none, s) => s.refuse r 10 (some 1)
    | (some _, s) => (s.modPart r.part (fun p => { p with capture := some (r.num 1, r.num 2, r.num 3, 0), captures := [] })).ok r []))

/-- REPLAY LIST: the captures of the partition. -/
def execReplayList (r : Rpc) (s : State) : Host.Outcome State Fault Refusal :=
  .next (s.onPart r false (fun n => n == 1) (fun _ => [subBad r]) (fun p s =>
    s.ok r (Config.replyLayout 0x000D0002 (p.captures.flatMap (fun c => [c.seqno, c.image, c.wiid.toNat, c.off])))))

/-- The level of a leaf of a size (R319). -/
def leafLevel (size : Nat) : Nat := if size = 2 ^ 29 then 2 else if size = 2 ^ 21 then 1 else 0

/-- A captured page of partition `orig` is mapped in the tables at `root` onto a copy of its pre-image, with the permissions
that its PTE gave it (R384). None: too few frames are free, or the capture does not translate. -/
def State.mapCaptured (s : State) (orig tag root base : Nat) (e : (Nat × Nat × BitVec 64) × Nat) : Option State :=
  match s.fetchBytes orig (base + e.2) e.1.2.1 with
  | (none, _) => none
  | (some bs, s) =>
    match s.newFrame (2 ^ lvlShift (leafLevel e.1.2.1)) with
    | (none, _) => none
    | (some f, s) =>
      let s := s.putBytes (.glob f) bs
      let s := (List.range (bs.length / 256)).foldl (fun (s : State) i => s.touchTag tag (f + 256 * i)) s
      (s.mapFrom tag (e.1.1 % 2 ^ 56) (leafLevel e.1.2.1) (leafOf f (fld e.1.2.2 5 0)) 3 root)

/-- An image of partition `orig` and its constant segment are mapped at their addresses in the tables at `root`. None: too few frames
are free, or the image does not translate. -/
def State.mapImage (s : State) (orig tag root : Nat) (im : Image) : Option State :=
  match s.fetchBytes orig im.base im.size with
  | (none, _) => none
  | (some img, s) =>
    (s.mapBytes tag root (im.base / 0x10000 * 0x10000) (List.replicate (im.base % 0x10000) 0 ++ img) false).bind (fun s =>
      match s.fetchBytes orig im.const (imgNum img 0x20 8) with
      | (some bs, s) => s.mapBytes tag root im.const bs false
      | (none, _) => none)

/-- The item as the replay runs it: no dependences, and its own completion counter. -/
def replayItem (raw : BitVec 1024) (counter : Nat) : BitVec 1024 :=
  setFld (setFld (setFld (setFld (setFld raw 448 56 counter) 192 56 0) 256 64 0) 320 56 0) 384 64 0

/-- Grounds of REPLAY RUN; the limits of R13 and R14 hold for the scratch partition. -/
def State.replayBad (s : State) (r : Rpc) (p : Part) : List Ground :=
  let cores := (List.range 256).filter (fun c => (r.wide 2 4).testBit c)
  let c := p.captures[r.num 1]?
  [subBad r, (c.isNone, 3, some 1), (cores.any (fun c => !p.cores.contains c), 3, some 2),
   ((match c with
      | some c => (kget p.images c.image).isNone
      | none => false) || p.resident.isNone || p.dying.isSome, 11, none),
   (64 ≤ s.parts.length || cores.any (fun c => 4 ≤ (s.parts.filter (fun e => e.2.cores.contains c)).length || 16 ≤ (s.slotsTaken c).length), 6, none)]

/-- The scratch partition of a replay, whose rings and queue stand in one page at `va`. It is created under the debug session of
the partition, where that is in one (R384; DEDUCED, log 88). -/
def State.scratchPart (s : State) (p : Part) (cores : List Nat) (root va : Nat) (handles : List Nat) : Part :=
  { owners := p.owners, cores := cores, slots := cores.map (fun c => (c, ((List.range 16).filter (fun t => !(s.slotsTaken c).contains t)).take 1)),
    prio := p.prio, root := root, quota := p.quota, fring := ⟨va + 0x2040, 6⟩, tdBase := p.tdBase, tdCount := p.tdCount, pool := p.pool, pbase := p.pbase,
    psize := p.psize, ageStep := p.ageStep, grace := p.grace, quantum := p.quantum, retry := p.retry, images := p.images.filter (fun e => handles.contains e.1),
    queues := [(0, { ring := va, log2 := 4, headLine := va + 0x1000, tailLine := va + 0x1040, prio := 0 })], scratch := true, session := p.session }

/-- A partition enters a debug session. -/
def State.joinSession (s : State) (session : Option Nat) (tag : Nat) : State :=
  match session.bind (fun n => (kget s.dbg.sessions n).map (fun d => (n, d))) with
  | none => s
  | some (n, d) => s.setSession n { d with parts := d.parts ++ [tag] }

/-- The scratch partition of a replay (R384): the captured pages, the images and the item stand in memory of its own, and its resident
program runs. None: too few frames are free, or memory of the capture or of an image does not translate any more. -/
def State.replayMade (s : State) (r : Rpc) (p : Part) (tag : Nat) (c : Capture) (base arglen : Nat) : Option State :=
  let cores := (List.range 256).filter (fun c => (r.wide 2 4).testBit c)
  match s.newFrame 0x400000 with
  | (none, _) => none
  | (some root, s) =>
    let s := s.setPart tag (s.scratchPart p [] root 0 [])
    let pages := s.capturePages r.part base arglen c
    let handles := [c.image] ++ p.resident.toList
    let mapped := pages.1.foldl (fun (o : Option State) e => o.bind (fun s => s.mapCaptured r.part tag root base e)) (some pages.2)
    let mapped := (p.images.filter (fun e => handles.contains e.1)).foldl (fun (o : Option State) e => o.bind (fun s => s.mapImage r.part tag root e.2)) mapped
    mapped.bind (fun s =>
      let va := s.newVa root 1
      let item := replayItem (BitVec.ofNat 1024 (ofBytes c.item)) (va.1 + 0x1080)
      let page := toBytes 128 item.toNat ++ List.replicate (0x1040 - 128) 0 ++ toBytes 8 1 ++ List.replicate (0x10000 - 0x1048) 0
      (va.2.mapBytes tag root va.1 page true).map (fun s =>
        ((s.setPart tag (s.scratchPart p cores root va.1 handles)).joinSession p.session tag).startResident tag (p.resident.getD 0)))

/-- REPLAY RUN (R384): answered when the item has retired, diverged, or run out of time. -/
def execReplayRun (r : Rpc) (s : State) : Host.Outcome State Fault Refusal :=
  let lim := s.clock.now + r.num 6
  .next (s.onPart r false (fun n => n == 7) (fun p => s.replayBad r p) (fun p s =>
    let t := s.freshNum 64 (s.parts.map (·.1))
    match t.1, p.captures[r.num 1]?, p.capture with
    | some tag, some c, some (base, _, arglen, _) =>
      match t.2.replayMade r p tag c base arglen with
      | none => s.refuse r 6
      | some s =>
        let s := s.setDbg { s.dbg with replays := s.dbg.replays ++ [{ orig := r.part, tag := tag, req := r, until_ := lim }] }
        ((s.await { req := r }).refreshPart tag).pressAll
    | _, _, _ => s.refuse r 6))

/-- A replay ends: its partition stays halted, and its request is answered (R384). -/
def State.replayEnd (s : State) (x : Replay) (status : Nat) (addr : List Nat) : State :=
  let gks := (s.groups.filter (fun e => e.2.part == x.tag && e.2.st == .running)).map (·.1)
  let s := gks.foldl (fun (s : State) gk => s.stopGroup gk 7) s
  let s := s.modPart x.tag (fun p => { p with solo := true })
  let s := s.setDbg { s.dbg with replays := s.dbg.replays.map (fun y => if y == x then { y with done_ := true } else y) }
  (s.setRpc { s.rpc with waiting := s.rpc.waiting.filter (fun w => w.req != x.req) }).ok x.req (([x.tag, status] ++ addr).map (BitVec.ofNat 64))

/-- Replays whose item has retired, or met a page that was not captured, end before the next turn. -/
def State.replaySteps (s : State) : State :=
  (s.dbg.replays.filter (fun x => !x.done_)).foldl (fun (s : State) x =>
    match s.part? x.tag with
    | none => s
    | some p => match p.diverged with
      | some va => s.replayEnd x 1 [va]
      | none => if ((kget p.queues 0).map (·.head)).getD 0 = 1 then s.replayEnd x 0 [] else s) s

/-- REPLAY_RUN_TIMEOUT (R384). -/
def execReplayRunTimeout (replay : Nat) (s : State) : Host.Outcome State Fault Refusal :=
  .next (match s.dbg.replays[replay]? with
    | some x => if x.done_ || s.clock.now < x.until_ then s else s.replayEnd x 2 []
    | none => s)

/-- REPLAY RELEASE (R384): the scratch partition is destroyed. -/
def execReplayRelease (r : Rpc) (s : State) : Host.Outcome State Fault Refusal :=
  .next (s.onPart r false (fun n => n == 2) (fun _ => [subBad r, (!s.dbg.replays.any (fun x => x.orig == r.part && x.tag == r.num 1 && x.done_), 3, some 1),
    (((s.part? (r.num 1)).map (fun p => p.dying.isSome)).getD false, 4, none)]) (fun _ s => s.startDestroy (r.num 1) r))

end Sys2Proof.Machine
end

