-- ==== Sys2Proof/Machine/Dispatch.lean ====
section
/-! DEFINITION. The dispatch of every instruction to its meaning. -/

namespace Sys2Proof.Machine

def exec (i : Instr) (s : State) : Host.Outcome State Fault Refusal :=
  match i with
  | .nop h bytes => Sys2Proof.Machine.execNop h bytes s
  | .bra h o => Sys2Proof.Machine.execBra h o s
  | .brx h o => Sys2Proof.Machine.execBrx h o s
  | .jmp h o => Sys2Proof.Machine.execJmp h o s
  | .call h o => Sys2Proof.Machine.execCall h o s
  | .ret h o => Sys2Proof.Machine.execRet h o s
  | .enrol h o => Sys2Proof.Machine.execEnrol h o s
  | .rejoin h o => Sys2Proof.Machine.execRejoin h o s
  | .yield h o => Sys2Proof.Machine.execYield h o s
  | .exit h o => Sys2Proof.Machine.execExit h o s
  | .wait h o => Sys2Proof.Machine.execWait h o s
  | .rvinit h o => Sys2Proof.Machine.execRvinit h o s
  | .rvarrive h o => Sys2Proof.Machine.execRvarrive h o s
  | .rvwait h o => Sys2Proof.Machine.execRvwait h o s
  | .monitor h o => Sys2Proof.Machine.execMonitor h o s
  | .mwait h o => Sys2Proof.Machine.execMwait h o s
  | .mwaitWake gk => Sys2Proof.Machine.execMwaitWake gk s
  | .mwaitTimeout gk => Sys2Proof.Machine.execMwaitTimeout gk s
  | .fetchw h o => Sys2Proof.Machine.execFetchw h o s
  | .switchv h o => Sys2Proof.Machine.execSwitchv h o s
  | .variantSwitch tk => Sys2Proof.Machine.execVariantSwitch tk s
  | .xacq h o => Sys2Proof.Machine.execXacq h o s
  | .xrel h o => Sys2Proof.Machine.execXrel h o s
  | .svcOstler h o => Sys2Proof.Machine.execSvcOstler h o s
  | .svcApp h o => Sys2Proof.Machine.execSvcApp h o s
  | .trap h o => Sys2Proof.Machine.execTrap h o s
  | .hret h o => Sys2Proof.Machine.execHret h o s
  | .srd h o => Sys2Proof.Machine.execSrd h o s
  | .swr h o => Sys2Proof.Machine.execSwr h o s
  | .wmark h o => Sys2Proof.Machine.execWmark h o s
  | .sflagSet h o => Sys2Proof.Machine.execSflagSet h o s
  | .sflagClr h o => Sys2Proof.Machine.execSflagClr h o s
  | .sadd h k => Sys2Proof.Machine.execSadd h k s
  | .ssub h k => Sys2Proof.Machine.execSsub h k s
  | .smul h k => Sys2Proof.Machine.execSmul h k s
  | .smulh h k => Sys2Proof.Machine.execSmulh h k s
  | .sdiv h k => Sys2Proof.Machine.execSdiv h k s
  | .srem h k => Sys2Proof.Machine.execSrem h k s
  | .smin h k => Sys2Proof.Machine.execSmin h k s
  | .smax h k => Sys2Proof.Machine.execSmax h k s
  | .sand h k => Sys2Proof.Machine.execSand h k s
  | .sor h k => Sys2Proof.Machine.execSor h k s
  | .sxor h k => Sys2Proof.Machine.execSxor h k s
  | .sshl h k => Sys2Proof.Machine.execSshl h k s
  | .sshr h k => Sys2Proof.Machine.execSshr h k s
  | .ssra h k => Sys2Proof.Machine.execSsra h k s
  | .scmp h k => Sys2Proof.Machine.execScmp h k s
  | .ssel h k => Sys2Proof.Machine.execSsel h k s
  | .smovi h k => Sys2Proof.Machine.execSmovi h k s
  | .slea h k => Sys2Proof.Machine.execSlea h k s
  | .sclz h k => Sys2Proof.Machine.execSclz h k s
  | .spop h k => Sys2Proof.Machine.execSpop h k s
  | .sbfx h k => Sys2Proof.Machine.execSbfx h k s
  | .sbfi h k => Sys2Proof.Machine.execSbfi h k s
  | .vadd h k => Sys2Proof.Machine.execVadd h k s
  | .vsub h k => Sys2Proof.Machine.execVsub h k s
  | .vmul h k => Sys2Proof.Machine.execVmul h k s
  | .vmulh h k => Sys2Proof.Machine.execVmulh h k s
  | .vmad h k => Sys2Proof.Machine.execVmad h k s
  | .vdiv h k => Sys2Proof.Machine.execVdiv h k s
  | .vmin h k => Sys2Proof.Machine.execVmin h k s
  | .vmax h k => Sys2Proof.Machine.execVmax h k s
  | .vabs h k => Sys2Proof.Machine.execVabs h k s
  | .vneg h k => Sys2Proof.Machine.execVneg h k s
  | .vand h k => Sys2Proof.Machine.execVand h k s
  | .vor h k => Sys2Proof.Machine.execVor h k s
  | .vxor h k => Sys2Proof.Machine.execVxor h k s
  | .vnot h k => Sys2Proof.Machine.execVnot h k s
  | .vshl h k => Sys2Proof.Machine.execVshl h k s
  | .vshr h k => Sys2Proof.Machine.execVshr h k s
  | .vsra h k => Sys2Proof.Machine.execVsra h k s
  | .vrot h k => Sys2Proof.Machine.execVrot h k s
  | .vcmp h k => Sys2Proof.Machine.execVcmp h k s
  | .vsel h k => Sys2Proof.Machine.execVsel h k s
  | .vpop h k => Sys2Proof.Machine.execVpop h k s
  | .vclz h k => Sys2Proof.Machine.execVclz h k s
  | .vbfx h k => Sys2Proof.Machine.execVbfx h k s
  | .vbfi h k => Sys2Proof.Machine.execVbfi h k s
  | .vmov h k => Sys2Proof.Machine.execVmov h k s
  | .vmovi h k => Sys2Proof.Machine.execVmovi h k s
  | .vdot4 h k => Sys2Proof.Machine.execVdot4 h k s
  | .pkadd h k => Sys2Proof.Machine.execPkadd h k s
  | .pksub h k => Sys2Proof.Machine.execPksub h k s
  | .pkmul h k => Sys2Proof.Machine.execPkmul h k s
  | .pkmad h k => Sys2Proof.Machine.execPkmad h k s
  | .pksad h k => Sys2Proof.Machine.execPksad h k s
  | .pkavg h k => Sys2Proof.Machine.execPkavg h k s
  | .pkmin h k => Sys2Proof.Machine.execPkmin h k s
  | .pkmax h k => Sys2Proof.Machine.execPkmax h k s
  | .pknar h k => Sys2Proof.Machine.execPknar h k s
  | .pkwid h k => Sys2Proof.Machine.execPkwid h k s
  | .permb h k => Sys2Proof.Machine.execPermb h k s
  | .lxch h k => Sys2Proof.Machine.execLxch h k s
  | .lprev h k => Sys2Proof.Machine.execLprev h k s
  | .lscan h k => Sys2Proof.Machine.execLscan h k s
  | .lred h k => Sys2Proof.Machine.execLred h k s
  | .lpoll h k => Sys2Proof.Machine.execLpoll h k s
  | .fadd h k => Sys2Proof.Machine.execFadd h k s
  | .fsub h k => Sys2Proof.Machine.execFsub h k s
  | .fmul h k => Sys2Proof.Machine.execFmul h k s
  | .ffma h k => Sys2Proof.Machine.execFfma h k s
  | .fmin h k => Sys2Proof.Machine.execFmin h k s
  | .fmax h k => Sys2Proof.Machine.execFmax h k s
  | .fabs h k => Sys2Proof.Machine.execFabs h k s
  | .fneg h k => Sys2Proof.Machine.execFneg h k s
  | .fcmp h k => Sys2Proof.Machine.execFcmp h k s
  | .fclass h k => Sys2Proof.Machine.execFclass h k s
  | .frnd h k => Sys2Proof.Machine.execFrnd h k s
  | .fdiv h k => Sys2Proof.Machine.execFdiv h k s
  | .fsqrt h k => Sys2Proof.Machine.execFsqrt h k s
  | .exp2 h k => Sys2Proof.Machine.execExp2 h k s
  | .log2 h k => Sys2Proof.Machine.execLog2 h k s
  | .rcp h k => Sys2Proof.Machine.execRcp h k s
  | .rsq h k => Sys2Proof.Machine.execRsq h k s
  | .cvt h k => Sys2Proof.Machine.execCvt h k s
  | .pand h k => Sys2Proof.Machine.execPand h k s
  | .por h k => Sys2Proof.Machine.execPor h k s
  | .pxor h k => Sys2Proof.Machine.execPxor h k s
  | .pnot h k => Sys2Proof.Machine.execPnot h k s
  | .pmov h k => Sys2Proof.Machine.execPmov h k s
  | .ld h o => Sys2Proof.Machine.execLd h o s
  | .st h o => Sys2Proof.Machine.execSt h o s
  | .lda h o => Sys2Proof.Machine.execLda h o s
  | .sta h o => Sys2Proof.Machine.execSta h o s
  | .ldw h o => Sys2Proof.Machine.execLdw h o s
  | .ldx h o => Sys2Proof.Machine.execLdx h o s
  | .stx h o => Sys2Proof.Machine.execStx h o s
  | .pref h o => Sys2Proof.Machine.execPref h o s
  | .fence h o => Sys2Proof.Machine.execFence h o s
  | .atom h o => Sys2Proof.Machine.execAtom h o s
  | .atoma h o => Sys2Proof.Machine.execAtoma h o s
  | .loadRetire gk id => Sys2Proof.Machine.execLoadRetire gk id s
  | .storeRetire gk id => Sys2Proof.Machine.execStoreRetire gk id s
  | .atomicPerform gk id => Sys2Proof.Machine.execAtomicPerform gk id s
  | .nodeReleasePerform gk id => Sys2Proof.Machine.execNodeReleasePerform gk id s
  | .txbegin h o => Sys2Proof.Machine.execTxbegin h o s
  | .txend h o => Sys2Proof.Machine.execTxend h o s
  | .txabort h o => Sys2Proof.Machine.execTxabort h o s
  | .txstat h o => Sys2Proof.Machine.execTxstat h o s
  | .txB rd => Sys2Proof.Machine.execTxB rd s
  | .txE rd => Sys2Proof.Machine.execTxE rd s
  | .txA rs => Sys2Proof.Machine.execTxA rs s
  | .txS rd => Sys2Proof.Machine.execTxS rd s
  | .custom0Illegal w => Sys2Proof.Machine.execCustom0Illegal w s
  | .ticketRequest => Sys2Proof.Machine.execTicketRequest s
  | .groupCommitDecision => Sys2Proof.Machine.execGroupCommitDecision s
  | .hartCommitPublish => Sys2Proof.Machine.execHartCommitPublish s
  | .serialTokenGrant => Sys2Proof.Machine.execSerialTokenGrant s
  | .mma h o => Sys2Proof.Machine.execMma h o s
  | .mmas h o => Sys2Proof.Machine.execMmas h o s
  | .mmab h o => Sys2Proof.Machine.execMmab h o s
  | .ldmeta h o => Sys2Proof.Machine.execLdmeta h o s
  | .tkacq h o => Sys2Proof.Machine.execTkacq h o s
  | .tkrel h o => Sys2Proof.Machine.execTkrel h o s
  | .accld h o => Sys2Proof.Machine.execAccld h o s
  | .accst h o => Sys2Proof.Machine.execAccst h o s
  | .accz h o => Sys2Proof.Machine.execAccz h o s
  | .opfence h o => Sys2Proof.Machine.execOpfence h o s
  | .matrixOpRetire core => Sys2Proof.Machine.execMatrixOpRetire core s
  | .copy h o => Sys2Proof.Machine.execCopy h o s
  | .copyt h o => Sys2Proof.Machine.execCopyt h o s
  | .gather h o => Sys2Proof.Machine.execGather h o s
  | .scadd h o => Sys2Proof.Machine.execScadd h o s
  | .decomp h o => Sys2Proof.Machine.execDecomp h o s
  | .nput h o => Sys2Proof.Machine.execNput h o s
  | .nget h o => Sys2Proof.Machine.execNget h o s
  | .natom h o => Sys2Proof.Machine.execNatom h o s
  | .sread h o => Sys2Proof.Machine.execSread h o s
  | .engineCommandRetire core entry data => Sys2Proof.Machine.execEngineCommandRetire core entry data s
  | .scarabRowRequest core entry => Sys2Proof.Machine.execScarabRowRequest core entry s
  | .scarabBurst core entry => Sys2Proof.Machine.execScarabBurst core entry s
  | .scaddRowUpdate core entry => Sys2Proof.Machine.execScaddRowUpdate core entry s
  | .networkCommandFail core entry written syndrome => Sys2Proof.Machine.execNetworkCommandFail core entry written syndrome s
  | .storageCompletion core entry status data => Sys2Proof.Machine.execStorageCompletion core entry status data s
  | .storageTimeout core entry => Sys2Proof.Machine.execStorageTimeout core entry s
  | .partCreate r => Sys2Proof.Machine.execPartCreate r s
  | .partDestroy r => Sys2Proof.Machine.execPartDestroy r s
  | .imageLoad r => Sys2Proof.Machine.execImageLoad r s
  | .imageUnload r => Sys2Proof.Machine.execImageUnload r s
  | .residentStart r => Sys2Proof.Machine.execResidentStart r s
  | .memExpose r => Sys2Proof.Machine.execMemExpose r s
  | .memUnexpose r => Sys2Proof.Machine.execMemUnexpose r s
  | .queueCreate r => Sys2Proof.Machine.execQueueCreate r s
  | .queueDestroy r => Sys2Proof.Machine.execQueueDestroy r s
  | .queryPartitionState r => Sys2Proof.Machine.execQueryPartitionState r s
  | .queryQueueIndices r => Sys2Proof.Machine.execQueryQueueIndices r s
  | .queryErrorCounters r => Sys2Proof.Machine.execQueryErrorCounters r s
  | .querySpareStatus r => Sys2Proof.Machine.execQuerySpareStatus r s
  | .peerSet r => Sys2Proof.Machine.execPeerSet r s
  | .storageSet r => Sys2Proof.Machine.execStorageSet r s
  | .swap r => Sys2Proof.Machine.execSwap r s
  | .mgmtPowercap r => Sys2Proof.Machine.execMgmtPowercap r s
  | .mgmtGate r => Sys2Proof.Machine.execMgmtGate r s
  | .mgmtUngate r => Sys2Proof.Machine.execMgmtUngate r s
  | .mgmtVcweight r => Sys2Proof.Machine.execMgmtVcweight r s
  | .mgmtWindow r => Sys2Proof.Machine.execMgmtWindow r s
  | .mgmtAdminlistAdd r => Sys2Proof.Machine.execMgmtAdminlistAdd r s
  | .mgmtAdminlistRemove r => Sys2Proof.Machine.execMgmtAdminlistRemove r s
  | .mgmtGrandmaster r => Sys2Proof.Machine.execMgmtGrandmaster r s
  | .mgmtClearcnt r => Sys2Proof.Machine.execMgmtClearcnt r s
  | .mgmtImage r => Sys2Proof.Machine.execMgmtImage r s
  | .debugAttach r => Sys2Proof.Machine.execDebugAttach r s
  | .debugDetach r => Sys2Proof.Machine.execDebugDetach r s
  | .debugLogSetup r => Sys2Proof.Machine.execDebugLogSetup r s
  | .debugLogOn r => Sys2Proof.Machine.execDebugLogOn r s
  | .debugLogOff r => Sys2Proof.Machine.execDebugLogOff r s
  | .debugHalt r => Sys2Proof.Machine.execDebugHalt r s
  | .debugResume r => Sys2Proof.Machine.execDebugResume r s
  | .debugAdvance r => Sys2Proof.Machine.execDebugAdvance r s
  | .debugReverse r => Sys2Proof.Machine.execDebugReverse r s
  | .debugSolo r => Sys2Proof.Machine.execDebugSolo r s
  | .debugBreakSet r => Sys2Proof.Machine.execDebugBreakSet r s
  | .debugBreakClear r => Sys2Proof.Machine.execDebugBreakClear r s
  | .debugWaitev r => Sys2Proof.Machine.execDebugWaitev r s
  | .debugGread r => Sys2Proof.Machine.execDebugGread r s
  | .debugGwrite r => Sys2Proof.Machine.execDebugGwrite r s
  | .traceSetup r => Sys2Proof.Machine.execTraceSetup r s
  | .traceEnable r => Sys2Proof.Machine.execTraceEnable r s
  | .traceDrain r => Sys2Proof.Machine.execTraceDrain r s
  | .traceStatus r => Sys2Proof.Machine.execTraceStatus r s
  | .replaySetup r => Sys2Proof.Machine.execReplaySetup r s
  | .replayList r => Sys2Proof.Machine.execReplayList r s
  | .replayRun r => Sys2Proof.Machine.execReplayRun r s
  | .replayRelease r => Sys2Proof.Machine.execReplayRelease r s
  | .badopRequest r => Sys2Proof.Machine.execBadopRequest r s
  | .innkeeperGrant => Sys2Proof.Machine.execInnkeeperGrant s
  | .tailLineWrite part queue => Sys2Proof.Machine.execTailLineWrite part queue s
  | .dependenceCounterChange part queue => Sys2Proof.Machine.execDependenceCounterChange part queue s
  | .workgroupRetire tk => Sys2Proof.Machine.execWorkgroupRetire tk s
  | .upshiftQuantumExpiry tk => Sys2Proof.Machine.execUpshiftQuantumExpiry tk s
  | .switchGraceExpiry core => Sys2Proof.Machine.execSwitchGraceExpiry core s
  | .allocationSpill tk => Sys2Proof.Machine.execAllocationSpill tk s
  | .groupRestore core => Sys2Proof.Machine.execGroupRestore core s
  | .userTrapEntry gk cause => Sys2Proof.Machine.execUserTrapEntry gk cause s
  | .preciseStop gk => Sys2Proof.Machine.execPreciseStop gk s
  | .executionFreeze gk event subc op lanes => Sys2Proof.Machine.execExecutionFreeze gk event subc op lanes s
  | .partitionViolation gk id => Sys2Proof.Machine.execPartitionViolation gk id s
  | .watchdogPendingStop gk => Sys2Proof.Machine.execWatchdogPendingStop gk s
  | .watchdogNoWaypoint gk => Sys2Proof.Machine.execWatchdogNoWaypoint gk s
  | .eventQueueEntryWrite core => Sys2Proof.Machine.execEventQueueEntryWrite core s
  | .gctlResume gk ord lanes => Sys2Proof.Machine.execGctlResume gk ord lanes s
  | .gctlStep gk ord lanes => Sys2Proof.Machine.execGctlStep gk ord lanes s
  | .gctlHalt gk => Sys2Proof.Machine.execGctlHalt gk s
  | .engctlResume tk => Sys2Proof.Machine.execEngctlResume tk s
  | .engctlDiscard tk => Sys2Proof.Machine.execEngctlDiscard tk s
  | .windowMap core idx entry => Sys2Proof.Machine.execWindowMap core idx entry s
  | .windowMapValid cluster idx => Sys2Proof.Machine.execWindowMapValid cluster idx s
  | .windowUnmap core idx entry => Sys2Proof.Machine.execWindowUnmap core idx entry s
  | .windowLineWriteback cluster idx => Sys2Proof.Machine.execWindowLineWriteback cluster idx s
  | .upost core v => Sys2Proof.Machine.execUpost core v s
  | .xvuint hart v => Sys2Proof.Machine.execXvuint hart v s
  | .xvwake hart v => Sys2Proof.Machine.execXvwake hart v s
  | .xvfreeze hart v => Sys2Proof.Machine.execXvfreeze hart v s
  | .xvshootPage hart v => Sys2Proof.Machine.execXvshootPage hart v s
  | .xvshootAll hart v => Sys2Proof.Machine.execXvshootAll hart v s
  | .shootdownComplete hart => Sys2Proof.Machine.execShootdownComplete hart s
  | .ostlerRegisterWrite core off bytes => Sys2Proof.Machine.execOstlerRegisterWrite core off bytes s
  | .pageWalk die part va acc => Sys2Proof.Machine.execPageWalk die part va acc s
  | .ringHeadAdvance part => Sys2Proof.Machine.execRingHeadAdvance part s
  | .directoryRead core sector => Sys2Proof.Machine.execDirectoryRead core sector s
  | .directoryOwnership core sector => Sys2Proof.Machine.execDirectoryOwnership core sector s
  | .directoryWriteBack core sector => Sys2Proof.Machine.execDirectoryWriteBack core sector s
  | .l2Eviction line => Sys2Proof.Machine.execL2Eviction line s
  | .visibilityWindowStart => Sys2Proof.Machine.execVisibilityWindowStart s
  | .leaseRebase slice => Sys2Proof.Machine.execLeaseRebase slice s
  | .packetPromotion => Sys2Proof.Machine.execPacketPromotion s
  | .peerLineRead sector => Sys2Proof.Machine.execPeerLineRead sector s
  | .peerWriteThrough pkg pa data release => Sys2Proof.Machine.execPeerWriteThrough pkg pa data release s
  | .operationPacket pkg pa op t x y => Sys2Proof.Machine.execOperationPacket pkg pa op t x y s
  | .windowMarker link lc n => Sys2Proof.Machine.execWindowMarker link lc n s
  | .nodeLinkFlit link f => Sys2Proof.Machine.execNodeLinkFlit link f s
  | .flitResendTimeout link => Sys2Proof.Machine.execFlitResendTimeout link s
  | .linkRetrain link lanesOk => Sys2Proof.Machine.execLinkRetrain link lanesOk s
  | .linkDown link => Sys2Proof.Machine.execLinkDown link s
  | .ptpSync offset => Sys2Proof.Machine.execPtpSync offset s
  | .softErrorDetect site correctable => Sys2Proof.Machine.execSoftErrorDetect site correctable s
  | .memoryScrub sector found => Sys2Proof.Machine.execMemoryScrub sector found s
  | .unitRemoval u => Sys2Proof.Machine.execUnitRemoval u s
  | .thermalSample die temp => Sys2Proof.Machine.execThermalSample die temp s
  | .thermalHoldExpiry => Sys2Proof.Machine.execThermalHoldExpiry s
  | .coolantFlowLoss => Sys2Proof.Machine.execCoolantFlowLoss s
  | .powerCapExceeded watts => Sys2Proof.Machine.execPowerCapExceeded watts s
  | .clockRaiseTimer => Sys2Proof.Machine.execClockRaiseTimer s
  | .clusterPowerGate cluster => Sys2Proof.Machine.execClusterPowerGate cluster s
  | .packageReset => Sys2Proof.Machine.execPackageReset s
  | .fireflyTag core sched => Sys2Proof.Machine.execFireflyTag core sched s
  | .fireflyRecord core sched => Sys2Proof.Machine.execFireflyRecord core sched s
  | .traceBufferDrain cluster => Sys2Proof.Machine.execTraceBufferDrain cluster s
  | .partitionSwapExchange part => Sys2Proof.Machine.execPartitionSwapExchange part s
  | .windowAdvanceSnapshot part => Sys2Proof.Machine.execWindowAdvanceSnapshot part s
  | .logAutoAdvance part => Sys2Proof.Machine.execLogAutoAdvance part s
  | .rpcSendOversize session => Sys2Proof.Machine.execRpcSendOversize session s
  | .rpcSessionLoss session => Sys2Proof.Machine.execRpcSessionLoss session s
  | .soloTimeout session => Sys2Proof.Machine.execSoloTimeout session s
  | .waitevTimeout session => Sys2Proof.Machine.execWaitevTimeout session s
  | .replayRunTimeout replay => Sys2Proof.Machine.execReplayRunTimeout replay s
  | .rdmaRead rkey va len => Sys2Proof.Machine.execRdmaRead rkey va len s
  | .rdmaWrite rkey va data => Sys2Proof.Machine.execRdmaWrite rkey va data s
  | .rdmaAtomic rkey va cas x y => Sys2Proof.Machine.execRdmaAtomic rkey va cas x y s
  | .rv64MemoryAccess a => Sys2Proof.Machine.execRv64MemoryAccess a s
  | .hartInterrupt hart => Sys2Proof.Machine.execHartInterrupt hart s
  | .rpcSessionOpen session gid port => Sys2Proof.Machine.execRpcSessionOpen session gid port s
  | .rcRetransmitTimeout core entry => Sys2Proof.Machine.execRcRetransmitTimeout core entry s
  | .powerFailure write => Sys2Proof.Machine.execPowerFailure write s

end Sys2Proof.Machine
end

