-- ==== Sys2Proof/Machine/Rv64.lean ====
section
/-! DEFINITION. The RV64 base words of a hart (R259, R340): integer instructions, multiply and divide, atomics, fences, floating point, CSRs
and the privileged instructions, as the RISC-V manuals have them; the spec names these sets and gives no words (PRESUMED, log 30). -/

namespace Sys2Proof.Machine

/-- Immediates of a base word, by the format's letter. -/
def rvI (w : BitVec 32) : BitVec 64 := (w.extractLsb' 20 12).signExtend 64
def rvS (w : BitVec 32) : BitVec 64 := (w.extractLsb' 25 7 ++ w.extractLsb' 7 5).signExtend 64
def rvB (w : BitVec 32) : BitVec 64 := (w.extractLsb' 31 1 ++ w.extractLsb' 7 1 ++ w.extractLsb' 25 6 ++ w.extractLsb' 8 4 ++ 0#1).signExtend 64
def rvU (w : BitVec 32) : BitVec 64 := (w.extractLsb' 12 20 ++ 0#12).signExtend 64
def rvJ (w : BitVec 32) : BitVec 64 := (w.extractLsb' 31 1 ++ w.extractLsb' 12 8 ++ w.extractLsb' 20 1 ++ w.extractLsb' 21 10 ++ 0#1).signExtend 64

/-- The integer operations of funct3, on 64 or on 32 bits; `alt` is bit 30. -/
def rvAlu {n : Nat} (f3 : Nat) (alt : Bool) (a b : BitVec n) : BitVec n :=
  match f3 with
  | 0 => if alt then a - b else a + b
  | 1 => a <<< (b.toNat % n)
  | 2 => BitVec.ofNat n (decide (a.toInt < b.toInt)).toNat
  | 3 => BitVec.ofNat n (decide (a.toNat < b.toNat)).toNat
  | 4 => a ^^^ b
  | 5 => if alt then a.sshiftRight (b.toNat % n) else a >>> (b.toNat % n)
  | 6 => a ||| b
  | _ => a &&& b

/-- Multiplication and division; a division by zero gives all ones and leaves the dividend. -/
def rvMul {n : Nat} (f3 : Nat) (a b : BitVec n) : BitVec n :=
  match f3 with
  | 0 => a * b
  | 1 => BitVec.ofInt n (a.toInt * b.toInt / 2 ^ n)
  | 2 => BitVec.ofInt n (a.toInt * b.toNat / 2 ^ n)
  | 3 => BitVec.ofNat n (a.toNat * b.toNat / 2 ^ n)
  | 4 => if b = 0 then -1 else BitVec.ofInt n (a.toInt.tdiv b.toInt)
  | 5 => if b = 0 then -1 else BitVec.ofNat n (a.toNat / b.toNat)
  | 6 => if b = 0 then a else BitVec.ofInt n (a.toInt.tmod b.toInt)
  | _ => if b = 0 then a else BitVec.ofNat n (a.toNat % b.toNat)

/-- Whether a branch is taken. -/
def rvTaken (f3 : Nat) (a b : BitVec 64) : Option Bool :=
  match f3 with
  | 0 => some (a == b)
  | 1 => some (a != b)
  | 4 => some (decide (a.toInt < b.toInt))
  | 5 => some (decide (b.toInt ≤ a.toInt))
  | 6 => some (decide (a.toNat < b.toNat))
  | 7 => some (decide (b.toNat ≤ a.toNat))
  | _ => none

/-- The operation of an AMO and whether its minimum or maximum is unsigned, by funct5. -/
def rvAmo : Nat → Option (HartOp × Bool)
  | 0x00 => some (.amo .add, false) | 0x01 => some (.amo .exch, false) | 0x02 => some (.lr, false) | 0x03 => some (.sc, false)
  | 0x04 => some (.amo .xor, false) | 0x08 => some (.amo .or, false) | 0x0C => some (.amo .and, false) | 0x10 => some (.amo .min, false)
  | 0x14 => some (.amo .max, false) | 0x18 => some (.amo .min, true) | 0x1C => some (.amo .max, true) | _ => none

/-! ### CSRs (R327, R330, R339, R340, R423) -/

/-- The codes of the privilege modes. -/
def Mode.code : Mode → Nat
  | .u => 0 | .s => 1 | .m => 3
def modeOf : Nat → Mode
  | 0 => .u | 1 => .s | _ => .m

/-- `sstatus`, and `mstatus` with it: UXL and SXL are 64 bits, and SD says that FS is dirty. -/
def Hart.sstatus (k : Hart) : BitVec 64 :=
  pack 64 [(1, 1, k.sie.toNat), (5, 1, k.spie.toNat), (8, 1, k.spp.toNat), (13, 2, k.fs.toNat), (18, 1, k.sum.toNat), (19, 1, k.mxr.toNat), (32, 2, 2),
    (63, 1, if k.fs = 3 then 1 else 0)]
def Hart.mstatus (k : Hart) : BitVec 64 :=
  k.sstatus ||| pack 64 [(3, 1, k.mie.toNat), (7, 1, k.mpie.toNat), (11, 2, k.mpp.code), (17, 1, k.mprv.toNat), (20, 1, k.tvm.toNat), (21, 1, k.tw.toNat),
    (22, 1, k.tsr.toNat), (34, 2, 2)]
def Hart.setSstatus (k : Hart) (v : BitVec 64) : Hart :=
  { k with sie := v.getLsbD 1, spie := v.getLsbD 5, spp := v.getLsbD 8, fs := BitVec.ofNat 2 (fld v 14 13), sum := v.getLsbD 18, mxr := v.getLsbD 19 }
def Hart.setMstatus (k : Hart) (v : BitVec 64) : Hart :=
  { k.setSstatus v with
    mie := v.getLsbD 3, mpie := v.getLsbD 7, mpp := if fld v 12 11 = 2 then k.mpp else modeOf (fld v 12 11), mprv := v.getLsbD 17,
    tvm := v.getLsbD 20, tw := v.getLsbD 21, tsr := v.getLsbD 22 }

/-- `misa`: RV64 with A, C, D, F, I, M, S and U (R340). -/
def misa : BitVec 64 := 0x800000000014112D

/-- The value of a CSR; none where there is none of that number. `xvshoot` shows BUSY (R330); what its other fields, the write-only CSRs,
the counters of cycles, time and instructions, and the names of vendor and design read as is not stated, and is free. -/
def State.csrRead (s : State) (h csr : Nat) : Option (BitVec 64 × State) :=
  let k := s.hart h
  let is := fun (v : BitVec 64) => some (v, s)
  match csr with
  | 0x001 => is (BitVec.ofNat 64 (fld k.fcsr 4 0))
  | 0x002 => is (BitVec.ofNat 64 (fld k.fcsr 7 5))
  | 0x003 => is k.fcsr
  | 0x100 => is k.sstatus
  | 0x104 => is (k.mier &&& k.mideleg)
  | 0x105 => is k.stvec
  | 0x106 => is (k.scounteren.setWidth 64)
  | 0x140 => is k.sscratch
  | 0x141 => is k.sepc
  | 0x142 => is k.scause
  | 0x143 => is k.stval
  | 0x144 => is (s.mip h &&& k.mideleg)
  | 0x180 => is k.satp
  | 0x300 => is k.mstatus
  | 0x301 => is misa
  | 0x302 => is k.medeleg
  | 0x303 => is k.mideleg
  | 0x304 => is k.mier
  | 0x305 => is k.mtvec
  | 0x306 => is (k.mcounteren.setWidth 64)
  | 0x340 => is k.mscratch
  | 0x341 => is k.mepc
  | 0x342 => is k.mcause
  | 0x343 => is k.mtval
  | 0x344 => is (s.mip h)
  | 0xF14 => is (BitVec.ofNat 64 h)
  | 0x5C1 => some (setFld (setFld s.draw.1 63 1 k.busy.toNat) 58 3 0, s.draw.2)
  | 0x5C0 | 0x5C2 | 0x5C3 | 0xC00 | 0xC01 | 0xC02 | 0xB00 | 0xB02 | 0xF11 | 0xF12 | 0xF13 => some s.draw
  | 0x10A | 0x30A | 0x320 | 0xF15 => is 0
  | c => if (0xC03 ≤ c && c < 0xC20) || (0xB03 ≤ c && c < 0xB20) || (0x323 ≤ c && c < 0x340) then is 0 else none

/-- The hart with a CSR written. `satp` takes MODE 0 and 15 alone (R340); what a register has no bit for stays. -/
def Hart.csrPut (k : Hart) (csr : Nat) (v : BitVec 64) : Hart :=
  match csr with
  | 0x001 => { k with fcsr := setFld k.fcsr 0 5 v.toNat, fs := 3 }
  | 0x002 => { k with fcsr := setFld k.fcsr 5 3 v.toNat, fs := 3 }
  | 0x003 => { k with fcsr := BitVec.ofNat 64 (fld v 7 0), fs := 3 }
  | 0x100 => k.setSstatus v
  | 0x104 => { k with mier := (k.mier &&& ~~~k.mideleg) ||| (v &&& k.mideleg) }
  | 0x105 => { k with stvec := v &&& ~~~2#64 }
  | 0x106 => { k with scounteren := v.setWidth 32 }
  | 0x140 => { k with sscratch := v }
  | 0x141 => { k with sepc := v &&& ~~~1#64 }
  | 0x142 => { k with scause := v }
  | 0x143 => { k with stval := v }
  | 0x144 => { k with mipr := (k.mipr &&& ~~~(k.mideleg &&& 2)) ||| (v &&& k.mideleg &&& 2) }
  | 0x180 => if fld v 63 60 = 0 || fld v 63 60 = 15 then { k with satp := v } else k
  | 0x300 => k.setMstatus v
  | 0x302 => { k with medeleg := v &&& 0xB3FF }
  | 0x303 => { k with mideleg := v &&& 0x222 }
  | 0x304 => { k with mier := v &&& 0xAAA }
  | 0x305 => { k with mtvec := v &&& ~~~2#64 }
  | 0x306 => { k with mcounteren := v.setWidth 32 }
  | 0x340 => { k with mscratch := v }
  | 0x341 => { k with mepc := v &&& ~~~1#64 }
  | 0x342 => { k with mcause := v }
  | 0x343 => { k with mtval := v }
  | 0x344 => { k with mipr := v &&& 0x222 }
  | _ => k

/-- The state of an outcome that goes on. -/
def nextState (s : State) : Host.Outcome State Fault Refusal → State
  | .next t => t
  | _ => s

/-- Whether a CSR may not be accessed so: one of a higher mode, a write to a read-only one, fcsr while FS is off, satp under TVM, a counter that
is not enabled for the mode; and those of R327, R330, R339 and R423 by an Ostler (log 46). -/
def Hart.csrDenied (k : Hart) (h csr : Nat) (write : Bool) : Bool :=
  k.mode.code < csr / 256 % 4 || (write && csr / 1024 = 3) || (0x5C0 ≤ csr && csr < 0x5C4 && 16 ≤ h) || (1 ≤ csr && csr ≤ 3 && k.fs = 0)
    || (csr = 0x180 && k.mode == .s && k.tvm)
    || (0xC00 ≤ csr && csr < 0xC20 && ((k.mode != .m && !k.mcounteren.getLsbD (csr % 32)) || (k.mode == .u && !k.scounteren.getLsbD (csr % 32))))

/-- A CSR instruction: the old value goes to rd; `f` gives the new one, where it writes. A write aborts a transaction with ILLEGAL
(R259); one that may not be, or of no register, is an illegal instruction. The CSRs of R327, R330, R339 and R423 do what those say. -/
def State.csrOp (s : State) (h csr rd : Nat) (f : Option (BitVec 64 → BitVec 64)) : State :=
  let k := s.hart h
  if f.isSome && k.ckpt.isSome then s.abortHart h 6 0
  else if k.csrDenied h csr f.isSome then s.hartIllegal h
  else match s.csrRead h csr with
    | none => s.hartIllegal h
    | some (old, s) => match f with
      | none => s.modHart h (fun k => { k.put rd old with pc := k.pc + 4 })
      | some f =>
        let put := fun (o : Host.Outcome State Fault Refusal) =>
          let t := nextState s o
          if (t.hart h).pc = k.pc + 4 then t.modHart h (fun k => k.put rd old) else t
        match csr with
        | 0x5C0 => put (execXvwake h (f old) s)
        | 0x5C1 => put (if (f old).getLsbD 62 then execXvshootAll h (f old) s else execXvshootPage h (f old) s)
        | 0x5C2 => put (execXvuint h (f old) s)
        | 0x5C3 => put (execXvfreeze h (f old) s)
        | _ => s.modHart h (fun k => { (k.csrPut csr (f old)).put rd old with pc := k.pc + 4 })

/-! ### The words -/

/-- The returns from a trap. -/
def Hart.mret (k : Hart) : Hart :=
  { k with pc := k.mepc, mode := k.mpp, mie := k.mpie, mpie := true, mpp := .u, mprv := k.mprv && k.mpp == .m }
def Hart.sret (k : Hart) : Hart :=
  { k with pc := k.sepc, mode := if k.spp then .s else .u, sie := k.spie, spie := true, spp := false, mprv := false }

/-- SYSTEM words: traps and the returns from them, WFI, SFENCE.VMA and the CSR instructions (R259, R340); none where the word is illegal. WFI
ends at once, as RISC-V permits. -/
def State.hartSystem (s : State) (h : Nat) (w : BitVec 32) : Option State :=
  let k := s.hart h
  let n := w.toNat
  let rd := bits n 11 7
  let rs := bits n 19 15
  let src := if bits n 14 14 = 1 then BitVec.ofNat 64 rs else k.reg rs
  let tx := fun (t : State) => some (if k.ckpt.isSome then s.abortHart h 6 0 else t)
  match bits n 14 12 with
  | 0 =>
    if n = 0x00000073 then tx (s.hartTrap h (8 + k.mode.code) 0)
    else if n = 0x00100073 then tx (s.draw.2.hartTrap h 3 s.draw.1)
    else if n = 0x10500073 then (if k.mode != .m && k.tw then none else some (s.setHart h { k with pc := k.pc + 4 }))
    else if n = 0x30200073 then (if k.mode == .m then some (s.setHart h k.mret) else none)
    else if n = 0x10200073 then (if k.mode == .u || (k.mode == .s && k.tsr) then none else some (s.setHart h k.sret))
    else if bits n 31 25 = 0x09 && rd = 0 then
      (if k.ckpt.isNone && (k.mode == .u || (k.mode == .s && k.tvm)) then none else tx ((s.setTlb (hartTlb h) []).setHart h { k with pc := k.pc + 4 }))
    else none
  | 1 | 5 => some (s.csrOp h (bits n 31 20) rd (some (fun _ => src)))
  | 2 | 6 => some (s.csrOp h (bits n 31 20) rd (if rs = 0 then none else some (fun x => x ||| src)))
  | 3 | 7 => some (s.csrOp h (bits n 31 20) rd (if rs = 0 then none else some (fun x => x &&& ~~~src)))
  | _ => none

/-- Integer operations, by opcode: OP, OP-IMM and their 32-bit forms; none where the word is no such operation. -/
def rvArith (w : BitVec 32) (a b : BitVec 64) : Option (BitVec 64) :=
  let n := w.toNat
  let f3 := bits n 14 12
  let f7 := bits n 31 25
  let alt := f7 = 0x20
  let shift := f3 = 1 || f3 = 5
  match bits n 6 0 with
  | 0x33 =>
    if f7 = 1 then some (rvMul f3 a b)
    else if f7 = 0 || (alt && (f3 = 0 || f3 = 5)) then some (rvAlu f3 alt a b) else none
  | 0x3B =>
    let x := a.setWidth 32
    let y := b.setWidth 32
    if f7 = 1 && (f3 = 0 || 4 ≤ f3) then some ((rvMul f3 x y).signExtend 64)
    else if (f7 = 0 && (f3 = 0 || shift)) || (alt && (f3 = 0 || f3 = 5)) then some ((rvAlu f3 alt x y).signExtend 64) else none
  | 0x13 =>
    if !shift then some (rvAlu f3 false a (rvI w))
    else if f7 / 2 = 0 || (f7 / 2 = 0x10 && f3 = 5) then some (rvAlu f3 (f7 / 2 = 0x10) a (BitVec.ofNat 64 (bits n 25 20))) else none
  | 0x1B =>
    let x := a.setWidth 32
    if f3 = 0 then some ((x + (rvI w).setWidth 32).signExtend 64)
    else if shift && (f7 = 0 || (alt && f3 = 5)) then some ((rvAlu f3 alt x (BitVec.ofNat 32 (bits n 24 20))).signExtend 64) else none
  | _ => none

/-- FENCE.I invalidates the instruction cache, which an Ostler shares with its core, and so clears that core's loop buffers (R43, R340). -/
def State.fenceI (s : State) (h : Nat) : State :=
  match ostlerCore h with
  | some core => s.modCore core (fun c => { c with loops := [] })
  | none => s

/-- What a word of four bytes does, of which `len` bytes stand at the pc; none where it is illegal. -/
def State.hartWord (s : State) (h : Nat) (w : BitVec 32) (comp : Bool) : Option State :=
  let k := s.hart h
  let n := w.toNat
  let rd := bits n 11 7
  let f3 := bits n 14 12
  let a := k.reg (bits n 19 15)
  let b := k.reg (bits n 24 20)
  let next := k.pc + (if comp then 2 else 4)
  let acc : HartAcc := { hart := h, op := .load, va := a, size := 2 ^ (f3 % 4), rd := BitVec.ofNat 5 rd, rs := BitVec.ofNat 5 (bits n 24 20), comp := comp }
  let run := fun (x : HartAcc) => some (nextState s (execRv64MemoryAccess x s))
  let fp := k.fs != 0 && (f3 = 2 || f3 = 3)
  match bits n 6 0 with
  | 0x37 => some (s.setHart h { k.put rd (rvU w) with pc := next })
  | 0x17 => some (s.setHart h { k.put rd (k.pc + rvU w) with pc := next })
  | 0x6F => some (s.setHart h { k.put rd next with pc := k.pc + rvJ w })
  | 0x67 => if f3 = 0 then some (s.setHart h { k.put rd next with pc := (a + rvI w) &&& ~~~1#64 }) else none
  | 0x63 => (rvTaken f3 a b).map (fun t => s.setHart h { k with pc := if t then k.pc + rvB w else next })
  | 0x03 => if f3 = 7 then none else run { acc with va := a + rvI w, sext := f3 < 4 }
  | 0x07 => if fp then run { acc with va := a + rvI w, fp := true } else none
  | 0x23 => if 3 < f3 then none else run { acc with op := .store, va := a + rvS w }
  | 0x27 => if fp then run { acc with op := .store, va := a + rvS w, fp := true } else none
  | 0x2F =>
    if f3 != 2 && f3 != 3 then none
    else (rvAmo (bits n 31 27)).bind (fun o => if o.1 == .lr && bits n 24 20 != 0 then none
      else run { acc with op := o.1, sext := true, uns := o.2, aq := bits n 26 26 = 1, rl := bits n 25 25 = 1 })
  | 0x0F =>
    if f3 = 0 then run { acc with op := .fence (bits n 25 25 = 1) (bits n 24 24 = 1) (bits n 21 21 = 1), size := 1 }
    else if f3 = 1 then some (if k.ckpt.isSome then s.abortHart h 6 0 else (s.fenceI h).setHart h { k with pc := next })
    else none
  | 0x43 | 0x47 | 0x4B | 0x4F | 0x53 => (k.fpWord n).map (fun k => s.setHart h { k with pc := next })
  | 0x73 => s.hartSystem h w
  | _ => (rvArith w a b).map (fun x => s.setHart h { k.put rd x with pc := next })

/-- A word of a hart that is none of the table's (R340): a compressed one does what the word that it stands for does; an undefined one
raises the illegal-instruction exception. -/
def State.hartBase (s : State) (h : Nat) (w : BitVec 32) : State :=
  let comp := w.toNat % 4 != 3
  (((if comp then rvExpand (w.toNat % 2 ^ 16) else some w).bind (fun w => s.hartWord h w comp))).getD (s.hartIllegal h)

end Sys2Proof.Machine
end

