-- ==== Sys2Proof/Machine/Fetch.lean ====
section
/-! DEFINITION. The next turn of the package: which agent moves, and the instruction it performs (R24, R87, R120,
R260, R351). -/

namespace Sys2Proof.Machine

/-- What a turn performs: an instruction of the table, or nothing further. -/
inductive TurnRes
  | run (i : Instr) (s : State)
  | done (s : State)

/-- The turn that is laid out next, else one that nothing constrains (log 3). -/
def State.nextTurn (s : State) : Turn × State :=
  match s.agenda with
  | t :: r => (t, { s with agenda := r })
  | [] =>
    let x := s.draw
    let y := x.2.draw
    let n := y.1.toNat
    (match x.1.toNat % 4 with
      | 0 => .group (n % 16384)
      | 1 => .hart (n % 272)
      | 2 => .elapse (n % 2 ^ 32)
      | _ => match Config.freeStep n with
        | some i => .event i
        | none => .elapse 1, y.2)

/-- A request as the instruction that serves it (R355, R357, R380, R382, R384). -/
def rpcInstr (r : Rpc) : Instr :=
  let sub := fld (r.slot 0) 15 0
  match r.opcode with
  | 0x01 => .partCreate r
  | 0x02 => .partDestroy r
  | 0x03 => .imageLoad r
  | 0x04 => .imageUnload r
  | 0x05 => .residentStart r
  | 0x06 => .memExpose r
  | 0x07 => .memUnexpose r
  | 0x08 => .queueCreate r
  | 0x09 => .queueDestroy r
  | 0x0A => match r.num 0 with
    | 0 => .queryPartitionState r
    | 1 => .queryQueueIndices r
    | 2 => .queryErrorCounters r
    | 3 => .querySpareStatus r
    | _ => .badopRequest r
  | 0x0B => match sub with
    | 0x1 => .debugAttach r
    | 0x2 => .debugDetach r
    | 0x3 => .debugLogSetup r
    | 0x4 => .debugLogOn r
    | 0x5 => .debugLogOff r
    | 0x6 => .debugHalt r
    | 0x7 => .debugResume r
    | 0x8 => .debugAdvance r
    | 0x9 => .debugReverse r
    | 0xA => .debugSolo r
    | 0xB => .debugBreakSet r
    | 0xC => .debugBreakClear r
    | 0xD => .debugWaitev r
    | 0xE => .debugGread r
    | 0xF => .debugGwrite r
    | _ => .badopRequest r
  | 0x0C => match sub with
    | 1 => .traceSetup r
    | 2 => .traceEnable r
    | 3 => .traceDrain r
    | 4 => .traceStatus r
    | _ => .badopRequest r
  | 0x0D => match sub with
    | 1 => .replaySetup r
    | 2 => .replayList r
    | 3 => .replayRun r
    | 4 => .replayRelease r
    | _ => .badopRequest r
  | 0x0E => .peerSet r
  | 0x0F => .storageSet r
  | 0x10 => .swap r
  | 0x11 => match sub with
    | 1 => .mgmtPowercap r
    | 2 => if r.num 2 = 1 then .mgmtUngate r else .mgmtGate r
    | 3 => .mgmtVcweight r
    | 4 => .mgmtWindow r
    | 5 => if r.num 1 = 1 then .mgmtAdminlistRemove r else .mgmtAdminlistAdd r
    | 6 => .mgmtGrandmaster r
    | 7 => .mgmtClearcnt r
    | 8 => .mgmtImage r
    | _ => .badopRequest r
  | _ => .badopRequest r

/-- The partitions that a request acts on (R354): those of its debug session for DEBUG, those that its body names too for ATTACH, both
for SWAP. -/
def State.actsOn (s : State) (r : Rpc) : List Nat :=
  match r.opcode with
  | 0x01 | 0x11 => []
  | 0x0B => s.sessionParts r.part ++ (if fld (r.slot 0) 15 0 == 1 then (r.body.drop 1).map (·.toNat) else [])
  | 0x10 => [r.part, r.num 0]
  | _ => [r.part]

/-- Whether a request is held by another that reached the service before it (R354). -/
def State.holds1 (s : State) (r : Rpc) (session : Nat) (parts : List Nat) : Bool :=
  r.session == session || (s.actsOn r).any (fun p => parts.contains p)

/-- Whether a request is held by one that is still performed; a WAITEV holds only its session (R354). -/
def State.rpcHeld (s : State) (r : Rpc) : Bool :=
  s.rpc.waiting.any (fun w => s.holds1 r w.req.session (if w.isWaitev then [] else s.actsOn w.req))
    || s.parts.any (fun e => match e.2.dying with
      | some d => s.holds1 r d.session [e.1, d.part]
      | none => false)

/-- Whether a request's session performs requests (R398). -/
def State.rpcLive (s : State) (r : Rpc) : Bool := ((kget s.rpc.sessions r.session).map (fun x => !x.err)).getD false

/-- The first queued request that nothing holds. -/
def State.nextQueued (s : State) : List Rpc → List Rpc → Option (Rpc × List Rpc)
  | _, [] => none
  | before, r :: rest =>
    if s.rpcHeld r || before.any (fun q => s.holds1 r q.session (s.actsOn q)) then s.nextQueued (before ++ [r]) rest
    else some (r, before ++ rest)

/-- Whether a group may issue (R347, R405, R444). -/
def State.mayIssue (s : State) (gk : Nat) : Bool :=
  let core := coreOf gk
  !(s.core core).gone && !(s.cluster (clusterOf core)).removed && !(s.cluster (clusterOf core)).gated
    && !((((s.group? gk).bind (fun g => s.part? g.part)).map (fun p => p.swapOut.isSome)).getD false)

/-- Whether a hart executes: one of a removed application core does not (R405). -/
def State.hartRuns (s : State) (h : Nat) : Bool := !(h < 16 && s.porter.removed.contains (8, h))

/-- What happens before the next turn: sessions whose log is full halt, destroyed partitions are freed, stepping groups and
replays go on, and requests of lost sessions are dropped. -/
def State.settleAll (s : State) : State :=
  let s := s.haltFullLogs.finishDying.soloSteps.replaySteps
  s.setRpc { s.rpc with queue := s.rpc.queue.filter s.rpcLive }

/-- How an instruction is performed: the meaning that `step` gives it. -/
abbrev Exec : Type := Instr → State → Host.Outcome State Fault Refusal

/-- A group's turn (R24). -/
def State.groupTurn (s : State) (gk : Nat) : TurnRes :=
  let s : State := { s with cur := .group gk }
  if !s.mayIssue gk then .done s
  else match s.turnOf gk with
    | .run i s => .run i s
    | .done s => .done s

/-- Whether the next instruction of a group can issue: its turn is an issue of its core (R19). -/
def State.issues (s : State) (ex : Exec) (gk : Nat) : Bool :=
  match s.groupTurn gk with
  | .run i t => match ex i t with
    | .next u => (u.core (coreOf gk)).iss != (s.core (coreOf gk)).iss
    | _ => false
  | _ => false

/-- The other groups of a group's scheduler that have waited longer since their last issue, longest first (R19). Of groups that have
not issued yet the lower slot goes first. -/
def State.waitedLonger (s : State) (gk : Nat) : List Nat :=
  let last := fun (k : Nat) => ((s.group? k).map (·.lastIss)).getD 0
  let mine := (s.groups.map (·.1)).filter (fun k => k / 16 == gk / 16 && (last k < last gk || (last k == last gk && k < gk)))
  mine.foldl (fun l k => (l.takeWhile (fun j => last j ≤ last k)) ++ [k] ++ l.dropWhile (fun j => last j ≤ last k)) []

/-- The group that a scheduler chooses at a turn of one of its groups: the one that has waited longest of those whose next instruction
can issue (R19). A turn that is no issue takes no place of another's. -/
def State.pick (s : State) (ex : Exec) (gk : Nat) : Nat :=
  if s.issues ex gk then ((s.waitedLonger gk).find? (s.issues ex)).getD gk else gk

/-- The turn that the agenda lays out. -/
def State.agendaTurn (s : State) (ex : Exec) : TurnRes :=
  let r := s.nextTurn
  let s : State := r.2
  match r.1 with
  | .group gk => s.groupTurn (s.pick ex gk)
  | .hart h =>
    let s : State := { s with cur := .hart h }
    if !s.hartRuns h then .done s
    else match s.hartFetch h with
      | .trap s => .done s
      | .word w s => match decodeHart w.toNat with
        | some i => .run i s
        | none => .done (s.hartBase h w)
  | .rpc r =>
    let s : State := { s with cur := .none }
    if !s.rpcLive r then .done s
    else if s.rpcHeld r || s.rpc.queue.any (fun q => s.holds1 r q.session (s.actsOn q)) then .done (s.setRpc { s.rpc with queue := s.rpc.queue ++ [r] })
    else .run (rpcInstr r) s
  | .event i => .run i { s with cur := .none }
  | .elapse n => .done (({ s with cur := .none } : State).setClock { s.clock with now := s.clock.now + n })

/-- The turn's instruction: a queued request that nothing holds any more goes first. -/
def State.turn (s : State) (ex : Exec) : TurnRes :=
  let s := s.settleAll
  match s.nextQueued [] s.rpc.queue with
  | some (r, rest) => .run (rpcInstr r) (({ s with cur := .none } : State).setRpc { s.rpc with queue := rest })
  | none => s.agendaTurn ex

/-! ### An instruction placed where the next step fetches -/

/-- Physical address of the page that holds a placed instruction, and of the tables that map it. -/
def probePage : Nat := 0x100000
def probeRoot : Nat := 0x400000

/-- A partition, image, team and group whose next instruction stands at the start of its code. -/
def probeGroup : Group := { part := 0, image := 1, var := 0, kind := .general, tslot := 0 }
def probeTeam : Team := { part := 0, image := 1, var := 0, ngrp := 1 }
def probeImage : Image :=
  { base := 0x100000, size := 0x10000, imgid := 0, feat := 0, switch := [],
    vars := [{ code := 0, csz := 32, handler := none, wps := [], abytes := 4096, wbytes := 0, carry := 0, pool := 0, tiles := 0, metas := 0, ngrp := 1, roles := [] }] }
def probePart : Part := { cores := [0], slots := [(0, [0])], root := probeRoot, images := [(1, probeImage)] }

/-- A leaf and the entries above it that map virtual address 0x100000 to itself (R319, R321). -/
def probeTables : List (Nat × BitVec 64) :=
  [(probeRoot, BitVec.ofNat 64 ((0x800000 / 512) * 2 ^ 14 + 1)),
   (0x800000, BitVec.ofNat 64 ((0x810000 / 512) * 2 ^ 14 + 1)),
   (0x810000, BitVec.ofNat 64 ((0x820000 / 512) * 2 ^ 14 + 1)),
   (0x820000 + 16 * 16, BitVec.ofNat 64 ((0x100000 / 512) * 2 ^ 14 + 15))]

/-- The kind of group that may issue an instruction (R22). -/
def probeKind (i : Option Instr) : RoleKind :=
  match i with
  | some (.fetchw _ _) => .lodge
  | some (.mma _ _) | some (.mmas _ _) | some (.mmab _ _) | some (.ldmeta _ _) | some (.tkacq _ _) | some (.tkrel _ _)
  | some (.accld _ _) | some (.accst _ _) | some (.accz _ _) | some (.opfence _ _) => .matrix
  | some (.copy _ _) | some (.copyt _ _) | some (.gather _ _) | some (.scadd _ _) | some (.decomp _ _) | some (.nput _ _)
  | some (.nget _ _) | some (.natom _ _) | some (.sread _ _) => .copy
  | _ => .general

/-- The state with an instruction of a group placed as the next to issue. -/
def State.withGroupWord (s : State) (w : Nat) : State :=
  let i := match decode 0 w with
    | .ok i _ => some i
    | _ => none
  let s := probeTables.foldl (fun (s : State) e => s.putBytes (.glob e.1) (toBytes 8 e.2.toNat)) s
  let s := s.putBytes (.glob probePage) (toBytes 16 w)
  let s := (s.setPart 0 probePart).setTeam 0 probeTeam
  let s := s.setGroup 0 { probeGroup with kind := probeKind i }
  { s with agenda := .group 0 :: s.agenda }

/-- The state with a word of a hart placed at its pc. -/
def State.withHartWord (s : State) (w : Nat) : State :=
  let s := s.putBytes (.glob (s.hart 0).pc.toNat) (toBytes 4 w)
  { s with agenda := .hart 0 :: s.agenda }

end Sys2Proof.Machine
end

