-- ==== Sys2Proof/Machine/Step.lean ====
section
/-! DEFINITION. One step of the package: the next turn, and the instruction that it performs. -/

namespace Sys2Proof.Machine

/-- One turn (R24, R120). -/
def step (s : State) : Host.Outcome State Fault Refusal :=
  match s.turn exec with
  | .run i s => exec i s
  | .done s => .next s

/-- The state with an instruction stored where the next step fetches it, and the turn of its agent laid out. -/
def State.withFetchWord (s : State) (nbits w : Nat) : State :=
  if nbits = 32 then s.withHartWord w else s.withGroupWord w

end Sys2Proof.Machine
end

