-- ==== Sys2Proof/Safety.lean ====
section
/-! DEFINITION. The terms that claims use: the invariant of a run, what an issue may touch, and what an instruction
needs in order to issue. -/

namespace Sys2Proof

/-- Memory in canonical form: addresses rise strictly and no listed byte is zero. -/
def Memory.wf (m : List Host.Cell) : Bool := SMap.wf m

namespace Machine

/-- A step that neither faults nor is refused. -/
def Runs (s : State) : Prop := ∃ t, step s = .next t

/-- The group with the fields that every issue moves taken from another: counters, region entries, barrier waits and the
bookkeeping of R24, R36, R37, R255 and R415. -/
def Group.withMoved (g r : Group) : Group :=
  { g with pcv := r.pcv, epcv := r.epcv, rmask := r.rmask, rwait := r.rwait, yielded := r.yielded, stamp := r.stamp,
           since := r.since, pendAge := r.pendAge, stepped := r.stepped, quiet := r.quiet, lastIss := r.lastIss,
           atOff := r.atOff, atOp := r.atOp, lastWp := r.lastWp, fenceWin := r.fenceWin, flagAt := r.flagAt,
           watch := { g.watch with lanes := r.watch.lanes, keep := r.watch.keep } }

/-- The group apart from TRIG of its watch, which the eviction of a line from L2 can set (R86, R218). -/
def Group.unrung (g : Group) : Group := { g with watch := { g.watch with trig := false } }

/-- The core with its counts of issues taken from another (R19, R381). -/
def Core.withCounts (k r : Core) : Core :=
  { k with iss := r.iss, fireGap := r.fireGap, fireArm := r.fireArm, fireTag := r.fireTag }

/-- What an issue leaves unchanged when its effect is on its group alone: all but that group and the issue counts of
cores, and every byte of memory and of the local spaces. -/
structure IssueFrame (s t : State) (gk : Nat) : Prop where
  rest : { t with groups := s.groups, cores := s.cores } = s
  groups : ∀ k, k ≠ gk → t.group? k = s.group? k
  cores : ∀ c, (t.core c).withCounts (s.core c) = s.core c
  bytes : ∀ p, t.readByte p = s.readByte p

/-- The registers that an instruction names can be used, where it uses them: their blocks are held (R31), and no access in flight has still
to write one (R172, R237). -/
def Issue.Free (i : Issue) (always : Bool) (v s : List Nat) : Prop :=
  ((i.exe ≠ 0 ∨ always = true) → ∀ r ∈ v, i.g.held.getLsbD (r / 64) = true) ∧
  ∀ o ∈ i.g.ops, o.kind = .load ∨ o.kind = .atomic → (i.exe ≠ 0 ∨ always = true) →
    if o.scalar = true then o.dst ∉ s else o.dst ∉ v ∧ (o.t.is64 = true → o.dst + 1 ∉ v)

/-- The counters after an issue (R24): the lanes of `act` stand past the instruction, and every other lane that waits at no
barrier stands where it stood. Without the waypoint bit no region entry moves (R37). -/
structure Advanced (i : Issue) (h : Hdr) (len : Nat) (g : Group) : Prop where
  act : ∀ l, i.act.getLsbD l = true → sget g.pcv l = BitVec.ofNat 32 (i.pc + len)
  idle : ∀ l, l < 32 → i.act.getLsbD l = false → i.g.rejoining.getLsbD l = false → sget g.pcv l = sget i.g.pcv l
  entry : h.w = false → g.epcv = i.g.epcv

/-- The word that a lane's result of type `t` puts into its `n`th register (R121, R174, R175): the result extended under
an integer type, or the bits as they are. -/
def regWord (t : Typ) (x n : Nat) : BitVec 32 :=
  BitVec.ofNat 32 ((if t.isInt then (extendTo 64 t x).toNat else x) / 2 ^ (32 * n))

/-- Register `r` of a lane after a result `x` of type `t` went to register `d`; a 64-bit type takes a pair (R174, R175). -/
def laneWrite (t : Typ) (d r x : Nat) (old : BitVec 32) : BitVec 32 :=
  if r = d then regWord t x 0 else if t.is64 = true ∧ r = d + 1 then regWord t x 1 else old

/-- The flags of the lanes of a mask together (R134). -/
def laneFlags (exe : LaneMask) (f : Nat → Flags) : Flags := (lanesOf exe).foldl (fun a l => a ||| f l) 0

/-- A group after an instruction that writes `res l` to register `d` of each lane of `exe` (R172, R173). -/
structure LanesWritten (i : Issue) (h : Hdr) (len : Nat) (t : Typ) (d : Nat) (res : Nat → Nat × Flags) (g : Group) : Prop where
  counters : Advanced i h len g
  regs : ∀ r l, l < 32 → g.vr r l = if i.exe.getLsbD l = true then laneWrite t d r (res l).1 (i.g.vr r l) else i.g.vr r l
  flags : g.sflags = orFlags i.g.sflags (laneFlags i.exe (fun l => (res l).2))
  rest : { g.withMoved i.g with v := i.g.v, oldv := i.g.oldv, sflags := i.g.sflags } = i.g

/-- A group after an instruction that writes scalar register `d` (R180). -/
structure ScalarWritten (i : Issue) (h : Hdr) (len d : Nat) (res : BitVec 64 × Flags) (g : Group) : Prop where
  counters : Advanced i h len g
  regs : ∀ r, g.sr r = if r = d then res.1 else i.g.sr r
  flags : g.sflags = orFlags i.g.sflags res.2
  rest : { g.withMoved i.g with s := i.g.s, sflags := i.g.sflags } = i.g

/-- A group after an instruction that writes predicate register `d`; p0 reads all ones whatever is written (R30, R144). -/
structure PredWritten (i : Issue) (h : Hdr) (len d : Nat) (res : LaneMask × Flags) (g : Group) : Prop where
  counters : Advanced i h len g
  regs : ∀ r, g.pr r = if r = 0 then 0xFFFFFFFF else if r = d then res.1 else i.g.pr r
  flags : g.sflags = orFlags i.g.sflags res.2
  rest : { g.withMoved i.g with p := i.g.p, sflags := i.g.sflags } = i.g

/-- The issue ends in a next state that differs in its group alone, and `P` says how the group ends. -/
def Completes (s : State) (i : Issue) (out : Host.Outcome State Fault Refusal) (P : Group → Prop) : Prop :=
  ∃ t g, out = .next t ∧ IssueFrame s t i.gk ∧ t.group? i.gk = some g ∧ P g

/-- The state in which an instruction takes its effect: the group has advanced (R24), the core has counted the issue. -/
def issued (s : State) (i : Issue) (h : Hdr) (len opc : Nat) : State :=
  (s.setGroup i.gk (s.advance i h len opc)).fireIssue i opc

/-- The instruction ends in the next state that its effect `F` leaves, after the release test of the barriers and the test
for the end of the group, which follow every issue (R25, R27). -/
def EffectIs (ins : Instr) (s : State) (i : Issue) (h : Hdr) (len opc : Nat) (F : State → State) : Prop :=
  exec ins s = .next ((F (issued s i h len opc)).finish i.gk)

end Machine
end Sys2Proof
end

