-- ==== Sys2Proof/Certificates/Slice0/Obligations.lean ====
section
/-! DEFINITION. The statements for the provers, and the shapes in which they are written. -/

namespace Sys2Proof.Claims

open Sys2Proof.Machine

/-! ### Shapes of format K -/

/-- A typed integer instruction (R173, R182): every lane of `exe` receives `f` of its operands, and nothing else changes but
flags and counters. -/
def IntLanes (mk : Hdr → KOps → Instr) (useB useC : Bool) (f : Typ → Bool → Nat → Nat → Nat → Nat × Flags) : Prop :=
  ∀ (s : State) (h : Hdr) (k : KOps) (i : Issue), s.issue? h = some i →
    i.Free false (vregs k.t k.d ++ vregs k.t k.a ++ (if useB then Src2.vregs k.t k.b else []) ++ (if useC then vregs k.t k.c else []))
      (if useB then Src2.sregs k.b else []) →
    Completes s i (exec (mk h k) s) (LanesWritten i h k.len k.t k.d.toNat (fun l =>
      f k.t k.sat (i.g.vread k.t k.a.toNat l) (i.g.vsecond k.t k.b l) (i.g.vread k.t k.c.toNat l)))

/-- A typed scalar instruction (R180): it runs once at every issue. -/
def IntScalar (mk : Hdr → KOps → Instr) (useB useC : Bool) (f : Typ → Bool → Nat → Nat → Nat → Nat × Flags) : Prop :=
  ∀ (s : State) (h : Hdr) (k : KOps) (i : Issue), s.issue? h = some i →
    i.Free true [] ([k.d.toNat, k.a.toNat] ++ (if useB then (match k.b with | .reg r | .bcast r => [r.toNat] | _ => []) else []) ++
      (if useC then [k.c.toNat] else [])) →
    Completes s i (exec (mk h k) s) (ScalarWritten i h k.len k.d.toNat
      (let r := f k.t k.sat (i.g.sr k.a.toNat).toNat (i.g.ssecond k.t.signed k.b) (i.g.sr k.c.toNat).toNat
       (extendTo 64 k.t r.1, r.2)))

/-- A floating-point instruction (R195): `op` on the operands of every lane of `exe`, under TYPE and RM. -/
def FloatLanes (mk : Hdr → KOps → Instr) (useB useC : Bool) (op : FloatOp) : Prop :=
  ∀ (s : State) (h : Hdr) (k : KOps) (i : Issue), s.issue? h = some i →
    i.Free false (vregs k.t k.d ++ vregs k.t k.a ++ (if useB then Src2.vregs k.t k.b else []) ++ (if useC then vregs k.t k.c else []))
      (if useB then Src2.sregs k.b else []) →
    Completes s i (exec (mk h k) s) (LanesWritten i h k.len k.t k.d.toNat (fun l =>
      floatOp op k.t k.rm (i.g.vread k.t k.a.toNat l) (i.g.vsecond k.t k.b l) (i.g.vread k.t k.c.toNat l)))

/-- An instruction that writes a predicate bit in every lane of `exe` (R144, R198, R202). -/
def PredLanes (mk : Hdr → KOps → Instr) (v s : KOps → List Nat) (f : Issue → KOps → Nat → Bool × Flags) : Prop :=
  ∀ (st : State) (h : Hdr) (k : KOps) (i : Issue), st.issue? h = some i → i.Free false (v k) (s k) →
    Completes st i (exec (mk h k) st) (fun g => ∃ m, PredWritten i h k.len k.d.toNat (m, laneFlags i.exe (fun l => (f i k l).2)) g ∧
      ∀ l, l < 32 → m.getLsbD l = if i.exe.getLsbD l = true then (f i k l).1 else (i.g.pr k.d.toNat).getLsbD l)

/-- An instruction that writes one 32-bit word, or a result of type `rt`, in every lane of `exe`. -/
def LanesGet (mk : Hdr → KOps → Instr) (rt : KOps → Typ) (v s : KOps → List Nat) (f : Issue → KOps → Nat → Nat × Flags) : Prop :=
  ∀ (st : State) (h : Hdr) (k : KOps) (i : Issue), st.issue? h = some i → i.Free false (v k) (s k) →
    Completes st i (exec (mk h k) st) (LanesWritten i h k.len (rt k) k.d.toNat (f i k))

/-- An instruction that writes scalar register D at every issue. -/
def ScalarGets (mk : Hdr → KOps → Instr) (v s : KOps → List Nat) (f : Issue → KOps → BitVec 64 × Flags) : Prop :=
  ∀ (st : State) (h : Hdr) (k : KOps) (i : Issue), st.issue? h = some i → i.Free true (v k) (s k) →
    Completes st i (exec (mk h k) st) (ScalarWritten i h k.len k.d.toNat (f i k))

/-- The type on which a bitwise instruction acts: the whole 32-bit word for a packed type (R181). -/
def wordType (t : Typ) : Typ := if t.isPackedInt then .n32 else t

/-- A bitwise vector instruction (R181). -/
def BitLanes (mk : Hdr → KOps → Instr) (useB : Bool) (f : Nat → Nat → Nat) : Prop :=
  LanesGet mk (fun k => wordType k.t)
    (fun k => vregs (wordType k.t) k.d ++ vregs (wordType k.t) k.a ++ (if useB then Src2.vregs (wordType k.t) k.b else []) ++ [])
    (fun k => if useB then Src2.sregs k.b else [])
    (fun i k l => (f (i.g.vread (wordType k.t) k.a.toNat l) (i.g.vsecond (wordType k.t) k.b l) % 2 ^ (wordType k.t).width, 0))

/-- An element-wise packed instruction (R122, R187): element e of the result is `f` of the elements e, narrowed to the element
type. -/
def PackedLanes (mk : Hdr → KOps → Instr) (useC : Bool) (f : Int → Int → Int → Int) : Prop :=
  IntLanes mk true useC (fun t sat a b c => packElems t (fun e =>
    narrow (Typ.elemOf t) sat (f (intVal (Typ.elemOf t) (elem t a e)) (intVal (Typ.elemOf t) (elem t b e)) (intVal (Typ.elemOf t) (elem t c e)))))

/-- The relation that a comparison code names (R148). -/
def related (code : Nat) (a b : Int) : Bool :=
  match code with
  | 0 => decide (a = b)
  | 1 => decide (a ≠ b)
  | 2 => decide (a < b)
  | 3 => decide (a ≤ b)
  | 4 => decide (a > b)
  | _ => decide (a ≥ b)

/-- The combination of a list of lanes in order, with the flags of each step; the identity where there is none (R193). A NaN of
the first lane becomes the canonical one (R125). -/
def combined (op : Nat) (t : Typ) (sat : Bool) (val : Nat → Nat) : List Nat → Nat × Flags
  | [] => (scanIdentity op t, 0)
  | l :: r => r.foldl (fun a l => let n := scanCombine op t sat a.1 (val l); (n.1, a.2 ||| n.2)) (scanFirst op (val l))

/-- The lane from which LXCH reads (R191). -/
def exchangeLane (form l n : Nat) : Nat :=
  if form = 0 then n % 32
  else if form = 1 then (if (l : Int) + toSigned 32 n < 0 ∨ 31 < (l : Int) + toSigned 32 n then l else ((l : Int) + toSigned 32 n).toNat)
  else if form = 2 then (l + n) % 32
  else l ^^^ (n % 32)

/-! ### Shapes of control -/

/-- Counters after a branch (R24): the lanes of `exe` at their targets, the other lanes of `act` past the instruction, every
other lane that waits at no barrier where it stood. -/
def Branched (i : Issue) (len : Nat) (f : Nat → BitVec 32) (g : Group) : Prop :=
  ∀ l, l < 32 → i.g.rejoining.getLsbD l = false →
    sget g.pcv l = if i.exe.getLsbD l = true then f l else if i.act.getLsbD l = true then BitVec.ofNat 32 (i.pc + len) else sget i.g.pcv l

/-- A branch by a displacement (R157, R207). The loop buffers of the core may change with it (R43). -/
def JumpsBy (mk : Hdr → JOps → Instr) : Prop :=
  ∀ (s : State) (h : Hdr) (o : JOps) (i : Issue), s.issue? h = some i →
    ∃ t g, exec (mk h o) s = .next t ∧ t.group? i.gk = some g ∧ { t with groups := s.groups, cores := s.cores } = s ∧
      (∀ k, k ≠ i.gk → t.group? k = s.group? k) ∧ (∀ p, t.readByte p = s.readByte p) ∧
      (∀ c, { (t.core c).withCounts (s.core c) with lastBack := (s.core c).lastBack, loops := (s.core c).loops } = s.core c) ∧
      g.withMoved i.g = i.g ∧ (h.w = false → g.epcv = i.g.epcv) ∧ Branched i 8 (fun _ => BitVec.ofNat 32 i.pc + o.disp) g

/-- A branch to the offset that each lane holds in register D (R207). -/
def JumpsTo (mk : Hdr → JOps → Instr) : Prop :=
  ∀ (s : State) (h : Hdr) (o : JOps) (i : Issue), s.issue? h = some i → i.Free false [o.d.toNat] [] →
    (∀ l, i.exe.getLsbD l = true → (i.g.vr o.d.toNat l).toNat % 4 = 0 ∧ (i.g.vr o.d.toNat l).toNat < ((s.gvar? i.g).map (·.csz)).getD 0) →
    Completes s i (exec (mk h o) s) (fun g => g.withMoved i.g = i.g ∧ Branched i 8 (fun l => i.g.vr o.d.toNat l) g)

/-- An instruction that moves the group past it and changes nothing else. -/
def MovesPast (out : Host.Outcome State Fault Refusal) (s : State) (i : Issue) (h : Hdr) (len : Nat) : Prop :=
  Completes s i out (fun g => g.withMoved i.g = i.g ∧ Advanced i h len g)

/-- The word of a rendezvous point (R211). -/
def pointWord (count remain : Nat) (phase init : Bool) : BitVec 64 :=
  pack 64 [(0, 16, count), (16, 16, remain), (32, 1, phase.toNat), (33, 1, init.toNat)]

/-- The word after one arrival at an initialised point (R213). -/
def arrivedWord (x : BitVec 64) : BitVec 64 :=
  if fld x 31 16 - 1 = 0 then pointWord (fld x 15 0) (fld x 15 0) (!x.getLsbD 32) true
  else pointWord (fld x 15 0) (fld x 31 16 - 1) (x.getLsbD 32) true

/-! ### Shapes of memory instructions -/

/-- Registers that name an address (R234). -/
def addrV (o : MOps) (sp : MemSpace) : List Nat :=
  if o.am = .vec then (if sp == .global then [o.a.toNat, o.a.toNat + 1] else [o.a.toNat]) else []
def addrS (o : MOps) : List Nat := if o.am = .vec then [] else [o.a.toNat]

/-- A load (R233 to R237, R239) outside transactions, whose lanes commit no access violation: it is launched and counted by
`lc`, one access for each lane at the place of its effective address. -/
def LoadLaunches (mk : Hdr → MOps → Instr) (opc : Nat) (sp : MemSpace) : Prop :=
  ∀ (s : State) (h : Hdr) (o : MOps) (i : Issue), s.issue? h = some i →
    i.Free false ((if o.am = .scalar then [] else vregs o.t o.d) ++ addrV o sp) ((if o.am = .scalar then [o.d.toNat] else []) ++ addrS o) →
    i.exe ≠ 0 → (sp = .global → i.exe &&& i.g.intx = 0) → i.g.acquiring = false → i.g.lc < 63 →
    (sp = .peer → bndBound (s.binding i o.peer.toNat) = true) →
    (∀ l ∈ accLanes o i.exe, ∀ n ∈ [1, 2, 3, 4, 5], s.violates i o sp false o.t.bytes l n = false) →
    ∀ pl w, (issued s i h o.len opc).places i o sp .load o.t.bytes = (pl, [], w) → pl ≠ [] →
    exec (mk h o) s = .next ((w.modGroup i.gk (fun g => { g with
      nextOp := g.nextOp + 1, lc := g.lc + 1,
      ops := g.ops ++ [{
        id := g.nextOp, kind := .load, dst := o.d.toNat, scalar := decide (o.am = .scalar), t := o.t, ord := o.ord, scope := o.scope,
        accs := pl.map (fun e => { lane := e.1, va := e.2.1, place := e.2.2, size := o.t.bytes }), exe := i.exe,
        next := BitVec.ofNat 32 (i.pc + o.len), opc := opc, at_ := i.pc, l2 := decide (o.hint = .l2),
        ords := ssets [] (pl.map (fun e => (e.1, BitVec.ofNat 16 (w.regionOrd g e.1)))) }] })).finish i.gk)

/-- A store (R233 to R237, R239) outside transactions: it is launched and counted by `sc`, with the data of each lane. -/
def StoreLaunches (mk : Hdr → MOps → Instr) (opc : Nat) (sp : MemSpace) : Prop :=
  ∀ (s : State) (h : Hdr) (o : MOps) (i : Issue), s.issue? h = some i →
    i.Free false ((if o.am = .scalar then [] else vregs o.t o.b) ++ addrV o sp) ((if o.am = .scalar then [o.b.toNat] else []) ++ addrS o) →
    i.exe ≠ 0 → i.exe &&& i.g.intx = 0 → i.g.acquiring = false → i.g.sc < 63 →
    (sp = .peer → bndBound (s.binding i o.peer.toNat) = true) →
    (∀ l ∈ accLanes o i.exe, ∀ n ∈ [1, 2, 3, 4, 5], s.violates i o sp true o.t.bytes l n = false) →
    ∀ pl w, (issued s i h o.len opc).places i o sp .store o.t.bytes = (pl, [], w) → pl ≠ [] →
    exec (mk h o) s = .next ((w.modGroup i.gk (fun g => { g with
      nextOp := g.nextOp + 1, sc := g.sc + 1,
      ops := g.ops ++ [{
        id := g.nextOp, kind := if o.ord = .rel then .release else .store, t := o.t, ord := o.ord, scope := o.scope,
        accs := pl.map (fun e => {
          lane := e.1, va := e.2.1, place := e.2.2, size := o.t.bytes,
          data := BitVec.ofNat 64 ((if o.am = .scalar then (i.g.sr o.b.toNat).toNat else i.g.vread o.t o.b.toNat e.1) % 2 ^ (8 * o.t.bytes)) }),
        exe := i.exe, next := BitVec.ofNat 32 (i.pc + o.len), opc := opc, at_ := i.pc, l2 := decide (o.hint = .l2),
        ords := ssets [] (pl.map (fun e => (e.1, BitVec.ofNat 16 (w.regionOrd g e.1)))) }] })).finish i.gk)

/-- An atomic (R243, R244): launched and counted by `lc`, with operand and, for a compare-and-swap, the new value. -/
def AtomicLaunches (mk : Hdr → MOps → Instr) (opc : Nat) (sp : MemSpace) : Prop :=
  ∀ (s : State) (h : Hdr) (o : MOps) (i : Issue), s.issue? h = some i →
    let step := if o.t.is64 then 2 else 1
    i.Free false ((if o.am = .scalar then [] else vregs o.t o.d ++ vregs o.t o.b ++
        (if o.aop = .cas then [o.b.toNat + step, o.b.toNat + 2 * step - 1] else [])) ++ addrV o sp)
      ((if o.am = .scalar then [o.d.toNat, o.b.toNat] ++ (if o.aop = .cas then [o.b.toNat + 1] else []) else []) ++ addrS o) →
    i.exe ≠ 0 → i.exe &&& i.g.intx = 0 → i.g.acquiring = false → i.g.lc < 63 →
    (∀ l ∈ accLanes o i.exe, ∀ n ∈ [1, 2, 3, 4, 5], s.violates i o sp true o.t.bytes l n = false) →
    ∀ pl w, (issued s i h o.len opc).places i o sp .atomic o.t.bytes = (pl, [], w) →
    exec (mk h o) s = .next ((w.modGroup i.gk (fun g => { g with
      nextOp := g.nextOp + 1, lc := g.lc + 1,
      ops := g.ops ++ [{
        id := g.nextOp, kind := .atomic, dst := o.d.toNat, scalar := decide (o.am = .scalar), t := o.t, ord := o.ord,
        scope := o.scope, aop := o.aop,
        accs := pl.map (fun e => {
          lane := e.1, va := e.2.1, place := e.2.2, size := o.t.bytes,
          data := BitVec.ofNat 64 (if o.am = .scalar then (i.g.sr o.b.toNat).toNat else i.g.vread o.t o.b.toNat e.1),
          new := BitVec.ofNat 64 (if o.aop ≠ .cas then 0 else if o.am = .scalar then (i.g.sr (o.b.toNat + 1)).toNat else i.g.vread o.t (o.b.toNat + step) e.1) }),
        exe := i.exe, next := BitVec.ofNat 32 (i.pc + o.len), opc := opc, at_ := i.pc,
        ords := ssets [] (pl.map (fun e => (e.1, BitVec.ofNat 16 (w.regionOrd g e.1)))) }] })).finish i.gk)

/-! ### Shapes of matrix instructions -/

/-- A matrix operation is accepted (R270, R276): it enters the unit's queue with its tile, types, lanes and operand registers;
`tc` rises, the lanes of `exe` commit, and no register, accumulator or byte of memory changes. -/
def MatrixAccepts (mk : Hdr → TOps → Instr) (kind : MatKind) : Prop :=
  ∀ (s : State) (h : Hdr) (o : TOps) (i : Issue) (tile : Nat), s.issue? h = some i → i.g.kind = .matrix →
    let ra := if o.pairA then [] else vrun o.ar (matRegs o.ta o.tb o.ta)
    let rb := if o.regB then vrun o.br (matRegs o.ta o.tb o.tb) else []
    i.Free false (ra ++ rb) ((if o.pairA then [o.ar.toNat, o.ar.toNat + 1] else []) ++ (if o.regB then [] else [o.br.toNat, o.br.toNat + 1])) →
    i.exe ≠ 0 → i.exe &&& i.g.intx = 0 → s.coreTile i o.tile.toNat = some tile → matFaults o (decide (kind = .mmas)) s i = [] →
    i.g.acquiring = false → s.matHold i (some tile) = false →
    ∃ u m g, exec (mk h o) s = .next u ∧ (u.core (coreOf i.gk)).mq = (s.core (coreOf i.gk)).mq ++ [m] ∧
      m.kind = kind ∧ m.gk = i.gk ∧ m.tile = tile ∧ m.ta = o.ta ∧ m.tb = o.tb ∧ m.exe = i.exe ∧ m.slice = 0 ∧ m.flags = 0 ∧
      m.aReg = (if o.pairA then none else some o.ar.toNat) ∧ m.bReg = (if o.regB then some o.br.toNat else none) ∧
      (o.pairA = true → m.aPair = (i.g.sr o.ar.toNat, i.g.sr (o.ar.toNat + 1))) ∧
      (o.regB = false → m.bPair = (i.g.sr o.br.toNat, i.g.sr (o.br.toNat + 1))) ∧
      (∀ r ∈ ra ++ rb, ∀ l, l < 32 → sget m.regs (32 * r + l) = i.g.vr r l) ∧
      u.group? i.gk = some g ∧ g.tc = i.g.tc + 1 ∧ (∀ l, i.exe.getLsbD l = true → sget g.epcv l = BitVec.ofNat 32 (i.pc + 8)) ∧
      g.v = i.g.v ∧ g.s = i.g.s ∧ g.p = i.g.p ∧ g.sflags = i.g.sflags ∧ (u.core (coreOf i.gk)).acc = (s.core (coreOf i.gk)).acc ∧
      (∀ p, u.readByte p = s.readByte p)

end Sys2Proof.Claims

open Sys2Proof Sys2Proof.Machine Sys2Proof.Claims

/-! ### Format K -/

/-- R180, R182, R183, R184 for the scalar integer instructions. -/
def Obligations.ScalarIntegerResults : Prop :=
  IntScalar .sadd true false (fun t sat a b _ => narrow t sat (intVal t a + intVal t b)) ∧
  IntScalar .ssub true false (fun t sat a b _ => narrow t sat (intVal t a - intVal t b)) ∧
  IntScalar .smul true false (fun t sat a b _ => narrow t sat (intVal t a * intVal t b)) ∧
  IntScalar .smulh true false (fun t _ a b _ => narrow t false (intVal t a * intVal t b / 2 ^ t.width)) ∧
  IntScalar .sdiv true false (fun t sat a b _ => if intVal t b = 0 then ((2 ^ t.width - 1), fDZ)
    else narrow t sat ((intVal t a).tdiv (intVal t b))) ∧
  IntScalar .srem true false (fun t _ a b _ => if intVal t b = 0 then (a % 2 ^ t.width, fDZ)
    else narrow t false ((intVal t a).tmod (intVal t b))) ∧
  IntScalar .smin true false (fun t sat a b _ => narrow t sat (if intVal t a ≤ intVal t b then intVal t a else intVal t b)) ∧
  IntScalar .smax true false (fun t sat a b _ => narrow t sat (if intVal t a ≤ intVal t b then intVal t b else intVal t a)) ∧
  IntScalar .sand true false (fun t _ a b _ => ((a &&& b) % 2 ^ t.width, 0)) ∧
  IntScalar .sor true false (fun t _ a b _ => ((a ||| b) % 2 ^ t.width, 0)) ∧
  IntScalar .sxor true false (fun t _ a b _ => ((a ^^^ b) % 2 ^ t.width, 0)) ∧
  IntScalar .sshl true false (fun t sat a b _ => narrow t sat (intVal t a * 2 ^ (b % 256))) ∧
  IntScalar .sshr true false (fun t _ a b _ => (a % 2 ^ t.width / 2 ^ (b % 256), 0)) ∧
  IntScalar .ssra true false (fun t _ a b _ => (intPat t.width (toSigned t.width a / 2 ^ (b % 256)), 0)) ∧
  IntScalar .ssel true true (fun t _ a b c => if c % 2 ^ t.width = 0 then (b % 2 ^ t.width, 0) else (a % 2 ^ t.width, 0)) ∧
  IntScalar .sclz false false (fun t _ a _ _ => (clz t.width a, 0)) ∧
  IntScalar .spop false false (fun t _ a _ _ => (((List.range t.width).filter (fun n => a.testBit n)).length, 0)) ∧
  IntScalar .sbfx true false iBfx ∧
  IntScalar .sbfi true true iBfi

/-- SCMP, SMOVI, SLEA (R148, R180). -/
def Obligations.ScalarCompareAndMove : Prop :=
  ScalarGets .scmp (fun _ => []) (fun k => [k.d.toNat, k.a.toNat] ++ (match k.b with | .reg r | .bcast r => [r.toNat] | _ => []) ++ [])
    (fun i k => (if related (fld k.sub 2 0) (intVal k.t (i.g.sr k.a.toNat).toNat) (intVal k.t (i.g.ssecond k.t.signed k.b)) then 1 else 0, 0)) ∧
  ScalarGets .smovi (fun _ => []) (fun k => [k.d.toNat]) (fun i k => (BitVec.ofNat 64 (i.g.ssecond false k.b), 0)) ∧
  ScalarGets .slea (fun _ => []) (fun k => [k.d.toNat, k.a.toNat] ++ (match k.b with | .reg r | .bcast r => [r.toNat] | _ => []) ++ [])
    (fun i k => (i.g.sr k.a.toNat + BitVec.ofNat 64 (i.g.ssecond true k.b * 2 ^ fld k.c 5 0), 0))

/-- Typed vector integer arithmetic (R181, R182, R123). -/
def Obligations.VectorArithmeticResults : Prop :=
  IntLanes .vadd true false (fun t sat a b _ => narrow t sat (intVal t a + intVal t b)) ∧
  IntLanes .vsub true false (fun t sat a b _ => narrow t sat (intVal t a - intVal t b)) ∧
  IntLanes .vmul true false (fun t sat a b _ => narrow t sat (intVal t a * intVal t b)) ∧
  IntLanes .vmulh true false (fun t _ a b _ => narrow t false (intVal t a * intVal t b / 2 ^ t.width)) ∧
  IntLanes .vmad true true (fun t sat a b c => narrow t sat (intVal t a * intVal t b + intVal t c)) ∧
  IntLanes .vdiv true false (fun t sat a b _ => if intVal t b = 0 then (2 ^ t.width - 1, fDZ)
    else narrow t sat ((intVal t a).tdiv (intVal t b))) ∧
  IntLanes .vmin true false (fun t sat a b _ => narrow t sat (if intVal t a ≤ intVal t b then intVal t a else intVal t b)) ∧
  IntLanes .vmax true false (fun t sat a b _ => narrow t sat (if intVal t a ≤ intVal t b then intVal t b else intVal t a)) ∧
  IntLanes .vabs false false (fun t sat a _ _ => narrow t sat |intVal t a|) ∧
  IntLanes .vneg false false (fun t sat a _ _ => narrow t sat (0 - intVal t a)) ∧
  IntLanes .vdot4 true true (fun t sat a b c =>
    narrow (if t.signed then .i32 else .n32) sat (intVal (if t.signed then .i32 else .n32) c +
      ((List.range t.elems).map (fun e => intVal (Typ.elemOf t) (elem t a e) * intVal (Typ.elemOf t) (elem t b e))).sum))

/-- Bitwise, shift, count, field and select instructions (R181, R183, R184). -/
def Obligations.VectorBitResults : Prop :=
  BitLanes .vand true (fun a b => a &&& b) ∧
  BitLanes .vor true (fun a b => a ||| b) ∧
  BitLanes .vxor true (fun a b => a ^^^ b) ∧
  LanesGet .vnot (fun k => wordType k.t) (fun k => vregs (wordType k.t) k.d ++ vregs (wordType k.t) k.a ++ [] ++ []) (fun _ => [])
    (fun i k l => (2 ^ (wordType k.t).width - 1 - i.g.vread (wordType k.t) k.a.toNat l % 2 ^ (wordType k.t).width, 0)) ∧
  IntLanes .vshl true false (fun t sat a b _ => narrow t sat (intVal t a * 2 ^ (b % 256))) ∧
  IntLanes .vshr true false (fun t _ a b _ => (a % 2 ^ t.width / 2 ^ (b % 256), 0)) ∧
  IntLanes .vsra true false (fun t _ a b _ => (intPat t.width (toSigned t.width a / 2 ^ (b % 256)), 0)) ∧
  IntLanes .vrot true false (fun t _ a b _ =>
    ((a % 2 ^ t.width * 2 ^ (b % 256 % t.width) + a % 2 ^ t.width / 2 ^ (t.width - b % 256 % t.width)) % 2 ^ t.width, 0)) ∧
  IntLanes .vsel true true (fun t _ a b c => if c % 2 ^ t.width = 0 then (b % 2 ^ t.width, 0) else (a % 2 ^ t.width, 0)) ∧
  IntLanes .vpop false false (fun t _ a _ _ => (((List.range t.width).filter (fun n => a.testBit n)).length, 0)) ∧
  IntLanes .vclz false false (fun t _ a _ _ => (clz t.width a, 0)) ∧
  IntLanes .vbfx true false iBfx ∧
  IntLanes .vbfi true true iBfi

/-- VMOV, VMOVI (R176, R181, R185). The offset form reads `epcv` as the issue leaves it. -/
def Obligations.VectorMoves : Prop :=
  (∀ (s : State) (h : Hdr) (k : KOps) (i : Issue), s.issue? h = some i →
    i.Free false (vregs k.t k.d ++ (match k.b with | .reg _ => if k.c = 0 then vregs k.t k.a else [] | _ => [])) (Src2.sregs k.b) →
    Completes s i (exec (.vmov h k) s) (fun g => LanesWritten i h k.len k.t k.d.toNat (fun l =>
      (if k.c = 0 then (match k.b with | .reg _ => i.g.vread k.t k.a.toNat l % 2 ^ k.t.width | _ => i.g.vsecond k.t k.b l)
       else if k.c = 1 then i.pc
       else if k.c = 2 then (sget i.g.hpcv l).toNat
       else (sget g.epcv l).toNat, 0)) g)) ∧
  LanesGet .vmovi (·.t) (fun k => vregs k.t k.d) (fun _ => []) (fun i k l => (i.g.vsecond k.t k.b l, 0))

/-- Packed integers (R122, R187, R188). -/
def Sys2Proof.Claims.PackedInstructions : Prop :=
  PackedLanes .pkadd false (fun a b _ => a + b) ∧
  PackedLanes .pksub false (fun a b _ => a - b) ∧
  PackedLanes .pkmul false (fun a b _ => a * b) ∧
  PackedLanes .pkmad true (fun a b c => a * b + c) ∧
  PackedLanes .pkavg false (fun a b _ => (a + b + 1) / 2) ∧
  PackedLanes .pkmin false (fun a b _ => if a ≤ b then a else b) ∧
  PackedLanes .pkmax false (fun a b _ => if a ≤ b then b else a) ∧
  IntLanes .pksad true true (fun t _ a b c => (intPat 32 (((c % 2 ^ 32 : Nat) : Int) +
    ((List.range t.elems).map (fun e => |intVal (Typ.elemOf t) (elem t a e) - intVal (Typ.elemOf t) (elem t b e)|)).sum), 0)) ∧
  IntLanes .pknar true false (fun t sat a b _ => packElems t (fun e =>
    narrow (Typ.elemOf t) sat (intVal (Typ.widen (Typ.elemOf t))
      ((if e < t.elems / 2 then a else b) / 2 ^ ((Typ.widen (Typ.elemOf t)).width * (e % (t.elems / 2))))))) ∧
  (∀ (s : State) (h : Hdr) (k : KOps) (i : Issue), s.issue? h = some i → i.Free false (vregs k.t k.d ++ vregs k.t k.a ++ [] ++ []) [] →
    Completes s i (exec (.pkwid h k) s) (LanesWritten i h k.len k.t k.d.toNat (fun l =>
      (((List.range (k.t.elems / 2)).map (fun e =>
        intPat (Typ.widen (Typ.elemOf k.t)).width (intVal (Typ.elemOf k.t) (elem k.t (i.g.vread k.t k.a.toNat l)
          (if k.sub.getLsbD 0 then e + k.t.elems / 2 else e))) * 2 ^ ((Typ.widen (Typ.elemOf k.t)).width * e))).sum, 0))))

/-- R122, R187, R188: the packed instructions, and packed words as their elements. -/
def Obligations.PackedResults : Prop :=
  Sys2Proof.Claims.PackedInstructions ∧ ∀ (t : Typ) (f : Nat → Nat × Flags) (e : Nat), e < t.elems →
    elem t (packElems t f).1 e = (f e).1 % 2 ^ t.width ∧
    ∀ n, n < 7 → ((packElems t f).2.getLsbD n = (List.range t.elems).any (fun e => (f e).2.getLsbD n))

/-- Bytes and lanes (R190 to R194). -/
def Obligations.LaneExchanges : Prop :=
  LanesGet .permb (fun _ => .n32) (fun k => [k.d.toNat, k.a.toNat]) (fun k => [Src2.num k.b, Src2.num k.b + 1])
    (fun i k l => (ofBytes ((List.range 4).map (fun j =>
      let n := fld (i.g.vr k.a.toNat l) (8 * j + (if k.sub.getLsbD 0 then 7 else 3)) (8 * j + (if k.sub.getLsbD 0 then 4 else 0))
      if n < 8 then (i.g.sr (Src2.num k.b)).extractLsb' (8 * n) 8 else (i.g.sr (Src2.num k.b + 1)).extractLsb' (8 * (n - 8)) 8)), 0)) ∧
  LanesGet .lxch (·.t) (fun k => vregs k.t k.d ++ vregs k.t k.a ++ Src2.vregs k.t k.b) (fun k => Src2.sregs k.b)
    (fun i k l => (i.g.vread k.t k.a.toNat (exchangeLane (fld k.sub 1 0) l (i.g.vsecond k.t k.b l % 2 ^ 32)), 0)) ∧
  LanesGet .lprev (fun _ => .n32) (fun k => [k.d.toNat, k.a.toNat]) (fun k => Src2.sregs k.b)
    (fun i k l => ((i.g.vr k.a.toNat l).toNat * 2 ^ (8 * k.c.toNat) +
      (if l = 0 then (i.g.sr (Src2.num k.b)).toNat % 2 ^ 32 else (i.g.vr k.a.toNat (l - 1)).toNat) / 2 ^ (32 - 8 * k.c.toNat), 0)) ∧
  (∀ (s : State) (h : Hdr) (k : KOps) (i : Issue), s.issue? h = some i → i.Free false [k.d.toNat, k.a.toNat] [] →
    Completes s i (exec (.lscan h k) s) (fun g =>
      Advanced i h k.len g ∧ { g.withMoved i.g with v := i.g.v, oldv := i.g.oldv, sflags := i.g.sflags } = i.g ∧
      (let val := fun l => (i.g.vr k.a.toNat l).toNat
       (∀ r l, l < 32 → g.vr r l = if i.exe.getLsbD l = true ∧ r = k.d.toNat
          then BitVec.ofNat 32 (combined (fld k.sub 2 0) k.t k.sat val ((lanesOf i.exe).filter (fun m => if k.sub.getLsbD 3 then decide (m < l) else decide (m ≤ l)))).1
          else i.g.vr r l) ∧
       g.sflags = orFlags i.g.sflags (combined (fld k.sub 2 0) k.t k.sat val (lanesOf i.exe)).2))) ∧
  ScalarGets .lred (fun k => [k.a.toNat]) (fun k => [k.d.toNat]) (fun i k =>
    let r := combined (fld k.sub 2 0) k.t k.sat (fun l => (i.g.vr k.a.toNat l).toNat) (lanesOf i.exe)
    (if k.t.isInt then extendTo 64 k.t r.1 else BitVec.ofNat 64 r.1, r.2)) ∧
  (∀ (s : State) (h : Hdr) (k : KOps) (i : Issue), s.issue? h = some i →
    i.Free (decide (2 ≤ fld k.sub 1 0)) [k.a.toNat] (if 2 ≤ fld k.sub 1 0 then [k.d.toNat] else []) →
    Completes s i (exec (.lpoll h k) s) (fun g =>
      let lanes := (lanesOf i.exe).filter (fun l => decide (i.g.vr k.a.toNat l ≠ 0))
      (fld k.sub 1 0 = 0 → ∃ m, PredWritten i h k.len k.d.toNat (m, 0) g ∧
        ∀ l, l < 32 → m.getLsbD l = if i.exe.getLsbD l = true then decide (lanes ≠ []) else (i.g.pr k.d.toNat).getLsbD l) ∧
      (fld k.sub 1 0 = 1 → ∃ m, PredWritten i h k.len k.d.toNat (m, 0) g ∧
        ∀ l, l < 32 → m.getLsbD l = if i.exe.getLsbD l = true then decide (lanes = lanesOf i.exe) else (i.g.pr k.d.toNat).getLsbD l) ∧
      (fld k.sub 1 0 = 2 → ∃ x, ScalarWritten i h k.len k.d.toNat (x, 0) g ∧ ∀ l, x.getLsbD l = decide (l ∈ lanes)) ∧
      (fld k.sub 1 0 = 3 → ScalarWritten i h k.len k.d.toNat (BitVec.ofNat 64 lanes.length, 0) g)))

/-- Comparisons and predicate logic (R148, R198, R202). -/
def Obligations.PredicateResults : Prop :=
  PredLanes .vcmp (fun k => vregs k.t k.a ++ Src2.vregs k.t k.b) (fun k => Src2.sregs k.b)
    (fun i k l => (related (fld k.sub 2 0) (intVal k.t (i.g.vread k.t k.a.toNat l)) (intVal k.t (i.g.vsecond k.t k.b l)), 0)) ∧
  PredLanes .fcmp (fun k => vregs k.t k.a ++ Src2.vregs k.t k.b) (fun k => Src2.sregs k.b)
    (fun i k l => cmpFloat (Fmt.of k.t) (fld k.sub 2 0) (i.g.vread k.t k.a.toNat l) (i.g.vsecond k.t k.b l)) ∧
  PredLanes .pand (fun _ => []) (fun _ => []) (fun i k l => ((i.g.pr k.a.toNat).getLsbD l && (i.g.pr (Src2.num k.b)).getLsbD l, 0)) ∧
  PredLanes .por (fun _ => []) (fun _ => []) (fun i k l => ((i.g.pr k.a.toNat).getLsbD l || (i.g.pr (Src2.num k.b)).getLsbD l, 0)) ∧
  PredLanes .pxor (fun _ => []) (fun _ => []) (fun i k l => ((i.g.pr k.a.toNat).getLsbD l != (i.g.pr (Src2.num k.b)).getLsbD l, 0)) ∧
  PredLanes .pnot (fun _ => []) (fun _ => []) (fun i k l => (!(i.g.pr k.a.toNat).getLsbD l, 0)) ∧
  PredLanes .pmov (fun _ => []) (fun _ => []) (fun i k l => ((i.g.pr k.a.toNat).getLsbD l, 0))

/-- A finite pattern of a format, and its value in units of the smallest subnormal (R124). -/
def Sys2Proof.Claims.Finite (f : Fmt) (x : Nat) : Prop := x < 2 ^ (1 + f.eb + f.fb) ∧ x % 2 ^ (f.eb + f.fb) ≤ f.maxFin
def Sys2Proof.Claims.units (f : Fmt) (x : Nat) : Int :=
  (if f.sgn x then -1 else 1) * (if f.exp x = 0 then (f.frac x : Int) else (2 ^ f.fb + f.frac x) * 2 ^ (f.exp x - 1))

/-- The units of 1, and the spacing of the largest finite values in units. -/
def Sys2Proof.Claims.one (f : Fmt) : Nat := 2 ^ (f.bias + f.fb - 1)
def Sys2Proof.Claims.topStep (f : Fmt) : Int := 2 ^ (f.maxFin / 2 ^ f.fb - 1)

/-- `n / d` units, rounded by the mode with an unbounded exponent, lie beyond the largest finite value (R127, R128). -/
def Sys2Proof.Claims.Beyond (f : Fmt) (rm : Rnd) (n : Int) (d : Nat) : Prop :=
  let top := units f f.maxFin * d
  let next := top + topStep f * d
  match rm with
  | .rne => if f.maxFin % 2 = 1 then top + next ≤ 2 * |n| else top + next < 2 * |n|
  | .rtz => next ≤ |n|
  | .rup => top < n ∨ next ≤ -n
  | .rdn => next ≤ n ∨ top < -n

/-- The finite pattern `x` is `n / d` units rounded once into the format (R127): no other finite value is nearer, or nearer on the
side that the mode takes; a tie goes to the even fraction. -/
def Sys2Proof.Claims.Nearest (f : Fmt) (rm : Rnd) (n : Int) (d x : Nat) : Prop :=
  let v := units f x * d
  let below := v ≤ n ∧ ∀ y, Finite f y → units f y * d ≤ n → units f y ≤ units f x
  let above := n ≤ v ∧ ∀ y, Finite f y → n ≤ units f y * d → units f x ≤ units f y
  match rm with
  | .rne => ∀ y, Finite f y → |v - n| ≤ |units f y * d - n| ∧ (|v - n| = |units f y * d - n| → units f y ≠ units f x → f.frac x % 2 = 0)
  | .rtz => if 0 ≤ n then below else above
  | .rup => above
  | .rdn => below

/-- `n / d` units, rounded by the mode to the format's precision with an unbounded exponent, are smaller than the smallest normal
value (R128). -/
def Sys2Proof.Claims.Tiny (f : Fmt) (rm : Rnd) (n : Int) (d : Nat) : Prop :=
  let min : Int := 2 ^ f.fb * d
  match rm with
  | .rne => 4 * |n| < 4 * min - d
  | .rtz => |n| < min
  | .rup => if 0 ≤ n then 2 * n ≤ 2 * min - d else |n| < min
  | .rdn => if 0 ≤ n then n < min else 2 * |n| ≤ 2 * min - d

/-- The result of an operation whose exact value is `n / d` units, not zero: pattern and flags (R127 to R129). -/
def Sys2Proof.Claims.RoundedTo (f : Fmt) (rm : Rnd) (conv : Bool) (n : Int) (d : Nat) (r : Nat × Flags) : Prop :=
  (Beyond f rm n d →
    r.1 = f.signBit (n < 0) + (if conv = true ∨ rm = .rtz ∨ (rm = .rup ∧ n < 0) ∨ (rm = .rdn ∧ 0 < n) then f.maxFin else f.infPat) ∧
    r.2 = (if conv then fSAT ||| fINX else fOVF ||| fINX)) ∧
  (¬Beyond f rm n d → Finite f r.1 ∧ f.sgn r.1 = decide (n < 0) ∧ Nearest f rm n d r.1 ∧
    (units f r.1 * d = n → r.2 = 0) ∧
    (units f r.1 * d ≠ n → (Tiny f rm n d → r.2 = fINX ||| fUNF) ∧ (¬Tiny f rm n d → r.2 = fINX)))

/-- The square root of `n / d` square units, rounded once (R127, R130). -/
def Sys2Proof.Claims.RootTo (f : Fmt) (rm : Rnd) (n d : Nat) (r : Nat × Flags) : Prop :=
  let sq := fun (x : Int) => x * x * d
  Finite f r.1 ∧ f.sgn r.1 = false ∧ (r.2 = if sq (units f r.1) = n then 0 else fINX) ∧
  match rm with
  | .rne => ∀ y, Finite f y → f.sgn y = false → (units f r.1 < units f y → 4 * n ≤ sq (units f r.1 + units f y)) ∧
      (units f y < units f r.1 → sq (units f r.1 + units f y) ≤ 4 * n)
  | .rup => n ≤ sq (units f r.1) ∧ ∀ y, Finite f y → f.sgn y = false → n ≤ sq (units f y) → units f r.1 ≤ units f y
  | _ => sq (units f r.1) ≤ n ∧ ∀ y, Finite f y → f.sgn y = false → sq (units f y) ≤ n → units f y ≤ units f r.1

/-- `n / d` rounded to an integer by the mode. -/
def Sys2Proof.Claims.RoundedInt (rm : Rnd) (n : Int) (d : Nat) (q : Int) : Prop :=
  match rm with
  | .rne => 2 * |n - q * d| ≤ d ∧ (2 * |n - q * d| = d → q % 2 = 0)
  | .rtz => |q| * d ≤ |n| ∧ |n| < (|q| + 1) * d ∧ 0 ≤ q * n
  | .rup => n ≤ q * d ∧ (q - 1) * d < n
  | .rdn => q * d ≤ n ∧ n < (q + 1) * d

/-- NaNs of a format with infinities, and the quiet bit (R124, R125). -/
def Sys2Proof.Claims.isNaN (f : Fmt) (x : Nat) : Bool := f.exp x == 2 ^ f.eb - 1 && f.frac x != 0
def Sys2Proof.Claims.signals (f : Fmt) (x : Nat) : Bool := isNaN f x && !x.testBit (f.fb - 1)
def Sys2Proof.Claims.infinity (f : Fmt) (neg : Bool) : Nat := f.signBit neg + f.infPat

/-- The formats of the arithmetic instructions (R195). -/
def Sys2Proof.Claims.ArithFormat (f : Fmt) : Prop := ∃ t : Typ, (t = .f32 ∨ t = .f16 ∨ t = .bf16) ∧ f = Fmt.of t

/-- FADD, FSUB, FMUL and FFMA (R125, R127, R128, R196). -/
def Sys2Proof.Claims.Sums : Prop :=
  ∀ (f : Fmt) (rm : Rnd) (a b c : Nat), ArithFormat f →
    (Finite f a → Finite f b →
      let sum := fun (u v : Int) (s t : Bool) (r : Nat × Flags) => (u + v ≠ 0 → RoundedTo f rm false (u + v) 1 r) ∧
        (u + v = 0 → r = (f.signBit (if u = 0 ∧ s = t then s else rm == .rdn), 0))
      sum (units f a) (units f b) (f.sgn a) (f.sgn b) (opFadd f rm a b c) ∧
      sum (units f a) (-units f b) (f.sgn a) (!f.sgn b) (opFsub f rm a b c) ∧
      (units f a * units f b ≠ 0 → RoundedTo f rm false (units f a * units f b) (one f) (opFmul f rm a b c)) ∧
      (units f a * units f b = 0 → opFmul f rm a b c = (f.signBit (f.sgn a != f.sgn b), 0)) ∧
      (Finite f c → let u := units f a * units f b
        let v := units f c * one f
        (u + v ≠ 0 → RoundedTo f rm false (u + v) (one f) (opFfma f rm a b c)) ∧
        (u + v = 0 → opFfma f rm a b c = (f.signBit (if u = 0 ∧ (f.sgn a != f.sgn b) = f.sgn c then f.sgn c else rm == .rdn), 0))) ∧
      ∀ n, opFfma f rm a b (infinity f n) = (infinity f n, 0)) ∧
    (isNaN f a = true ∨ isNaN f b = true → let r := (f.cnan, flagIf (signals f a || signals f b) fINV)
      opFadd f rm a b c = r ∧ opFsub f rm a b c = r ∧ opFmul f rm a b c = r) ∧
    (∀ s t, opFadd f rm (infinity f s) (infinity f t) c = (if s = t then (infinity f s, 0) else (f.cnan, fINV)) ∧
      opFsub f rm (infinity f s) (infinity f t) c = (if s = t then (f.cnan, fINV) else (infinity f s, 0)) ∧
      opFmul f rm (infinity f s) (infinity f t) c = (infinity f (s != t), 0)) ∧
    (Finite f a → ∀ s, opFadd f rm (infinity f s) a c = (infinity f s, 0) ∧ opFadd f rm a (infinity f s) c = (infinity f s, 0) ∧
      opFsub f rm (infinity f s) a c = (infinity f s, 0) ∧ opFsub f rm a (infinity f s) c = (infinity f !s, 0) ∧
      (let r := if units f a = 0 then (f.cnan, fINV) else (infinity f (s != f.sgn a), 0)
       opFmul f rm a (infinity f s) c = r ∧ opFmul f rm (infinity f s) a c = r) ∧
      (units f a = 0 → (signals f c = true ∨ isNaN f c = true ∨ Finite f c ∨ ∃ n, c = infinity f n) →
        opFfma f rm a (infinity f s) c = (f.cnan, fINV) ∧ opFfma f rm (infinity f s) a c = (f.cnan, fINV)))

/-- FDIV, RCP, FSQRT and RSQ of `.F32`, and the stated values of EXP2 and LOG2 (R130). -/
def Sys2Proof.Claims.Quotients : Prop :=
  ∀ (rm : Rnd) (a b c : Nat), let f := Fmt.of .f32
    let sg := fun (x : Nat) => if f.sgn x then (-1 : Int) else 1
    (Finite f a → Finite f b →
      (units f a ≠ 0 → units f b ≠ 0 → RoundedTo f rm false (sg b * units f a * one f) (units f b).natAbs (opFdiv f rm a b c)) ∧
      (units f a = 0 → units f b ≠ 0 → opFdiv f rm a b c = (f.signBit (f.sgn a != f.sgn b), 0)) ∧
      (units f a ≠ 0 → units f b = 0 → opFdiv f rm a b c = (infinity f (f.sgn a != f.sgn b), fDZ)) ∧
      (units f a = 0 → units f b = 0 → opFdiv f rm a b c = (f.cnan, fINV))) ∧
    (Finite f a → let n := f.sgn a
      (units f a ≠ 0 → RoundedTo f rm false (sg a * one f * one f) (units f a).natAbs (opRcp f rm a b c)) ∧
      (units f a = 0 → opRcp f rm a b c = (infinity f n, fDZ) ∧ opRsq f rm a b c = (infinity f n, fDZ) ∧ opFsqrt f rm a b c = (a, 0) ∧
        opLog2 f rm a b c = (infinity f true, fDZ) ∧ opExp2 f rm a b c = (127 * 2 ^ 23, 0)) ∧
      (units f a < 0 → opFsqrt f rm a b c = (f.cnan, fINV) ∧ opRsq f rm a b c = (f.cnan, fINV) ∧ opLog2 f rm a b c = (f.cnan, fINV)) ∧
      (0 < units f a → RootTo f rm ((units f a).natAbs * one f) 1 (opFsqrt f rm a b c) ∧
        RootTo f rm (one f ^ 3) (units f a).natAbs (opRsq f rm a b c)) ∧
      (∀ k : Int, units f a = k * one f → -126 ≤ k → k ≤ 127 → opExp2 f rm a b c = ((k + 127).toNat * 2 ^ 23, 0)) ∧
      (∀ e, 1 ≤ e → e ≤ 254 → a = e * 2 ^ 23 → (opLog2 f rm a b c).2 = 0 ∧ Finite f (opLog2 f rm a b c).1 ∧
        units f (opLog2 f rm a b c).1 = ((e : Int) - 127) * one f)) ∧
    (isNaN f a = true → ∀ op ∈ [opFsqrt, opRcp, opRsq, opExp2, opLog2], op f rm a b c = (f.cnan, flagIf (signals f a) fINV)) ∧
    (∀ n, opRcp f rm (infinity f n) b c = (f.signBit n, 0) ∧
      opRsq f rm (infinity f n) b c = (if n then (f.cnan, fINV) else (0, 0)) ∧ opFsqrt f rm (infinity f n) b c = (if n then (f.cnan, fINV) else (infinity f n, 0)) ∧
      opLog2 f rm (infinity f n) b c = (if n then (f.cnan, fINV) else (infinity f n, 0)) ∧ opExp2 f rm (infinity f n) b c = (if n then 0 else infinity f n, 0))

/-- FMIN, FMAX, FABS, FNEG, FCMP, FCLASS and FRND (R197 to R200). -/
def Sys2Proof.Claims.Selections : Prop :=
  ∀ (f : Fmt) (rm : Rnd) (a b c : Nat), ArithFormat f → a < 2 ^ (1 + f.eb + f.fb) → b < 2 ^ (1 + f.eb + f.fb) →
    let inv := flagIf (signals f a || signals f b) fINV
    let less := fun (x y : Nat) => units f x < units f y ∨ units f x = units f y ∧ f.sgn x = true
    (isNaN f a = false → isNaN f b = false → opFminmax false f rm a b c = (if less a b then a else b, 0) ∧
      opFminmax true f rm a b c = (if less b a then a else b, 0) ∧
      ∀ code, code < 6 → cmpFloat f code a b = (related code (units f a) (units f b), 0)) ∧
    (isNaN f a = true → isNaN f b = false → opFminmax false f rm a b c = (b, inv) ∧ opFminmax true f rm a b c = (b, inv)) ∧
    (isNaN f a = false → isNaN f b = true → opFminmax false f rm a b c = (a, inv) ∧ opFminmax true f rm a b c = (a, inv)) ∧
    (isNaN f a = true → isNaN f b = true → opFminmax false f rm a b c = (f.cnan, inv) ∧ opFminmax true f rm a b c = (f.cnan, inv)) ∧
    (isNaN f a = true ∨ isNaN f b = true → ∀ code, code < 8 → cmpFloat f code a b =
      (decide (code = 1 ∨ code = 7), flagIf (signals f a || signals f b || decide (2 ≤ code ∧ code ≤ 5)) fINV)) ∧
    (isNaN f a = false → isNaN f b = false → cmpFloat f 6 a b = (true, 0) ∧ cmpFloat f 7 a b = (false, 0)) ∧
    (isNaN f a = false → opFabs f rm a b c = (a % 2 ^ (f.eb + f.fb), 0) ∧
      opFneg f rm a b c = (if f.sgn a then a - 2 ^ (f.eb + f.fb) else a + 2 ^ (f.eb + f.fb), 0)) ∧
    (isNaN f a = true → opFabs f rm a b c = (f.cnan, 0) ∧ opFneg f rm a b c = (f.cnan, 0) ∧
      fclass f a = (if signals f a then 2 ^ 8 else 2 ^ 9) ∧ opFrnd f rm a b c = (f.cnan, flagIf (signals f a) fINV)) ∧
    (Finite f a → fclass f a = (if units f a = 0 then (if f.sgn a then 2 ^ 3 else 2 ^ 4)
      else if f.exp a = 0 then (if f.sgn a then 2 ^ 2 else 2 ^ 5) else (if f.sgn a then 2 ^ 1 else 2 ^ 6))) ∧
    (∀ n, fclass f (infinity f n) = (if n then 2 ^ 0 else 2 ^ 7) ∧ opFrnd f rm (infinity f n) b c = (infinity f n, 0)) ∧
    (Finite f a → ∃ q : Int, RoundedInt rm (units f a) (one f) q ∧ Finite f (opFrnd f rm a b c).1 ∧ units f (opFrnd f rm a b c).1 = q * one f ∧
      f.sgn (opFrnd f rm a b c).1 = f.sgn a ∧ (opFrnd f rm a b c).2 = 0)

/-- CVT (R129): between formats, from a format to an integer and back, and between integers. -/
def Sys2Proof.Claims.Conversions : Prop :=
  ∀ (t u : Typ) (sat : Bool) (rm : Rnd) (a : Nat), let f := Fmt.of t
    let g := Fmt.of u
    (t ∈ [Typ.f32, .f16, .bf16, .e5m2] → u ∈ [Typ.f32, .f16, .bf16, .e4m3, .e5m2] → t ≠ u →
      (Finite f a → units f a ≠ 0 → RoundedTo g rm true (units f a * one g) (one f) (cvt t u sat rm a)) ∧
      (Finite f a → units f a = 0 → cvt t u sat rm a = (g.signBit (f.sgn a), 0)) ∧
      (∀ n, cvt t u sat rm (infinity f n) = if g.inf then (infinity g n, 0) else (g.signBit n + g.maxFin, fSAT))) ∧
    (t ∈ [Typ.f32, .f16, .bf16] → u ∈ [Typ.f32, .f16, .bf16, .e4m3, .e5m2] → isNaN f a = true → cvt t u sat rm a = (g.cnan, flagIf (signals f a) fINV)) ∧
    (t ∈ [Typ.f32, .f16, .bf16, .e5m2] → u ∈ [Typ.i8, .n8, .i16, .n16, .i32, .n32, .i64, .n64] →
      (isNaN f a = true → cvt t u sat rm a = (0, fINV)) ∧
      (∀ n, cvt t u sat rm (infinity f n) = (intPat u.width (if n then intMin u else intMax u), fSAT)) ∧
      (Finite f a → ∃ q : Int, RoundedInt rm (units f a) (one f) q ∧
        cvt t u sat rm a = (if q < intMin u then (intPat u.width (intMin u), fSAT) else if intMax u < q then (intPat u.width (intMax u), fSAT)
          else (intPat u.width q, if q * one f = units f a then 0 else fINX)))) ∧
    (t ∈ [Typ.i8, .n8, .i16, .n16, .i32, .n32, .i64, .n64] → u ∈ [Typ.f32, .f16, .bf16, .e4m3, .e5m2] →
      (intVal t a ≠ 0 → RoundedTo g rm true (intVal t a * one g) 1 (cvt t u sat rm a)) ∧ (intVal t a = 0 → cvt t u sat rm a = (0, 0)))

/-- Floating point (R124 to R130, R195 to R201): what each instruction writes in the lanes of `exe`, and what the operations give. -/
def Obligations.FloatResults : Prop :=
  Sums ∧ Quotients ∧ Selections ∧ Conversions ∧
  FloatLanes .fadd true false opFadd ∧ FloatLanes .fsub true false opFsub ∧ FloatLanes .fmul true false opFmul ∧
  FloatLanes .ffma true true opFfma ∧ FloatLanes .fmin true false (opFminmax false) ∧ FloatLanes .fmax true false (opFminmax true) ∧
  FloatLanes .fabs false false opFabs ∧ FloatLanes .fneg false false opFneg ∧ FloatLanes .frnd false false opFrnd ∧
  FloatLanes .fdiv true false opFdiv ∧ FloatLanes .fsqrt false false opFsqrt ∧ FloatLanes .exp2 false false opExp2 ∧
  FloatLanes .log2 false false opLog2 ∧ FloatLanes .rcp false false opRcp ∧ FloatLanes .rsq false false opRsq ∧
  LanesGet .fclass (fun _ => .n32) (fun k => vregs .n32 k.d ++ vregs k.t k.a ++ [] ++ []) (fun _ => [])
    (fun i k l => (fclass (Fmt.of k.t) (i.g.vread k.t k.a.toNat l), 0)) ∧
  (∀ (s : State) (h : Hdr) (k : KOps) (i : Issue) (u : Typ), typOfCode (fld k.c 4 0) = some u → s.issue? h = some i →
    i.Free false (vregs k.t k.d ++ vregs u k.a ++ (if k.t.elems = 2 then Src2.vregs u k.b else []) ++ []) (if k.t.elems = 2 then Src2.sregs k.b else []) →
    Completes s i (exec (.cvt h k) s) (LanesWritten i h k.len k.t k.d.toNat (fun l =>
      if k.t.elems = 2 then
        let x := cvt u (Typ.elemOf k.t) k.sat k.rm (i.g.vread u k.a.toNat l)
        let y := cvt u (Typ.elemOf k.t) k.sat k.rm (i.g.vsecond u k.b l)
        (x.1 % 2 ^ 16 + 2 ^ 16 * (y.1 % 2 ^ 16), x.2 ||| y.2)
      else cvt u k.t k.sat k.rm (i.g.vread u k.a.toNat l))))

/-! ### Issue and control -/

/-- R24: which lanes issue, where they stand, and which of them execute. -/
def Obligations.IssueChoosesLanes : Prop :=
  ∀ (s : State) (h : Hdr) (i : Issue), s.issue? h = some i →
    (∀ l, i.act.getLsbD l = true ↔ l < 32 ∧ i.g.eligible.getLsbD l = true ∧ (sget i.g.pcv l).toNat = i.pc) ∧
    (∀ l, i.g.eligible.getLsbD l = true → i.pc ≤ (sget i.g.pcv l).toNat) ∧
    (∃ l, i.act.getLsbD l = true) ∧
    (∀ l, l < 32 → i.exe.getLsbD l = (i.act.getLsbD l && ((i.g.pr h.g.toNat).getLsbD l != h.gn)))

/-- The state in which an effect is taken (R24), and what the tests after it leave of a group that goes on (R25, R27). -/
def Obligations.IssueAdvances : Prop :=
  (∀ (s : State) (h : Hdr) (i : Issue) (len opc : Nat), s.issue? h = some i →
    IssueFrame s (issued s i h len opc) i.gk ∧
    ∃ g, (issued s i h len opc).group? i.gk = some g ∧ g.withMoved i.g = i.g ∧ Advanced i h len g) ∧
  (∀ (s : State) (gk : Nat) (g : Group), s.group? gk = some g → g.stopEv = none →
    ¬(g.exited = 0xFFFFFFFF ∧ g.lc = 0 ∧ g.sc = 0 ∧ g.cc = 0 ∧ g.tc = 0) → s.finish gk = s.setGroup gk g.releaseAll) ∧
  (∀ (s : State) (gk : Nat) (g : Group), s.group? gk = some g →
    g.exited = 0xFFFFFFFF ∧ g.lc = 0 ∧ g.sc = 0 ∧ g.cc = 0 ∧ g.tc = 0 → (s.finish gk).group? gk = none)

/-- Branches (R157, R207, R209). -/
def Sys2Proof.Claims.Branches : Prop :=
  JumpsBy .bra ∧ JumpsBy .jmp ∧ JumpsTo .brx ∧ JumpsTo .ret ∧
  (∀ (s : State) (h : Hdr) (o : JOps) (i : Issue), s.issue? h = some i → i.Free false [o.d.toNat] [] →
    Completes s i (exec (.call h o) s) (fun g => Branched i 8 (fun _ => BitVec.ofNat 32 i.pc + o.disp) g ∧
      { g.withMoved i.g with v := i.g.v, oldv := i.g.oldv } = i.g ∧
      ∀ r l, l < 32 → g.vr r l = if i.exe.getLsbD l = true ∧ r = o.d.toNat then BitVec.ofNat 32 (i.pc + 8) else i.g.vr r l)) ∧
  (∀ (s : State) (h : Hdr) (n : Nat) (i : Issue), s.issue? h = some i → MovesPast (exec (.nop h n) s) s i h n)

/-- R157, R207, R209, R411: branches; one to a register whose offset is misaligned or beyond the code in some lane parks the group. -/
def Obligations.BranchTargets : Prop :=
  Sys2Proof.Claims.Branches ∧ ∀ (s : State) (h : Hdr) (o : JOps) (i : Issue) (m : LaneMask), s.issue? h = some i → i.Free false [o.d.toNat] [] → m ≠ 0 →
    (∀ l, l < 32 → (m.getLsbD l = true ↔ i.exe.getLsbD l = true ∧
      ((i.g.vr o.d.toNat l).toNat % 4 ≠ 0 ∨ ((s.gvar? i.g).map (·.csz)).getD 0 ≤ (i.g.vr o.d.toNat l).toNat))) →
    exec (.brx h o) s = .next (s.freeze i.gk 12 6 0x02 m i.pc) ∧ exec (.ret h o) s = .next (s.freeze i.gk 12 6 0x05 m i.pc)

/-- Rejoin barriers, YIELD, EXIT and WAIT (R25 to R28, R209, R210). -/
def Obligations.LanesWaitAndLeave : Prop :=
  (∀ (s : State) (h : Hdr) (o : JOps) (i : Issue), s.issue? h = some i →
    Completes s i (exec (.enrol h o) s) (fun g => g.withMoved i.g = i.g ∧ Advanced i h 8 g ∧
      (∀ l, i.exe.getLsbD l = true → (i.g.pr (fld o.d 2 0)).getLsbD l = true → (sget g.rmask o.bar.toNat).getLsbD l = true) ∧
      (∀ b l, (sget g.rmask b).getLsbD l = true → (sget i.g.rmask b).getLsbD l = true ∨
        (b = o.bar.toNat ∧ i.exe.getLsbD l = true ∧ (i.g.pr (fld o.d 2 0)).getLsbD l = true)) ∧
      ∀ b l, (sget g.rwait b).getLsbD l = true → (sget i.g.rwait b).getLsbD l = true)) ∧
  (∀ (s : State) (h : Hdr) (o : JOps) (i : Issue), s.issue? h = some i →
    let b := o.bar.toNat
    let enrolled := sget i.g.rmask b
    let waiting := sget i.g.rwait b ||| (i.exe &&& enrolled)
    Completes s i (exec (.rejoin h o) s) (fun g => g.withMoved i.g = i.g ∧
      (∀ l, i.act.getLsbD l = true → (i.exe &&& enrolled).getLsbD l = false → sget g.pcv l = BitVec.ofNat 32 (i.pc + 8)) ∧
      (enrolled &&& ~~~i.g.exited &&& ~~~waiting = 0 → sget g.rmask b = 0 ∧ sget g.rwait b = 0 ∧
        ∀ l, (i.exe &&& enrolled).getLsbD l = true → sget g.pcv l = BitVec.ofNat 32 i.pc + 8) ∧
      (enrolled &&& ~~~i.g.exited &&& ~~~waiting ≠ 0 → sget g.rwait b = waiting ∧
        ∀ l, (i.exe &&& enrolled).getLsbD l = true → sget g.pcv l = BitVec.ofNat 32 i.pc) ∧
      (∀ c l, (sget g.rmask c).getLsbD l = true → (sget i.g.rmask c).getLsbD l = true) ∧
      ∀ c l, c ≠ b → (sget g.rwait c).getLsbD l = true → (sget i.g.rwait c).getLsbD l = true)) ∧
  (∀ (s : State) (h : Hdr) (o : JOps) (i : Issue), s.issue? h = some i →
    Completes s i (exec (.yield h o) s) (fun g => g.withMoved i.g = i.g ∧ Advanced i h 8 g ∧ g.yielded = i.exe)) ∧
  (∀ (s : State) (h : Hdr) (o : JOps) (i : Issue), s.issue? h = some i → i.exe &&& i.g.intx = 0 →
    (¬(i.g.exited ||| i.exe = 0xFFFFFFFF ∧ i.g.lc = 0 ∧ i.g.sc = 0 ∧ i.g.cc = 0 ∧ i.g.tc = 0) →
      Completes s i (exec (.exit h o) s) (fun g => g.exited = i.g.exited ||| i.exe ∧
        { g.withMoved i.g with exited := i.g.exited, hmask := i.g.hmask, mwait := i.g.mwait } = i.g)) ∧
    (i.g.exited ||| i.exe = 0xFFFFFFFF ∧ i.g.lc = 0 ∧ i.g.sc = 0 ∧ i.g.cc = 0 ∧ i.g.tc = 0 →
      ∃ t, exec (.exit h o) s = .next t ∧ t.group? i.gk = none)) ∧
  (∀ (s : State) (h : Hdr) (o : JOps) (i : Issue), s.issue? h = some i →
    (i.g.lc ≤ fld o.disp 5 0 ∧ i.g.sc ≤ fld o.disp 11 6 ∧ i.g.cc ≤ fld o.disp 17 12 ∧ i.g.tc ≤ fld o.disp 23 18 →
      MovesPast (exec (.wait h o) s) s i h 8) ∧
    (¬(i.g.lc ≤ fld o.disp 5 0 ∧ i.g.sc ≤ fld o.disp 11 6 ∧ i.g.cc ≤ fld o.disp 17 12 ∧ i.g.tc ≤ fld o.disp 23 18) →
      exec (.wait h o) s = .next s))

/-- Rendezvous points (R211 to R214): RVINIT of a free point and of one with the same count, a count of 0 that is no
instruction, an arrival, a wait, and the illegal uses, which park the group with EVENT 12 and SUBC 5 (R411). -/
def Obligations.RendezvousPoints : Prop :=
  (∀ (s : State) (h : Hdr) (o : YOps) (i : Issue), s.issue? h = some i →
    (i.exe = 0 ∨ (s.point i o.spec.toNat).getLsbD 33 = false ∨ fld (s.point i o.spec.toNat) 15 0 = o.imm.toNat) →
    EffectIs (.rvinit h o) s i h 8 0x10 (fun u => u.modTeam (i.g.tk i.gk) (fun t =>
      if (sget t.rv o.spec.toNat).getLsbD 33 then t else { t with rv := sset t.rv o.spec.toNat (pointWord o.imm.toNat o.imm.toNat false true) }))) ∧
  (∀ (s : State) (h : Hdr) (o : YOps) (i : Issue), s.issue? h = some i → i.exe &&& i.g.intx = 0 →
    (i.exe ≠ 0 → (s.point i o.spec.toNat).getLsbD 33 = true ∧ i.g.ops = []) →
    EffectIs (.rvarrive h o) s i h 8 0x11 (fun u => if i.exe = 0 then u
      else ((u.modTeam (i.g.tk i.gk) (fun t => { t with
          rv := sset t.rv o.spec.toNat (if (sget t.rv o.spec.toNat).getLsbD 33 then arrivedWord (sget t.rv o.spec.toNat) else sget t.rv o.spec.toNat) })).modGroup i.gk
        (fun g => g.setEntry i.exe (fun _ => BitVec.ofNat 32 (i.pc + 8)))).modGroup i.gk
        (fun g => if armedFlags g.sflags = 0 then g
          else { g.raise 1 0 with flagCode := armedFlags g.sflags, flagAt := some (BitVec.ofNat 32 (i.pc + 8)) }))) ∧
  (∀ (s : State) (h : Hdr) (o : YOps) (i : Issue), s.issue? h = some i →
    (i.exe = 0 ∨ ((s.point i o.spec.toNat).getLsbD 33 = true ∧ (s.point i o.spec.toNat).getLsbD 32 = o.f) →
      MovesPast (exec (.rvwait h o) s) s i h 8) ∧
    (i.exe ≠ 0 → (s.point i o.spec.toNat).getLsbD 33 = true → (s.point i o.spec.toNat).getLsbD 32 ≠ o.f → exec (.rvwait h o) s = .next s)) ∧
  (∀ (s : State) (h : Hdr) (o : YOps) (i : Issue), s.issue? h = some i → i.exe ≠ 0 →
    ((s.point i o.spec.toNat).getLsbD 33 = true → fld (s.point i o.spec.toNat) 15 0 ≠ o.imm.toNat →
      exec (.rvinit h o) s = .next (s.freeze i.gk 12 5 0x10 i.exe i.pc)) ∧
    ((s.point i o.spec.toNat).getLsbD 33 = false →
      (i.exe &&& i.g.intx = 0 → exec (.rvarrive h o) s = .next (s.freeze i.gk 12 5 0x11 i.exe i.pc)) ∧
      exec (.rvwait h o) s = .next (s.freeze i.gk 12 5 0x12 i.exe i.pc))) ∧
  (∀ (h : Hdr) (o : YOps), o.imm = 0 → (Instr.rvinit h o).wellFormed = false)

/-- MONITOR and MWAIT (R216, R217, R219): arming in A-space and in global memory, the kept watch, the wait and its three
ends. -/
def Obligations.WatchAndWait : Prop :=
  (∀ (s : State) (h : Hdr) (o : YOps) (i : Issue), s.issue? h = some i → i.Free false [] [o.a.toNat] → i.exe ≠ 0 →
    i.g.acquiring = false → i.g.lc < 63 →
    let x := i.g.sr o.a.toNat
    let had := i.g.ops.any (fun p => p.kind == .snapshot)
    let fresh := fun (u : State) => if had then u.modGroup i.gk (fun g => { g with lc := g.lc - 1 }) else u
    let line := BitVec.ofNat 56 (if x.getLsbD 63 then fld x 18 6 else fld x 55 6)
    let kept := i.g.watch.keep &&& i.exe ≠ 0 ∧ i.g.watch.loc = x.getLsbD 63 ∧ i.g.watch.line = line
    let keep := fun (home : Place) (u : State) => (u.modGroup i.gk (fun g => { g with watch := { i.g.watch with
      keep := g.watch.keep &&& ~~~i.exe, lanes := g.watch.lanes ||| i.exe, home := home } })).watchHome home
    let arm := fun (home : Place) (u : State) => (fresh u).modGroup i.gk (fun g => { g with
      watch := { armed := true, loc := x.getLsbD 63, line := line, home := home, lanes := i.exe }, lc := g.lc + 1, nextOp := g.nextOp + 1,
      ops := g.ops.filter (fun p => p.kind != .snapshot) ++
        [{ id := g.nextOp, kind := .snapshot, accs := [{ lane := lowest i.exe, va := BitVec.ofNat 64 (fld x 55 6 * 64), place := home, size := 64 }], exe := i.exe }] })
    (x.getLsbD 63 = true → fld x 62 19 = 0 → ∀ t, s.team? (i.g.tk i.gk) = some t → fld x 18 0 < 4096 * t.asize →
      let home := Place.aspc (coreOf i.gk) (4096 * t.abase + fld x 18 6 * 64)
      (kept → EffectIs (.monitor h o) s i h 8 0x13 (keep home)) ∧ (¬kept → EffectIs (.monitor h o) s i h 8 0x13 (arm home))) ∧
    (x.getLsbD 63 = false → fld x 62 56 = 0 → ∀ pa w,
      (issued s i h 8 0x13).coreXlate (coreOf i.gk) i.g.part .load (fld x 55 6 * 64) = (.ok pa, w) →
      (kept → exec (.monitor h o) s = .next ((keep (.glob pa) w).finish i.gk)) ∧ (¬kept → exec (.monitor h o) s = .next ((arm (.glob pa) w).finish i.gk)))) ∧
  (∀ (s : State) (h : Hdr) (o : YOps) (i : Issue), s.issue? h = some i → i.Free false [] [o.a.toNat] →
    let wait := fun (u : State) => u.modGroup i.gk (fun g => { g with
      mwait := g.mwait ||| i.exe, pcv := setLanes g.pcv i.exe (fun _ => BitVec.ofNat 32 i.pc),
      mwaitEnd := earlier g.mwaitEnd (if i.g.sr o.a.toNat = 0 then none else some (s.clock.now + (i.g.sr o.a.toNat).toNat)) })
    (i.exe = 0 ∨ i.g.watch.armed = false → MovesPast (exec (.mwait h o) s) s i h 8) ∧
    (i.exe ≠ 0 → i.g.watch.armed = true → EffectIs (.mwait h o) s i h 8 0x14 (fun u => (wait u).rewait i.gk) ∧
      (i.g.watch.loc = true →
        (s.watchDue i.g.watch = false → EffectIs (.mwait h o) s i h 8 0x14 wait) ∧
        (s.watchDue i.g.watch = true → EffectIs (.mwait h o) s i h 8 0x14 (fun u => (wait u).modGroup i.gk Group.wake))))) ∧
  (∀ (s : State) (gk : Nat) (g : Group), s.group? gk = some g → g.st = .running →
    let woken : Group := { g with pcv := setLanes g.pcv g.mwait (fun l => sget g.pcv l + 8), mwait := 0, mwaitEnd := none, stamp := g.wake.stamp }
    (g.mwait ≠ 0 → g.watch.trig = true → exec (.mwaitWake gk) s = .next (s.setGroup gk woken)) ∧
    (∀ t, g.mwaitEnd = some t → t ≤ s.clock.now → exec (.mwaitTimeout gk) s = .next (s.setGroup gk woken)))

/-- FETCHW, SWITCHV, XACQ and XREL complete (R31, R40, R45, R63, R220 to R222): a FETCHW whose grant has come moves the lanes of `exe`
past it and commits them; SWITCHV moves its lanes past where no switch waits for them; XACQ of a block held moves past, and of the
next block of a pool that has one takes it, cleared; XREL of the highest block held that no matrix operation reads returns it. -/
def Sys2Proof.Claims.SchedulingCompletes : Prop :=
  (∀ (s : State) (h : Hdr) (o : YOps) (i : Issue), s.issue? h = some i → i.g.kind = .lodge → i.exe &&& i.g.intx = 0 → i.g.fetchw.isSome = true →
    Completes s i (exec (.fetchw h o) s) (fun g => g.fetchw = none ∧
      { g.withMoved i.g with fetchw := i.g.fetchw } = i.g ∧
      (∀ l, i.act.getLsbD l = true → sget g.pcv l = BitVec.ofNat 32 (i.pc + 8)) ∧
      (∀ l, i.exe.getLsbD l = true → sget g.epcv l = BitVec.ofNat 32 (i.pc + 8)) ∧
      (h.w = false → ∀ l, l < 32 → i.exe.getLsbD l = false → sget g.epcv l = sget i.g.epcv l))) ∧
  (∀ (s : State) (h : Hdr) (o : YOps) (i : Issue), s.issue? h = some i → i.g.kind ≠ .lodge →
    let wait := (∃ t, s.team? (i.g.tk i.gk) = some t ∧ t.request.isSome = true ∧ (t.later = false ∨ s.teamWhole (i.g.tk i.gk) = true)) ∧
      i.g.handler = false ∧ i.act = ~~~i.g.exited
    ∃ t g, exec (.switchv h o) s = .next t ∧ t.group? i.gk = some g ∧
      (¬wait → g.withMoved i.g = i.g ∧ Advanced i h 8 g) ∧
      (wait → g.arrived = some o.imm.toNat ∧ { g.withMoved i.g with arrived := i.g.arrived } = i.g ∧
        ∀ l, i.act.getLsbD l = true → sget g.pcv l = BitVec.ofNat 32 i.pc) ∧
      (∀ k, k ≠ i.gk → t.group? k = s.group? k) ∧ (∀ p, t.readByte p = s.readByte p) ∧
      (∀ c, (t.core c).withCounts (s.core c) = s.core c) ∧
      ∀ tk, (t.team? tk).map (fun x => { x with later := false }) = (s.team? tk).map (fun x => { x with later := false })) ∧
  (∀ (s : State) (h : Hdr) (o : YOps) (i : Issue) (x : Team), s.issue? h = some i → i.exe &&& i.g.intx = 0 → s.team? (i.g.tk i.gk) = some x →
    let n := o.spec.toNat
    let frame := fun (t : State) (g : Group) => t.group? i.gk = some g ∧ Advanced i h 8 g ∧ { g.withMoved i.g with held := i.g.held, v := i.g.v } = i.g ∧
      (∀ k, k ≠ i.gk → t.group? k = s.group? k) ∧ (∀ p, t.readByte p = s.readByte p) ∧ (∀ c, (t.core c).withCounts (s.core c) = s.core c) ∧
      ∀ tk, tk ≠ i.g.tk i.gk → t.team? tk = s.team? tk
    let cleared := fun (g : Group) => ∀ r l, l < 32 → g.vr r l = if r / 64 = n then 0 else i.g.vr r l
    (n < 4 → i.g.held.getLsbD n = true ∨ (i.g.held.getLsbD (n - 1) = true ∧ n < i.g.budget ∧ 0 < x.poolFree ∧ s.behind i 16 = false) →
      ∃ t g, exec (.xacq h o) s = .next t ∧ frame t g ∧ g.held = i.g.held ||| BitVec.ofNat 4 (2 ^ n) ∧
        (i.g.held.getLsbD n = true → g.v = i.g.v ∧ t.team? (i.g.tk i.gk) = some x) ∧
        (i.g.held.getLsbD n = false → cleared g ∧ t.team? (i.g.tk i.gk) = some { x with poolFree := x.poolFree - 1 })) ∧
    (n < 4 → (n < 3 → i.g.held.getLsbD (n + 1) = false) →
      (i.g.held.getLsbD n = true → (s.core (coreOf i.gk)).mq.any (fun m => s.matOf i.gk m && m.blocks.getLsbD n) = false) →
      ∃ t g, exec (.xrel h o) s = .next t ∧ frame t g ∧ g.held = i.g.held &&& ~~~BitVec.ofNat 4 (2 ^ n) ∧
        (i.g.held.getLsbD n = false → g.v = i.g.v ∧ t.team? (i.g.tk i.gk) = some x) ∧
        (i.g.held.getLsbD n = true → cleared g ∧ t.team? (i.g.tk i.gk) = some { x with poolFree := x.poolFree + 1 })))

/-- FETCHW, SWITCHV, XACQ and XREL (R31, R40, R45, R63, R220 to R222): where each completes, waits or is refused. -/
def Obligations.SchedulingInstructions : Prop :=
  Sys2Proof.Claims.SchedulingCompletes ∧
  (∀ (s : State) (h : Hdr) (o : YOps) (i : Issue), s.issue? h = some i → i.g.kind = .lodge → i.exe &&& i.g.intx = 0 →
    (i.g.fetchw.isSome = true → EffectIs (.fetchw h o) s i h 8 0x15 (fun u =>
      (u.modGroup i.gk (fun g => { g with fetchw := none })).modGroup i.gk (fun g =>
        g.setEntry i.exe (fun _ => BitVec.ofNat 32 (i.pc + 8))))) ∧
    (i.g.fetchw = none → s.inn.fetch.any (fun f => f.gk == i.gk) = true → exec (.fetchw h o) s = .next s) ∧
    (i.g.fetchw = none → s.inn.fetch.any (fun f => f.gk == i.gk) = false →
      exec (.fetchw h o) s = .next (((s.stamped i.gk 18).modGroup i.gk (fun g => { g with fetchAt := some (i.exe, BitVec.ofNat 32 (i.pc + 8)) })).setInn
        { s.inn with fetch := s.inn.fetch ++ [{ gk := i.gk, at_ := 2 * s.clock.now }] }))) ∧
  (∀ (s : State) (gk : Nat) (g : Group) (m : LaneMask) (off : BitVec 32), s.group? gk = some g → g.fetchAt = some (m, off) →
    (s.deliver gk).group? gk = some ({ g with fetchw := some (m, off), fetchAt := none }.setEntry m (fun _ => off)) ∧
    (∀ k, k ≠ gk → (s.deliver gk).group? k = s.group? k) ∧ (s.deliver gk).mem = s.mem ∧ (s.deliver gk).cores = s.cores) ∧
  (∀ (s : State) (h : Hdr) (o : YOps) (i : Issue), s.issue? h = some i → i.g.kind ≠ .lodge →
    let asked := ∃ t, s.team? (i.g.tk i.gk) = some t ∧ t.request.isSome = true ∧ (t.later = false ∨ s.teamWhole (i.g.tk i.gk) = true)
    (asked → i.g.handler = false → i.act = ~~~i.g.exited →
      EffectIs (.switchv h o) s i h 8 0x16 (fun u => (u.wholeAgain (i.g.tk i.gk)).modGroup i.gk (fun g =>
        { g with arrived := some o.imm.toNat, pcv := setLanes g.pcv i.act (fun _ => BitVec.ofNat 32 i.pc) }))) ∧
    (¬(asked ∧ i.g.handler = false ∧ i.act = ~~~i.g.exited) →
      EffectIs (.switchv h o) s i h 8 0x16 (fun u => u.wholeAgain (i.g.tk i.gk))) ∧
    (s.teamWhole (i.g.tk i.gk) = false → ¬(asked ∧ i.g.handler = false ∧ i.act = ~~~i.g.exited) → MovesPast (exec (.switchv h o) s) s i h 8)) ∧
  (∀ (s : State) (h : Hdr) (o : YOps) (i : Issue) (t : Team), s.issue? h = some i → i.exe &&& i.g.intx = 0 →
    s.team? (i.g.tk i.gk) = some t →
    let n := o.spec.toNat
    (i.g.held.getLsbD n = true → MovesPast (exec (.xacq h o) s) s i h 8) ∧
    (i.g.held.getLsbD n = false → i.g.held.getLsbD (n - 1) = true → n < i.g.budget → 0 < t.poolFree → s.behind i 16 = false →
      EffectIs (.xacq h o) s i h 8 0x17 (fun u => (u.modTeam (i.g.tk i.gk) (fun t => { t with poolFree := t.poolFree - 1 })).modGroup i.gk (fun g =>
        { g with held := g.held ||| BitVec.ofNat 4 (2 ^ n), v := g.v.filter (fun e => e.1 / 2048 != n) }))) ∧
    (i.g.held.getLsbD n = false → i.g.held.getLsbD (n - 1) = true → n < i.g.budget → t.poolFree = 0 →
      exec (.xacq h o) s = .next (s.stamped i.gk 16)) ∧
    (i.g.held.getLsbD n = false → i.g.held.getLsbD (n - 1) = false ∨ i.g.budget ≤ n →
      exec (.xacq h o) s = .next (s.freeze i.gk 12 4 0x17 i.lanes i.pc)) ∧
    (n < 3 → i.g.held.getLsbD (n + 1) = true → exec (.xrel h o) s = .next (s.freeze i.gk 12 4 0x18 i.lanes i.pc)) ∧
    (i.g.held.getLsbD n = false → (n < 3 → i.g.held.getLsbD (n + 1) = false) → MovesPast (exec (.xrel h o) s) s i h 8) ∧
    (i.g.held.getLsbD n = true → (n < 3 → i.g.held.getLsbD (n + 1) = false) →
      (s.core (coreOf i.gk)).mq.any (fun m => s.matOf i.gk m && m.blocks.getLsbD n) = false →
      EffectIs (.xrel h o) s i h 8 0x18 (fun u => (u.modTeam (i.g.tk i.gk) (fun t => { t with poolFree := t.poolFree + 1 })).modGroup i.gk (fun g =>
        { g with held := g.held &&& ~~~BitVec.ofNat 4 (2 ^ n), v := g.v.filter (fun e => e.1 / 2048 != n) }))) ∧
    (i.g.held.getLsbD n = true → (n < 3 → i.g.held.getLsbD (n + 1) = false) →
      (s.core (coreOf i.gk)).mq.any (fun m => s.matOf i.gk m && m.blocks.getLsbD n) = true → exec (.xrel h o) s = .next s))

/-- Service calls (R223 to R225): the record goes to the Ostler's request queue, or to the partition's service ring, and the
lanes of `exe` commit past the instruction. -/
def Obligations.ServiceCalls : Prop :=
  ∀ (s : State) (h : Hdr) (o : YOps) (i : Issue), s.issue? h = some i → i.Free false [] [o.a.toNat, o.b.toNat] →
    i.exe &&& i.g.intx = 0 → i.exe ≠ 0 → fld (i.g.sr o.a.toNat) 5 0 = 0 → fld (i.g.sr o.a.toNat) 63 56 = 0 →
    ∀ pa w, (issued s i h 8 0x19).xlate (clusterOf (coreOf i.gk)) i.g.part .load (fld (i.g.sr o.a.toNat) 55 0) = (.ok pa, w) →
    ((s.core (coreOf i.gk)).reqTail - (s.core (coreOf i.gk)).reqHead < 16 →
      exec (.svcOstler h o) s = .next (((w.modCore (coreOf i.gk) (fun c =>
        { c with reqq := sset c.reqq (c.reqTail % 16) (svcRecord w i o), reqTail := c.reqTail + 1 })).modGroup i.gk (fun g =>
        g.setEntry i.exe (fun _ => BitVec.ofNat 32 (i.pc + 8)))).finish i.gk)) ∧
    (∀ r z, (s.part? i.g.part).bind (·.sring) = some r → i.g.ops = [] → s.svcFull i.g.part (svcRecord s i o) = false → s.ringBehind i = false →
      (w.part? i.g.part).bind (·.sring) = some r → w.ringPost i.g.part r 64 true (fun _ => svcRecord w i o) = .posted z →
      exec (.svcApp h o) s = .next ((z.modGroup i.gk (fun g =>
        g.setEntry i.exe (fun _ => BitVec.ofNat 32 (i.pc + 8)))).finish i.gk))

/-- R336: what entry to the user-trap handler leaves. -/
def Obligations.HandlerEntrySaves : Prop :=
  ∀ (g : Group) (c code off : Nat) (resume : Nat → BitVec 32), c < 4 → code < 2 ^ 16 →
    let e := g.enterHandler c code off resume
    (∀ l, l < 32 → sget e.hpcv l = resume l) ∧ (∀ l, sget e.sepcv l = sget g.epcv l) ∧ e.hmask = ~~~g.exited ∧ e.handler = true ∧
    fld e.cause 10 8 = c ∧ fld e.cause 63 48 = code ∧ e.cause.getLsbD c = false ∧ (c = 3 → fld e.cause 31 16 = 0) ∧
    (∀ l, l < 32 → sget e.pcv l = if g.exited.getLsbD l = true then sget g.pcv l else BitVec.ofNat 32 off) ∧
    (∀ l, l < 32 → sget e.epcv l = if g.exited.getLsbD l = true then sget g.epcv l else BitVec.ofNat 32 off) ∧
    e.rejoining = 0 ∧ e.mwait = 0 ∧ e.yielded = 0 ∧
    e.rmask = g.rmask ∧ e.watch = g.watch ∧ e.sflags = g.sflags ∧ e.v = g.v ∧ e.s = g.s ∧ e.p = g.p ∧ e.exited = g.exited

/-- R227: what the return from the handler leaves. -/
def Obligations.HandlerReturnRestores : Prop :=
  ∀ (g : Group), let e := g.leaveHandler
    e.handler = false ∧ e.exited = g.exited ||| ~~~g.hmask ∧
    (∀ l, l < 32 → g.hmask.getLsbD l = true → g.rejoining.getLsbD l = false → sget e.pcv l = sget g.hpcv l) ∧
    (∀ l, l < 32 → g.hmask.getLsbD l = true → sget e.epcv l = sget g.sepcv l) ∧
    e.v = g.v ∧ e.s = g.s ∧ e.p = g.p ∧ e.sflags = g.sflags ∧ e.cause = g.cause

/-- TRAP, HRET and the entry to the handler (R226, R227, R334 to R337). -/
def Obligations.UserTraps : Prop :=
  (∀ (s : State) (h : Hdr) (o : YOps) (i : Issue), s.issue? h = some i → i.exe &&& i.g.intx = 0 →
    let resume := fun l => if i.exe.getLsbD l = true then BitVec.ofNat 32 (i.pc + 8) else sget i.g.pcv l
    (i.exe = 0 → MovesPast (exec (.trap h o) s) s i h 8) ∧
    (i.exe ≠ 0 → i.g.handler = true → EffectIs (.trap h o) s i h 8 0x1a (fun u => u.modGroup i.gk (fun g => g.raise 0 o.imm.toNat))) ∧
    (∀ off, i.exe ≠ 0 → i.g.handler = false → i.g.lc = 0 → s.handlerOf i.g = some off →
      EffectIs (.trap h o) s i h 8 0x1a (fun u => u.modGroup i.gk (fun g => g.enterHandler 0 o.imm.toNat off resume))) ∧
    (i.exe ≠ 0 → i.g.handler = false → i.g.intx ≠ 0 → s.handlerOf i.g = none →
      EffectIs (.trap h o) s i h 8 0x1a (fun u => u.modGroup i.gk (fun g => g.raise 0 o.imm.toNat))) ∧
    (i.exe ≠ 0 → i.g.handler = false → i.g.lc = 0 → i.g.sc = 0 → i.g.intx = 0 → s.handlerOf i.g = none →
      EffectIs (.trap h o) s i h 8 0x1a (fun u => (u.modGroup i.gk (fun g => { g with
        pcv := ssets [] ((List.range 32).map (fun l => (l, resume l))), cause := setFld (setFld g.cause 48 16 o.imm.toNat) 8 3 0 })).park i.gk 5)) ∧
    (i.exe ≠ 0 → i.g.handler = false → i.g.lc ≠ 0 → s.handlerOf i.g ≠ none ∨ i.g.intx = 0 → exec (.trap h o) s = .next s)) ∧
  (∀ (s : State) (h : Hdr) (o : YOps) (i : Issue), s.issue? h = some i →
    (i.g.handler = true → i.g.pending = none → EffectIs (.hret h o) s i h 8 0x1b (fun u => u.modGroup i.gk Group.leaveHandler)) ∧
    (∀ c off, i.g.handler = true → i.g.pending = some c → s.handlerOf i.g = some off →
      EffectIs (.hret h o) s i h 8 0x1b (fun u => u.modGroup i.gk (fun g => g.reenter c off))) ∧
    (i.g.handler = false → i.exe ≠ 0 → exec (.hret h o) s = .next (s.freeze i.gk 12 8 0x1b i.exe i.pc)) ∧
    (i.g.handler = false → i.exe = 0 → MovesPast (exec (.hret h o) s) s i h 8)) ∧
  (∀ (s u : State) (gk c off : Nat) (g : Group) (t : Stand), s.group? gk = some g → s.stand? gk = some (t, u) →
    (u.causesDue gk t.g (some t)).head? = some c → u.handlerOf t.g = some off → t.g.lc = 0 →
    exec (.userTrapEntry gk c) s = .next ((u.unask gk).modGroup gk (fun g =>
      { g.enterHandler c (g.trapCode c) off (fun l => sget g.pcv l) with arrived := none })))

/-- Special registers, flags and window marks (R134, R151, R228 to R231). -/
def Obligations.SpecialRegisters : Prop :=
  (∀ (s : State) (h : Hdr) (o : YOps) (i : Issue), s.issue? h = some i →
    (o.spec = 0 → i.Free false [o.d.toNat] [] → Completes s i (exec (.srd h o) s)
      (LanesWritten i h 8 .n32 o.d.toNat (fun l => (l, 0)))) ∧
    (o.spec ≠ 0 → i.Free true [] [o.d.toNat] → Completes s i (exec (.srd h o) s)
      (ScalarWritten i h 8 o.d.toNat ((issued s i h 8 0x1c).special i o.spec.toNat 0, 0)))) ∧
  (∀ (s : State) (i : Issue) (l : Nat), s.special i 0x01 l = BitVec.ofNat 64 i.g.grpid ∧ s.special i 0x02 l = BitVec.ofNat 64 i.g.tslot ∧
    s.special i 0x03 l = BitVec.ofNat 64 (i.gk / 64) ∧ s.special i 0x04 l = BitVec.ofNat 64 (i.gk / 2048) ∧
    s.special i 0x0A l = BitVec.ofNat 64 s.clock.now ∧ s.special i 0x0B l = BitVec.ofNat 64 (s.clock.now / s.clock.winLen) ∧
    s.special i 0x0C l = i.g.sflags ∧ s.special i 0x0D l = i.g.cause ∧ s.special i 0x0E l = i.g.hmask.zeroExtend 64) ∧
  (∀ (s : State) (h : Hdr) (o : YOps) (i : Issue), s.issue? h = some i → i.Free true [] [o.a.toNat] →
    let x := i.g.sr o.a.toNat
    (o.spec = 0x0C → EffectIs (.swr h o) s i h 8 0x1d (fun u => u.modGroup i.gk (fun g => { g with sflags := x &&& 0x7F7F }))) ∧
    (o.spec = 0x0D → i.g.handler = true → EffectIs (.swr h o) s i h 8 0x1d (fun u => u.modGroup i.gk (fun g => { g with cause := x &&& causeMask }))) ∧
    (o.spec = 0x0E → i.g.handler = true → EffectIs (.swr h o) s i h 8 0x1d (fun u => u.modGroup i.gk (fun g => { g with hmask := x.truncate 32 }))) ∧
    (i.exe ≠ 0 → (o.spec ≠ 0x0C ∧ (o.spec ≠ 0x0D ∧ o.spec ≠ 0x0E ∨ i.g.handler = false)) →
      exec (.swr h o) s = .next (s.freeze i.gk 12 7 0x1d i.exe i.pc))) ∧
  (∀ (s : State) (h : Hdr) (o : YOps) (i : Issue), s.issue? h = some i →
    EffectIs (.sflagSet h o) s i h 8 0x1f (fun u => u.modGroup i.gk (fun g => { g with sflags := g.sflags ||| (o.imm.zeroExtend 64 &&& 0x7F7F) })) ∧
    EffectIs (.sflagClr h o) s i h 8 0x1f (fun u => u.modGroup i.gk (fun g => { g with sflags := g.sflags &&& ~~~(o.imm.zeroExtend 64 &&& 0x7F7F) }))) ∧
  (∀ (s : State) (h : Hdr) (o : YOps) (i : Issue), s.issue? h = some i → i.exe &&& i.g.intx = 0 → i.exe ≠ 0 →
    let commit := fun (u : State) => u.modGroup i.gk (fun g => g.setEntry i.exe (fun _ => BitVec.ofNat 32 (i.pc + 8)))
    ((∀ l, s.log? i.g.part = some l → l.on = false) → EffectIs (.wmark h o) s i h 8 0x1e commit) ∧
    ((∃ l, s.log? i.g.part = some l ∧ l.on = true) → EffectIs (.wmark h o) s i h 8 0x1e (fun u =>
      ((commit u).modPart i.g.part (fun p => { p with log := p.log.map (fun l => { l with advReq := true }) })).stopGroup i.gk 4)))

/-! ### Memory -/

/-- Loads, stores and atomics at their issue (R233 to R244). -/
def Sys2Proof.Claims.Launches : Prop :=
  LoadLaunches .ld 0x90 .global ∧ LoadLaunches .lda 0x92 .ownA ∧ LoadLaunches .ldw 0x94 .ownW ∧ LoadLaunches .ldx 0x95 .peer ∧
  StoreLaunches .st 0x91 .global ∧ StoreLaunches .sta 0x93 .ownA ∧ StoreLaunches .stx 0x96 .peer ∧
  AtomicLaunches .atom 0x99 .global ∧ AtomicLaunches .atoma 0x9a .ownA

/-- R234: the effective address of a lane. -/
def Sys2Proof.Claims.Addresses : Prop :=
  ∀ (g : Group) (o : MOps) (size l : Nat),
    (o.am = .vec → effAddr g o .global size l =
      BitVec.ofNat 64 ((g.vr o.a.toNat l).toNat + 2 ^ 32 * (g.vr (o.a.toNat + 1) l).toNat) + (o.disp.getD 0).signExtend 64) ∧
    (o.am = .scalar → effAddr g o .global size l = g.sr o.a.toNat + (o.disp.getD 0).signExtend 64) ∧
    (o.am = .stride → effAddr g o .global size l = g.sr o.a.toNat + (o.disp.getD 0).signExtend 64 + BitVec.ofNat 64 (l * size)) ∧
    (o.am = .vec → ∀ sp, sp ≠ .global → (effAddr g o sp size l).toNat = ((g.vr o.a.toNat l) + (o.disp.getD 0)).toNat) ∧
    (∀ sp, sp ≠ .global → (effAddr g o sp size l).toNat < 2 ^ 32)

/-- R234, R420, R421: the effective address of a lane, and the access violations of a lane's address. -/
def Obligations.AddressesAndViolations : Prop :=
  Sys2Proof.Claims.Addresses ∧ ∀ (s : State) (h : Hdr) (o : MOps) (i : Issue), s.issue? h = some i → i.Free false (vregs o.t o.d ++ addrV o .global) (addrS o) →
    o.am ≠ .scalar → ∀ (m : LaneMask), m ≠ 0 →
    ((∀ l, l < 32 → (m.getLsbD l = true ↔ i.exe.getLsbD l = true ∧ (effAddr i.g o .global o.t.bytes l).toNat % o.t.bytes ≠ 0)) →
      (o.ord = .rlx ∨ i.exe &&& i.g.intx = 0) →
      exec (.ld h o) s = .next (s.freeze i.gk 15 1 0x90 m i.pc)) ∧
    ((∀ l, i.exe.getLsbD l = true → (effAddr i.g o .global o.t.bytes l).toNat % o.t.bytes = 0) →
      (∀ l, l < 32 → (m.getLsbD l = true ↔ i.exe.getLsbD l = true ∧ fld (effAddr i.g o .global o.t.bytes l) 63 56 ≠ 0)) →
      (o.ord = .rlx ∨ i.exe &&& i.g.intx = 0) →
      exec (.ld h o) s = .next (s.freeze i.gk 15 2 0x90 m i.pc))

/-- Accesses at their issue (R233 to R244), and PREF and FENCE (R116, R241, R242): a prefetch changes no register, counter or byte of a local space; a fence issues once
the earlier accesses it orders are performed. -/
def Obligations.AccessesLaunch : Prop :=
  Sys2Proof.Claims.Launches ∧
  (∀ (s : State) (h : Hdr) (o : MOps) (i : Issue), s.issue? h = some i → i.Free false (addrV o .global) (addrS o) →
    (i.exe ≠ 0 → i.g.acquiring = false) →
    ∃ t g, exec (.pref h o) s = .next t ∧ t.group? i.gk = some g ∧ (g.withMoved i.g).unrung = i.g.unrung ∧ Advanced i h o.len g ∧
      (∀ k, k ≠ i.gk → (t.group? k).map Group.unrung = (s.group? k).map Group.unrung) ∧ t.teams = s.teams ∧ t.parts = s.parts ∧
      (∀ c, (t.core c).withCounts (s.core c) = s.core c)) ∧
  (∀ (s : State) (h : Hdr) (o : MOps) (i : Issue), s.issue? h = some i → i.exe &&& i.g.intx = 0 →
    (i.exe = 0 → MovesPast (exec (.fence h o) s) s i h 8) ∧
    (i.exe ≠ 0 → (∃ p ∈ i.g.ops, p.kind = .load ∨ p.kind = .atomic ∨ p.kind = .snapshot ∨ o.ord ≠ .acq) → exec (.fence h o) s = .next s) ∧
    let past := ∀ p ∈ i.g.ops, p.kind ≠ .load ∧ p.kind ≠ .atomic ∧ p.kind ≠ .snapshot ∧ o.ord = .acq
    (i.exe ≠ 0 → past →
      (o.scope ≠ .node ∨ o.ord = .acq ∨ s.clock.unsync = true ∨
        ∃ n, i.g.fenceWin = some n ∧ (n + 2) * s.clock.winLen + 128 ≤ s.clock.now) →
      EffectIs (.fence h o) s i h 8 0x98 (fun u =>
        let u := u.modGroup i.gk (fun g => { g with fenceWin := none })
        if o.scope = .node ∧ o.ord ≠ .rel then u.leaseAcquire else u)) ∧
    (i.exe ≠ 0 → past → o.scope = .node → o.ord ≠ .acq → s.clock.unsync = false → i.g.fenceWin = none →
      exec (.fence h o) s = .next (s.modGroup i.gk (fun g => { g with fenceWin := some (s.clock.now / s.clock.winLen) }))))

/-- An access in flight is performed (R102, R107, R116, R236, R237, R243): what loads, stores, releases and atomics leave. -/
def Obligations.AccessesPerformed : Prop :=
  (∀ (s : State) (gk id : Nat) (g : Group) (o : MemOp), s.op? gk id = some (g, o) → o.kind = .load → s.opReady gk g o = true →
    s.opBad g o = false → (∀ a ∈ o.accs, s.anyPoison (s.norm a.place) a.size = false) →
    let a := (if o.ord = .acq ∧ o.scope = .node then s.leaseAcquire else s).fireReach gk g o false
    let u := (o.accs.filterMap (fun a => match a.place with
      | .glob pa => if a.done then none else some (a.va.toNat, pa)
      | _ => none)).foldl (fun (u : State) e => (u.touchTag g.part e.2).coreLoad (coreOf gk) g.part e.1 e.2 o.l2) a
    exec (.loadRetire gk id) s = .next ((u.modGroup gk (fun g => ((g.retire o).result o (o.accs.map (fun a => (a.lane,
      if a.done then a.data.toNat else match u.forwarded g o a with
        | some x => x.toNat
        | none => ofBytes (u.loadValue a.place a.size))))).addFlags 0)).maybeEnd gk) ∧
    u.teams = s.teams ∧ (∀ c, (u.core c).withCounts (s.core c) = s.core c) ∧ (∀ k, (u.group? k).map Group.unrung = (s.group? k).map Group.unrung) ∧
    ((∀ e ∈ s.coh.l1, e.2 < 3) → (∀ e ∈ s.coh.dir, e.2.state ≠ 3 ∧ e.2.state ≠ 4) → ∀ p, u.readByte p = s.readByte p)) ∧
  (∀ (s : State) (gk id : Nat) (g : Group) (o : MemOp), s.op? gk id = some (g, o) → s.opReady gk g o = true → s.opBad g o = false →
    let write := fun (u : State) => u.performStore gk g o
    let commit := fun (u : State) => u.modGroup gk (fun g => g.setEntry o.exe (fun _ => BitVec.ofNat 32 o.next.toNat))
    (o.kind = .store → exec (.storeRetire gk id) s = .next (((write s).modGroup gk (fun g => g.retire o)).maybeEnd gk)) ∧
    (o.kind = .release → (o.scope ≠ .node ∨ s.clock.unsync = true) →
      exec (.storeRetire gk id) s = .next ((commit ((write s).modGroup gk (fun g => g.retire o))).maybeEnd gk)) ∧
    (o.kind = .release → o.scope = .node → s.clock.unsync = false → o.sent = none →
      exec (.storeRetire gk id) s = .next ((commit (s.modGroup gk (fun g =>
        { g with ops := g.ops.map (fun p => if p.id == o.id then { p with sent := some s.window } else p) }))).maybeEnd gk)) ∧
    (o.kind = .atomic → ¬(o.scope = .node ∧ (o.ord = .rel ∨ o.ord = .acqrel) ∧ s.clock.unsync = false) →
      let a := (if o.scope = .node ∧ (o.ord = .acq ∨ o.ord = .acqrel) then s.leaseAcquire else s).fireReach gk g o true
      let r := a.atomics gk g o
      r.2.2.heldCount = s.heldCount →
      exec (.atomicPerform gk id) s = .next ((commit ((r.2.2.matRenew gk (g.tk gk) o.id (o.accs.map (fun a => (s.norm a.place, a.size)))).modGroup gk (fun g =>
        ((g.retire o).result o r.1).addFlags r.2.1))).maybeEnd gk)) ∧
    (∀ n, o.kind = .release → o.sent = some n → (n + 2) * s.clock.winLen + 128 ≤ s.clock.now →
      s.node.held.find? (fun x => x.gk == gk && x.id == id) = none → s.heldBack gk o = false →
      exec (.nodeReleasePerform gk id) s = .next (((write s).modGroup gk (fun g => g.retire o)).maybeEnd gk))) ∧
  (∀ (s : State) (gk id : Nat) (g : Group) (o : MemOp), s.op? gk id = some (g, o) → s.opBad g o = true →
    exec (.partitionViolation gk id) s = .next (s.freeze gk 15 6 o.opc o.exe o.at_))

/-- R243, R245: what an atomic writes, for the old value `a` and the operands `b` and `c`. -/
def Obligations.AtomicResults : Prop :=
  ∀ (t : Typ) (a b c : Nat),
    (atomicNew .add t a b c).1 = some (intPat t.width (intVal t a + intVal t b)) ∧
    (atomicNew .min t a b c).1 = some (intPat t.width (min (intVal t a) (intVal t b))) ∧
    (atomicNew .max t a b c).1 = some (intPat t.width (max (intVal t a) (intVal t b))) ∧
    (atomicNew .and t a b c).1 = some ((a &&& b) % 2 ^ t.width) ∧
    (atomicNew .or t a b c).1 = some ((a ||| b) % 2 ^ t.width) ∧
    (atomicNew .xor t a b c).1 = some ((a ^^^ b) % 2 ^ t.width) ∧
    (atomicNew .exch t a b c).1 = some (b % 2 ^ t.width) ∧
    (atomicNew .cas t a b c).1 = (if a % 2 ^ t.width = b % 2 ^ t.width then some (c % 2 ^ t.width) else none)

/-- R98, R236: a store to local spaces writes the bytes of its accesses and no other byte of memory. -/
def Obligations.LocalStoreFrame : Prop :=
  ∀ (s : State) (gk : Nat) (g : Group) (o : MemOp), (∀ a ∈ o.accs, ∃ c off, a.place = .aspc c off ∨ a.place = .wspc c off) →
    let t := s.performStore gk g o
    (∀ (p : Place), (∀ a ∈ o.accs, ∀ n, n < a.size → p ≠ a.place.add n) → t.rawByte p = s.rawByte p) ∧
    (∀ p x, (∀ a ∈ o.accs, ∀ n, n < a.size → p = a.place.add n → (toBytes a.size a.data.toNat).getD n 0 = x) → (∃ a ∈ o.accs, ∃ n, n < a.size ∧ p = a.place.add n) →
      t.rawByte p = x)

/-! ### Transactions -/

/-- R248, R251 to R253: TXBEGIN, TXEND, TXABORT and TXSTAT. -/
def Obligations.TransactionInstructions : Prop :=
  (∀ (s : State) (h : Hdr) (o : XOps) (i : Issue), s.issue? h = some i →
    (s.txNeed i = 0 ∨ s.tix.token = some (.group i.gk) →
      EffectIs (.txbegin h o) s i h 8 0x9c (fun u => (u.modGroup i.gk (fun g => { g with
        intx := g.intx ||| (i.exe &&& ~~~i.g.intx), serial := g.serial ||| s.txNeed i,
        txLabel := setLanes g.txLabel (i.exe &&& ~~~i.g.intx) (fun _ => BitVec.ofNat 32 i.pc + o.disp) })).abortLanes i.gk
        ((lanesOf (i.exe &&& i.g.intx)).map (fun l => (l, 7, 0))))) ∧
    (s.txNeed i ≠ 0 → s.tix.token ≠ some (.group i.gk) → s.tix.tokReqs.any (fun r => r.who == .group i.gk) = false →
      exec (.txbegin h o) s = .next (s.setTix { s.tix with tokReqs := s.tix.tokReqs ++ [{ who := .group i.gk, at_ := 2 * s.clock.now }] }))) ∧
  (∀ (s : State) (h : Hdr) (o : XOps) (i : Issue), s.issue? h = some i →
    (i.exe ≠ 0 → i.g.lc ≠ 0 ∨ i.g.sc ≠ 0 → exec (.txend h o) s = .next (s.stamped i.gk 20)) ∧
    (i.exe &&& i.g.intx ≠ 0 → i.g.lc = 0 → i.g.sc = 0 →
      EffectIs (.txend h o) s i h 8 0x9d (fun u => (u.modGroup i.gk (fun g => { g with
        txend := some (i.exe &&& i.g.intx, i.exe, BitVec.ofNat 32 (i.pc + 8)) })).setTix
        { u.tix with reqs := u.tix.reqs ++ [{ who := .group i.gk, at_ := 2 * s.clock.now }] })) ∧
    (i.exe &&& i.g.intx = 0 → (i.exe = 0 ∨ (i.g.lc = 0 ∧ i.g.sc = 0)) →
      EffectIs (.txend h o) s i h 8 0x9d (fun u => u.modGroup i.gk (fun g =>
        g.setEntry i.exe (fun _ => BitVec.ofNat 32 (i.pc + 8)))))) ∧
  (∀ (s : State) (h : Hdr) (o : XOps) (i : Issue), s.issue? h = some i →
    EffectIs (.txabort h o) s i h 8 0x9e (fun u => u.abortLanes i.gk ((lanesOf (i.exe &&& i.g.intx)).map (fun l => (l, 8, o.code.toNat))))) ∧
  (∀ (s : State) (h : Hdr) (o : XOps) (i : Issue), s.issue? h = some i → i.Free false [o.d.toNat] [] →
    Completes s i (exec (.txstat h o) s) (LanesWritten i h 8 .n32 o.d.toNat (fun l => ((i.g.statusWord l).toNat, 0))))

/-- R250: the abort of a lane; and once no lane of the group has SERIAL, the group gives the token back. -/
def Obligations.LaneAborts : Prop :=
  (∀ (s : State) (gk : Nat) (lanes : List (Nat × Nat × Nat)) (g' : Group), lanes ≠ [] → (s.abortLanes gk lanes).group? gk = some g' → g'.serial = 0 →
    (s.abortLanes gk lanes).tix.token ≠ some (.group gk)) ∧
  ∀ (s : State) (gk l cause code : Nat) (g : Group), s.group? gk = some g → l < 32 → cause < 256 → code < 256 →
    ∃ g', (s.abortLane gk l cause code).group? gk = some g' ∧
      g'.intx.getLsbD l = false ∧ g'.serial.getLsbD l = false ∧ g'.doomed.getLsbD l = false ∧
      sget g'.pcv l = sget g.txLabel l ∧ sget g'.epcv l = sget g.txLabel l ∧
      (sget g'.txCount l).toNat = (if cause = 9 then (sget g.txCount l).toNat else min 15 ((sget g.txCount l).toNat + 1)) ∧
      fld (sget g'.txStatus l) 7 0 = cause ∧ fld (sget g'.txStatus l) 15 8 = code ∧ fld (sget g'.txStatus l) 19 16 = (sget g'.txCount l).toNat ∧
      (sget g'.txStatus l).getLsbD 22 = false ∧
      (∀ m, m ≠ l → sget g'.pcv m = sget g.pcv m ∧ g'.intx.getLsbD m = g.intx.getLsbD m) ∧
      g'.v = g.v ∧ g'.s = g.s ∧ g'.p = g.p ∧
      (∀ e ∈ ((s.abortLane gk l cause code).core (coreOf gk)).rlog, ¬(e.gslot = slotOf gk ∧ e.lane = l)) ∧
      (∀ e ∈ ((s.abortLane gk l cause code).core (coreOf gk)).tsec, ¬(e.gslot = slotOf gk ∧ e.lane = l)) ∧
      (∀ p, (s.abortLane gk l cause code).rawByte p = s.rawByte p)

/-- R294: the ticket unit serves the request that came first, and of several in one cycle the lowest requester. -/
def Obligations.TicketOrder : Prop :=
  ∀ (l : List TixReq), (l ≠ [] → ∃ r, firstReq l = some r) ∧
    ∀ r, firstReq l = some r → r ∈ l ∧ ∀ q ∈ l, r.at_ < q.at_ ∨ (r.at_ = q.at_ ∧ reqNumber r.who ≤ reqNumber q.who)

/-- R252, R256, R294 to R297, R302, R304: tickets, decisions and the serial token. -/
def Obligations.TicketsAndDecisions : Prop :=
  (∀ (s : State) (r : TixReq), s.tix.ready ≤ 2 * s.clock.now →
    firstReq (s.tix.reqs.filter (fun r => r.at_ < 2 * s.clock.now && (s.tix.token.isNone || s.tix.token == some r.who))) = some r →
    ∃ t, exec .ticketRequest s = .next t ∧ t.tix.next = s.tix.next + 1 ∧ t.tix.ready = 2 * s.clock.now + 1 ∧ t.tix.out = s.tix.out ++ [(s.tix.next, r.who)] ∧
      (∀ q ∈ t.tix.reqs, q ∈ s.tix.reqs ∧ q.who ≠ r.who) ∧ t.groups = s.groups ∧ t.mem = s.mem ∧
      (∀ h, r.who = .hart h → (t.hart h).ending = some s.tix.next.toNat)) ∧
  (∀ (s : State) (t : BitVec 48) (gk : Nat) (rest : List (BitVec 48 × TxAgent)) (g : Group) (c exe : LaneMask) (next : BitVec 32),
    s.tix.out = (t, .group gk) :: rest → (s.tix.token = none ∨ s.tix.token = some (.group gk)) → s.group? gk = some g →
    g.txend = some (c, exe, next) → g.stopEv = none → s.log? g.part = none →
    ∃ u g', exec .groupCommitDecision s = .next u ∧ u.tix.decided = t + 1 ∧ (∀ e ∈ u.tix.out, e.1 ≠ t) ∧ u.group? gk = some g' ∧
      g'.txend = none ∧ g'.intx &&& c = 0 ∧ g'.v = g.v ∧ g'.s = g.s ∧ g'.p = g.p ∧ g'.lc = g.lc ∧ g'.sc = g.sc) ∧
  (∀ (s : State) (t : BitVec 48) (h : Nat) (rest : List (BitVec 48 × TxAgent)), s.tix.out = (t, .hart h) :: rest →
    (s.tix.token = none ∨ s.tix.token = some (.hart h)) → (s.hart h).ending = some t.toNat → (s.hart h).ckpt.isSome = true →
    (∀ e ∈ s.tix.slots, e.2 = h → (s.hart h).slot = some e.1) → s.log? (s.hartPart (s.hart h) .store) = none →
    ∃ u, exec .hartCommitPublish s = .next u ∧ u.tix.decided = t + 1 ∧ (u.hart h).pc = (s.hart h).pc + 4 ∧ (u.hart h).ckpt = none ∧
      (u.hart h).slot = none ∧ (u.hart h).wbuf = [] ∧ (u.hart h).count = 0 ∧ (u.hart h).ending = none ∧
      ((s.hart h).endRd ≠ 0 → sget (u.hart h).x (s.hart h).endRd = t.zeroExtend 64) ∧ u.tix.token ≠ some (.hart h)) ∧
  (∀ (s : State) (r : TixReq) (rest : List TixReq), s.tix.tokReqs = r :: rest → s.tix.token = none → s.tix.out = [] →
    ∃ u, exec .serialTokenGrant s = .next u ∧ u.tix = { s.tix with token := some r.who, tokReqs := rest } ∧
      (∀ gk g, r.who = .group gk → s.group? gk = some g → u.group? gk = some (g.raise 2 0)))

/-- R253, R258, R259: the TX instructions of an RV64 hart. That TX.B takes the lowest free slot is the model's choice (log 84). -/
def Obligations.HartTransactions : Prop :=
  ∀ (s : State) (h : Nat), s.cur = .hart h →
    let k := s.hart h
    (∀ (rd : BitVec 5) (n : Nat), k.ckpt = none → k.count.toNat < s.retryLimit (k.part.getD 64) → s.freeTxSlot = some n →
      exec (.txB rd) s = .next ((s.setTix { s.tix with slots := kset s.tix.slots n h }).setHart h
        { (if rd = 0 then k else { k with x := sset k.x rd.toNat 0 }) with
          pc := k.pc + 4, slot := some n, slices := 0, wbuf := [], txVas := [], bufVa := [], serial := false,
          ckpt := some { x := k.x, f := k.f, fcsr := k.fcsr, next := k.pc + 4, rd := rd.toNat } })) ∧
    (∀ (rd : BitVec 5), k.ckpt.isSome = true → exec (.txB rd) s = .next (s.abortHart h 7 0)) ∧
    (∀ (rd : BitVec 5), k.ckpt.isSome = true → k.ending = none → s.tix.reqs.any (fun q => q.who == .hart h) = false →
      exec (.txE rd) s = .next ((s.setHart h { k with endRd := rd.toNat }).setTix
        { s.tix with reqs := s.tix.reqs ++ [{ who := .hart h, at_ := 2 * s.clock.now }] })) ∧
    (∀ (rs : BitVec 5), k.ckpt = none → exec (.txA rs) s = .next (s.setHart h { k with pc := k.pc + 4 })) ∧
    (∀ (rs : BitVec 5), k.ckpt.isSome = true → exec (.txA rs) s = .next (s.abortHart h 8 ((if rs = 0 then 0 else sget k.x rs.toNat).toNat % 256))) ∧
    (∀ (rd : BitVec 5), let st := setFld (setFld (setFld k.status 16 4 k.count.toNat) 20 1 k.ckpt.isSome.toNat) 21 1 k.serial.toNat
      exec (.txS rd) s = .next (s.setHart h { (if rd = 0 then k else { k with x := sset k.x rd.toNat (st.zeroExtend 64) }) with pc := k.pc + 4 }))

/-- R258: the abort of a hart transaction restores the checkpoint and resumes after the TX.B with the status in rd. -/
def Obligations.HartAbortRestores : Prop :=
  ∀ (s : State) (h cause code : Nat) (c : Checkpoint), (s.hart h).ckpt = some c → cause < 256 → code < 256 →
    let k := (s.abortHart h cause code).hart h
    k.pc = c.next ∧ k.f = c.f ∧ k.fcsr = c.fcsr ∧ k.ckpt = none ∧ k.slot = none ∧ k.wbuf = [] ∧ k.serial = false ∧
    (∀ r, r ≠ c.rd → sget k.x r = sget c.x r) ∧ (c.rd ≠ 0 → (sget k.x c.rd) = k.status.zeroExtend 64) ∧
    fld k.status 7 0 = cause ∧ fld k.status 15 8 = code ∧
    k.count.toNat = (if cause = 9 then (s.hart h).count.toNat else min 15 ((s.hart h).count.toNat + 1)) ∧
    (∀ p, (s.abortHart h cause code).rawByte p = s.rawByte p)

/-- R259, R260, R340: the illegal-instruction exception of a hart, taken by a reserved custom-0 word and by TX.E outside a
transaction; inside one, the reserved word aborts it with STOP (9) first. Where the exception goes and which registers it writes is
RISC-V's (PRESUMED, log 54): to supervisor mode where `medeleg` delegates it from a lower mode, else to machine mode. What `mtval` or `stval`
holds is the model's free value (log 4). -/
def Obligations.HartTraps : Prop :=
  ∀ (s : State) (h : Nat), s.cur = .hart h → ∃ x : BitVec 64,
    let d := s.setClock { s.clock with free := s.clock.free + 1 }
    let u := (d.abortHart h 9 0).hartToken h
    let k := u.hart h
    let t := u.setHart h (if k.mode ≠ .m ∧ k.medeleg.getLsbD 2 = true then
        { k with sepc := k.pc, scause := 2, stval := x, pc := k.stvec &&& ~~~3#64, spp := decide (k.mode = .s), mode := .s, spie := k.sie, sie := false, relWin := none }
      else { k with mepc := k.pc, mcause := 2, mtval := x, pc := k.mtvec &&& ~~~3#64, mpp := k.mode, mode := .m, mpie := k.mie, mie := false, relWin := none })
    (∀ w, exec (.custom0Illegal w) s = .next t) ∧ ((s.hart h).ckpt = none → u = d.hartToken h ∧ ∀ rd, exec (.txE rd) s = .next t)

/-! ### Matrix unit -/

/-- MMA, MMAS, MMAB and LDMETA are accepted (R270 to R276). -/
def Obligations.MatrixOperationsAccepted : Prop :=
  MatrixAccepts .mma .mma ∧ MatrixAccepts .mmas .mmas ∧ MatrixAccepts .mmab .mmab ∧
  (∀ (s : State) (h : Hdr) (o : TOps) (i : Issue) (n : Nat), s.issue? h = some i → i.g.kind = .matrix → i.Free false [] [o.ar.toNat] →
    i.exe ≠ 0 → s.coreMeta i o.ma.toNat = some n → fld (i.g.sr o.ar.toNat) 63 20 = 0 → (i.g.sr o.ar.toNat).toNat % 64 = 0 →
    (∀ t, s.team? (i.g.tk i.gk) = some t → fld (i.g.sr o.ar.toNat) 19 0 + 256 ≤ 4096 * t.asize) →
    i.g.acquiring = false → s.matHold i none = false →
    ∃ u m g, exec (.ldmeta h o) s = .next u ∧ (u.core (coreOf i.gk)).mq = (s.core (coreOf i.gk)).mq ++ [m] ∧
      m.kind = .ldmeta ∧ m.gk = i.gk ∧ m.ma = n ∧ m.aPair.1 = i.g.sr o.ar.toNat ∧ u.group? i.gk = some g ∧ g.tc = i.g.tc + 1 ∧
      g.v = i.g.v ∧ g.s = i.g.s ∧ g.p = i.g.p ∧ (∀ p, u.readByte p = s.readByte p))

/-- Tile tokens and the words of a tile (R263, R277 to R279). -/
def Obligations.TileInstructions : Prop :=
  ∀ (s : State) (h : Hdr) (o : TOps) (i : Issue) (t : Nat), s.issue? h = some i → i.exe ≠ 0 →
    i.g.acquiring = false → s.coreTile i o.tile.toNat = some t →
    let c := coreOf i.gk
    (i.g.kind = .matrix ∨ i.g.kind = .general →
      (kget (s.core c).token t = none → (s.core c).mq.any (fun m => m.onTile (i.g.tk i.gk) t) = false → s.behind i t = false →
        EffectIs (.tkacq h o) s i h 8 0xa4 (fun u => u.modCore c (fun k => { k with token := kset k.token t i.gk }))) ∧
      (∀ other, kget (s.core c).token t = some other → other ≠ i.gk → exec (.tkacq h o) s = .next (s.stamped i.gk t)) ∧
      (kget (s.core c).token t = some i.gk → i.exe &&& i.g.intx = 0 →
        EffectIs (.tkrel h o) s i h 8 0xa5 (fun u => (u.modCore c (fun k => { k with token := kdel k.token t })).modGroup i.gk (fun g =>
          g.setEntry i.exe (fun _ => BitVec.ofNat 32 (i.pc + 8))))) ∧
      (kget (s.core c).token t = some i.gk →
        (i.Free false (vrun o.ar 128) [] → (s.core c).tpoison = [] →
          ∃ u g, exec (.accld h o) s = .next u ∧ u.group? i.gk = some g ∧ Advanced i h 8 g ∧
            { g.withMoved i.g with v := i.g.v, oldv := i.g.oldv } = i.g ∧
            (∀ r l, l < 32 → g.vr r l = if i.exe.getLsbD l = true ∧ o.ar.toNat ≤ r ∧ r < o.ar.toNat + 128
              then sget (s.core c).acc (4096 * t + 64 * (2 * l + (r - o.ar.toNat) / 64) + (r - o.ar.toNat) % 64) else i.g.vr r l) ∧
            (∀ p, u.readByte p = s.readByte p)) ∧
        (i.Free false (vrun o.ar 128) [] →
          ∃ u, exec (.accst h o) s = .next u ∧ (∀ p, u.readByte p = s.readByte p) ∧
            (∀ l q, i.exe.getLsbD l = true → q < 128 → sget (u.core c).acc (4096 * t + 64 * (2 * l + q / 64) + q % 64) = i.g.vr (o.ar.toNat + q) l) ∧
            (∀ n, (∀ l q, i.exe.getLsbD l = true → q < 128 → n ≠ 4096 * t + 64 * (2 * l + q / 64) + q % 64) →
              sget (u.core c).acc n = sget (s.core c).acc n)) ∧
        (∃ u, exec (.accz h o) s = .next u ∧ (∀ p, u.readByte p = s.readByte p) ∧
            (∀ l q, i.exe.getLsbD l = true → q < 128 → sget (u.core c).acc (4096 * t + 64 * (2 * l + q / 64) + q % 64) = 0) ∧
            (∀ n, (∀ l q, i.exe.getLsbD l = true → q < 128 → n ≠ 4096 * t + 64 * (2 * l + q / 64) + q % 64) →
              sget (u.core c).acc n = sget (s.core c).acc n)))) ∧
    (i.g.kind = .matrix → i.g.ops.any (fun p => (p.kind == .load || p.kind == .atomic) && !p.scalar) = false →
      Completes s i (exec (.opfence h o) s) (fun g => Advanced i h 8 g ∧ g.oldv = [] ∧ { g.withMoved i.g with oldv := i.g.oldv } = i.g))

/-- The matrix unit performs an operation slice by slice (R270, R274 to R276): only rows of the lanes of `exe` change, and
with the last slice the operation leaves the queue; while the range scoreboard holds its reads (R83) it does nothing. -/
def Obligations.MatrixSlices : Prop :=
  (∀ (s : State) (core : Nat) (m : MatOp), nextMat (s.core core).mq [] = some m → s.matWaits core m = false → m.kind ≠ .ldmeta →
    s.matHeld core m = [] →
    ∃ u, exec (.matrixOpRetire core) s = .next u ∧
      (∀ n, (∀ l j, m.exe.getLsbD l = true → j < 128 → n ≠ 4096 * m.tile + 128 * l + j) → sget (u.core core).acc n = sget (s.core core).acc n) ∧
      (m.k / 32 > m.slice + 1 → ∀ p, u.readByte p = s.readByte p) ∧
      (m.k / 32 ≤ m.slice + 1 → ∀ o ∈ (u.core core).mq, ¬(o.gk = m.gk ∧ o.tk = m.tk ∧ o.issued = m.issued)) ∧
      (m.k / 32 > m.slice + 1 → (u.core core).mq.length = (s.core core).mq.length)) ∧
  (∀ (s : State) (core : Nat) (m : MatOp), nextMat (s.core core).mq [] = some m → s.matWaits core m = false → s.matHeld core m ≠ [] →
    ∃ u, exec (.matrixOpRetire core) s = .next u ∧ (u.core core).acc = (s.core core).acc ∧ (u.core core).metar = (s.core core).metar ∧
      u.groups = s.groups ∧ ∀ p, u.readByte p = s.readByte p) ∧
  (∀ (acc : Nat) (terms : List (Int × Int)),
    let x := intVal .i32 acc + (terms.map (fun t => t.1 * t.2)).sum
    let y : Int := if x < -2 ^ 31 then -2 ^ 31 else if 2 ^ 31 - 1 < x then 2 ^ 31 - 1 else x
    intVal .i32 (sliceInt acc terms).1 = y ∧ ((sliceInt acc terms).2 = fSAT ↔ y ≠ x))

/-! ### Engines -/

/-- An engine command issues (R281): operands are read, and the command is accepted in the advanced state. -/
def Sys2Proof.Claims.EngineIssues (mk : Hdr → EOps → Instr) (kind : EngKind) (opc : Nat) : Prop :=
  ∀ (s : State) (h : Hdr) (o : EOps) (i : Issue), s.issue? h = some i → i.g.kind = .copy →
    i.Free false [] ([o.d.toNat, o.a.toNat] ++ (if o.imm.isSome then [] else [o.b.toNat] ++ (if kind = .natom then [o.b.toNat + 1] else [])) ++
      (if kind = .copy then [] else [o.c.toNat])) →
    i.exe ≠ 0 → i.exe &&& i.g.intx = 0 → i.g.acquiring = false → engFaults kind o s i = [] → engHold kind o s i = none →
    let u := issued s i h 16 opc
    let c := u.command i kind o
    (kind ≠ .copyt → exec (mk h o) s = .next ((u.acceptCmd i c).finish i.gk)) ∧
    (∀ pa w, kind = .copyt → u.xlate (clusterOf (coreOf i.gk)) i.g.part .engRead (fld (i.g.sr o.c.toNat) 55 0) (coreOf i.gk) = (.ok pa, w) →
      w.tagBad i.g.part pa = false →
      exec (mk h o) s = .next ((((w.touchTag i.g.part pa).loadEffects none none pa).acceptCmd i c).finish i.gk)) ∧
    c.kind = kind ∧ c.gk = i.gk ∧ c.tk = i.g.tk i.gk ∧ c.part = i.g.part ∧ c.sub = o.sub ∧ c.c = i.g.sr o.c.toNat ∧ c.b = i.g.sr o.b.toNat ∧
    (kind ≠ .copyt → kind ≠ .natom → c.len = (match o.imm with | some x => x.toNat | none => (i.g.sr o.b.toNat).toNat)) ∧
    (o.ssp = .global → c.src = .glob (i.g.sr o.a.toNat)) ∧ (o.dsp = .global → c.dst = .glob (i.g.sr o.d.toNat)) ∧
    (o.ssp = .net → c.src = .net (i.g.sr o.a.toNat)) ∧ (o.dsp = .net → c.dst = .net (i.g.sr o.d.toNat)) ∧
    (o.ssp = .storage → c.src = .stor (i.g.sr o.a.toNat))

/-- R281, R284 to R290: the nine engine instructions, and the acceptance of a command. The entry that a command takes is the
model's choice (log 14). -/
def Obligations.EngineInstructions : Prop :=
  EngineIssues .copy .copy 0xb0 ∧ EngineIssues .copyt .copyt 0xb1 ∧ EngineIssues .gather .gather 0xb2 ∧ EngineIssues .scadd .scadd 0xb3 ∧
  EngineIssues .decomp .decomp 0xb4 ∧ EngineIssues .nput .nput 0xb5 ∧ EngineIssues .nget .nget 0xb6 ∧ EngineIssues .natom .natom 0xb7 ∧
  EngineIssues .sread .sread 0xb8 ∧
  (∀ (s : State) (i : Issue) (c : EngCmd) (g : Group), (s.core (coreOf i.gk)).eq.length < 64 → s.group? i.gk = some g → s.log? c.part = none →
    (c.kind = .gather ∨ c.kind = .scadd → c.len = 0) →
    let t := s.acceptCmd i c
    let n := freeEntry (s.core (coreOf i.gk)).eq
    n < 64 ∧ (∀ x ∈ (s.core (coreOf i.gk)).eq, x.entry ≠ n) ∧
    (t.core (coreOf i.gk)).eq = (s.core (coreOf i.gk)).eq ++ [{ c with
      entry := n, seq := s.clock.seqno, table := none, unit := if c.codec then s.pickDecomp else c.unit }] ∧
    t.group? i.gk = some ({ g with cc := g.cc + 1, nextOp := g.nextOp + 1 }.setEntry i.exe (fun _ => BitVec.ofNat 32 (i.pc + 16))) ∧
    (∀ k, k ≠ i.gk → t.group? k = s.group? k) ∧ (∀ p, t.readByte p = s.readByte p) ∧
    (∀ k, (t.core k).rsb = (s.core k).rsb ++ ((s.marksOf { c with entry := n }.widest).filter (fun e => e.1 == k)).map (·.2)))

/-- The place of an offset of a local end. -/
def Sys2Proof.Claims.place (w : Bool) (k a : Nat) : Place := if w then .wspc k a else .aspc k a

/-- A command at the turn that it can take, of a group that goes on after it. -/
structure Sys2Proof.Claims.Ready (s : State) (core entry : Nat) (c : EngCmd) (g : Group) : Prop where
  found : s.cmd? core entry = some c
  home : coreOf c.gk = core
  entry : c.entry = entry
  ready : s.cmdReady c = true
  group : s.group? c.gk = some g
  team : g.tk c.gk = c.tk
  alive : g.exited ≠ 0xFFFFFFFF
  sound : c.torn = false

/-- A command has retired (R281): it and its scoreboard entries are gone, `cc` has fallen and the flags are set. -/
structure Sys2Proof.Claims.Retired (u : State) (c : EngCmd) (g : Group) (fl : Flags) : Prop where
  gone : ∀ x ∈ (u.core (coreOf c.gk)).eq, x.entry ≠ c.entry
  marks : ∀ k, ∀ x ∈ (u.core k).rsb, x.cmd ≠ some (coreOf c.gk, c.entry)
  group : ∃ g', u.group? c.gk = some g' ∧ g'.cc = g.cc - 1 ∧ g'.sflags = orFlags g.sflags fl ∧ g'.v = g.v ∧ g'.s = g.s ∧ g'.p = g.p

/-- No sector of a core's local spaces is poisoned. -/
def Sys2Proof.Claims.Clean (s : State) (k : Nat) : Prop := (s.core k).apoison = [] ∧ (s.core k).wpoison = []

/-- R281 to R288: the transfers of engine commands that name local spaces, and their ends. -/
def Obligations.EngineTransfers : Prop :=
  (∀ (s : State) (core entry : Nat) (data : List Byte) (c : EngCmd) (g : Group), Ready s core entry c g →
    c.len = 0 → c.kind ≠ .copyt → c.kind ≠ .natom → ∃ u, exec (.engineCommandRetire core entry data) s = .next u ∧ Retired u c g 0 ∧
      ∀ p, u.readByte p = s.readByte p) ∧
  (∀ (s : State) (core entry : Nat) (data : List Byte) (c : EngCmd) (g : Group), Ready s core entry c g → c.table = none →
    ∀ (sw : Bool) (sk sb sz so : Nat) (dw : Bool) (dk db dz dO : Nat), c.src = .loc sw sk sb sz so → c.dst = .loc dw dk db dz dO →
    Clean s sk → Clean s dk →
    (c.kind = .copy → c.len ≠ 0 →
      (∀ i j, i < c.len → j < c.len → place sw sk (sb + so + i) ≠ place dw dk (db + dO + j)) →
      ∃ u, exec (.engineCommandRetire core entry data) s = .next u ∧ Retired u c g 0 ∧
        (∀ j, j < c.len → u.readByte (place dw dk (db + dO + j)) = s.readByte (place sw sk (sb + so + j))) ∧
        ∀ p, (∀ j, j < c.len → p ≠ place dw dk (db + dO + j)) → u.readByte p = s.readByte p) ∧
    (c.kind = .copyt → fld c.sub 3 0 = 0 → tBadDesc c.desc = false →
      ∃ u, exec (.engineCommandRetire core entry data) s = .next u ∧ Retired u c g 0 ∧
        (∀ n x, n < tRows c.desc → x < tE c.desc 0 * tSize c.desc →
          u.readByte (place dw dk (db + dO + n * tPitch c.desc + x)) =
            if x < tLive c.desc n then s.readByte (place sw sk (sb + tFrom so c.desc n + x)) else 0) ∧
        ∀ p, (∀ n x, n < tRows c.desc → x < tE c.desc 0 * tSize c.desc → p ≠ place dw dk (db + dO + n * tPitch c.desc + x)) →
          u.readByte p = s.readByte p) ∧
    (c.kind = .decomp → c.len ≠ 0 → Clean s core →
      let d := decodeStream (fld c.sub 1 0 = 1) false c.cap ((List.range c.len).map (fun n => s.readByte (place sw sk (sb + so + n))))
        ((List.range (dictLen c.c)).map (fun n => s.readByte (.wspc core (s.wBase c.tk + dictOff c.c + n))))
      let st := if d.status = 9 then 3 else d.status
      d.out.length ≤ c.cap →
      ∃ u, exec (.engineCommandRetire core entry data) s = .next u ∧ Retired u c g (if st = 2 then fPOISON else 0) ∧
        (∀ n, n < d.out.length → u.readByte (place dw dk (db + dO + n)) = d.out.getD n 0) ∧
        (∀ n, n < 16 → u.readByte (place dw dk (db + alignUp (dO + c.cap) 16 + n)) =
          (toBytes 16 (recWord st (if st = 2 then 1 else 0) 0 d.out.length).toNat).getD n 0))) ∧
  (∀ (s : State) (core entry : Nat) (data : List Byte) (c : EngCmd) (g : Group) (t : TableSample), Ready s core entry c g → c.table = some t →
    c.len ≠ 0 → c.len ≤ 8 * c.batch →
    let st := if c.npoison ≠ 0 then 2 else if c.nsubst ≠ 0 then 1 else 0
    let fl := if c.npoison ≠ 0 then fPOISON else 0
    (c.kind = .gather → c.bursts = [] → exec (.engineCommandRetire core entry data) s = .next (s.finishRec c st c.npoison c.nsubst c.len fl)) ∧
    (c.kind = .scadd → c.accs = [] → exec (.engineCommandRetire core entry data) s = .next (s.finishRec c st c.npoison c.nsubst c.written (c.flags ||| fl)))) ∧
  (∀ (st np ns n : Nat), st < 256 → ns < 2 ^ 32 → n < 2 ^ 64 → let w := recWord st np ns n
    fld w 63 0 = n ∧ fld w 95 64 = ns ∧ fld w 111 96 = min 65535 np ∧ fld w 119 112 = 0 ∧ fld w 127 120 = st)

/-- R286, R287, R310 to R316: batches of a GATHER and of an SCADD whose ends are local, the bursts of rows, the sums of an
SCADD, and the update of a row. That a row of more than 1,024 words has two accumulators is the model's reading (log 86), and what a late
sample refuses its choice (log 80). -/
def Obligations.TableCommands : Prop :=
  (∀ (s : State) (core entry : Nat) (c : EngCmd) (g : Group), Ready s core entry c g → c.kind = .gather ∨ c.kind = .scadd → c.len ≠ 0 → c.table = none →
    exec (.scarabRowRequest core entry) s = .next (s.sampleTable c)) ∧
  (∀ (s : State) (core entry : Nat) (c : EngCmd) (g : Group) (t : TableSample) (w : Bool) (k b z o : Nat), Ready s core entry c g →
    c.table = some t → c.bursts = [] → 8 * c.batch < c.len → Clean s k → t.defrow = 0 → c.defRow = none →
    let at_ := fun j => BitVec.ofNat 32 (ofBytes ((List.range 4).map (fun n => s.readByte (place w k (b + o + 32 * c.batch + 4 * j + n)))))
    let n := min 8 (c.len - 8 * c.batch)
    (c.kind = .gather → c.src = .loc w k b z o → (∀ j, j < n → badIndex t (at_ j) = false → s.rowViol c.part t (at_ j).toNat = false) →
      ∃ u c', exec (.scarabRowRequest core entry) s = .next u ∧ u.cmd? core entry = some c' ∧ c'.batch = c.batch + 1 ∧
        c'.nsubst = c.nsubst + ((List.range n).filter (fun j => badIndex t (at_ j))).length ∧
        (∀ j ch, j < n → ch < t.rlen → badIndex t (at_ j) = true →
          ∃ x ∈ c'.bursts, x.batch = c.batch ∧ x.chunk = ch ∧ x.pos.getLsbD j = true ∧ x.poison = false ∧ x.own = true ∧ x.data = 0) ∧
        (∀ j ch, j < n → ch < t.rlen → ∃ x ∈ c'.bursts, x.batch = c.batch ∧ x.chunk = ch ∧ x.pos.getLsbD j = true) ∧
        ∀ p, u.readByte p = s.readByte p) ∧
    (c.kind = .scadd → c.dst = .loc w k b z o → (∀ j, j < n → badIndex t (at_ j) = true) →
      ∃ u c', exec (.scarabRowRequest core entry) s = .next u ∧ u.cmd? core entry = some c' ∧ c'.batch = c.batch + 1 ∧
        c'.nsubst = c.nsubst + n ∧ c'.accs = c.accs ∧ c'.npoison = c.npoison ∧ ∀ p, u.readByte p = s.readByte p)) ∧
  (∀ (s : State) (c c0 : EngCmd) (key : Nat) (vals : List (Nat × Flags)), s.cmd? (coreOf c.gk) c.entry = some c0 →
    (∀ a, kget c0.accs key = some a → a.slot = none →
      ∃ u c' a', s.contribute1 c key vals = some u ∧ u.cmd? (coreOf c.gk) c.entry = some c' ∧ kget c'.accs key = some a' ∧
        a'.n = a.n + 1 ∧ a'.slot = none ∧ a'.vals = (List.range a.vals.length).map (fun j =>
          BitVec.ofNat 32 (opFadd (Fmt.of .f32) .rne (a.vals.getD j 0).toNat (vals.getD j (0, 0)).1 0).1)) ∧
    (kget c0.accs key = none → (s.accsAt (scarabOf ((s.part? c0.part).getD {}) (key / 2))).length < 512 →
      ∃ u c' a', s.contribute1 c key vals = some u ∧ u.cmd? (coreOf c.gk) c.entry = some c' ∧ kget c'.accs key = some a' ∧
        a'.n = 1 ∧ a'.slot = none ∧ a'.vals = vals.map (fun v => BitVec.ofNat 32 v.1))) ∧
  (∀ (s : State) (c : EngCmd) (r : Nat) (vals : List (Nat × Flags)),
    (vals.length ≤ 1024 → s.contribute c r vals = s.contribute1 c (2 * r) vals) ∧
    (∀ u, 1024 < vals.length → s.contribute1 c (2 * r) (vals.take 1024) = some u → s.contribute c r vals = u.contribute1 c (2 * r + 1) (vals.drop 1024))) ∧
  (∀ (s : State) (core entry : Nat) (c : EngCmd) (g : Group) (t : TableSample) (x : Burst) (rest : List Burst) (w : Bool) (k b z o j : Nat),
    Ready s core entry c g → c.table = some t → c.bursts = x :: rest → c.dst = .loc w k b z o → Clean s k → tabSwz c.c = 0 → j < 8 →
    x.pos = BitVec.ofNat 8 (2 ^ j) → x.poison = false →
    let a := b + o + (8 * x.batch + j) * pitchOf c.c t.bytes + 64 * x.chunk
    ∃ u, exec (.scarabBurst core entry) s = .next u ∧ u.cmd? core entry = some { c with bursts := rest } ∧
      (∀ n, n < 64 → u.readByte (place w k (a + n)) = BitVec.ofNat 8 (fld x.data (8 * n + 7) (8 * n))) ∧
      ∀ p, (∀ n, n < 64 → p ≠ place w k (a + n)) → u.readByte p = s.readByte p) ∧
  (∀ (s : State) (core entry : Nat) (c : EngCmd) (g : Group) (t : TableSample) (p : Part) (r : Nat) (n : Nat) (a : Acum)
    (mine rest : KMap Acum), Ready s core entry c g → c.kind = .scadd → c.table = some t → c.accs = (n, a) :: (mine ++ rest) →
    (∀ e ∈ (n, a) :: mine, e.1 / 2 = r ∧ e.2.slot = none) → (∀ e ∈ rest, e.1 / 2 ≠ r) →
    c.len ≤ 8 * c.batch → s.part? c.part = some p → s.coh.winLines = [] → p.log = none → s.rowViol c.part t r = false →
    (∀ pa, s.logHeld pa = false) →
    (rowIn p t r = false → ∃ u, exec (.scaddRowUpdate core entry) s = .next u ∧
      u.cmd? core entry = some { c with accs := rest, npoison := c.npoison + 1 } ∧ ∀ q, u.readByte q = s.readByte q) ∧
    (rowIn p t r = true → (∀ j, j < t.bytes → s.isPoison (.glob (rowPa p t r j)) = false) →
      (∀ j, j < t.bytes → (s.dirEnt (rowPa p t r j / 64)).state ≠ 3 ∧ (s.dirEnt (rowPa p t r j / 64)).state ≠ 4) →
      let vals := ((n, a) :: mine).flatMap (fun e => e.2.vals)
      vals.length * (if c.sub.getLsbD 0 then 2 else 4) = t.bytes →
      let sum := rowSum (c.sub.getLsbD 0) vals ((List.range t.bytes).map (fun j => s.readByte (.glob (rowPa p t r j))))
      ∃ u, exec (.scaddRowUpdate core entry) s = .next u ∧
        u.cmd? core entry = some { c with accs := rest, flags := c.flags ||| sum.2, written := c.written + a.n } ∧
        (∀ j, j < t.bytes → u.readByte (.glob (rowPa p t r j)) = sum.1.getD j 0) ∧
        ∀ q, (∀ j, j < t.bytes → q ≠ .glob (rowPa p t r j)) → u.readByte q = s.readByte q))

/-- R289, R290, R362, R363, R398, R399, R439: network and storage commands and their failures, and a frozen engine queue. -/
def Obligations.NetworkAndStorage : Prop :=
  (∀ (s : State) (core entry : Nat) (data : List Byte) (c : EngCmd) (g : Group) (p : Part) (w : Bool) (k b z o : Nat), Ready s core entry c g →
    s.part? c.part = some p → s.peerBehind c = false → p.peerErr.contains (fld c.c 11 0) = false → Clean s k → c.written = 0 →
    (c.kind = .nput → c.len ≠ 0 → c.src = .loc w k b z o →
      ∃ u, exec (.engineCommandRetire core entry data) s = .next u ∧ Retired u c g 0 ∧
        u.node.sent = s.node.sent ++ (if c.asked ≠ 0 then [] else [{
          entry := fld c.c 11 0, kind := .nput, addr := BitVec.ofNat 64 c.dst.addr, len := c.len,
          data := (List.range c.len).map (fun n => s.readByte (place w k (b + o + n))) }]) ∧ ∀ q, u.readByte q = s.readByte q) ∧
    (c.kind = .nget → c.len ≠ 0 → c.dst = .loc w k b z o → data.length = c.len →
      ∃ u, exec (.engineCommandRetire core entry data) s = .next u ∧ Retired u c g 0 ∧
        u.node.sent = s.node.sent ++ (if c.asked ≠ 0 then [] else [{ entry := fld c.c 11 0, kind := .nget, addr := BitVec.ofNat 64 c.src.addr, len := c.len }]) ∧
        (∀ n, n < c.len → u.readByte (place w k (b + o + n)) = data.getD n 0) ∧
        ∀ q, (∀ n, n < c.len → q ≠ place w k (b + o + n)) → u.readByte q = s.readByte q) ∧
    (c.kind = .natom → c.src = .loc w k b z o → data.length = 8 →
      ∃ u, exec (.engineCommandRetire core entry data) s = .next u ∧ Retired u c g 0 ∧
        u.node.sent = s.node.sent ++ (if c.asked ≠ 0 then [] else [{
          entry := fld c.c 11 0, kind := .natom, addr := BitVec.ofNat 64 c.dst.addr, len := 8, aop := if fld c.sub 3 0 = 7 then .cas else .add,
          x := c.b, y := if fld c.sub 3 0 = 7 then c.b2 else 0 }]) ∧
        (∀ n, n < 8 → u.readByte (place w k (b + o + n)) = data.getD n 0) ∧
        ∀ q, (∀ n, n < 8 → q ≠ place w k (b + o + n)) → u.readByte q = s.readByte q)) ∧
  (∀ (s : State) (core entry : Nat) (done : List Byte) (syn : BitVec 16) (c : EngCmd) (g : Group) (p : Part) (w : Bool) (k b z o : Nat),
    Ready s core entry c g → s.part? c.part = some p → s.peerBehind c = false → c.unit = none →
    (c.kind = .nput ∧ c.len ≠ 0 ∧ c.src = .loc w k b z o) ∨ (c.kind = .nget ∧ c.len ≠ 0 ∧ c.dst = .loc w k b z o) ∨ (c.kind = .natom ∧ c.src = .loc w k b z o) →
    let range := fun a => (c.kind = .natom ∧ o ≤ a ∧ a < o + 8) ∨
      (c.kind = .nget ∧ o + c.written + (done.take (c.len - 1)).length ≤ a ∧ a < o + c.len)
    (∃ u p', exec (.networkCommandFail core entry done syn) s = .next u ∧ Retired u c g fPOISON ∧ u.part? c.part = some p' ∧
      p'.peerErr.contains (fld c.c 11 0) = true ∧ (∃ r ∈ u.porter.recs, r.kind = 24 ∧ r.part = some c.part ∧ fld r.detail 63 48 = syn.toNat) ∧
      ∀ a, range a → u.isPoison (place w k (b + a)) = true) ∧
    (s.clock.now ≥ c.since + 1000000 * (c.retries + 1) → c.retries < 7 →
      exec (.rcRetransmitTimeout core entry) s = .next (s.modCmd core entry (fun c => { c with retries := c.retries + 1 }))) ∧
    (s.clock.now ≥ c.since + 1000000 * (c.retries + 1) → 7 ≤ c.retries →
      ∃ u p', exec (.rcRetransmitTimeout core entry) s = .next u ∧ Retired u c g fPOISON ∧ u.part? c.part = some p' ∧
        p'.peerErr.contains (fld c.c 11 0) = true ∧ ∃ r ∈ u.porter.recs, r.kind = 24 ∧ r.part = some c.part)) ∧
  (∀ (s : State) (core entry : Nat) (data : List Byte) (c : EngCmd) (g : Group) (w : Bool) (k b z o : Nat), Ready s core entry c g →
    c.kind = .sread → c.len ≠ 0 → c.unit = none → c.dst = .loc w k b z o → Clean s k → fld c.sub 1 0 = 0 →
    (c.len ≤ c.written → ∃ u, exec (.engineCommandRetire core entry data) s = .next u ∧ Retired u c g 0 ∧ ∀ q, u.readByte q = s.readByte q) ∧
    (c.written = 0 → c.asked = 0 → c.len ≤ 2 ^ 20 → s.storOut c < 64 →
      ∃ u, exec (.engineCommandRetire core entry data) s = .next u ∧ u.cmd? core entry = some { c with asked := c.len } ∧
        u.node.sent = s.node.sent ++ [{ entry := fld c.c 5 0, kind := .sread, addr := BitVec.ofNat 64 c.src.addr, len := c.len }] ∧
        ∀ q, u.readByte q = s.readByte q) ∧
    (c.len ≤ c.asked → c.written < c.len → data.length = min (2 ^ 20) (c.len - c.written) →
      ∃ u, exec (.storageCompletion core entry 0 data) s = .next u ∧ u.cmd? core entry = some { c with written := c.written + data.length } ∧
        (∀ n, n < data.length → u.readByte (place w k (b + o + c.written + n)) = data.getD n 0) ∧
        ∀ q, (∀ n, n < data.length → q ≠ place w k (b + o + c.written + n)) → u.readByte q = s.readByte q) ∧
    (c.len ≤ c.asked → c.written < c.len → data.length ≠ min (2 ^ 20) (c.len - c.written) → exec (.storageCompletion core entry 0 data) s = .next s) ∧
    (∀ st : BitVec 16, st ≠ 0 → ∃ u, exec (.storageCompletion core entry st data) s = .next u ∧ Retired u c g fPOISON ∧
      (∃ r ∈ u.porter.recs, r.kind = 25 ∧ r.part = some c.part ∧ fld r.detail 63 48 = st.toNat) ∧
      ∀ a, o + c.written ≤ a → a < o + c.len → u.isPoison (place w k (b + a)) = true) ∧
    (s.clock.now ≥ c.since + 1000000000 → ∃ u, exec (.storageTimeout core entry) s = .next u ∧ Retired u c g fPOISON ∧
      (∃ r ∈ u.porter.recs, r.kind = 25 ∧ r.part = some c.part) ∧
      ∀ a, o + c.written ≤ a → a < o + c.len → u.isPoison (place w k (b + a)) = true)) ∧
  (∀ (s : State) (tk subc e : Nat) (t : Team) (c : EngCmd), s.team? tk = some t → t.frozen = some (subc, e) → s.cmd? (tk / 16) e = some c → c.entry = e →
    c.tk = tk → c.failed = true →
    (∃ u t' c', exec (.engctlResume tk) s = .next u ∧ u.team? tk = some t' ∧ t' = { t with frozen := none } ∧ u.cmd? (tk / 16) e = some c' ∧
      c'.batch = 0 ∧ c'.bursts = [] ∧ c'.written = 0 ∧ c'.asked = 0 ∧ c'.failed = false ∧ c'.hold = none ∧ c'.accs = [] ∧ c'.src = c.src ∧ c'.dst = c.dst ∧ c'.len = c.len ∧ c'.kind = c.kind) ∧
    (coreOf c.gk = tk / 16 → ∃ u, exec (.engctlDiscard tk) s = .next u ∧ (∀ x ∈ (u.core (tk / 16)).eq, x.entry = e → x.dropped = true ∧ c.table ≠ none)))

/-! ### The Innkeeper -/

/-- The state in which a grant chooses: the records of R418 are made and the upshift times are kept (R65). -/
def Sys2Proof.Machine.State.looked (s : State) : State :=
  ((s.inn.fetch.map (fun f => coreOf f.gk)).dedup).foldl (fun (u : State) c => u.trackFree c) s.featRecords

/-- What the Innkeeper's read of 8 bytes leaves of the caches and signatures (R87, R301). -/
def Sys2Proof.Machine.State.read8 (w : State) (pa : Nat) : State :=
  let u := w.loadEffects none none pa
  if (pa + 7) / 64 = pa / 64 then u else u.loadEffects none none (pa + 7)

/-- R46, R49, R51, R56, R59, R326: which request a grant serves, and what the grant leaves; the tail of a queue. -/
def Obligations.GrantPlacesTeam : Prop :=
  (∀ (s : State) (c : Fetch × Nat × Nat × Item × Image × Nat), let w := s.looked
    let u := w.grant c.1.gk c.2.1 c.2.2.1 c.2.2.2.1 c.2.2.2.2.1 c.2.2.2.2.2
    c ∈ w.grantable → (∀ b ∈ w.grantable, b ≠ c → w.servedBefore c.1 b.1 = true ∧ w.servedBefore b.1 c.1 = false) → w.inn.grants ≤ w.meshNow + 1 →
    (c.1 ∉ u.inn.fetch → exec .innkeeperGrant s = .next u.pressAll) ∧
    (c.1 ∈ u.inn.fetch → ((u.queue? c.2.1 c.2.2.1).map (·.faulted)).getD false = true →
      exec .innkeeperGrant s = .next (State.grantLoop s.inn.fetch.length u).pressAll)) ∧
  (∀ (s : State), s.looked.grantable = [] → exec .innkeeperGrant s = .next s.looked.pressAll) ∧
  (∀ (s : State) (lodge part queue : Nat) (x : Item) (im : Image) (var : Nat) (p : Part) (lg : Group) (v : Variant) (q : Queue),
    s.part? part = some p → s.group? lodge = some lg → im.vars[var]? = some v → p.capture = none → x.und = false → kget p.queues queue = some q →
    x.over_ = false → x.ready = true → ∀ (m : LaneMask) (off : BitVec 32), lg.fetchAt = some (m, off) →
    let u := s.grant lodge part queue x im var
    ∃ t g y, u.team? (coreOf lodge * 16 + lg.tslot) = some t ∧ t.part = part ∧ t.image = x.image ∧ t.var = var ∧ t.wiid = wiidOf queue x.idx ∧
      t.wgx = x.placed % x.gx ∧ t.wgy = x.placed / x.gx % x.gy ∧ t.wgz = x.placed / (x.gx * x.gy) ∧ t.argp = x.argp ∧ t.ngrp = v.ngrp ∧
      t.asize = max 1 ((v.abytes + 4095) / 4096) ∧ t.wsize = (v.wbytes + 4095) / 4096 ∧ t.pool = v.pool ∧ t.rv = [] ∧
      u.group? lodge = some g ∧ g.fetchw = some (m, off) ∧ g.pcv = lg.pcv ∧
      (∀ l, l < 32 → sget g.epcv l = if m.getLsbD l = true then off else sget lg.epcv l) ∧
      (∀ f ∈ u.inn.fetch, f.gk ≠ lodge) ∧ u.inn.grants = max s.inn.grants s.meshNow + 1 ∧
      (u.queue? part queue).bind (fun q => q.item? x.idx) = some y ∧ y.placed = x.placed + 1) ∧
  (∀ (s : State) (part queue : Nat) (q : Queue) (pa : Nat) (w : State), s.queue? part queue = some q →
    s.xlate 8 part .innRead (q.tailLine % 2 ^ 56) = (.ok pa, w) → w.tagBad part pa = false → let u := w.read8 pa
    u.anyPoison (u.locate pa) 8 = false →
    exec (.tailLineWrite part queue) s = .next ((((u.setQueue part queue
        { q with tail := max q.tail (ofBytes (u.readBytes (u.locate pa) 8)), faulted := false }).refreshQueue part queue).retryOthers part queue).pressAll) ∧
      u.parts = w.parts ∧ (w.isPeer pa = false → w.isPeer (pa + 7) = false → u.mem = w.mem))

/-- R45, R52, R53, R417: a dependence that holds, an item that becomes ready or is rejected, and the retirement of a
workgroup. -/
def Obligations.WorkItemsProgress : Prop :=
  (∀ (s : State) (part queue : Nat), exec (.dependenceCounterChange part queue) s =
    .next (((if ((s.queue? part queue).map (·.faulted)).getD false then s.retryQueue part queue else s.readyQueue part queue).retryOthers part queue).pressAll)) ∧
  (∀ (s w : State) (part a n pa : Nat) (rest : List (Nat × Nat)), s.xlate 8 part .innRead (a % 2 ^ 56) = (.ok pa, w) →
    w.tagBad part pa = false → let u := w.read8 pa
    u.anyPoison (u.locate pa) 8 = false →
    s.depsHold part ((a, n) :: rest) = if n ≤ ofBytes (u.readBytes (u.locate pa) 8) then u.depsHold part rest else (some false, u)) ∧
  (∀ (s w : State) (part a n : Nat) (f : FaultInfo) (rest : List (Nat × Nat)), s.xlate 8 part .innRead (a % 2 ^ 56) = (.bad f, w) →
    s.depsHold part ((a, n) :: rest) = (none, w.postFault 8 part (faultRecord f 0xFFFF 0 0 0 part 0 0))) ∧
  (∀ (s w : State) (f part n : Nat) (q : Queue) (x : Item), s.queue? part n = some q → q.place < q.tail → q.item? q.place = some x →
    x.ready = false → x.ovl = true → (s.setQueue part n (q.putItem x)).depsHold part x.deps = (some true, w) → w.rejects part x = false →
    State.readyLoop (f + 1) part n s = w.setQueue part n { (q.putItem x).putItem { x with ready := true } with readyAt := some w.meshNow }) ∧
  (∀ (s : State) (part : Nat) (x : Item), s.rejects part x = true ↔
    x.total = 0 ∨ x.reservedSet = true ∨ s.image? part x.image = none ∨ ∀ im, s.image? part x.image = some im → permitted im x.vmask = []) ∧
  (∀ (s : State) (tk : Nat) (t : Team) (p : Part) (q : Queue) (x : Item), s.team? tk = some t → tk < 4096 → s.teamGroups tk = [] → s.teamSaved tk = [] →
    s.part? t.part = some p → p.swapOut = none → p.outCores = [] → t.frozen = none → s.coh.winLines = [] → s.queue? t.part t.queue = some q →
    q.item? t.item = some x → x.ready = true → x.rejected = false → x.retired + 1 < x.total →
    ∃ u y, exec (.workgroupRetire tk) s = .next u ∧ u.team? tk = none ∧ (∀ e ∈ (u.core (tk / 16)).token, t.tiles.getLsbD e.1 = false) ∧
      (∀ n, n < 4 → u.readByte (.aspc (tk / 16) (4096 * t.abase + n)) = 0) ∧
      (u.queue? t.part t.queue).bind (fun q => q.item? t.item) = some y ∧ y.retired = x.retired + 1)

/-- R63 to R69, R414: variant switches, upshift requests, eviction, spill and restore. -/
def Obligations.SwitchesAndEvictions : Prop :=
  (∀ (s : State) (tk target : Nat) (t : Team) (im : Image) (v : Variant) (k : Nat), s.team? tk = some t → t.request = some target → t.partial_ = false →
    switchArrived (s.teamGroups tk) = true → (∀ e ∈ s.teamGroups tk, e.2.arrived = some k ∧ e.2.lc = 0 ∧ e.2.sc = 0 ∧ e.2.cc = 0 ∧ e.2.tc = 0) →
    (s.core (tk / 16)).rsb.any (fun r => r.tk == tk && r.cmd.isSome) = false → s.image? t.part t.image = some im → im.vars[target]? = some v →
    s.switchFits tk t v = true →
    ∃ u t', exec (.variantSwitch tk) s = .next u ∧ u.team? tk = some t' ∧ t'.var = target ∧ t'.request = none ∧ t'.reserved = [] ∧
      t'.abase = t.abase ∧ t'.asize = max 1 ((v.abytes + 4095) / 4096) ∧ t'.pool = v.pool ∧ t'.wiid = t.wiid ∧ t'.rv = []) ∧
  (∀ (s : State) (tk target : Nat) (t : Team), s.team? tk = some t → t.request = some target → t.partial_ = false →
    switchArrived (s.teamGroups tk) = true → ((s.teamGroups tk).filterMap (fun e => e.2.arrived)).dedup.length ≠ 1 →
    exec (.variantSwitch tk) s = .next ((s.teamGroups tk).foldl (fun s e => s.freeze e.1 14 0 0x16 e.2.live (e.2.pcMin e.2.live))
      (s.setTeam tk { t with request := none, reserved := [] }))) ∧
  (∀ (s : State) (tk v since : Nat) (t : Team), let w := s.trackFree (tk / 16)
    w.team? tk = some t →
    t.freeSince.find? (fun e => e.2 + ((w.part? t.part).map (·.quantum)).getD 0 ≤ w.clock.now) = some (v, since) →
    ∃ u t', exec (.upshiftQuantumExpiry tk) s = .next u ∧ u.team? tk = some t' ∧ t'.request = some v ∧ t'.var = t.var ∧ u.mem = s.mem) ∧
  (∀ (s : State) (tk v since : Nat) (t t' : Team), s.team? tk = some t → tk < 4096 → (s.trackFree (tk / 16)).team? tk = some t' → (v, since) ∈ t'.freeSince →
    v ∈ s.better tk t ∧ s.pressed (tk / 16) (s.teamRank t) = false ∧ t.request = none ∧ (since = s.clock.now ∨ kget t.freeSince v = some since)) ∧
  (∀ (s : State) (core part queue : Nat) (p : Press) (x : Item) (im : Image) (rank : Nat × Nat) (before after : List Wanting) (l : List Nat),
    let w := s.pressCore core
    w.shortItems core = before ++ (part, queue, x, im, rank) :: after → (∀ e ∈ before, w.evictedFor core e = none) →
    w.press? core (part, queue, x, im, rank) = some p → w.graceOver p = true →
    (permitted im x.vmask).findSome? (fun v => (im.vars[v]?).bind (fun y => w.evictionFor core (w.victims core rank) y.demand)) = some l →
    exec (.switchGraceExpiry core) s = .next ((l.foldl (fun s gk => s.evict gk) w).trackFree core)) ∧
  (∀ (s w : State) (gk : Nat) (g0 g : Group) (t : Team), s.group? gk = some g0 → g0.txend = none → s.regionStop gk = w → w.group? gk = some g →
    g.saveable = true → w.team? (g.tk gk) = some t → w.shadowUsed (coreOf gk) + 8192 * popCount g.held ≤ Config.shadowBytes →
    let u := s.evict gk
    u.group? gk = none ∧ (∃ x ∈ u.inn.saved, x.gk = gk ∧ x.grp = g ∧ x.shadow = true) ∧
      u.team? (g.tk gk) = some { t with partial_ := true, freeSince := [] } ∧ ∀ p, u.readByte p = w.readByte p) ∧
  (∀ (s w : State) (tk off : Nat) (t : Team), s.team? tk = some t → s.teamGroups tk = [] → s.teamSaved tk ≠ [] → s.spillWanted (tk / 16) tk = true →
    kget s.inn.spilled tk = none → s.spillTake t.part t.allocBytes = some (off, w) → (w.core (tk / 16)).rsb = [] →
    (w.core (tk / 16)).mq.any (fun o => o.tk == tk && o.kind == .ldmeta) = false → t.out = 0 →
    ∃ u x, exec (.allocationSpill tk) s = .next u ∧ u.team? tk = some { t with out := 7 } ∧ kget u.inn.spilled tk = some x ∧ x.off = off) ∧
  (∀ (s : State) (core : Nat) (x : Saved) (t : Team), s.oldestSaved core = some x → s.team? (x.grp.tk x.gk) = some t → s.featOk x.grp = true →
    s.group? x.gk = none → s.coreRuns core = true → s.outranked core (s.teamRank t) = false → s.spillFree (x.grp.tk x.gk) t = true →
    slotsFit (s.lodges core) (s.holds core []) { grp := 1, blk := popCount x.grp.held, a := 0, w := 0, tiles := 0, metas := 0 } = true →
    kget s.inn.spilled (x.grp.tk x.gk) = none → x.spill = none → x.grp.exited ≠ 0xFFFFFFFF → x.grp.stopEv = none →
    ∃ u g, exec (.groupRestore core) s = .next u ∧ x ∉ u.inn.saved ∧ u.group? x.gk = some g ∧
      (x.grp.st ≠ .running → g = x.grp) ∧ (x.grp.st = .running → x.grp.mwait = 0 → g = { x.grp with quiet := true, since := 0, pendAge := 0 }) ∧
      g.v = x.grp.v ∧ g.s = x.grp.s ∧ g.p = x.grp.p ∧ g.exited = x.grp.exited ∧ g.epcv = x.grp.epcv ∧ (x.grp.mwait = 0 → u.mem = s.mem))

/-! ### Stops, faults and the Ostler -/

/-- What a region-entry stop leaves (R41): every lane not exited at its region entry, no access in flight but stores that the range
scoreboard or a home still holds and releases that have left the core (R40, R116), registers and rejoin masks as they were. -/
structure Sys2Proof.Claims.Stopped (g g' : Group) : Prop where
  pcv : ∀ l, l < 32 → sget g'.pcv l = if g.exited.getLsbD l = true then sget g.pcv l else sget g.epcv l
  epcv : g'.epcv = g.epcv
  counts : g'.lc = 0 ∧ g'.sc = g'.ops.length ∧ ∀ o ∈ g'.ops, o ∈ g.ops ∧ (o.kind = .store ∨ (o.kind = .release ∧ o.sent.isSome = true))
  waits : g'.rwait = [] ∧ g'.mwait = 0 ∧ g'.yielded = 0 ∧ g'.fetchw = none
  watch : g'.watch.lanes = 0 ∧ g'.watch.keep = if g.watch.armed && g.watch.bound then g.watch.keep ||| g.watch.lanes else 0
  regs : g'.v = g.v ∧ g'.s = g.s ∧ g'.p = g.p ∧ g'.rmask = g.rmask ∧ g'.exited = g.exited ∧ g'.sflags = g.sflags ∧ g'.cc = g.cc ∧ g'.tc = g.tc

/-- R41, R344, R406, R407: the region-entry stop, and a fault with its XFAULT and its error record: the group parks as soon as no
access of it is in flight. -/
def Obligations.FaultParks : Prop :=
  (∀ (s : State) (gk : Nat) (g : Group), s.group? gk = some g → g.intx = 0 →
    (g.exited ≠ 0xFFFFFFFF → ∃ g', (s.regionStop gk).group? gk = some g' ∧ Sys2Proof.Claims.Stopped g g') ∧
    (g.exited = 0xFFFFFFFF → g.cc = 0 → g.tc = 0 → (∀ o ∈ g.ops, o.kind ≠ .store ∧ ¬(o.kind = .release ∧ o.sent.isSome = true)) → (s.regionStop gk).group? gk = none)) ∧
  (∀ (s : State) (gk event subc op offs : Nat) (lanes : LaneMask) (g : Group), s.group? gk = some g → g.intx = 0 → g.exited ≠ 0xFFFFFFFF →
    event < 256 → event ≠ 0 → subc < 256 → op < 256 → offs < 2 ^ 32 →
    let u := s.freeze gk event subc op lanes offs
    ∃ g', u.group? gk = some g' ∧ Sys2Proof.Claims.Stopped g g' ∧
      (g'.ops = [] → g.txend = none → g'.event = event ∧ g'.st = (if event = 7 then .halted else .parked)) ∧
      (g'.ops ≠ [] → g'.stopEv = some event ∧ g'.st = g.st ∧ g'.event = g.event) ∧
      fld g'.xfault 31 0 = offs ∧ fld g'.xfault 39 32 = event ∧ fld g'.xfault 47 40 = op ∧ fld g'.xfault 55 48 = subc ∧
      fld g'.xfault 95 64 = lanes.toNat ∧ fld g'.xfault 127 96 = 0 ∧
      ∃ r ∈ u.porter.recs, r.kind = 16 ∧ r.part = some g.part ∧ r.detail.setWidth 128 = g'.xfault)

/-- R35, R341, R344, R345, R376, R378, R409, R410, R415: precise stops, faults of the word, the watchdog, and the commands of
GCTL. -/
def Obligations.StopsAndResumes : Prop :=
  (∀ (s u : State) (gk : Nat) (t : Stand), s.stand? gk = some (t, u) →
    (∀ e, u.stopDue t = true → u.stopsAt t = [e] → t.g.intx = 0 → t.g.lc = 0 → t.g.sc = 0 → t.g.breakReq ≠ some true →
      (u.breaksAt t).any (fun e => e.2.skip == 0 && e.2.allstop) = false →
      exec (.preciseStop gk) s = .next ((((u.meetBreaks t).modGroup gk (fun g =>
        { g with arrived := none, lastWp := u.wpHere t, since := 0, breakReq := none })).park gk e).tokenBack gk)) ∧
    (u.stopDue t = true → u.stopsAt t ≠ [] → t.g.intx = 0 → t.g.lc ≠ 0 ∨ t.g.sc ≠ 0 → exec (.preciseStop gk) s = .next u) ∧
    (u.stopDue t = true → u.stopsAt t = [] → exec (.preciseStop gk) s = .next ((u.meetBreaks t).modGroup gk (fun g => { g with quiet := true, breakReq := none }))) ∧
    (u.stopDue t = true → t.g.intx ≠ 0 → ∃ v g', exec (.preciseStop gk) s = .next v ∧ v.group? gk = some g' ∧ g'.st = .running ∧ g'.quiet = true ∧
      (g'.breakReq.isSome = true ↔ t.g.breakReq.isSome = true ∨ ∃ e ∈ u.breaksAt t, e.2.skip = 0)) ∧
    (∀ e n op, t.wordFault = some (e, n, op) → exec (.executionFreeze gk e n op t.act) s = .next (u.freeze gk e n op t.act t.pc)) ∧
    (t.g.stopPending = true → 2 ^ 20 ≤ t.g.pendAge → exec (.watchdogPendingStop gk) s = .next (u.freeze gk 13 1 (fieldAt t.word 3 8) t.act t.pc)) ∧
    (2 ^ 26 ≤ t.g.since → exec (.watchdogNoWaypoint gk) s = .next (u.freeze gk 13 2 (fieldAt t.word 3 8) t.act t.pc))) ∧
  (∀ (s : State) (gk : Nat) (g : Group), s.group? gk = some g → g.st = .running → ∃ u, exec (.gctlHalt gk) s = .next u ∧
    u.group? gk = some { g with haltReq := some 7 } ∧ ∀ k, k ≠ gk → u.group? k = s.group? k) ∧
  (∀ (s : State) (gk : Nat) (g : Group) (lanes : LaneMask), s.group? gk = some g → g.st ≠ .running → g.event ≠ 1 → s.featOk g = true →
    let back : Group := { g with ord := 0xFFFF, lmask := lanes, st := .running, quiet := true, since := 0, pendAge := 0, fault := [] }
    (g.mwait = 0 → ∃ u, exec (.gctlResume gk 0xFFFF lanes) s = .next u ∧ u.group? gk = some { back with stepped := g.stepped || !g.stepReq }) ∧
    (g.mwait = 0 → ∃ u, exec (.gctlStep gk 0xFFFF lanes) s = .next u ∧ u.group? gk = some { back with stepReq := true, stepped := false }) ∧
    (g.watch.armed = false ∨ g.watch.trig = true → ∃ u g', exec (.gctlResume gk 0xFFFF lanes) s = .next u ∧ u.group? gk = some g' ∧
      g'.st = .running ∧ g'.mwait = 0 ∧ ∀ l, l < 32 → sget g'.pcv l = if g.mwait.getLsbD l = true then sget g.pcv l + 8 else sget g.pcv l) ∧
    (g.mwait = 0 → ∀ v (ord : BitVec 16) w, s.gvar? g = some v → ord ≠ 0xFFFF → v.wps[ord.toNat]? = some w → ∃ u g', exec (.gctlResume gk ord lanes) s = .next u ∧
      u.group? gk = some g' ∧ g'.st = .running ∧ g'.v = g.v ∧ g'.s = g.s ∧ g'.p = g.p ∧ g'.exited = g.exited ∧
      (∀ l, l < 32 → sget g'.pcv l = if (lanes &&& ~~~g.exited).getLsbD l = true then BitVec.ofNat 32 w.offs else sget g.pcv l) ∧
      (∀ l, l < 32 → sget g'.epcv l = if w.kind ≤ 1 ∧ (lanes &&& ~~~g.exited).getLsbD l = true then BitVec.ofNat 32 w.offs else sget g.epcv l))) ∧
  (∀ (s : State) (core slot event : Nat) (r : List (Nat × Nat)), (s.core core).evPend = (slot, event) :: r →
    (s.core core).evTail - (s.core core).evHead < 64 → ∃ u, exec (.eventQueueEntryWrite core) s = .next u ∧ (u.core core).evPend = r ∧
      (u.core core).evTail = (s.core core).evTail + 1 ∧
      sget (u.core core).evq ((s.core core).evTail % 64) = BitVec.ofNat 64 (event * 256 + slot) ∧ u.groups = s.groups)

/-- R79 to R81: scratchpad windows. -/
def Obligations.WindowMapping : Prop :=
  (∀ (s : State) (core idx : Nat) (e : BitVec 64), (s.core core).mapBusy = false →
    let c := clusterOf core
    let n := idx % 256
    let taken := mapV (sget (s.cluster c).map n) || (kget (s.cluster c).clearing n).isSome || (kget (s.cluster c).setting n).isSome
    (∀ l w, mapV e = true → s.mapRefused c n e = false → taken = false → s.mapPages c e (mapSize e / 65536) (mapVa e) = (some l, w) →
      ∃ u, exec (.windowMap core idx e) s = .next u ∧ (u.core core).mapBusy = true ∧ (u.core core).mapErr = false ∧ (u.core core).mapIdx = n ∧
        sget (u.cluster c).map n = setFld (e &&& mapMask) 0 1 0 ∧
        kget (u.cluster c).setting n = some (l.flatMap (fun pa => (List.range 256).map (fun j => pa + 256 * j)))) ∧
    (mapV e = true → s.mapRefused c n e = true ∨ taken = true →
      ∃ u, exec (.windowMap core idx e) s = .next u ∧ (u.core core).mapErr = true ∧ (u.core core).mapBusy = false ∧ u.clusters = s.clusters ∧ u.coh = s.coh) ∧
    (mapV e = false → kget (s.cluster c).setting n = none → mapV (sget (s.cluster c).map n) = false →
      ∃ u, exec (.windowUnmap core idx e) s = .next u ∧ sget (u.cluster c).map n = setFld (e &&& mapMask) 0 1 0 ∧ u.coh = s.coh ∧
        (u.cluster c).clearing = (s.cluster c).clearing) ∧
    (mapV e = false → kget (s.cluster c).setting n = none → mapV (sget (s.cluster c).map n) = true →
      let old := sget (s.cluster c).map n
      ∃ u, exec (.windowUnmap core idx e) s = .next u ∧ sget (u.cluster c).map n = setFld (e &&& mapMask) 0 1 0 ∧
        kget (u.cluster c).clearing n = some ((s.coh.winLines.filter (fun x => x.2.1 == 256 * c + n)).map (·.1)) ∧
        ∃ r ∈ (u.core (mapCore c old)).rsb, r.wSpace = mapIsW old ∧ r.lo = mapOffs old ∧ r.hi = mapOffs old + mapSize old)) ∧
  (∀ (s : State) (c idx : Nat) (lines : List Nat), kget (s.cluster c).setting idx = some lines → (lines.map (· / 256)).Nodup →
    let e := sget (s.cluster c).map idx
    ∃ u, exec (.windowMapValid c idx) s = .next u ∧ sget (u.cluster c).map idx = setFld e 0 1 1 ∧ kget (u.cluster c).setting idx = none ∧
      (∀ j, j < lines.length → kget u.coh.winLines (lines.getD j 0 / 256) = some (256 * c + idx, mapOffs e + 256 * j)) ∧
      ∀ k, clusterOf k = c → (s.core k).mapIdx = idx → (u.core k).mapBusy = false) ∧
  (∀ (s : State) (c idx line : Nat) (rest : List Nat), kget (s.cluster c).clearing idx = some (line :: rest) →
    (∀ n, n < 256 → s.isGone (line * 256 + n) = false) →
    ∃ u, exec (.windowLineWriteback c idx) s = .next u ∧ kget (u.cluster c).clearing idx = some rest ∧ kget u.coh.winLines line = none ∧
      (∀ n, n < 256 → u.rawByte (.glob (line * 256 + n)) = s.rawByte ((s.locate (line * 256)).add n)) ∧
      ∀ a, a / 256 ≠ line → u.rawByte (.glob a) = s.rawByte (.glob a)) ∧
  (∀ (s : State) (c idx : Nat), kget (s.cluster c).clearing idx = some [] →
    ∃ u, exec (.windowLineWriteback c idx) s = .next u ∧ kget (u.cluster c).clearing idx = none ∧ (u.cluster c).map = (s.cluster c).map ∧
      ∀ r ∈ (u.core (mapCore c (sget (s.cluster c).old idx))).rsb, ¬(r.cmd = none ∧ r.tk = 4095 - idx))

/-- R327, R330, R331, R335, R339, R341, R342, R423: user-interrupt posts, wakes, freezes and shoot-downs by application cores, and
writes to the private region of an Ostler. -/
def Obligations.SignalsAndRegisters : Prop :=
  (∀ (s : State) (core slot mask vec gk : Nat) (g : Group), s.group? gk = some g → vec < 2 ^ 16 →
    let hit := coreOf gk = core ∧ g.tslot = slot ∧ g.kind ≠ .lodge ∧ mask.testBit g.grpid = true
    (¬hit → (s.postUint core slot mask vec).group? gk = some g) ∧
    (hit → ∃ g', (s.postUint core slot mask vec).group? gk = some g' ∧ g'.cause.getLsbD 3 = true ∧ fld g'.cause 31 16 = fld g.cause 31 16 ||| vec ∧
      { g' with cause := g.cause } = g)) ∧
  (∀ (s : State) (core : Nat) (v : BitVec 64),
    exec (.upost core v) s = .next (if fld v 7 0 = core then s.postUint core (fld v 19 16) (fld v 47 32) (fld v 63 48) else s)) ∧
  (∀ (s : State) (h p : Nat) (v : BitVec 64), (s.hart h).ckpt = none → h < 16 → (s.hart h).mode ≠ .u → (s.hart h).part = some p →
    let past := fun (u : State) => u.modHart h (fun k => { k with pc := k.pc + 4 })
    (∀ t, s.team? (fld v 7 0 * 16 + fld v 19 16) = some t →
      exec (.xvuint h v) s = .next (past (if t.part = p then s.postUint (fld v 7 0) (fld v 19 16) (fld v 47 32) (fld v 63 48) else s))) ∧
    (fld v 63 16 = 0 → exec (.xvwake h v) s = .next (past (s.wake p v.toNat)) ∧ exec (.xvfreeze h v) s = .next (past (s.freezeParked p v.toNat))) ∧
    ((s.hart h).busy = false →
      (v.getLsbD 62 = false → exec (.xvshootPage h v) s = .next (past ((s.shoot p v false).modHart h (fun k => { k with busy := true, shoot := v })))) ∧
      (v.getLsbD 62 = true → exec (.xvshootAll h v) s = .next (past ((s.shoot p v true).modHart h (fun k => { k with busy := true, shoot := v })))))) ∧
  (∀ (s : State) (p id : Nat) (g : Group), id < 2 ^ 15 → parkNone id = false → s.group? (parkGroup id) = some g → g.part = p → g.st = .parked → g.event = 1 →
    g.mwait = 0 →
    (s.wake p id).group? (parkGroup id) = some { g with
      st := .running, quiet := true, since := 0, pendAge := 0, stepped := g.stepped || !g.stepReq, fault := [] } ∧
    ∀ c, c < 256 → (g.fault.map (·.cause)).dedup = [c] → ∃ g', (s.freezeParked p id).group? (parkGroup id) = some g' ∧ g'.st = .parked ∧ g'.event = 16 ∧
      g'.fault = [] ∧ fld g'.xfault 39 32 = 16 ∧ fld g'.xfault 55 48 = c ∧ g'.pcv = g.pcv ∧ g'.v = g.v ∧ g'.s = g.s ∧ g'.p = g.p) ∧
  (∀ (s : State) (p id : Nat), id < 2 ^ 16 → parkNone id = true → s.wake p id = s ∧ s.freezeParked p id = s) ∧
  (∀ (s : State) (p : Nat) (v : BitVec 64) (all : Bool), let root := ((s.part? p).map (·.root)).getD 0
    let u := s.shoot p v all
    (∀ d ∈ s.shootDies root v all, ∀ e ∈ u.tlb d, shootHits v all (s.rootParts root) e = false) ∧
    (∀ c, c < 256 → ∀ x ∈ s.l1Tags c, x.part ∈ s.rootParts root → inPage v all (256 * x.vline) = true → x ∉ u.l1Tags c ∧ ∀ j, j < 4 → u.l1 c (4 * x.pline + j) = 0) ∧
    ((∀ e ∈ s.coh.l1, e.2 < 3) → (∀ e ∈ s.coh.dir, e.2.state ≠ 3 ∧ e.2.state ≠ 4) → (∀ d, ∀ e ∈ s.tlb d, shootHits v all (s.rootParts root) e = false → e ∈ u.tlb d) ∧ ∀ q, u.readByte q = s.readByte q)) ∧
  (∀ (s : State) (h : Nat), (s.hart h).busy = true →
    let parts := match (s.hart h).part with
      | some p => s.rootParts (((s.part? p).map (·.root)).getD 0)
      | none => []
    exec (.shootdownComplete h) s = .next (if (∀ e ∈ s.groups, shootWaits (s.hart h).shoot parts e.2 = false) ∧
      (∀ x ∈ s.node.held, ¬(x.by_.part ∈ parts ∧ x.op.shootWaits (s.hart h).shoot = true)) ∧
      (∀ e ∈ s.parts, ∀ l, e.2.log = some l → ∀ x ∈ l.heldWr, ∀ a, x.by_.va = some a →
        ¬(x.by_.part ∈ parts ∧ inPage (s.hart h).shoot ((s.hart h).shoot.getLsbD 62) a = true)) then s.setHart h { s.hart h with busy := false } else s)) ∧
  (∀ (s : State) (core : Nat) (x : BitVec 64), let bs := toBytes 8 x.toNat
    exec (.ostlerRegisterWrite core 0x410400 bs) s = .next (s.modCore core (fun k => { k with reqHead := x.toNat })) ∧
    exec (.ostlerRegisterWrite core 0x411200 bs) s = .next (s.modCore core (fun k => { k with evHead := x.toNat })) ∧
    exec (.ostlerRegisterWrite core 0x412008 bs) s = .next (if mapV x then s.windowMap core (s.core core).mapIdx x else s.windowUnmap core (s.core core).mapIdx x) ∧
    exec (.ostlerRegisterWrite core 0x412010 bs) s = exec (.upost core x) s) ∧
  (∀ (s : State) (core slot w : Nat) (x : BitVec 32) (g : Group), slot < 64 → w < 0x2000 → s.group? (core * 64 + slot) = some g → g.st ≠ .running →
    g.held.getLsbD (w / 2048) = true →
    ∃ u g', exec (.ostlerRegisterWrite core (65536 * slot + 4 * w) (toBytes 4 x.toNat)) s = .next u ∧ u.group? (core * 64 + slot) = some g' ∧
      (∀ r l, l < 32 → g'.vr r l = if 32 * r + l = w then x else g.vr r l) ∧ { g' with v := g.v, oldv := g.oldv } = g)

/-- R319, R323 to R326: which accesses a leaf permits, what a cached entry answers, and what a walk leaves in the TLB. -/
def Obligations.PagesTranslate : Prop :=
  (∀ (acc : Access) (p : BitVec 64), refused acc p = none ↔
    (p.getLsbD 6 = true → p.getLsbD 8 = true) ∧ p.getLsbD 7 = false ∧
    (acc = .xfetch → p.getLsbD 4 = true) ∧ (acc ≠ .xfetch → p.getLsbD 2 = true) ∧
    (isWrite acc = true → p.getLsbD 3 = true ∧ p.getLsbD 9 = false)) ∧
  (∀ (s : State) (die part va : Nat) (acc : Access) (e : TlbEnt), tlbFind (s.tlb die) part va = some e → (isWrite acc = true → e.wr = true) →
    refused acc e.pte = none → s.xlate die part acc va = (.ok (fld e.pte 56 14 * 512 + va % 2 ^ lvlShift e.lvl), s)) ∧
  (∀ (s : State) (die part : Nat) (va : BitVec 64) (acc : Access) (p : Part) (lvl at_ : Nat) (pte comp : BitVec 64),
    let a := va.toNat % 2 ^ 56
    s.part? part = some p → tlbFind (s.tlb die) part a = none → tlbFind (s.tlb (pkgTlb a)) part a = none → s.walk p.root a = .leaf lvl at_ pte comp →
    (s.tlb die).length < Config.tlbEntries die →
    (refused acc pte = none → ∃ u, exec (.pageWalk die part va acc) s = .next u ∧ tlbFind (u.tlb die) part a =
      some { part := part, lvl := lvl, page := a / 2 ^ lvlShift lvl, pte := pte, leaf := at_, wr := isWrite acc }) ∧
    (refused acc pte ≠ none → acc ≠ .innRead → acc ≠ .innWrite → exec (.pageWalk die part va acc) s = .next (s.walkReads p.root a))) ∧
  (∀ (s : State) (part : Nat) (p : Part), s.part? part = some p → exec (.ringHeadAdvance part) s = .next (s.overflow part).retryPostings)

/-! ### Directories, peers, links and time -/

/-- A group that watches a place has TRIG set (R218). -/
def Sys2Proof.Claims.Notified (s u : State) (p : Place) : Prop :=
  ∀ gk g, s.group? gk = some g → g.watch.armed = true → g.watch.bound = true → g.watch.home = p → ∃ g', u.group? gk = some g' ∧ g'.watch.trig = true

/-- A line that is in its L2 slice, or finds room there, so that none leaves the slice for it (R86). -/
def Sys2Proof.Claims.Roomy (s : State) (line : Nat) : Prop :=
  (kget s.coh.lines line).isSome = true ∨ (s.coh.lines.filter (fun x => s.homeSlice (256 * x.1) == s.homeSlice (256 * line))).length < Config.l2Lines

/-- No directory names an owner in M or O: then no write-back is translated (R85), and memory, with the companion words of the page
tables, stays as it is. -/
def Sys2Proof.Claims.NoOwner (s : State) : Prop := ∀ e ∈ s.coh.dir, e.2.state ≠ 3 ∧ e.2.state ≠ 4

/-- Rows of the table of R87: what a request leaves in the home directory and in L1. -/
def Sys2Proof.Claims.DirectoryRows : Prop :=
  (∀ (s : State) (core sec : Nat), s.ownLine (64 * sec) = true → s.l1Tagged core sec = true → s.l1 core sec = 0 → Sys2Proof.Claims.Roomy s (sec / 4) →
    let d := s.dirEnt sec
    let bit := BitVec.ofNat 8 (2 ^ clusterOf core)
    ∃ u, exec (.directoryRead core sec) s = .next u ∧ u.mem = s.mem ∧ u.groups = s.groups ∧
      (d.state = 0 → d.watch = false → u.dirEnt sec = { d with state := 2, owner := core, sharers := d.sharers ||| bit } ∧ u.l1 core sec = 2) ∧
      (d.state = 0 → d.watch = true → u.dirEnt sec = { d with state := 1, sharers := d.sharers ||| bit } ∧ u.l1 core sec = 1) ∧
      (d.state = 1 → u.dirEnt sec = { d with sharers := d.sharers ||| bit } ∧ u.l1 core sec = 1) ∧
      (d.state = 2 → d.owner ≠ core → u.dirEnt sec = { d with state := 1, sharers := d.sharers ||| bit } ∧ u.l1 core sec = 1 ∧
        u.l1 d.owner sec = if s.l1 d.owner sec = 0 then 0 else 1) ∧
      (d.state = 4 → d.owner ≠ core → u.dirEnt sec = { d with state := 3, sharers := d.sharers ||| bit } ∧ u.l1 core sec = 1 ∧ u.l1 d.owner sec = 3) ∧
      (d.state = 3 → d.owner ≠ core → u.dirEnt sec = { d with sharers := d.sharers ||| bit } ∧ u.l1 core sec = 1 ∧ u.l1 d.owner sec = s.l1 d.owner sec) ∧
      ∀ c x, x ≠ sec → x < 2 ^ 46 → sec < 2 ^ 46 → u.dirEnt x = s.dirEnt x ∧ u.l1 c x = s.l1 c x) ∧
  (∀ (s : State) (core sec : Nat), sec < 2 ^ 46 → s.ownLine (64 * sec) = true → s.l1Tagged core sec = true → s.l1 core sec ≠ 4 → (s.dirEnt sec).state ≠ 5 →
    Sys2Proof.Claims.Roomy s (sec / 4) →
    ∃ u, exec (.directoryOwnership core sec) s = .next u ∧
      (((s.dirEnt sec).state ≠ 3 ∧ (s.dirEnt sec).state ≠ 4) ∨ (s.dirEnt sec).owner = core → u.mem = s.mem) ∧ (∀ e ∈ u.coh.rows, ∀ r ∈ e.2, sec ∉ r) ∧
      ((s.dirEnt sec).watch = false → u.dirEnt sec = { state := 4, owner := core, sharers := BitVec.ofNat 8 (2 ^ clusterOf core) } ∧
        ∀ c, u.l1 c sec = if c = core then 4 else 0) ∧
      ((s.dirEnt sec).watch = true → (u.dirEnt sec).state = 1 ∧ (u.dirEnt sec).sharers = BitVec.ofNat 8 (2 ^ clusterOf core) ∧ (u.dirEnt sec).watch = true ∧
        (∀ c, u.l1 c sec = if c = core then 1 else 0) ∧ Sys2Proof.Claims.Notified s u (.glob (64 * sec)))) ∧
  (∀ (s : State) (core sec : Nat), s.l1Tagged core sec = false → exec (.directoryRead core sec) s = .next s ∧ exec (.directoryOwnership core sec) s = .next s) ∧
  (∀ (s : State) (core sec : Nat), ∃ u v, exec (.directoryRead core sec) s = .next u ∧ exec (.directoryOwnership core sec) s = .next v ∧
    (Sys2Proof.Claims.NoOwner s → u.mem = s.mem ∧ v.mem = s.mem) ∧
    ∀ gk, (u.group? gk).map Group.unrung = (s.group? gk).map Group.unrung ∧ (v.group? gk).map Group.unrung = (s.group? gk).map Group.unrung) ∧
  (∀ (s : State) (core sec : Nat), ∃ u, exec (.directoryWriteBack core sec) s = .next u ∧ u.l1 core sec = 0 ∧ (s.l1 core sec < 3 → u.mem = s.mem) ∧
    (s.l1 core sec = 1 ∨ s.l1 core sec = 2 → u.dirEnt sec = s.dirEnt sec) ∧
    (s.l1 core sec = 3 ∨ s.l1 core sec = 4 → (u.dirEnt sec).state = if u.anyCopy sec then 1 else 0)) ∧
  (∀ (s : State) (line : Nat), 4 * line + 3 < 2 ^ 46 → ∃ u, exec (.l2Eviction line) s = .next u ∧ kget u.coh.lines line = none ∧
    ((∀ j, j < 4 → (s.dirEnt (4 * line + j)).state ≠ 3 ∧ (s.dirEnt (4 * line + j)).state ≠ 4) → u.mem = s.mem) ∧
    ∀ j, j < 4 → (s.dirEnt (4 * line + j)).state ≠ 5 → u.dirEnt (4 * line + j) = {} ∧ (∀ c, u.l1 c (4 * line + j) = 0) ∧
      kget u.coh.leases (4 * line + j) = none ∧ ((s.dirEnt (4 * line + j)).watch = true → Sys2Proof.Claims.Notified s u (.glob (64 * (4 * line + j)))))

/-- Lines of peer packages (R88 to R92, R115, R116). That a turn stands for what other packages write to the memory of a peer is the
model's choice (log 9). -/
def Sys2Proof.Claims.PeerLines : Prop :=
  (∀ (s : State) (slice : Nat), let b := (sget s.coh.base slice).toNat
    b + 2 ^ 21 ≤ s.clock.now → s.clock.now < 2 ^ 64 → (s.coh.leases.map (·.1)).Nodup →
    ∃ u, exec (.leaseRebase slice) s = .next u ∧
      let b' := (sget u.coh.base slice).toNat
      b' % 2 ^ 20 = b % 2 ^ 20 ∧ b' ≤ s.clock.now ∧ s.clock.now < b' + 2 ^ 21 ∧
      ∀ sec l, s.homeSlice (sec * 64) = slice → kget s.coh.leases sec = some l →
        match kget u.coh.leases sec with
        | some l' => l'.data = l.data ∧ l'.early = l.early ∧ u.expiry sec l' = s.expiry sec l
        | none => s.expiry sec l < b') ∧
  (∀ (s : State) (sec : Nat), s.isPeer (64 * sec) = true → s.isGone (64 * sec) = false → s.clock.unsync = false → s.isPoison (.glob (64 * sec)) = false →
    s.reached (pkgOf (64 * sec)) = true → Sys2Proof.Claims.Roomy s (sec / 4) →
    s.leaseHit sec = none → (sget s.coh.base (s.homeSlice (64 * sec))).toNat % 64 = 0 → (sget s.coh.base (s.homeSlice (64 * sec))).toNat ≤ s.clock.now →
    s.clock.winLen % 64 = 0 → 0 < s.clock.winLen → s.clock.winLen ≤ 4096 → s.clock.now < 2 ^ 63 →
    ∃ u l, exec (.peerLineRead sec) s = .next u ∧ kget u.coh.leases sec = some l ∧ u.expiry sec l = (s.window + 2) * s.clock.winLen ∧
      (l.early = true ↔ s.clock.now % s.clock.winLen < 128) ∧ (∀ n, n < 64 → fld l.data (8 * n + 7) (8 * n) = (s.rawByte (.glob (sec * 64 + n))).toNat) ∧ u.mem = s.mem ∧
      ∀ j, j < 4 → s.leaseHit (4 * (sec / 4) + j) = none → s.isPoison (.glob ((4 * (sec / 4) + j) * 64)) = false → kget u.coh.leases (4 * (sec / 4) + j) ≠ none) ∧
  (∀ (s : State) (pkg pa : Nat) (data : List (BitVec 8)), s.isPeer pa = false → s.reached pkg = true → s.peerWaits pa data.length = false →
    (∀ a, pa / 64 * 64 ≤ a → a < pa + data.length → s.isGone a = false ∧ kget s.coh.winLines (a / 256) = none ∧ s.isPeer a = false ∧
      (s.dirEnt (a / 64)).state ≠ 3 ∧ (s.dirEnt (a / 64)).state ≠ 4) →
    let wrote : State → Prop := fun u => (∀ n, n < data.length → u.rawByte (.glob (pa + n)) = data.getD n 0) ∧
      ∀ q, (∀ n, n < data.length → q ≠ .glob (pa + n)) → u.rawByte q = s.rawByte q
    (∃ u, exec (.peerWriteThrough pkg pa data none) s = .next u ∧ wrote u) ∧
    (∀ ns, s.holdOver ns = true → ∃ u, exec (.peerWriteThrough pkg pa data (some ns)) s = .next u ∧ wrote u) ∧
    (∀ ns, s.holdOver ns = false → ∃ u x, exec (.peerWriteThrough pkg pa data (some ns)) s = .next u ∧ u.mem = s.mem ∧ u.cores = s.cores ∧
      u.node.held = s.node.held ++ [x] ∧ x.gk = peerKey pkg ∧ x.sent = ns ∧
      x.op.accs.map (fun a => (a.place, a.size, a.data)) = (List.range data.length).map (fun n => (Place.glob (pa + n), 1, (data.getD n 0).zeroExtend 64)))) ∧
  (∀ (s : State) (pkg pa : Nat) (data : List (BitVec 8)) (release : Option Nat) (op : PacketOp) (t : Typ) (x y : BitVec 64),
    s.isPeer pa = false → s.reached pkg = false →
    exec (.peerWriteThrough pkg pa data release) s = .next s ∧ exec (.operationPacket pkg pa op t x y) s = .next s) ∧
  (∀ (s : State) (pkg pa : Nat) (data : List (BitVec 8)) (release : Option Nat), s.isPeer pa = true →
    (s.awayAt pkg pa release = false → exec (.peerWriteThrough pkg pa data release) s = .next s) ∧
    (s.awayAt pkg pa release = true → (∀ a, pa / 64 * 64 ≤ a → a < pa + data.length → s.isGone a = false) →
      ∃ u, exec (.peerWriteThrough pkg pa data release) s = .next u ∧ (∀ n, n < data.length → u.rawByte (.glob (pa + n)) = data.getD n 0) ∧
        ∀ q, (∀ n, n < data.length → q ≠ .glob (pa + n)) → u.rawByte q = s.rawByte q)) ∧
  (∀ (s : State) (pkg pa : Nat) (op : Aop) (t : Typ) (x y : BitVec 64), s.isPeer pa = false → s.reached pkg = true → kget s.coh.winLines (pa / 256) = none →
    (s.dirEnt (pa / 64)).state ≠ 3 → (s.dirEnt (pa / 64)).state ≠ 4 →
    pa % t.bytes = 0 → s.isGone (pa / 64 * 64) = false → s.anyPoison (.glob pa) t.bytes = false → s.peerWaits pa t.bytes = false →
    let old := ofBytes (s.readBytes (.glob pa) t.bytes)
    ∃ u, exec (.operationPacket pkg pa (.atomic op none) t x y) s = .next u ∧ u.node.answers = s.node.answers ++ [(pkg, old)] ∧
      (∀ new, (atomicNew op t old x.toNat y.toNat).1 = some new → ∀ n, n < t.bytes → u.rawByte (.glob (pa + n)) = (toBytes t.bytes new).getD n 0) ∧
      ((atomicNew op t old x.toNat y.toNat).1 = none → u.mem = s.mem) ∧
      ∀ q, (∀ n, n < t.bytes → q ≠ .glob (pa + n)) → u.rawByte q = s.rawByte q) ∧
  (∀ (s : State) (pkg pa ns : Nat) (op : Aop) (t : Typ) (x y : BitVec 64), s.isPeer pa = false → s.reached pkg = true → s.holdOver ns = false →
    ∃ u h, exec (.operationPacket pkg pa (.atomic op (some ns)) t x y) s = .next u ∧ u.mem = s.mem ∧ u.cores = s.cores ∧ u.node.answers = s.node.answers ∧
      u.node.held = s.node.held ++ [h] ∧ h.gk = peerKey pkg ∧ h.sent = ns ∧ h.op.kind = .atomic ∧ h.op.aop = op ∧ h.op.t = t ∧
      h.op.accs.map (fun a => (a.place, a.size, a.data, a.new)) = [(Place.glob pa, t.bytes, x, y)]) ∧
  (∀ (s : State) (pkg pa rlen : Nat) (t : Typ) (x y : BitVec 64), s.isPeer pa = false → s.reached pkg = true →
    (∀ n, n < rlen → s.isPeer (rowByte pa (64 * n)) = false) →
    ∃ u, exec (.operationPacket pkg pa (.row rlen) t x y) s = .next u ∧ (∀ q, u.readByte q = s.readByte q) ∧
      u.node.answers = s.node.answers ++ [(pkg, ofBytes ((List.range (64 * rlen)).map (fun n =>
        s.readByte (s.behindWindow (.glob (rowByte pa (64 * (n / 64)) + n % 64))))))])

/-- Node links and time (R94, R114, R218, R359 to R361, R428, R437, R438). When the other packages have measured their 8
offsets, and how far a Sync corrects the clock, are free values of the model, and the order of bits in the CRC is its choice (log 58). -/
def Sys2Proof.Claims.LinksAndTime : Prop :=
  (∀ s : State, exec .packetPromotion s = .next s) ∧
  (∀ s : State, exec .visibilityWindowStart s = .next ((((s.linksUp.foldl (fun (u : State) l =>
      u.setLink l (((u.link l).send 1 (Config.linkMessage 0 s.window)).send 2 (Config.linkMessage 0 s.window))) s).rereadWatches.retryPostings |> fun (u : State) =>
    (u.parts.map (·.1)).foldl (fun (u : State) p => u.windowPart p) u)).pressAll.timedReplies)) ∧
  (∀ (s : State) (gk : Nat) (g : Group) (pa : Nat), s.group? gk = some g → g.watch.armed = true → g.watch.bound = true → g.watch.home = .glob pa →
    s.isPeer pa = true → g.mwait ≠ 0 → BitVec.ofNat 512 (ofBytes (s.readBytes (.glob pa) 64)) ≠ g.watch.snap →
    s.rereadWatches.group? gk = some { g with watch := { g.watch with trig := true } }) ∧
  (∀ (s : State) (link n : Nat), s.linkUp link = true → ∃ u v, exec (.windowMarker link 1 n) s = .next u ∧ u.link link = { s.link link with mark1 := n } ∧
    exec (.windowMarker link 2 n) s = .next v ∧ v.link link = { s.link link with mark2 := n }) ∧
  (∀ (s : State) (link lc n : Nat) (f : BitVec 2048), s.linkUp link = false → exec (.windowMarker link lc n) s = .next s ∧ exec (.nodeLinkFlit link f) s = .next s ∧
    exec (.flitResendTimeout link) s = .next s ∧ exec (.linkRetrain link n) s = .next s ∧ exec (.linkDown link) s = .next s) ∧
  (∀ (s : State) (link : Nat) (f : BitVec 2048), s.linkUp link = true →
    (flitOk f = true → flitSeq f = (s.link link).rxSeq + 1 → ∃ u, exec (.nodeLinkFlit link f) s = .next u ∧
      (u.link link).rxSeq = flitSeq f ∧ (u.link link).lastRx = s.clock.now ∧
      (u.link link).inbox = (if flitPayload f = [] then (s.link link).inbox else
        kset (s.link link).inbox (flitLc f) ((kget (s.link link).inbox (flitLc f)).getD [] ++ flitPayload f)) ∧
      (∀ i, (s.link link).unack.findIdx? (fun x => flitSeq x == flitAck f) = some i → (u.link link).unack = (s.link link).unack.drop (i + 1)) ∧
      (∀ k, k ≠ link → u.link k = s.link k) ∧
      (flitLc f = 0 → Config.isUnsync (flitPayload f) = true → u.clock.unsync = true ∧ (s.clock.unsync = false → u.coh.leases = []))) ∧
    (flitOk f = false ∨ flitSeq f ≠ (s.link link).rxSeq + 1 →
      exec (.nodeLinkFlit link f) s = .next (s.setLink link { s.link link with lastRx := s.clock.now }))) ∧
  (∀ (seq ack : BitVec 12) (lc : Nat) (p : List (BitVec 8)), lc < 4 → p.length ≤ 248 → let f := flitOf seq ack lc p
    flitOk f = true ∧ flitSeq f = seq ∧ flitAck f = ack ∧ flitLc f = lc ∧ flitPayload f = p ∧ fld f 13 8 = 0) ∧
  (∀ (s : State) (link : Nat), let x := s.link link
    s.linkUp link = true → x.unack ≠ [] → x.ackAt + 2000 ≤ s.clock.now →
    ∃ u, exec (.flitResendTimeout link) s = .next u ∧ (u.link link).ackAt = s.clock.now ∧ (u.link link).unack = x.unack ∧
      (u.link link).resends = if x.resends ≠ 0 ∧ s.clock.now < x.resentAt + 1000000 then x.resends + 1 else 1) ∧
  (∀ (s : State) (link lanes : Nat), let x := s.link link
    s.linkUp link = true → 16 < x.resends → x.width ≠ 0 →
    (lanes = 0 → ∃ u, exec (.linkRetrain link lanes) s = .next u ∧ (u.link link).up = false) ∧
    (0 < lanes → ∃ u, exec (.linkRetrain link lanes) s = .next u ∧
      u.link link = { x with width := min x.width (if 4 ≤ lanes then 4 else if 2 ≤ lanes then 2 else 1), resends := 0 } ∧
      ((u.link link).width < x.width → ∃ r ∈ u.porter.recs, r.kind = 23))) ∧
  (∀ (s : State) (link : Nat), let p := s.linkPeer link
    s.linkUp link = true → (s.link link).lastRx + 10000000 ≤ s.clock.now →
    ∃ u, exec (.linkDown link) s = .next u ∧ (u.link link).up = false ∧
      (s.clock.present.getLsbD p = true → p ≠ s.clock.pkgid → s.node.lost.getLsbD p = false →
        u.node.lost.getLsbD p = true ∧ (∀ e ∈ u.coh.leases, pkgOf (64 * e.1) ≠ p) ∧ ∀ x ∈ u.node.held, x.gk ≠ peerKey p)) ∧
  (∀ (s : State) (offset : Nat),
    (s.clock.now < s.clock.syncAt ∨ (s.isMaster = true ∧ s.clock.fabric = none) → exec (.ptpSync offset) s = .next s) ∧
    (s.clock.syncAt ≤ s.clock.now → s.isMaster = false ∨ s.clock.fabric ≠ none →
      ∃ u, exec (.ptpSync offset) s = .next u ∧ u.clock.offset = offset ∧ u.clock.syncAt = s.clock.now + 125000 ∧
        s.clock.now ≤ u.clock.now ∧ u.clock.now ≤ s.clock.now + offset ∧ u.mem = s.mem ∧
        (s.isMaster = true → u.clock.unsync = s.clock.unsync ∧ u.clock.good = s.clock.good) ∧
        (s.isMaster = false → u.clock.good = (if offset < 16 then s.clock.good + 1 else 0) ∧
          (s.clock.unsync = false → (u.clock.unsync = true ↔ 32 < offset) ∧ (32 < offset → u.coh.leases = [])) ∧
          (s.clock.unsync = true → u.clock.good < 8 → u.clock.unsync = true) ∧
          (s.clock.unsync ≠ u.clock.unsync → ∃ r ∈ u.porter.recs, r.kind = 21 ∧ r.cls = 6))))

/-- R86 to R92, R94, R114 to R116, R218, R359 to R361, R428, R437, R438: directories, lease copies, what peer packages ask, node links, time. -/
def Obligations.CachesAndNode : Prop :=
  Sys2Proof.Claims.DirectoryRows ∧ Sys2Proof.Claims.PeerLines ∧ Sys2Proof.Claims.LinksAndTime

/-! ### Errors of storage, removal of units, power, heat and reset -/

/-- The state apart from the Porter's records and the free values drawn. -/
def Sys2Proof.Claims.unrecorded (s : State) : State :=
  { s with porter := { s.porter with recs := [], nrecs := 0, ce := [], ue := [] }, clock := { s.clock with free := 0 } }

/-- An uncorrectable error poisons the sector of a place, and changes no byte. -/
def Sys2Proof.Claims.Poisons (s : State) (x : EccSite) (p : Place) : Prop :=
  ∃ u, exec (.softErrorDetect x false) s = .next u ∧ u.isPoison p = true ∧ ∀ q, u.rawByte q = s.rawByte q

/-- Soft errors and scrubs (R400 to R402, R404, R426, R427, R431, R440, R442). -/
def Sys2Proof.Claims.SoftErrors : Prop :=
  (∀ (s : State) (x : EccSite), ∃ u, exec (.softErrorDetect x true) s = .next u ∧ Sys2Proof.Claims.unrecorded u = Sys2Proof.Claims.unrecorded s ∧ u.porter.ue = s.porter.ue) ∧
  (∀ (s : State) (gk : Nat) (g : Group), s.group? gk = some g →
    (g.st ≠ .running → ∃ u g', exec (.softErrorDetect (.regfile gk) false) s = .next u ∧ u.group? gk = some g' ∧ g'.st = .parked ∧ g'.event = 8) ∧
    (g.st = .running → g.txend = none → g.exited ≠ 0xFFFFFFFF → ∃ u g', exec (.softErrorDetect (.regfile gk) false) s = .next u ∧
      u.group? gk = some g' ∧ (g'.ops = [] → g'.st = .parked ∧ g'.event = 8) ∧ (g'.ops ≠ [] → g'.st = .running ∧ g'.stopEv = some 8)) ∧
    (g.st = .running → g.txend.isSome = true → ∃ u, exec (.softErrorDetect (.regfile gk) false) s = .next u ∧ u.group? gk = some { g with stopEv := some 8 })) ∧
  (∀ (s : State) (c sec : Nat),
    Sys2Proof.Claims.Poisons s (.space c false sec) (.aspc c (64 * sec)) ∧ Sys2Proof.Claims.Poisons s (.space c true sec) (.wspc c (64 * sec)) ∧ Sys2Proof.Claims.Poisons s (.dram sec) (.glob (64 * sec)) ∧
    (s.l1 c sec = 3 ∨ s.l1 c sec = 4 → Sys2Proof.Claims.Poisons s (.l1 c sec) (.glob (64 * sec))) ∧
    ((s.dirEnt sec).state ≠ 3 → (s.dirEnt sec).state ≠ 4 → s.isPeer (64 * sec) = false → Sys2Proof.Claims.Poisons s (.l2 sec) (.glob (64 * sec))) ∧
    (∃ u, exec (.softErrorDetect (.tile c sec) false) s = .next u ∧ sec ∈ (u.core c).tpoison) ∧
    (∃ u, exec (.softErrorDetect (.tag c) false) s = .next u ∧
      Sys2Proof.Claims.unrecorded u = Sys2Proof.Claims.unrecorded (s.modCore c (fun k => { k with loops := [] }))) ∧
    (∀ n, ∃ u, exec (.softErrorDetect (.loop c n) false) s = .next u ∧
      Sys2Proof.Claims.unrecorded u = Sys2Proof.Claims.unrecorded (s.modCore c (fun k => { k with loops := kdel k.loops n }))) ∧
    (∀ n, ∃ u, exec (.softErrorDetect (.tlb c n) false) s = .next u ∧ kget u.tlbs c = (kget s.tlbs c).map (fun l => l.eraseIdx n) ∧
      (∀ j, j ≠ c → kget u.tlbs j = kget s.tlbs j) ∧ u.mem = s.mem) ∧
    (∀ n x, (s.l1Tags c)[n]? = some x → (∀ j, j < 4 → s.l1 c (4 * x.pline + j) < 3) → ∃ u, exec (.softErrorDetect (.l1Tag c n) false) s = .next u ∧
      x ∉ u.l1Tags c ∧ (∀ j, j < 4 → u.l1 c (4 * x.pline + j) = 0) ∧ u.mem = s.mem) ∧
    (s.l1 c sec = 1 ∨ s.l1 c sec = 2 → ∃ u, exec (.softErrorDetect (.l1 c sec) false) s = .next u ∧ u.l1 c sec = 0 ∧ u.mem = s.mem) ∧
    (sec < 2 ^ 46 → (s.dirEnt sec).state ≠ 5 → ∃ u, exec (.softErrorDetect (.dir sec) false) s = .next u ∧ (u.dirEnt sec).state = 0 ∧
      (∀ k, u.l1 k sec = 0) ∧ ((s.dirEnt sec).state ≠ 3 → (s.dirEnt sec).state ≠ 4 → u.mem = s.mem) ∧ ∃ r ∈ u.porter.recs, r.kind = 3 ∧ r.sev = 0 ∧ r.cls = 2) ∧
    (∃ u, exec (.softErrorDetect (.lease sec) false) s = .next u ∧ kget u.coh.leases sec = none ∧ u.mem = s.mem ∧
      ∃ r ∈ u.porter.recs, r.kind = 3 ∧ r.sev = 0 ∧ r.cls = 2)) ∧
  (∀ (s : State) (slice : Nat), ∃ u, exec (.softErrorDetect (.leaseBase slice) false) s = .next u ∧
    sget u.coh.base slice = BitVec.ofNat 64 (s.clock.now / 64 * 64) ∧ ∀ e ∈ u.coh.leases, s.homeSlice (64 * e.1) ≠ slice) ∧
  (∀ (s : State) (c n : Nat) (e : RlogEntry) (g : Group), (s.core c).rlog[n]? = some e → s.group? (c * 64 + e.gslot) = some g → g.intx.getLsbD e.lane = true →
    ∃ u, exec (.softErrorDetect (.rlog c n) false) s = .next u ∧ Sys2Proof.Claims.unrecorded u = Sys2Proof.Claims.unrecorded (s.abortLanes (c * 64 + e.gslot) [(e.lane, 10, 0)])) ∧
  (∀ (s : State) (c n : Nat) (e : TxSector) (g : Group), (s.core c).tsec[n]? = some e → s.group? (c * 64 + e.gslot) = some g → g.intx.getLsbD e.lane = true →
    ∃ u, exec (.softErrorDetect (.tsec c n) false) s = .next u ∧ Sys2Proof.Claims.unrecorded u = Sys2Proof.Claims.unrecorded (s.abortLanes (c * 64 + e.gslot) [(e.lane, 10, 0)])) ∧
  (∀ (s : State) (slice : Nat), ∃ u, exec (.softErrorDetect (.signature slice) false) s = .next u ∧
    Sys2Proof.Claims.unrecorded u = Sys2Proof.Claims.unrecorded (s.tix.slots.foldl (fun s e => s.abortHart e.2 10 0) s)) ∧
  (∀ (s : State) (c n p : Nat) (rec : BitVec 512), (s.cluster c).trace[n]? = some (p, rec) → isLoss rec = false →
    ∃ u l, exec (.softErrorDetect (.trace c n) false) s = .next u ∧ (p, l) ∈ (u.cluster c).trace ∧ isLoss l = true) ∧
  (∀ (s : State) (e : Nat), ((∀ k ∈ s.cores, ∀ x ∈ k.2.eq, x.unit ≠ some e) → ∃ u, exec (.softErrorDetect (.history e) false) s = .next u ∧ (9, e) ∈ u.porter.removed) ∧
    ((∃ k ∈ s.cores, ∃ x ∈ k.2.eq, x.unit = some e) → ∃ u, exec (.softErrorDetect (.history e) false) s = .next u ∧
      ∀ k ∈ u.cores, ∀ x ∈ k.2.eq, x.unit = some e → x.torn = true)) ∧
  (∀ (s : State) (sec : Nat), exec (.memoryScrub sec 0) s = .next s ∧
    (s.isGone (64 * sec) = false → s.isPeer (64 * sec) = false →
      (∃ u, exec (.memoryScrub sec 1) s = .next u ∧ Sys2Proof.Claims.unrecorded u = Sys2Proof.Claims.unrecorded s ∧ ∃ r ∈ u.porter.recs, r.kind = 2 ∧ r.part = none ∧ (r.cls = 3 ∨ r.cls = 4)) ∧
      ∃ u, exec (.memoryScrub sec 2) s = .next u ∧ u.isPoison (.glob (64 * sec)) = true ∧ ∃ r ∈ u.porter.recs, r.kind = 4 ∧ r.part = none ∧ (r.cls = 3 ∨ r.cls = 4)))

/-- Removal of units (R405, R443, R444). -/
def Sys2Proof.Claims.Removals : Prop :=
  (∀ (s : State) (c : Nat), c < 256 → (s.core c).gone = false → ∃ u, exec (.unitRemoval (.core c)) s = .next u ∧ (u.core c).gone = true ∧
    (∀ gk g, s.group? gk = some g → coreOf gk = c → g.st ≠ .running → ∃ g', u.group? gk = some g' ∧ g'.st = .parked ∧ g'.event = 9) ∧
    (∀ gk g, s.group? gk = some g → coreOf gk = c → g.st = .running → g.exited ≠ 0xFFFFFFFF →
      ∃ g', u.group? gk = some g' ∧ if g.txend = none ∧ g'.ops = [] then g'.st = .parked ∧ g'.event = 9 else g'.st = .running ∧ g'.stopEv = some 9) ∧
    (∀ gk, coreOf gk ≠ c → (u.group? gk).map (·.st) = (s.group? gk).map (·.st)) ∧ ∃ r ∈ u.porter.recs, r.kind = 6 ∧ r.sev = 3) ∧
  (∀ (s : State) (i : Nat), i < 32 → (∀ x ∈ s.porter.removed, x.1 ≠ 2) → ∃ u, exec (.unitRemoval (.slice i)) s = .next u ∧ (2, i) ∈ u.porter.removed ∧
    (∀ pa, u.homeSlice pa = if sliceOf pa = i then i ^^^ 1 else sliceOf pa) ∧ (Sys2Proof.Claims.NoOwner s → u.mem = s.mem)) ∧
  (∀ (s : State) (i : Nat), (i < 8 → ∃ u, exec (.unitRemoval (.stack i)) s = .next u ∧ ∀ pa, pkgOf pa = s.clock.pkgid → inHbm pa = true → stopOf pa = i → u.isGone pa = true) ∧
    (i < 16 → ∃ u, exec (.unitRemoval (.channel i)) s = .next u ∧ ∀ pa, pkgOf pa = s.clock.pkgid → inCap pa = true → bits pa 15 12 = i → u.isGone pa = true)) ∧
  (∀ (s : State) (i : Nat), i < 16 → (7, i) ∉ s.porter.removed → ∃ u, exec (.unitRemoval (.port i)) s = .next u ∧ (7, i) ∈ u.porter.removed ∧
    (∀ e ∈ u.parts, e.2.ports.getLsbD i = false) ∧ ∀ e ∈ u.rpc.sessions, e.2.port ≠ i) ∧
  (∀ (s : State) (i : Nat), i < 16 → (8, i) ∉ s.porter.removed → ∃ u, exec (.unitRemoval (.appCore i)) s = .next u ∧ u.hartRuns i = false ∧
    ∀ e ∈ u.parts, e.2.apps.getLsbD i = false) ∧
  (∀ (s : State) (i : Nat), i < 8 → ∃ u, exec (.unitRemoval (.decomp i)) s = .next u ∧ (9, i) ∈ u.porter.removed) ∧
  (∀ (s : State) (i : Nat) (b : Bool), i < 8 → (s.cluster i).removed = false → ∃ u, exec (.unitRemoval (.cluster i b)) s = .next u ∧
    (u.cluster i).removed = true ∧ (∀ c, c < 256 → clusterOf c = i → (u.core c).gone = true) ∧
    (b = true → ∀ pa, pkgOf pa = s.clock.pkgid → inHbm pa = true → stopOf pa = i → u.isGone pa = true)) ∧
  (∀ (s : State) (i : Nat), s.hottestCluster = some i → i < 8 ∧ (s.cluster i).removed = false ∧
    (∀ j, j < 8 → (s.cluster j).removed = false → (kget s.porter.temps j).getD 0 ≤ (kget s.porter.temps i).getD 0) ∧
    ∃ u, exec .coolantFlowLoss s = .next u ∧ (u.cluster i).removed = true ∧ (∀ c, c < 256 → clusterOf c = i → (u.core c).gone = true) ∧ ∃ r ∈ u.porter.recs, r.kind = 28)

/-- Power, heat and gating (R16, R17, R443). That the raising steps have no spacing is the model's choice (log 84). -/
def Sys2Proof.Claims.PowerAndHeat : Prop :=
  (∀ (s : State) (die temp : Nat), let w := s.setPorter { s.porter with temps := kset s.porter.temps die temp }
    let top := w.hottest
    ∃ u, exec (.thermalSample die temp) s = .next u ∧
      (top < 95 → u.porter.mhz = s.porter.mhz ∧ u.porter.hot = false) ∧
      (95 ≤ top → top < 105 → u.porter.mhz = max 1300 (s.porter.mhz - 100) ∧ u.porter.hot = true) ∧
      (105 ≤ top → top < 125 → u.porter.mhz = 1300 ∧ u.porter.hot = true) ∧
      (115 ≤ top → top < 125 → u.porter.hotAt = some (s.porter.hotAt.getD s.clock.now)) ∧
      (top < 125 → u.porter.mhz ≠ s.porter.mhz → ∃ r ∈ u.porter.recs, r.kind = 28) ∧
      (125 ≤ top → u = (w.heatRecord 3 top).packageReset)) ∧
  (∀ (s : State) (t : Nat), s.porter.hotAt = some t → s.porter.mhz = 1300 → t + 10000000 ≤ s.clock.now →
    ∃ u, exec .thermalHoldExpiry s = .next u ∧ exec .coolantFlowLoss (s.setPorter { s.porter with hotAt := none }) = .next u) ∧
  (∀ (s : State) (watts : Nat), ∃ u, exec (.powerCapExceeded watts) s = .next u ∧
    u.porter.mhz = (if s.porter.cap < watts then max 1300 (s.porter.mhz - 100) else s.porter.mhz) ∧ (u.porter.above = true ↔ s.porter.cap ≤ watts) ∧
    { u with porter := s.porter } = s) ∧
  (∀ (s : State), s.porter.above = false → s.porter.hot = false → s.porter.powerAt + 1000000 ≤ s.clock.now → s.porter.coolAt + 1000000 ≤ s.clock.now →
    s.porter.mhz < 2600 → ∃ u, exec .clockRaiseTimer s = .next u ∧ u.porter.mhz = min 2600 (s.porter.mhz + 100)) ∧
  (∀ (s : State), s.porter.above = true ∨ s.porter.hot = true ∨ 2600 ≤ s.porter.mhz → exec .clockRaiseTimer s = .next s) ∧
  (∀ (s : State) (c : Nat), (s.cluster c).gateReq = true → (s.cluster c).trace = [] ∨ s.clusterBound c = true →
    ∃ u, exec (.clusterPowerGate c) s = .next u ∧ (u.cluster c).gated = !s.clusterBound c ∧ (u.cluster c).gateReq = false ∧ ∀ x ∈ u.rpc.waiting, ¬(x.req.opcode = 0x0011 ∧ x.dbg = c))

/-- Reset, and power failures (R94, R114, R294, R445, R446). -/
def Sys2Proof.Claims.PackageResets : Prop :=
  (∀ (s : State), ∃ u, exec .packageReset s = .next u ∧ u.groups = [] ∧ u.teams = [] ∧ u.parts = [] ∧ u.harts = [] ∧ u.rpc.sessions = [] ∧ u.tix = State.reset.tix ∧
    u.dbg = State.reset.dbg ∧ u.coh = State.reset.coh ∧ u.porter.ce = [] ∧ u.porter.ue = [] ∧ (∀ r ∈ u.porter.recs, r.kind = 6 ∨ r.kind = 30) ∧
    u.porter.cap = 2800 ∧ u.porter.vc1 = 3 ∧ u.porter.vc2 = 1 ∧ u.clock.winLen = 512 ∧ u.clock.now = s.clock.now ∧ u.clock.pkgid = s.clock.pkgid ∧
    u.porter.image = s.porter.image ∧ (∀ x ∈ s.porter.removed, x ∈ u.porter.removed) ∧
    (u.porter.recovery = true ↔ s.porter.torn = true ∨ Config.firmwareVerifies s.porter.image = false) ∧
    (u.porter.recovery = true → ∃ r ∈ u.porter.recs, r.kind = 30)) ∧
  (∀ s : State, exec (.powerFailure none) s = exec .packageReset s) ∧
  (∀ (s : State) (r : Rpc), r.num 3 = 1 → (∀ x ∈ s.imageBad r, x.1 = false) → Config.firmwareVerifies (s.imageWith r) = true →
    ∃ u, exec (.powerFailure (some r)) s = .next u ∧ u.porter.recovery = true ∧ u.parts = [])

/-- R16, R17, R400 to R402, R405, R426, R427, R431, R440, R442 to R446: errors of storage, removal of units, heat, power and reset. Which
cluster's memory stop goes with a cluster removed for heat is free, and what package reset keeps is the model's reading. -/
def Obligations.PorterActions : Prop :=
  Sys2Proof.Claims.SoftErrors ∧ Sys2Proof.Claims.Removals ∧ Sys2Proof.Claims.PowerAndHeat ∧ Sys2Proof.Claims.PackageResets

/-! ### Firefly, trace buffers, swaps and undo windows -/

/-- R347, R348, R371, R372, R374, R381, R382: tagged issues and their records, trace buffers, the exchange of a swap, and the advance of undo windows. -/
def Obligations.TraceSwapAndWindows : Prop :=
  (∀ (s : State) (core sched : Nat), sched < 4 →
    (sget (s.core core).fireGap sched = 0 → sched ∉ (s.core core).fireArm → ∃ u, exec (.fireflyTag core sched) s = .next u ∧ sched ∈ (u.core core).fireArm ∧
      1 ≤ (sget (u.core core).fireGap sched).toNat ∧ (sget (u.core core).fireGap sched).toNat ≤ 8191 ∧ u.groups = s.groups ∧ u.mem = s.mem) ∧
    (sget (s.core core).fireGap sched ≠ 0 → exec (.fireflyTag core sched) s = .next s)) ∧
  (∀ (s : State) (core sched : Nat) (t : FireTag), (s.core core).fireTag.find? (fun t => slotOf t.gk / 16 == sched && s.tagDone t) = some t →
    ∃ u rec, exec (.fireflyRecord core sched) s = .next u ∧ (u.cluster (clusterOf core)).trace.getLast? = some (fld t.data 381 376, rec) ∧
      (fld t.data 239 237 = 0 → t.lvl < 8 → fld rec 239 237 = t.lvl) ∧ fld rec 511 320 = fld t.data 511 320 ∧ fld rec 191 184 = fld t.data 191 184 ∧ (t.cancel = true → rec.getLsbD 236 = true) ∧
      (u.core core).fireTag = (s.core core).fireTag.erase t) ∧
  (∀ (s : State) (c part : Nat) (rec : BitVec 512) (p : Part) (ring : Ring), (s.cluster c).trace = [(part, rec)] → s.part? part = some p → p.tring = some ring →
    let left := fun (u : State) (l : List (Nat × BitVec 512)) => (u.modCluster c (fun x => { x with trace := l })).traceDrained
    (∀ w, s.ringPost part ring 8 false (fun _ => rec) = .posted w → exec (.traceBufferDrain c) s = .next (left (w.lossNote part rec) [])) ∧
    (∀ w, s.ringPost part ring 8 false (fun _ => rec) = .full w →
      exec (.traceBufferDrain c) s = .next (left (((w.lossNote part rec).modPart part (fun p => { p with drop := p.drop + 1 })).writeDrop part) [])) ∧
    (∀ w, s.ringPost part ring 8 false (fun _ => rec) = .unmapped w → exec (.traceBufferDrain c) s = .next (left w [(part, rec)]))) ∧
  (∀ (s : State) (part other c : Nat) (p : Part), s.part? part = some p → p.swapOut = some other → other ≠ part →
    let w := s.swapStop part
    p.cores.filter (fun c => !p.outCores.contains c && w.swapReady part c) = [c] →
    ∃ u, exec (.partitionSwapExchange part) s = .next u ∧
      (∀ gk g, w.group? gk = some g → g.part = part → coreOf gk = c → ∃ x ∈ u.inn.swapped, x.gk = gk ∧ x.grp = g ∧ x.shadow = true) ∧
      ∀ gk g, u.group? gk = some g → coreOf gk = c → g.part ≠ part) ∧
  (∀ (s : State) (part other : Nat) (p q : Part), s.part? part = some p → p.swapOut = some other →
    let w := s.swapStop part
    w.part? part = some q → p.cores.filter (fun c => !p.outCores.contains c && w.swapReady part c) = [] →
    p.cores.filter (fun c => !q.outCores.contains c) ≠ [] → exec (.partitionSwapExchange part) s = .next w) ∧
  (∀ (s : State) (part : Nat) (l : UndoLog), s.log? part = some l → l.on = true → l.autoReq = true →
    exec (.logAutoAdvance part) s = .next (s.beginHalt (s.sessionParts part))) ∧
  (∀ (s : State) (parts : List Nat), parts ≠ [] → (∀ p ∈ parts, ∃ x, s.part? p = some x ∧ x.halted = false) →
    let u := s.beginHalt parts
    (∀ p ∈ parts, ∃ x, u.part? p = some x ∧ x.halted = true) ∧
    (∀ gk g, s.group? gk = some g → g.part ∈ parts → g.st = .running → g.exited ≠ 0xFFFFFFFF → g.stopEv = none →
      ∃ g', u.group? gk = some g' ∧ if g.txend = none ∧ g'.ops = [] then g'.st = .parked ∧ g'.event = 4 else g'.st = .running ∧ g'.stopEv = some 4) ∧
    ((s.groups.map (·.1)).Nodup → ∀ gk g, s.group? gk = some g → g.part ∉ parts → g.watch.armed = false → u.group? gk = some g)) ∧
  (∀ (s : State) (part : Nat) (p : Part), s.part? part = some p → p.halted = true →
    (s.commandsOf (s.sessionParts part) ≠ [] ∨ s.stopping (s.sessionParts part) = true → exec (.windowAdvanceSnapshot part) s = .next s) ∧
    (s.commandsOf (s.sessionParts part) = [] → s.stopping (s.sessionParts part) = false → (∀ d, s.debugger? part = some d → d.2.rev = none ∧ d.2.solo = none) →
      exec (.windowAdvanceSnapshot part) s = .next (s.finishAdvance (s.sessionParts part)))) ∧
  (∀ (s : State) (part : Nat) (num : BitVec 32) (l : UndoLog) (w : State), s.log? part = some l → l.full = false →
    let b := s.snapBytes part
    let n := alignUp b.1.length 16
    let l' := l.roomWindow n
    l'.fitsWindow n = true →
    (b.2.dropDirs part l l').hwPuts part (l'.spread l'.tail (b.1 ++ List.replicate (n - b.1.length) 0) (n / 16)) = some w → (w.part? part).isSome = true →
    ∃ x, (s.beginWindow part num).log? part = some x ∧ x.tail = l'.tail + n ∧ x.wins = l'.wins ++ [{ num := num, snapOff := l'.tail, recOff := l'.tail + n }] ∧
      x.snaps.head? = some (s.snapshot part num))

/-! ### Sessions, host accesses and harts -/

/-- Sessions and replies (R351 to R354, R356, R398, R436). -/
def Sys2Proof.Claims.SessionsAndReplies : Prop :=
  (∀ (s : State) (n port : Nat) (gid : BitVec 128), kget s.rpc.sessions n = none → port < 16 → (7, port) ∉ s.porter.removed → s.begun n = false →
    (s.porter.recovery = true → port = 0 ∧ gid ∈ Config.fuseGids) →
    exec (.rpcSessionOpen n gid port) s = .next (s.setRpc { s.rpc with sessions := kset s.rpc.sessions n { gid := gid, port := port } })) ∧
  (∀ (s : State) (n : Nat) (x : Session), kget s.rpc.sessions n = some x →
    exec (.rpcSendOversize n) s = .next (s.setRpc { s.rpc with sessions := kset s.rpc.sessions n { x with err := true } })) ∧
  (∀ (s : State) (n : Nat), ∃ u, exec (.rpcSessionLoss n) s = .next u ∧ kget u.rpc.sessions n = none ∧ u.rpc.replies = s.rpc.replies ∧
    (∀ k, k ≠ n → kget u.rpc.sessions k = kget s.rpc.sessions k) ∧ u.rpc.waiting = s.rpc.waiting) ∧
  (∀ (s : State) (r : Rpc) (code : Nat) (detail : BitVec 64) (res : List (BitVec 64)) (x : Session), kget s.rpc.sessions r.session = some x → code < 256 → res.length < 510 →
    (x.err = true → s.reply r code detail res = s) ∧
    (x.err = false → ∃ y, (s.reply r code detail res).rpc.replies = s.rpc.replies ++ [y] ∧ y.session = r.session ∧ y.body = detail :: res ∧ fld y.hdr 127 48 = fld r.hdr 127 48 ∧
      fld y.hdr 47 36 = 8 * (res.length + 1) ∧ fld y.hdr 31 24 = code ∧ y.hdr.getLsbD 16 = true ∧ fld y.hdr 5 0 = r.part ∧ fld y.hdr 35 32 = 1 ∧
      fld y.hdr 15 6 = 0 ∧ fld y.hdr 23 17 = 0 ∧ kget (s.reply r code detail res).rpc.sessions r.session = some { x with err := code != 0 })) ∧
  (∀ (s : State) (r : Rpc) (code n : Nat), n < 4096 → s.refuse r code (some n) = s.reply r code (BitVec.ofNat 64 (8 * n)) [] ∧
    s.refuse r code (some (atByte n)) = s.reply r code (BitVec.ofNat 64 n) [] ∧ s.refuse r code none = s.reply r code (BitVec.allOnes 64) []) ∧
  (∀ (s : State) (r : Rpc) (code : Nat) (detail : BitVec 64) (res : List (BitVec 64)), kget s.rpc.sessions r.session = none → s.reply r code detail res = s) ∧
  (∀ (s : State) (r : Rpc) (l : List Ground) (run : State → State), s.porter.recovery = false →
    ((∀ x ∈ l, x.1 = false) → s.judge r l run = run s) ∧
    (∀ x ∈ l, x.1 = true → (∀ y ∈ l, y.1 = true → y = x) → s.judge r l run = s.refuse r x.2.1 x.2.2) ∧
    ((∃ x ∈ l, x.1 = true) → ∃ x ∈ l, ∃ k, x.1 = true ∧
      (∀ y ∈ l, y.1 = true → y.2.1 = x.2.1 → ∀ n, y.2.2 = some n → ∃ m, x.2.2 = some m ∧ fieldOffset m ≤ fieldOffset n) ∧ s.judge r l run = (s.setClock { s.clock with free := k }).refuse r x.2.1 x.2.2)) ∧
  (∀ (s : State) (r : Rpc) (l : List Ground) (run : State → State), s.porter.recovery = true → ¬(r.opcode = 0x0011 ∧ fld (r.slot 0) 15 0 = 8) →
    s.judge r l run = s.refuse r 5) ∧
  (∀ (s : State) (r : Rpc), s.porter.recovery = false → r.opcode ≠ 0x000A → exec (.badopRequest r) s = .next (s.refuse r 1 (if r.opcode ∈ [0x0B, 0x0C, 0x0D, 0x11] then some 0 else none)))

/-- Host RDMA (R358). -/
def Sys2Proof.Claims.HostRdma : Prop :=
  (∀ (s : State) (rkey : BitVec 32) (va : BitVec 64) (n : Nat) (part : Nat) (g : Region), s.regionOf rkey = some (part, g) → g.base ≤ va.toNat → va.toNat + n ≤ g.base + g.len →
    (g.bits.getLsbD 0 = true →
      let sp := s.spans (ioTlb 1) 0 part .engRead (.glob va) (chunks va.toNat n)
      sp.page = none → sp.viol = false →
      let x := sp.s.readSpans part sp.ok
      exec (.rdmaRead rkey va n) s = .next (if x.1.any (·.2) then x.2.rdmaAnswer 2 [] else x.2.rdmaAnswer 0 (x.1.map (·.1)))) ∧
    (∀ data : List (BitVec 8), data.length = n → g.bits.getLsbD 1 = true → (∀ p, s.part? part = some p → p.halted = false) → (∀ l, s.log? part = some l → l.full = false) →
      let sp := s.spans (ioTlb 1) 0 part .engWrite (.glob va) (chunks va.toNat n)
      sp.page = none → sp.viol = false → (∀ x ∈ sp.ok, ∀ pa, s.behindWindow x.1 = .glob pa → s.logHeld pa = false) →
      exec (.rdmaWrite rkey va data) s = .next ((sp.s.writeSpans { part := part, kind := 3, va := some va.toNat } sp.ok ((chunks va.toNat n).map (·.1)) (data.map (fun b => (b, false)))).rdmaAnswer 0 [])) ∧
    (∀ (cas : Bool) (x y : BitVec 64) (q : Place) (k : Nat) (t : List (Place × Nat)), n = 8 → va.toNat % 8 = 0 → g.bits.getLsbD 2 = true →
      (∀ p, s.part? part = some p → p.halted = false) → (∀ l, s.log? part = some l → l.full = false) →
      let sp := s.spans (ioTlb 1) 0 part .engWrite (.glob va) (chunks va.toNat 8)
      sp.page = none → sp.viol = false → (∀ x ∈ sp.ok, ∀ pa, s.behindWindow x.1 = .glob pa → s.logHeld pa = false) → sp.ok = (q, k) :: t →
      let a := sp.s.atomicAt { part := part, kind := 3, va := some va.toNat } q (if cas then .cas else .add) .n64 x.toNat y.toNat
      a.2.2.1 = false → exec (.rdmaAtomic rkey va cas x y) s = .next (a.2.2.2.rdmaAnswer 0 (toBytes 8 a.1)))) ∧
  (∀ (s : State) (rkey : BitVec 32) (va x y : BitVec 64) (n : Nat) (data : List (BitVec 8)) (cas : Bool), s.regionOf rkey = none →
    exec (.rdmaRead rkey va n) s = .next (s.rdmaAnswer 1 []) ∧ exec (.rdmaWrite rkey va data) s = .next (s.rdmaAnswer 1 []) ∧
    exec (.rdmaAtomic rkey va cas x y) s = .next (s.rdmaAnswer 1 [])) ∧
  (∀ (s : State) (n : Nat) (data : List (BitVec 8)), (s.rdmaAnswer n data).rpc.rdmaOut = s.rpc.rdmaOut ++ [(n, data)])

/-- Accesses and interrupts of harts (R98, R117, R225, R258, R259, R340, R341, R421). Which register enables and delegates an interrupt is
RISC-V's (PRESUMED, log 54), and that an Ostler's private-region stores are buffered in a transaction is DEDUCED (log 85). -/
def Sys2Proof.Claims.HartAccesses : Prop :=
  (∀ (s w : State) (a : HartAcc) (pa : Nat), let h := a.hart
    let k := s.hart h
    k.ckpt = none → k.ending = none → (∀ q ∈ s.tix.reqs, q.who ≠ .hart h) → a.va.toNat % a.size = 0 →
    k.wild (hartAcc a.op) a.va.toNat = false → s.hartXlate h (hartAcc a.op) a.va.toNat = (.ok pa, w) → w.privAt h pa = none → inPriv pa = false →
    w.logHeld pa = false → (w.hartPart k (hartAcc a.op) < 64 → w.tagBad (w.hartPart k (hartAcc a.op)) pa = false) →
    let part := w.hartPart (w.hart h) (hartAcc a.op)
    let by_ := w.hartWriter h (w.hart h) 0 (some a.va.toNat)
    (a.op = .load → a.aq = false → let v := (w.touchTag part pa).loadEffects none none pa
      v.loadPoison (.glob pa) a.size = false → exec (.rv64MemoryAccess a) s = .next (v.hartDone a (some (extLoad a (ofBytes (v.loadValue (.glob pa) a.size)))))) ∧
    (a.op = .lr → a.aq = false → let v := (w.touchTag part pa).atHome none (w.locate pa)
      v.anyPoison (w.locate pa) a.size = false → exec (.rv64MemoryAccess a) s =
        .next ((v.modHart h (fun k => { k with resv := some (pa / 64) })).hartDone a (some (extLoad a (ofBytes (v.readBytes (w.locate pa) a.size)))))) ∧
    (a.op = .store → a.aq = false → exec (.rv64MemoryAccess a) s = .next (((w.write by_ none (.glob pa) (toBytes a.size ((w.hart h).src a).toNat)).modHart h (fun k =>
      { k with sentPeer := k.sentPeer || w.isPeer pa, relWin := if w.isPeer pa = true then none else k.relWin })).hartDone a none)) ∧
    (a.op = .sc → a.aq = false → a.rl = false → (w.hart h).resv ≠ some (pa / 64) → ∃ u, exec (.rv64MemoryAccess a) s = .next u ∧ u.mem = w.mem ∧
      (u.hart h).resv = none ∧ (a.fp = false → a.rd.toNat ≠ 0 → (u.hart h).reg a.rd.toNat = 1) ∧ (u.hart h).pc = (w.hart h).pc + (if a.comp then 2 else 4)) ∧
    (a.op = .sc → a.aq = false → a.rl = false → (w.hart h).resv = some (pa / 64) → ∃ u v, exec (.rv64MemoryAccess a) s = .next u ∧
      v = (w.atHome none (w.locate pa)).write by_ none (.glob pa) (toBytes a.size ((w.hart h).src a).toNat) ∧
      u.mem = v.mem ∧ (u.hart h).resv = none ∧ (a.fp = false → a.rd.toNat ≠ 0 → (u.hart h).reg a.rd.toNat = 0)) ∧
    (∀ op, a.op = .amo op → a.aq = false → a.rl = false →
      let x := w.atomicAt by_ (.glob pa) op (amoType a.size op a.uns) ((w.hart h).reg a.rs.toNat).toNat 0
      x.2.2.1 = false → ∃ u : State, u.mem = (x.2.2.2.touchTag part pa).mem ∧
        exec (.rv64MemoryAccess a) s = .next (u.hartDone a (some (extLoad { a with sext := true } x.1))))) ∧
  (∀ (s w : State) (a : HartAcc) (pa core : Nat), let k := s.hart a.hart
    k.ckpt.isSome = true → k.ending = none → (∀ q ∈ s.tix.reqs, q.who ≠ .hart a.hart) → a.op = .store → a.va.toNat % a.size = 0 → k.wild .store a.va.toNat = false →
    s.hartXlate a.hart .store a.va.toNat = (.ok pa, w) → w.privAt a.hart pa = some core → k.bufFull pa = false →
    exec (.rv64MemoryAccess a) s = .next ((w.modHart a.hart (fun k => k.buffer a.va.toNat pa a.size (k.src a).toNat)).hartDone a none)) ∧
  (∀ (s : State) (a : HartAcc) (r b n : Bool), a.op = .fence r b n → (s.hart a.hart).ending = none → (∀ q ∈ s.tix.reqs, q.who ≠ .hart a.hart) →
    (s.hart a.hart).ckpt.isSome = true ∨ b = false ∨ (s.hart a.hart).sentPeer = false → exec (.rv64MemoryAccess a) s = .next (s.hartDone a none)) ∧
  (∀ (s : State) (a : HartAcc) (r n : Bool), let k := s.hart a.hart
    a.op = .fence r true n → k.ending = none → (∀ q ∈ s.tix.reqs, q.who ≠ .hart a.hart) → k.ckpt = none → k.sentPeer = true →
    let done := ((if n then s.leaseAcquire else s).setHart a.hart { k with relWin := none, sentPeer := false }).hartDone a none
    (∀ m, k.relWin = some m → s.holdOver m = false → exec (.rv64MemoryAccess a) s = .next s) ∧
    (∀ m, k.relWin = some m → s.holdOver m = true → exec (.rv64MemoryAccess a) s = .next done) ∧
    (k.relWin = none → s.clock.unsync = true → exec (.rv64MemoryAccess a) s = .next done) ∧
    (k.relWin = none → s.clock.unsync = false → exec (.rv64MemoryAccess a) s = .next (s.setHart a.hart { k with relWin := some s.window }))) ∧
  (∀ (s : State) (a : HartAcc), let k := s.hart a.hart
    k.ending = none → (∀ q ∈ s.tix.reqs, q.who ≠ .hart a.hart) → (k.ckpt = none ∨ a.op = .load ∨ a.op = .store) → (∀ r b n, a.op ≠ .fence r b n) →
    a.va.toNat % a.size = 0 → k.wild (hartAcc a.op) a.va.toNat = true →
    exec (.rv64MemoryAccess a) s = .next (s.hartTrap a.hart (if a.op = .load ∨ a.op = .lr then 5 else if a.op = .fetch then 1 else 7) a.va)) ∧
  (∀ (s : State) (a : HartAcc), (s.hart a.hart).ckpt = none → (s.hart a.hart).ending = none → (∀ q ∈ s.tix.reqs, q.who ≠ .hart a.hart) → a.va.toNat % a.size ≠ 0 →
    (∀ r b n, a.op ≠ .fence r b n) → a.op ≠ .fetch →
    exec (.rv64MemoryAccess a) s = .next (s.hartTrap a.hart (if a.op = .load ∨ a.op = .lr then 4 else 6) a.va)) ∧
  (∀ (s : State) (a : HartAcc), (s.hart a.hart).ckpt.isSome = true → (s.hart a.hart).ending = none → (∀ q ∈ s.tix.reqs, q.who ≠ .hart a.hart) →
    (∀ r b n, a.op ≠ .fence r b n) → a.op ≠ .load → a.op ≠ .store → a.op ≠ .fetch → exec (.rv64MemoryAccess a) s = .next (s.abortHart a.hart 6 0)) ∧
  (∀ (s : State) (h : Nat), let k := s.hart h
    (16 ≤ h → k.mier = 0x800 → k.mideleg = 0 → (k.mode ≠ .m ∨ k.mie = true) →
      exec (.hartInterrupt h) s = .next (if (s.core (h - 16)).evHead ≠ (s.core (h - 16)).evTail ∨ (s.core (h - 16)).reqHead ≠ (s.core (h - 16)).reqTail ∨ (s.core (h - 16)).mapDone = true ∨
        k.mipr.getLsbD 11 = true then s.hartTrap h 0x800000000000000B 0 else s)) ∧
    (∀ p, h < 16 → k.part = some p → k.mier = 0x200 → (if k.mideleg.getLsbD 9 then k.mode = .u ∨ (k.mode = .s ∧ k.sie = true) else k.mode ≠ .m ∨ k.mie = true) →
      exec (.hartInterrupt h) s = .next (if s.seip p = true ∨ k.mipr.getLsbD 9 = true then s.hartTrap h 0x8000000000000009 0 else s)) ∧
    (k.mier = 0 → exec (.hartInterrupt h) s = .next s) ∧
    (k.mode = .m → k.mie = false → exec (.hartInterrupt h) s = .next s))

/-- R98, R117, R225, R340, R351 to R354, R356, R358, R398, R421, R436, R446: sessions and their replies, host RDMA, and the accesses and
interrupts of harts. -/
def Obligations.SessionsAndHosts : Prop :=
  Sys2Proof.Claims.SessionsAndReplies ∧ Sys2Proof.Claims.HostRdma ∧ Sys2Proof.Claims.HartAccesses

/-! ### Requests -/

/-- A request as R352 lays it out, with a body of `n` slots, outside recovery. -/
structure Sys2Proof.Claims.WellMade (s : State) (r : Rpc) (n : Nat) : Prop where
  version : fld r.hdr 35 32 = 1
  request : r.hdr.getLsbD 16 = false
  reserved : fld r.hdr 31 24 = 0 ∧ fld r.hdr 23 17 = 0 ∧ fld r.hdr 15 6 = 0
  slots : r.body.length = n
  len : r.len = 8 * n
  normal : s.porter.recovery = false

/-- Such a request on a partition, from a session that may act on it (R351). -/
structure Sys2Proof.Claims.ByOwner (s : State) (r : Rpc) (n : Nat) (p : Part) : Prop extends Sys2Proof.Claims.WellMade s r n where
  part : s.part? r.part = some p
  class_ : s.isAdmin r = true ∨ s.gidOf r ∈ p.owners

/-- A sub-operation of DEBUG, TRACE or REPLAY. -/
structure Sys2Proof.Claims.BySub (s : State) (r : Rpc) (n : Nat) (p : Part) : Prop extends Sys2Proof.Claims.ByOwner s r n p where
  sub : fld (r.slot 0) 63 16 = 0

/-- A sub-operation of DEBUG on a partition of a debug session. -/
structure Sys2Proof.Claims.InSession (s : State) (r : Rpc) (n : Nat) (p : Part) (k : Nat) (d : DbgSession) : Prop extends Sys2Proof.Claims.BySub s r n p where
  session : s.debugger? r.part = some (k, d)

/-- A request of MGMT (R357). -/
structure Sys2Proof.Claims.ByAdmin (s : State) (r : Rpc) (n : Nat) : Prop extends Sys2Proof.Claims.WellMade s r n where
  class_ : s.isAdmin r = true
  sub : fld (r.slot 0) 63 16 = 0

/-- Partitions, images, exposed memory, queues and queries. That the rings under a root of the service's own are not tested is the
model's choice (log 87), and so are grounds of IMAGE beyond those of R171 (log 84). -/
def Sys2Proof.Claims.PartitionRequests : Prop :=
  (∀ (s : State) (r : Rpc) (tag root : Nat) (x y : State), WellMade s r 34 → s.isAdmin r = true → (∀ g ∈ s.createBad r, g.1 = false) →
    s.freshNum 64 (s.parts.map (·.1)) = (some tag, x) →
    (if r.num 16 = 0 then x.newFrame 0x400000 = (some root, y) else root = r.num 16 ∧ y = x) →
    let p := s.newPart r root
    let a := (y.setPart tag p).reach tag (ringSpan p.fring).1 (ringSpan p.fring).2 .innWrite
    (r.num 16 ≠ 0 → a.1 = true ∧ ∀ g, p.sring = some g → (a.2.reach tag (ringSpan g).1 (ringSpan g).2 .innWrite).1 = true) →
    tag < 64 ∧ s.part? tag = none ∧
    (∃ v : State, exec (.partCreate r) s = .next (v.ok r [BitVec.ofNat 64 tag, BitVec.ofNat 64 root]) ∧ v.part? tag = some p ∧
      ∀ h, h < 16 → p.apps.getLsbD h = true → (v.hart h).part = some tag) ∧
    ∀ c ∈ createCores r, ∃ l, kget p.slots c = some l ∧ l.length = r.num 12 ∧ ∀ t ∈ l, t < 16 ∧ t ∉ s.slotsTaken c) ∧
  (∀ (s : State) (r : Rpc) (p : Part), WellMade s r 0 → s.isAdmin r = true → s.part? r.part = some p → p.swapOut = none →
    (∀ e ∈ s.parts, e.2.swapOut ≠ some r.part) → (∀ x ∈ s.dbg.replays, x.tag = r.part → x.done_ = true) → p.dying = none →
    exec (.partDestroy r) s = .next (s.startDestroy r.part r) ∧
    (s.commandsOf [r.part] = [] → (∀ e ∈ s.parts, e.2.dying = none) → let u := s.startDestroy r.part r
      u.part? r.part = none ∧ (∀ gk g, u.group? gk = some g → g.part ≠ r.part) ∧ ∀ tk t, u.team? tk = some t → t.part ≠ r.part)) ∧
  (∀ (s w : State) (r : Rpc) (p : Part) (img : List (BitVec 8)), ByOwner s r 2 p → r.num 0 < 2 ^ 56 → r.num 1 ≠ 0 → r.num 0 + r.num 1 ≤ 2 ^ 56 → p.dying = none → p.images.length < 65536 →
    s.fetchBytes r.part (r.num 0) (r.num 1) = (some img, w) →
    (∀ im h x, 0x18 ≤ img.length → imgNum img 0x10 8 / 512 = 0 → parseImage img (r.num 0) = some im → w.freshNum 65536 (p.images.map (·.1)) = (some h, x) →
      let bytes := (img.drop (imgNum img 0x18 8)).take (imgNum img 0x20 8)
      let a := x.newVa p.root ((bytes.length + 0xFFFF) / 0x10000)
      (∀ y, a.2.mapBytes r.part p.root a.1 bytes false = some y →
        ∃ (v : State) (q : Part), exec (.imageLoad r) s = .next (v.ok r [BitVec.ofNat 64 h, BitVec.ofNat 64 a.1]) ∧ kget p.images h = none ∧
          v.part? r.part = some q ∧ kget q.images h = some { im with const := a.1 }) ∧
      (a.2.mapBytes r.part p.root a.1 bytes false = none → exec (.imageLoad r) s = .next (s.refuse r 6))) ∧
    (0x18 ≤ img.length → imgNum img 0x10 8 / 512 ≠ 0 → exec (.imageLoad r) s = .next (s.refuse r 9)) ∧
    (0x18 ≤ img.length → imgNum img 0x10 8 / 512 = 0 → parseImage img (r.num 0) = none → exec (.imageLoad r) s = .next (s.refuse r 8))) ∧
  (∀ (s w : State) (r : Rpc) (p : Part), ByOwner s r 2 p → r.num 0 < 2 ^ 56 → r.num 1 ≠ 0 → r.num 0 + r.num 1 ≤ 2 ^ 56 → p.dying = none → p.images.length < 65536 →
    s.fetchBytes r.part (r.num 0) (r.num 1) = (none, w) → exec (.imageLoad r) s = .next (s.refuse r 10 (some 0))) ∧
  (∀ (s : State) (r : Rpc) (p : Part) (im : Image), ByOwner s r 1 p → kget p.images (r.num 0) = some im →
    (s.imageBusy r.part (r.num 0) p = false →
      ∃ v : State, exec (.imageUnload r) s = .next (v.ok r []) ∧ v.part? r.part = some { p with images := kdel p.images (r.num 0) } ∧
        v.mem = s.mem ∧ v.groups = s.groups ∧ ∀ c, ∀ e ∈ (v.core c).loops, ¬(e.2.1 = r.part ∧ e.2.2.1 = r.num 0)) ∧
    (∀ v, im.vars.head? = some v → v.ngrp = 1 → v.pool = 0 → v.tiles = 0 → v.metas = 0 → p.resident = none → p.dying = none →
      exec (.residentStart r) s = .next ((s.startResident r.part (r.num 0)).ok r []) ∧
      ∀ c t n w, p.slots = [(c, [t])] → (s.core c).gone = false → s.freeSlot? c = some n → v.wps.head? = some w →
        (s.startResident r.part (r.num 0)).group? (c * 64 + n) = some (newGroup r.part (r.num 0) 0 .lodge 1 0 t w.offs))) ∧
  (∀ (s : State) (r : Rpc) (p : Part), ByOwner s r 3 p → r.num 0 % 0x10000 = 0 → r.num 0 < 2 ^ 56 → r.num 1 % 0x10000 = 0 → 0 < r.num 1 → r.num 1 ≤ 2 ^ 40 → r.num 2 < 8 →
    p.exposed.length < 256 → (s.parts.flatMap (fun e => e.2.exposed)).length < 2 ^ 32 →
    ∃ (v : State) (n : Nat) (key : BitVec 32) (q : Part), exec (.memExpose r) s = .next (v.ok r [BitVec.ofNat 64 n, key.zeroExtend 64]) ∧ n < 256 ∧ kget p.exposed n = none ∧
      (∀ e ∈ s.parts, ∀ y ∈ e.2.exposed, y.2.rkey ≠ key) ∧ v.part? r.part = some q ∧
      kget q.exposed n = some { base := r.num 0, len := r.num 1, bits := BitVec.ofNat 3 (r.num 2), rkey := key }) ∧
  (∀ (s : State) (r : Rpc) (p : Part), ByOwner s r 1 p →
    ((kget p.exposed (r.num 0)).isSome = true →
      exec (.memUnexpose r) s = .next ((s.modPart r.part (fun p => { p with exposed := kdel p.exposed (r.num 0) })).ok r [])) ∧
    (∀ q, kget p.queues (r.num 0) = some q → q.head = q.tail → exec (.queueDestroy r) s = .next (((s.modPart r.part (fun p => { p with queues := kdel p.queues (r.num 0) })).setInn
      { s.inn with press := s.inn.press.filter (fun x => !(x.part == r.part && x.queue == r.num 0)) }).ok r [])) ∧
    exec (.queryPartitionState r) s = .next (s.ok r (Config.replyLayout (0x000A0000 + r.num 0) ([r.part, p.prio, p.root, p.quota, p.apps.toNat, p.ports.toNat, p.unlogged,
      p.resident.getD (2 ^ 16)] ++ p.cores ++ p.images.map (·.1) ++ p.queues.map (·.1) ++ s.absent))) ∧
    exec (.queryQueueIndices r) s = .next (s.ok r (Config.replyLayout (0x000A0000 + r.num 0) (p.queues.flatMap (fun e => [e.1, e.2.head, e.2.place, e.2.tail])))) ∧
    (∃ l, exec (.queryErrorCounters r) s = .next (s.ok r (Config.replyLayout (0x000A0000 + r.num 0) l)) ∧ l.take 3 = [p.poisoned, p.markers, p.streams] ∧
      (∀ e ∈ s.porter.ce ++ s.porter.ue, e.2.toNat ∈ l) ∧ ∀ x ∈ s.porter.recs, s.isAdmin r = true ∨ x.part = some r.part → x.word.toNat ∈ l) ∧
    (s.isAdmin r = true → exec (.querySpareStatus r) s = .next (s.ok r (Config.replyLayout (0x000A0000 + r.num 0) (s.porter.off.flatMap (fun e => e.1 :: e.2)))))) ∧
  (∀ (s : State) (r : Rpc) (p : Part), ByOwner s r 6 p → r.num 0 < 64 → kget p.queues (r.num 0) = none → r.num 1 % 4096 = 0 → r.num 1 < 2 ^ 56 → 4 ≤ r.num 2 → r.num 2 ≤ 16 →
    (∀ i, i = 3 ∨ i = 4 → r.num i % 64 = 0 ∧ r.num i < 2 ^ 56 ∧ (r.num i < r.num 1 ∨ r.num 1 + 128 * 2 ^ r.num 2 ≤ r.num i)) → r.num 3 ≠ r.num 4 → r.num 5 < 8 → p.dying = none →
    let a := s.reach r.part (r.num 1) 1 .innRead
    let b := a.2.reach r.part (r.num 3) 1 .innWrite
    let c := b.2.reach r.part (r.num 4) 1 .innRead
    a.1 = true → b.1 = true → c.1 = true → exec (.queueCreate r) s = .next (((c.2.setQueue r.part (r.num 0)
      { ring := r.num 1, log2 := r.num 2, headLine := r.num 3, tailLine := r.num 4, prio := r.num 5 }).headLine r.part (r.num 0)).ok r [])) ∧
  (∀ (s : State) (r : Rpc) (p q : Part), WellMade s r 1 → s.isAdmin r = true → s.part? r.part = some p → s.part? (r.num 0) = some q → r.num 0 ≠ r.part → q.cores = p.cores →
    (∀ e ∈ s.parts, e.2.swapOut = none) → p.swapOut = none → q.swapOut = none → p.outCores = [] → p.dying = none → q.dying = none → p.halted = false → q.halted = false →
    let w := (s.modPart r.part (fun p => { p with swapOut := some (r.num 0) })).swapStop r.part
    exec (.swap r) s = .next ((w.setRpc { w.rpc with waiting := w.rpc.waiting ++ [{ req := r }] }).swapStep r.part))

/-- An entry of the peer or storage table as a request sets it: the request's, but for the local QPN, which no queue pair of another
partition has (R11). -/
def Sys2Proof.Claims.TableSet (stor : Bool) (mk : Rpc → Instr) (table : Part → KMap (BitVec 512)) (size : Nat) : Prop :=
  ∀ (s : State) (r : Rpc) (p : Part), ByOwner s r (2 + 8 * r.num 1) p → r.num 0 < size → r.num 0 + r.num 1 ≤ size →
    (∀ k, k < r.num 1 → (∀ g ∈ tabBad p.ports stor r k, g.1 = false) ∧ s.tabBusy r.part stor (r.num 0 + k) = false) →
    (s.draw.1.getLsbD 0 = false ∨ ∀ k, k < r.num 1 → (tabEntry r k).getLsbD 0 = false) →
    ∃ (v : State) (l : List (BitVec 64)) (q : Part), exec (mk r) s = .next (v.ok r l) ∧ l.length = r.num 1 ∧ v.part? r.part = some q ∧
      ∀ k, k < r.num 1 → kget (table q) (r.num 0 + k) = some (setFld (tabEntry r k) 336 24 (l.getD k 0).toNat) ∧
        (s.usedQpns.length + r.num 1 < 2 ^ 24 → ∀ e ∈ s.parts, e.1 ≠ r.part → ∀ x ∈ e.2.peers ++ e.2.stor, fld x.2 359 336 ≠ (l.getD k 0).toNat)

/-- MGMT (R16, R17, R94, R114, R351, R357, R361, R404, R445, R446). From when the time below a new power cap counts is the model's
choice (log 84). -/
def Sys2Proof.Claims.Management : Prop :=
  (∀ (s : State) (r : Rpc), ByAdmin s r 2 →
    (1000 ≤ r.num 1 → r.num 1 ≤ 2800 → r.num 1 % 50 = 0 →
      let above := decide (r.num 1 ≤ s.porter.watts)
      let at_ := if r.num 1 < s.porter.cap ∨ (s.porter.above = true ∧ above = false) then s.clock.now else s.porter.powerAt
      exec (.mgmtPowercap r) s = .next ((s.setPorter { s.porter with cap := r.num 1, above := above, powerAt := at_ }).ok r [r.slot 1])) ∧
    (r.num 1 ∈ [256, 512, 1024, 2048, 4096] → s.parts = [] → s.clock.present.toNat = 2 ^ s.clock.pkgid →
      exec (.mgmtWindow r) s = .next ((s.setClock { s.clock with winLen := r.num 1, free := s.clock.free + 1 }).ok r []))) ∧
  (∀ (s : State) (r : Rpc), ByAdmin s r 3 →
    (r.num 1 < 8 → r.num 2 = 0 → (∀ e ∈ s.parts, ∀ c ∈ e.2.cores, clusterOf c ≠ r.num 1) →
      ((s.cluster (r.num 1)).trace = [] → exec (.mgmtGate r) s = .next ((s.modCluster (r.num 1) (fun x => { x with gated := true, gateReq := false })).ok r [])) ∧
      ((s.cluster (r.num 1)).trace ≠ [] → ∃ u, exec (.mgmtGate r) s = .next u ∧ (u.cluster (r.num 1)).gateReq = true ∧ u.rpc.waiting = s.rpc.waiting ++ [{ req := r, dbg := r.num 1 }])) ∧
    (r.num 1 < 8 → r.num 2 = 1 → exec (.mgmtUngate r) s = .next ((s.modCluster (r.num 1) (fun x => { x with gated := false })).ok r [])) ∧
    (1 ≤ r.num 1 → r.num 1 ≤ 15 → 1 ≤ r.num 2 → r.num 2 ≤ 15 → exec (.mgmtVcweight r) s = .next ((s.setPorter { s.porter with vc1 := r.num 1, vc2 := r.num 2 }).ok r []))) ∧
  (∀ (s : State) (r : Rpc), ByAdmin s r 4 → let gid := BitVec.ofNat 128 (r.wide 2 2)
    (r.num 1 = 0 → gid ∉ s.porter.admins → s.porter.admins.length < 16 → exec (.mgmtAdminlistAdd r) s = .next ((s.setPorter { s.porter with admins := s.porter.admins ++ [gid] }).ok r
      [BitVec.ofNat 64 (s.porter.admins.length + 1)])) ∧
    (r.num 1 = 1 → gid ≠ s.gidOf r → ∃ l, exec (.mgmtAdminlistRemove r) s = .next ((s.setPorter { s.porter with admins := l }).ok r [BitVec.ofNat 64 l.length]) ∧
      ∀ g, g ∈ l ↔ g ∈ s.porter.admins ∧ g ≠ gid) ∧
    (r.num 1 ≤ 1 → r.num 3 ≤ 255 → exec (.mgmtGrandmaster r) s = .next ((s.setClock { s.clock with fabric := if r.num 1 = 1 then some (r.slot 2, r.num 3) else none }).ok r [])) ∧
    (r.num 1 ≤ 11 ∨ r.num 1 = 15 → r.num 2 ≤ 0xFFFF → r.num 3 ≤ 1 → ∃ v : State, exec (.mgmtClearcnt r) s = .next (v.ok r []) ∧
      (∀ k, let hit := (r.num 1 = 15 ∨ k / 65536 = r.num 1) ∧ (r.num 2 = 0xFFFF ∨ k % 65536 = r.num 2)
        (hit → sget v.porter.ce k = 0 ∧ sget v.porter.ue k = 0) ∧ (¬hit → sget v.porter.ce k = sget s.porter.ce k ∧ sget v.porter.ue k = sget s.porter.ue k)) ∧
      (r.num 3 = 1 → ∀ e ∈ v.parts, e.2.poisoned = 0 ∧ e.2.markers = 0 ∧ e.2.streams = 0) ∧ (r.num 3 = 0 → v.parts = s.parts))) ∧
  (∀ (s : State) (r : Rpc), ByAdmin s r (4 + r.num 2 / 8) → r.num 1 % 8 = 0 → 8 ≤ r.num 2 → r.num 2 ≤ 4048 → r.num 2 % 8 = 0 → r.num 1 = 0 ∨ r.num 1 = s.porter.staged.length →
    let all := s.imageWith r
    (r.num 3 = 0 → exec (.mgmtImage r) s = .next ((s.setPorter { s.porter with staged := all }).ok r [BitVec.ofNat 64 all.length])) ∧
    (r.num 3 = 1 → Config.firmwareVerifies all = true → ∃ v : State, exec (.mgmtImage r) s = .next (v.ok r [BitVec.ofNat 64 all.length]) ∧
      v.porter.image = all ∧ v.porter.staged = [] ∧ v.porter.torn = false) ∧
    (r.num 3 = 1 → Config.firmwareVerifies all = false → ∃ v : State, exec (.mgmtImage r) s = .next (v.refuse r 8) ∧ v.porter.image = s.porter.image))

/-- R13, R14, R16, R17, R44, R47, R48, R94, R114, R165, R171, R220, R347, R351 to R358, R361 to R363, R404, R445: the requests on partitions, images, exposed
memory, queues, tables and the package. -/
def Obligations.Requests : Prop :=
  Sys2Proof.Claims.PartitionRequests ∧ TableSet false .peerSet Part.peers 4096 ∧ TableSet true .storageSet Part.stor 64 ∧ Sys2Proof.Claims.Management

/-! ### Requests of DEBUG, TRACE and REPLAY -/

/-- Sessions, logs, halts and steps (R365, R366, R371, R375 to R377). -/
def Sys2Proof.Claims.DebugControl : Prop :=
  (∀ (s : State) (r : Rpc) (p : Part), 2 ≤ r.body.length → r.body.length ≤ 9 → BySub s r r.body.length p →
    let tags := ((List.range (r.body.length - 1)).map (fun i => r.num (i + 1))).dedup
    (∀ t ∈ tags, ∃ q, s.part? t = some q ∧ q.session = none ∧ (s.isAdmin r = true ∨ s.gidOf r ∈ q.owners)) →
    ∃ (v : State) (k : Nat), exec (.debugAttach r) s = .next (v.ok r []) ∧ kget s.dbg.sessions k = none ∧ kget v.dbg.sessions k = some { parts := tags } ∧
      ∀ t ∈ tags, ∃ q, v.part? t = some q ∧ q.session = some k) ∧
  (∀ (s : State) (r : Rpc) (p : Part) (k : Nat) (d : DbgSession), InSession s r 1 p k d →
    (s.moving d = false → (d.solo = none → d.want = false → ∃ v : State, exec (.debugDetach r) s = .next (v.ok r []) ∧ kget v.dbg.sessions k = none ∧ ∀ t ∈ d.parts, ∀ q, v.part? t = some q → q.session = none) ∧
      (∀ l, p.log = some l →
        exec (.debugLogOn r) s = .next ((s.logStart r.part).ok r []) ∧
        exec (.debugLogOff r) s = .next ((((s.setLog r.part { l with on := false, full := false }).releaseHeld r.part).logHeader r.part).ok r [])) ∧
      (∃ v : State, exec (.debugResume r) s = .next (v.ok r []) ∧ kget v.dbg.sessions k = some { d with halted := false, want := false } ∧
        (∀ gk g, s.group? gk = some g → g.part ∈ d.parts → g.st ≠ .running → g.event ≠ 1 → s.featOk g = true → ∃ g', v.group? gk = some g' ∧ g'.st = .running) ∧
        ((s.groups.map (·.1)).Nodup → ∀ gk g, s.group? gk = some g → g.part ∉ d.parts → (v.group? gk).map Group.unrung = some g.unrung))) ∧
    (exec (.debugHalt r) s = .next ((((s.haltParts d.parts none).setSession k { d with want := true }).await { req := r, dbg := k }).haltDone r.part)) ∧
    (∀ gk g, s.group? gk = some g → (s.haltParts d.parts none).group? gk = some (if g.part ∈ d.parts ∧ (g.st = .running ∨ g.event = 1) then { g with haltReq := some 7 } else g)) ∧
    (d.rev = none → exec (.debugAdvance r) s = .next ((s.await { req := r, dbg := k }).beginHalt d.parts))) ∧
  (∀ (s w : State) (r : Rpc) (p : Part) (k pa : Nat) (d : DbgSession), InSession s r 5 p k d → r.num 1 % 0x10000 = 0 → r.num 1 + r.num 2 ≤ 2 ^ 56 → r.num 2 % 0x10000 = 0 →
    2 ^ 20 ≤ r.num 2 → r.num 2 ≤ 2 ^ 36 → p.worstSnapshot ≤ r.num 2 - 0x21000 → r.num 3 ≤ 1 → r.num 4 = 0 ∨ 10 ≤ r.num 4 ∧ r.num 4 ≤ 30 → s.moving d = false →
    s.vaOf r.part (r.num 1) = (some pa, w) → pkgOf pa = w.clock.pkgid → p.log = none →
    ∃ v : State, exec (.debugLogSetup r) s = .next (v.ok r []) ∧ v.log? r.part = some { base := r.num 1, size := r.num 2, policy := r.num 3, auto := r.num 4 }) ∧
  (∀ (s : State) (r : Rpc) (p : Part) (k : Nat) (d : DbgSession), InSession s r 2 p k d → d.rev = none → r.num 1 < 2 ^ 32 →
    (∀ t ∈ d.parts, (∃ q, s.part? t = some q ∧ q.scratch = true) ∨ ∃ l, s.log? t = some l ∧ ∃ x ∈ l.wins, x.num = BitVec.ofNat 32 (r.num 1)) →
    let w := ((s.setSession k { d with rev := some (BitVec.ofNat 32 (r.num 1)) }).await { req := r, dbg := k }).beginHalt d.parts
    exec (.debugReverse r) s = .next (if (w.commandsOf d.parts).isEmpty && !w.stopping d.parts then w.finishReverse k else w)) ∧
  (∀ (s : State) (part : Nat) (l : UndoLog) (x : UndoRec), Sys2Proof.Claims.NoOwner s → s.recordBad part l x.off = false → kget s.coh.winLines (x.sector / 4) = none → s.isPeer (64 * x.sector) = false →
    (∀ n, n < 64 → s.isGone (64 * x.sector + n) = false) →
    let u := s.unwrite part l x
    u.1 = false ∧ (∀ n, n < 64 → x.mask.getLsbD (n / 4) = true → (u.2.rawByte (.glob (64 * x.sector + n))).toNat = fld x.old (8 * n + 7) (8 * n)) ∧
      ∀ q, (∀ n, n < 64 → x.mask.getLsbD (n / 4) = true → q ≠ .glob (64 * x.sector + n)) → u.2.rawByte q = s.rawByte q) ∧
  (∀ (s : State) (r : Rpc) (p : Part) (k : Nat) (d : DbgSession) (g : Group), InSession s r 5 p k d → r.num 1 < 256 → r.num 2 < 64 → let gk := r.num 1 * 64 + r.num 2
    s.group? gk = some g → g.part ∈ d.parts → 1 ≤ r.num 3 → r.num 3 ≤ 65535 → 1000 ≤ r.num 4 → r.num 4 ≤ 10 ^ 9 → d.halted = true → s.moving d = false → d.solo = none →
    exec (.debugSolo r) s = .next ((((d.parts.foldl (fun (s : State) t => s.modPart t (fun p => { p with solo := true })) s).setSession k
      { d with solo := some (gk, r.num 3, s.clock.now + r.num 4) }).await { req := r, dbg := k, until_ := some (s.clock.now + r.num 4) }).resume gk 0xFFFF 0xFFFFFFFF true)) ∧
  (∀ (s : State) (n gk k lim : Nat) (d : DbgSession) (g : Group), kget s.dbg.sessions n = some d → d.solo = some (gk, k, lim) → lim ≤ s.clock.now → s.group? gk = some g → g.st = .running → g.exited ≠ 0xFFFFFFFF → g.stopEv = none →
    ∃ u g', exec (.soloTimeout n) s = .next u ∧ u.group? gk = some g' ∧ if g.txend.isSome = true then g' = { g with stopEv := some 7 }
      else if g'.ops = [] then g'.st = .halted ∧ g'.event = 7 else g'.st = .running ∧ g'.stopEv = some 7)

/-- Breakpoints, events and the group window (R342, R378 to R380). -/
def Sys2Proof.Claims.DebugAccess : Prop :=
  (∀ (s : State) (r : Rpc) (p : Part) (k : Nat) (d : DbgSession), InSession s r 7 p k d → r.num 1 < 64 → r.num 2 < 2 ^ 16 → r.num 3 ≤ 3 → r.num 4 < 2 ^ 16 → r.num 5 < 2 ^ 32 → r.num 6 ≤ 3 →
    exec (.debugBreakSet r) s = .next ((s.modPart r.part (fun p => { p with breaks := kset p.breaks (r.num 1) {
      image := r.num 2, var := r.num 3, ord := r.num 4, skip := r.num 5, enable := (r.slot 6).getLsbD 0, allstop := (r.slot 6).getLsbD 1 } })).ok r [])) ∧
  (∀ (s : State) (r : Rpc) (p : Part) (k : Nat) (d : DbgSession), InSession s r 2 p k d →
    (r.num 1 < 64 → ∃ (v : State) (q : Part), exec (.debugBreakClear r) s = .next (v.ok r []) ∧ v.part? r.part = some q ∧
      (∀ b, kget q.breaks (r.num 1) = some b → b.enable = false) ∧ ∀ n, n ≠ r.num 1 → kget q.breaks n = kget p.breaks n) ∧
    (∀ c core slot ord rest, r.num 1 ≤ 10 ^ 10 → d.events = (c, core, slot, ord) :: rest →
      exec (.debugWaitev r) s = .next ((s.setSession k { d with events := rest, lost := 0 }).ok r (eventResult c core slot ord d.lost))) ∧
    (r.num 1 ≤ 10 ^ 10 → d.events = [] → exec (.debugWaitev r) s = .next (s.await { req := r, dbg := k, until_ := some (s.clock.now + r.num 1) }))) ∧
  (∀ (s : State) (n : Nat) (w : Waiting), s.rpc.waiting.find? (fun w => w.isWaitev && w.dbg == n && decide ((w.until_.getD 0) ≤ s.clock.now)) = some w →
    ∃ (v : State) (core slot ord : Nat), exec (.waitevTimeout n) s = .next (v.ok w.req (eventResult 0 core slot ord (((kget s.dbg.sessions n).map (·.lost)).getD 0))) ∧
      v.rpc.waiting = s.rpc.waiting.erase w) ∧
  (∀ (s : State) (r : Rpc) (p : Part) (k m : Nat) (d : DbgSession) (g : Group), InSession s r m p k d → r.num 1 < 256 → r.num 2 < 64 → s.group? (r.num 1 * 64 + r.num 2) = some g →
    g.part ∈ d.parts → g.st ≠ .running → r.num 4 ≤ 4000 → r.num 3 + r.num 4 ≤ 0x10000 →
    (m = 5 → ∃ (v : State) (l : List (BitVec 64)), exec (.debugGread r) s = .next (v.ok r l) ∧ l.length = (r.num 4 + 7) / 8 ∧ v.groups = s.groups ∧
      ∀ j, j < r.num 4 → fld (l.getD (j / 8) 0) (8 * (j % 8) + 7) (8 * (j % 8)) = (s.winByte (r.num 1) (r.num 2) (r.num 3 + j)).toNat) ∧
    (m = 5 + (r.num 4 + 7) / 8 → let gk := r.num 1 * 64 + r.num 2
      let bs := ((r.body.drop 5).flatMap (fun x => toBytes 8 x.toNat)).take (r.num 4)
      let w := s.winWrite gk (r.num 3) bs
      exec (.debugGwrite r) s = .next ((if r.num 3 < 0x8708 ∧ 0x8700 < r.num 3 + r.num 4 then w.gctlWrite gk (r.num 3) bs else w).ok r [])))

/-- Tracing, capture and replay (R381 to R384). -/
def Sys2Proof.Claims.TraceAndReplay : Prop :=
  (∀ (s : State) (r : Rpc) (p : Part), BySub s r 3 p → r.num 1 % 64 = 0 → r.num 1 < 2 ^ 56 → 10 ≤ r.num 2 → r.num 2 ≤ 24 → let x : Ring := ⟨r.num 1, r.num 2⟩
    let a := s.reach r.part (ringSpan x).1 (ringSpan x).2 .innWrite
    a.1 = true → exec (.traceSetup r) s = .next (((((a.2.hwPut r.part x.base (toBytes 64 0)).getD a.2).modPart r.part (fun p => { p with tring := some x, drop := 0 })).retryPostings).ok r [])) ∧
  (∀ (s : State) (r : Rpc) (p : Part), BySub s r 2 p →
    (r.num 1 ≤ 1 → exec (.traceEnable r) s = .next ((s.modPart r.part (fun p => { p with fire := r.num 1 == 1 })).ok r [])) ∧
    (∀ x ∈ s.dbg.replays, x.orig = r.part → x.tag = r.num 1 → x.done_ = true → (∀ q, s.part? (r.num 1) = some q → q.dying = none) →
      exec (.replayRelease r) s = .next (s.startDestroy (r.num 1) r))) ∧
  (∀ (s : State) (r : Rpc) (p : Part), BySub s r 1 p →
    exec (.traceDrain r) s = .next ((s.await { req := r, recs := s.clusters.flatMap (fun c => c.2.trace.filter (fun e => e.1 == r.part)) }).traceDrained) ∧
    exec (.traceStatus r) s = .next (s.ok r (Config.replyLayout 0x000C0004 ([p.fire.toNat, p.drop, (s.clusters.flatMap (fun c => c.2.trace.filter (fun e => e.1 == r.part))).length] ++
      (match p.tring with | some x => [x.base, x.n] | none => [])))) ∧
    exec (.replayList r) s = .next (s.ok r (Config.replyLayout 0x000D0002 (p.captures.flatMap (fun c => [c.seqno, c.image, c.wiid.toNat, c.off]))))) ∧
  (∀ (s w : State) (r : Rpc) (p : Part) (pa : Nat), BySub s r 4 p → r.num 1 % 0x10000 = 0 → r.num 1 < 2 ^ 56 → 0 < r.num 2 → r.num 2 ≤ 2 ^ 36 → r.num 1 + r.num 2 ≤ 2 ^ 56 →
    64 ≤ r.num 3 → r.num 3 ≤ 65536 → r.num 3 % 64 = 0 → s.vaOf r.part (r.num 1) = (some pa, w) →
    exec (.replaySetup r) s = .next ((w.modPart r.part (fun p => { p with capture := some (r.num 1, r.num 2, r.num 3, 0), captures := [] })).ok r [])) ∧
  (∀ (s w : State) (r : Rpc) (p : Part) (c : Capture) (tag base n arglen m : Nat), ByOwner s r 7 p → (∀ g ∈ s.replayBad r p, g.1 = false) →
    p.capture = some (base, n, arglen, m) → p.captures[r.num 1]? = some c → s.freshNum 64 (s.parts.map (·.1)) = (some tag, w) →
    tag < 64 ∧ s.part? tag = none ∧
    (∀ v, w.replayMade r p tag c base arglen = some v → ∃ u x, exec (.replayRun r) s = .next u ∧ x ∈ u.dbg.replays ∧ x.orig = r.part ∧ x.tag = tag ∧ x.req = r ∧
      x.until_ = s.clock.now + r.num 6 ∧ x.done_ = false) ∧
    (w.replayMade r p tag c base arglen = none → exec (.replayRun r) s = .next (s.refuse r 6))) ∧
  (∀ (s : State) (n : Nat) (x : Replay), s.dbg.replays[n]? = some x → x.done_ = false → x.until_ ≤ s.clock.now → exec (.replayRunTimeout n) s = .next (s.replayEnd x 2 [])) ∧
  (∀ (s : State) (x : Replay) (status : Nat) (addr : List Nat), x ∈ s.dbg.replays → ∃ v : State, s.replayEnd x status addr = v.ok x.req (([x.tag, status] ++ addr).map (BitVec.ofNat 64)) ∧
    (∀ y ∈ v.dbg.replays, y = x → y.done_ = true) ∧ ∀ gk g, s.group? gk = some g → g.part = x.tag → g.exited ≠ 0xFFFFFFFF →
      ∃ g', v.group? gk = some g' ∧ (g'.st = .running → g.st = .running ∧ g'.stopEv.isSome = true ∧ (g'.txend.isSome = true ∨ g'.ops ≠ [])))

/-- R342, R354, R365, R366, R371, R375 to R384: the requests of DEBUG, TRACE and REPLAY, and their time limits. -/
def Obligations.DebugRequests : Prop :=
  Sys2Proof.Claims.DebugControl ∧ Sys2Proof.Claims.DebugAccess ∧ Sys2Proof.Claims.TraceAndReplay

/-! ### Words, steps, reset -/

/-- R141 to R157, R257: the words that the manual writes out decode to the instructions that it gives for them. -/
def Obligations.DecodeWords : Prop :=
  decode 0 0x0000000000000001 = .ok (.nop {} 8) 8 ∧
  decode 0 0x00FFFFC000000051 = .ok (.wait {} { disp := 0x00FFFFC0 }) 8 ∧
  decode 0 0xFFFFFFF80000001D = .ok (.jmp { w := true } { disp := 0xFFFFFFF8 }) 8 ∧
  decode 0 0x0000000000048011 = .ok (.brx {} { d := 9 }) 8 ∧
  decode 0 0x0000038000000091 = .ok (.rvwait {} { spec := 3, f := true }) 8 ∧
  decode 0 0x00070000000008D1 = .ok (.trap { g := 1 } { imm := 7 }) 8 ∧
  decode 0 (100 * 2 ^ 64 + 0x009200000382D202) = .ok (.vadd { g := 2, gn := true } { d := 5, a := 7, b := .imm32 100, t := .i32, sat := true }) 12 ∧
  decode 0 0x0001008A82040361 = .ok (.lprev {} { d := 8, a := 4, b := .bcast 21, c := 1 }) 8 ∧
  decode 0 (0x40 * 2 ^ 64 + 0x0298000005020482) = .ok (.ld {} { d := 4, a := 10, t := .n32, ord := .acq, scope := .cluster, disp := some 0x40 }) 12 ∧
  decode 0 0x004C0000000004C1 = .ok (.fence {} { t := .i8, ord := .sc, scope := .node }) 8 ∧
  decode 0 0x00000000000A04F9 = .ok (.txstat {} { d := 20 }) 8 ∧
  decode 0 0x94A2000006050501 = .ok (.mma {} { ta := .bf16, tb := .bf16, pairA := true, tile := 2, br := 12, ar := 10 }) 8 ∧
  decode 0 (0x0000010001518000 * 2 ^ 64 + 0x0080000003020583) =
    .ok (.copy {} { d := 4, a := 6, dsp := .ownA, arrive := some (3, .team), imm := some 256 }) 16 ∧
  decodeHart 0x0000050B = some (.txB 10) ∧ decodeHart 0x0000158B = some (.txE 11) ∧ decodeHart 0x0006200B = some (.txA 12) ∧ decodeHart 0x0000368B = some (.txS 13)

/-- R141 to R157, R257: decoding the word of a well-formed instruction gives it back, whatever follows the word, and a word that
decodes is the word of the instruction it gives. -/
def Obligations.DecodeEncodeAgree : Prop :=
  (∀ (i : Instr) (off x : Nat), i.wellFormed = true → 8 ≤ i.bytes → off % 32 + i.bytes ≤ 32 → decode off (encode i + 2 ^ (8 * i.bytes) * x) = .ok i i.bytes) ∧
  (∀ i : Instr, i.wellFormed = true → i.bytes = 4 → decodeHart (encode i) = some i) ∧
  (∀ (off w n : Nat) (i : Instr), decode off w = .ok i n → i.bytes = n ∧ encode i = w % 2 ^ (8 * n) ∧ off % 32 + n ≤ 32)

/-- The state after an instruction is read at the home of its line (R301), which takes the reader's tag (R15). -/
def Sys2Proof.Claims.fetchedAt (s : State) (part : Nat) (own : Option Nat) (pa : Nat) : State :=
  if (kget s.coh.winLines (pa / 256)).isSome = true then s else (s.touchTag part pa).homeRead own pa

/-- R15, R19, R24, R142, R260, R351: a step runs the instruction that the next turn decodes: that of the word at pc_min of a group or at the pc of a
hart, that of a request, or that of another agent; a scheduler's turn goes to its group that has waited longest. The order of the turns is the model's (log 3). -/
def Obligations.StepRunsDecoded : Prop :=
  ∀ (s : State) (rest : List Turn), let x := s.settleAll
    x.nextQueued [] x.rpc.queue = none →
    (∀ (turn gk pa n : Nat) (g : Group) (im : Image) (v : Variant) (i : Instr) (f : State), let u : State := { x with agenda := rest, cur := .group gk }
      let pc := g.pcMin g.eligible
      let w := if f.looped gk g pc = true then f else Sys2Proof.Claims.fetchedAt f g.part none pa
      let t : Stand := { g := g, pc := pc, act := g.lanesAt g.eligible pc, word := ofBytes (w.readBytes (w.locate pa) (min 16 (32 - pc % 32))), faults := [], csz := v.csz }
      x.agenda = .group turn :: rest → ({ x with agenda := rest } : State).pick exec turn = gk → u.mayIssue gk = true → u.group? gk = some g → g.st = .running → g.txend = none → g.stopEv = none → g.eligible ≠ 0 → g.arrived = none →
      u.image? g.part g.image = some im → u.gvar? g = some v → pc < v.csz →
      u.xlate (clusterOf (coreOf gk)) g.part .fetch ((im.base + v.code + pc) % 2 ^ 56) (coreOf gk) = (.ok pa, f) → f.tagBad g.part pa = false →
      decode pc t.word = .ok i n → g.dogPending = false → g.dogWaypoint = false → w.stopDue t = false → w.causesDue gk g (some t) = [] →
      step s = exec i w) ∧
    (∀ (h pa : Nat) (f : State), let u : State := { x with agenda := rest, cur := .hart h }
      let pc := (u.hart h).pc
      let part := f.hartPart (f.hart h) .xfetch
      let w := Sys2Proof.Claims.fetchedAt f part (f.hart h).slot pa
      let lo := ofBytes (w.readBytes (w.locate pa) 2)
      x.agenda = .hart h :: rest → u.hartRuns h = true → (u.hart h).wild .xfetch pc.toNat = false → u.hartXlate h .xfetch pc.toNat = (.ok pa, f) → (part < 64 → f.tagBad part pa = false) →
      w.anyPoison (w.locate pa) 2 = false →
      (lo % 4 ≠ 3 → step s = .next (w.hartBase h (BitVec.ofNat 32 lo))) ∧
      (∀ (qa : Nat) (y : State), let part := y.hartPart (y.hart h) .xfetch
        let z := Sys2Proof.Claims.fetchedAt y part (y.hart h).slot qa
        lo % 4 = 3 → (w.hart h).pc = pc → (w.hart h).wild .xfetch (pc + 2).toNat = false → w.hartXlate h .xfetch (pc + 2).toNat = (.ok qa, y) →
        (part < 64 → y.tagBad part qa = false) → z.anyPoison (z.locate qa) 2 = false →
        let word := lo + 2 ^ 16 * ofBytes (z.readBytes (z.locate qa) 2)
        (∀ i, decodeHart word = some i → step s = exec i z) ∧ (decodeHart word = none → step s = .next (z.hartBase h (BitVec.ofNat 32 word))))) ∧
    (∀ turn : Nat, let u : State := { x with agenda := rest }
      (∀ gk, u.issues exec turn = true → (u.waitedLonger turn).find? (u.issues exec) = some gk → u.pick exec turn = gk) ∧
      (u.issues exec turn = false ∨ (u.waitedLonger turn).find? (u.issues exec) = none → u.pick exec turn = turn)) ∧
    (∀ r : Rpc, let u : State := { x with agenda := rest, cur := .none }
      x.agenda = .rpc r :: rest → u.rpcLive r = true → u.rpcHeld r = false → x.rpc.queue = [] → step s = exec (rpcInstr r) u) ∧
    (∀ i : Instr, x.agenda = .event i :: rest → step s = exec i { x with agenda := rest, cur := .none }) ∧
    (∀ n : Nat, x.agenda = .elapse n :: rest → step s = .next { x with agenda := rest, cur := .none, clock := { x.clock with now := x.clock.now + n } })

/-- Every instruction answers a next state, in every state, and so does every step. -/
def Obligations.NothingStops : Prop :=
  (∀ (i : Instr) (s : State), ∃ t, exec i s = .next t) ∧ ∀ s : State, ∃ t, step s = .next t

/-- Every step keeps physical memory in its canonical form: addresses rise, and no listed byte is zero. -/
def Obligations.StepKeepsMemoryForm : Prop :=
  ∀ s t : State, Memory.wf s.mem.bytes = true → step s = .next t → Memory.wf t.mem.bytes = true

/-- R16, R94, R294, R357, R445: what stands after reset. Memory's canonical form holds there. -/
def Obligations.ResetLeaves : Prop :=
  Memory.wf State.reset.mem.bytes = true ∧ State.reset.groups = [] ∧ State.reset.teams = [] ∧ State.reset.parts = [] ∧ State.reset.rpc.sessions = [] ∧
  State.reset.porter.recs = [] ∧ State.reset.porter.ce = [] ∧ State.reset.porter.ue = [] ∧ State.reset.tix.next = 0 ∧ State.reset.tix.decided = 0 ∧ State.reset.tix.token = none ∧
  State.reset.porter.cap = 2800 ∧ State.reset.porter.vc1 = 3 ∧ State.reset.porter.vc2 = 1 ∧ State.reset.porter.removed = [] ∧ ∀ n, (State.reset.dirEnt n) = { state := 0, sharers := 0, owner := 0, watch := false }
end

