-- ==== Sys2Proof/Laws/Maps.lean ====
section
/-! SUPPORT. Laws of the finite maps: what a read gives after a write, and that every write keeps the canonical form. -/

namespace Sys2Proof

theorem kget_kset_same {α : Type} (m : KMap α) (k : Nat) (x : α) : kget (kset m k x) k = some x := by
  induction m with
  | nil => simp [kset, kget]
  | cons e r ih =>
    obtain ⟨a, y⟩ := e
    unfold kset
    split
    · rename_i h
      have : ¬ a = k := by omega
      simp [kget, this, ih]
    · split <;> simp [kget]

theorem kget_kset_ne {α : Type} (m : KMap α) {k j : Nat} (x : α) (h : j ≠ k) : kget (kset m k x) j = kget m j := by
  induction m with
  | nil => simp [kset, kget, Ne.symm h]
  | cons e r ih =>
    obtain ⟨a, y⟩ := e
    unfold kset
    split
    · simp only [kget, ih]
    · split
      · rename_i h1 h2
        subst h2
        simp [kget, Ne.symm h]
      · simp [kget, Ne.symm h]

theorem kget_kset {α : Type} (m : KMap α) (k j : Nat) (x : α) :
    kget (kset m k x) j = if j = k then some x else kget m j := by
  split
  · rename_i h; subst h; exact kget_kset_same m j x
  · rename_i h; exact kget_kset_ne m x h

theorem kget_kdel {α : Type} (m : KMap α) (k j : Nat) : kget (kdel m k) j = if j = k then none else kget m j := by
  induction m with
  | nil => simp [kdel, kget]
  | cons e r ih =>
    obtain ⟨a, y⟩ := e
    unfold kdel at ih ⊢
    by_cases h : a = k
    · subst h
      simp only [List.filter_cons, bne_self_eq_false, Bool.false_eq_true, if_false, ih, kget]
      by_cases hj : j = a
      · simp [hj]
      · simp [hj, Ne.symm hj]
    · simp only [List.filter_cons, bne_iff_ne, ne_eq, h, not_false_eq_true, if_true, kget, ih]
      by_cases hj : j = k
      · subst hj; simp [h]
      · simp [hj]

theorem sget_kget {w : Nat} (m : SMap w) (k : Nat) : sget m k = (kget m k).getD 0 := by
  induction m with
  | nil => rfl
  | cons e r ih =>
    obtain ⟨a, y⟩ := e
    simp only [sget, kget, ih]
    split <;> rfl

theorem sget_nil {w : Nat} (k : Nat) : sget ([] : SMap w) k = 0 := rfl

theorem sget_sset {w : Nat} (m : SMap w) (k j : Nat) (x : BitVec w) :
    sget (sset m k x) j = if j = k then x else sget m j := by
  unfold sset
  by_cases h : x = 0
  · subst h
    simp only [if_true, sget_kget, kget_kdel]
    split <;> simp
  · simp only [h, if_false, sget_kget, kget_kset]
    split <;> simp

theorem sget_sset_same {w : Nat} (m : SMap w) (k : Nat) (x : BitVec w) : sget (sset m k x) k = x := by
  simp [sget_sset]

theorem sget_sset_ne {w : Nat} (m : SMap w) {k j : Nat} (x : BitVec w) (h : j ≠ k) : sget (sset m k x) j = sget m j := by
  simp [sget_sset, h]

theorem ssets_nil {w : Nat} (m : SMap w) : ssets m [] = m := rfl
theorem ssets_cons {w : Nat} (m : SMap w) (e : Nat × BitVec w) (l : List (Nat × BitVec w)) :
    ssets m (e :: l) = ssets (sset m e.1 e.2) l := rfl

/-- A key that no write names keeps its value. -/
theorem sget_ssets_other {w : Nat} (l : List (Nat × BitVec w)) (m : SMap w) (k : Nat) (h : ∀ e ∈ l, e.1 ≠ k) :
    sget (ssets m l) k = sget m k := by
  induction l generalizing m with
  | nil => rfl
  | cons e r ih =>
    rw [ssets_cons, ih _ (fun x hx => h x (List.mem_cons_of_mem _ hx))]
    exact sget_sset_ne _ _ (Ne.symm (h e List.mem_cons_self))

/-- A key that every write of it gives one value holds that value. -/
theorem sget_ssets_mem {w : Nat} (l : List (Nat × BitVec w)) (m : SMap w) (k : Nat) (x : BitVec w)
    (hin : (k, x) ∈ l) (h : ∀ e ∈ l, e.1 = k → e.2 = x) : sget (ssets m l) k = x := by
  induction l generalizing m with
  | nil => cases hin
  | cons e r ih =>
    rw [ssets_cons]
    by_cases hr : ∃ e' ∈ r, e'.1 = k
    · obtain ⟨e', he', hk⟩ := hr
      have hx := h e' (List.mem_cons_of_mem _ he') hk
      have : (k, x) ∈ r := by
        obtain ⟨a, b⟩ := e'
        simp only at hk hx
        subst hk; subst hx; exact he'
      exact ih _ this (fun y hy => h y (List.mem_cons_of_mem _ hy))
    · have hne : ∀ e' ∈ r, e'.1 ≠ k := fun e' he' hk => hr ⟨e', he', hk⟩
      rw [sget_ssets_other r _ k hne]
      rcases List.mem_cons.mp hin with h1 | h1
      · subst h1; exact sget_sset_same _ _ _
      · exact absurd rfl (hne _ h1)

/-! ### Canonical form -/

theorem kset_keys {α : Type} (m : KMap α) (k : Nat) (x : α) {a : Nat} (h : a ∈ (kset m k x).map (·.1)) :
    a = k ∨ a ∈ m.map (·.1) := by
  induction m with
  | nil => simp [kset] at h; exact .inl h
  | cons e r ih =>
    obtain ⟨b, y⟩ := e
    unfold kset at h
    split at h
    · simp only [List.map_cons, List.mem_cons] at h ⊢
      rcases h with h | h
      · exact .inr (.inl h)
      · rcases ih h with h | h
        · exact .inl h
        · exact .inr (.inr h)
    · split at h
      · simp only [List.map_cons, List.mem_cons] at h ⊢
        rcases h with h | h
        · exact .inl h
        · exact .inr (.inr h)
      · simp only [List.map_cons, List.mem_cons] at h ⊢
        rcases h with h | h | h
        · exact .inl h
        · exact .inr (.inl h)
        · exact .inr (.inr h)

theorem kset_rising {α : Type} (m : KMap α) (k : Nat) (x : α) (h : (m.map (·.1)).Pairwise (· < ·)) :
    ((kset m k x).map (·.1)).Pairwise (· < ·) := by
  induction m with
  | nil => simp [kset]
  | cons e r ih =>
    obtain ⟨a, y⟩ := e
    rw [List.map_cons, List.pairwise_cons] at h
    unfold kset
    split
    · rename_i hlt
      rw [List.map_cons, List.pairwise_cons]
      refine ⟨fun b hb => ?_, ih h.2⟩
      rcases kset_keys r k x hb with hb | hb
      · subst hb; exact hlt
      · exact h.1 b hb
    · split
      · rename_i h1 h2
        subst h2
        rw [List.map_cons, List.pairwise_cons]
        exact ⟨h.1, h.2⟩
      · rename_i h1 h2
        rw [List.map_cons, List.pairwise_cons, List.map_cons, List.pairwise_cons]
        refine ⟨fun b hb => ?_, h.1, h.2⟩
        rcases List.mem_cons.mp hb with hb | hb
        · simp only at hb; omega
        · have := h.1 b hb; simp only at this; omega

theorem kdel_rising {α : Type} (m : KMap α) (k : Nat) (h : (m.map (·.1)).Pairwise (· < ·)) :
    ((kdel m k).map (·.1)).Pairwise (· < ·) := by
  rw [List.pairwise_map] at h ⊢
  exact List.Pairwise.filter _ h

theorem kset_vals {α : Type} (m : KMap α) (k : Nat) (x : α) {e : Nat × α} (h : e ∈ kset m k x) : e = (k, x) ∨ e ∈ m := by
  induction m with
  | nil => simp [kset] at h; exact .inl h
  | cons a r ih =>
    obtain ⟨b, y⟩ := a
    unfold kset at h
    split at h
    · rcases List.mem_cons.mp h with h | h
      · exact .inr (h ▸ List.mem_cons_self)
      · rcases ih h with h | h
        · exact .inl h
        · exact .inr (List.mem_cons_of_mem _ h)
    · split at h
      · rcases List.mem_cons.mp h with h | h
        · exact .inl h
        · exact .inr (List.mem_cons_of_mem _ h)
      · rcases List.mem_cons.mp h with h | h
        · exact .inl h
        · exact .inr h

theorem SMap.wf_iff {w : Nat} (m : SMap w) : SMap.wf m = true ↔ (m.map (·.1)).Pairwise (· < ·) ∧ ∀ e ∈ m, e.2 ≠ 0 := by
  simp [SMap.wf]

/-- Writing keeps the canonical form of a map of values. -/
theorem sset_wf {w : Nat} (m : SMap w) (k : Nat) (x : BitVec w) (h : SMap.wf m = true) : SMap.wf (sset m k x) = true := by
  rw [SMap.wf_iff] at h ⊢
  unfold sset
  by_cases hx : x = 0
  · simp only [hx, if_true]
    exact ⟨kdel_rising m k h.1, fun e he => h.2 e (List.mem_of_mem_filter he)⟩
  · simp only [hx, if_false]
    refine ⟨kset_rising m k x h.1, fun e he => ?_⟩
    rcases kset_vals m k x he with he | he
    · subst he; exact hx
    · exact h.2 e he

theorem ssets_wf {w : Nat} (l : List (Nat × BitVec w)) (m : SMap w) (h : SMap.wf m = true) : SMap.wf (ssets m l) = true := by
  induction l generalizing m with
  | nil => exact h
  | cons e r ih => exact ih _ (sset_wf m e.1 e.2 h)

theorem kset_wf {α : Type} (m : KMap α) (k : Nat) (x : α) (h : KMap.wf m = true) : KMap.wf (kset m k x) = true := by
  simp only [KMap.wf, decide_eq_true_eq] at h ⊢
  exact kset_rising m k x h

/-- Two canonical maps that read alike are equal. -/
theorem SMap.ext {w : Nat} (m n : SMap w) (hm : SMap.wf m = true) (hn : SMap.wf n = true)
    (h : ∀ k, sget m k = sget n k) : m = n := by
  induction m generalizing n with
  | nil =>
    cases n with
    | nil => rfl
    | cons e r =>
      obtain ⟨a, y⟩ := e
      have := h a
      simp only [sget, if_true] at this
      rw [SMap.wf_iff] at hn
      exact absurd this.symm (hn.2 (a, y) List.mem_cons_self)
  | cons e r ih =>
    obtain ⟨a, x⟩ := e
    rw [SMap.wf_iff] at hm
    cases n with
    | nil =>
      have := h a
      simp only [sget, if_true] at this
      exact absurd this (hm.2 (a, x) List.mem_cons_self)
    | cons f t =>
      obtain ⟨b, y⟩ := f
      rw [SMap.wf_iff] at hn
      have hx : x ≠ 0 := hm.2 _ List.mem_cons_self
      have hy : y ≠ 0 := hn.2 _ List.mem_cons_self
      rw [List.map_cons, List.pairwise_cons] at hm hn
      have low : ∀ (l : SMap w) (c : Nat), (∀ d ∈ l.map (·.1), c < d) → sget l c = 0 := by
        intro l c hl
        induction l with
        | nil => rfl
        | cons g u iu =>
          have h1 : ¬ g.1 = c := by have := hl g.1 (by simp); omega
          obtain ⟨g1, g2⟩ := g
          simp only [sget, h1, if_false]
          exact iu (fun d hd => hl d (List.mem_cons_of_mem _ hd))
      have hab : a = b := by
        rcases Nat.lt_trichotomy a b with hlt | heq | hgt
        · have := h a
          have hb : ¬ b = a := by omega
          simp only [sget, if_true, hb, if_false] at this
          rw [low t a (fun d hd => by have := hn.1.1 d hd; simp only at this; omega)] at this
          exact absurd this hx
        · exact heq
        · have := h b
          have ha : ¬ a = b := by omega
          simp only [sget, if_true, ha, if_false] at this
          rw [low r b (fun d hd => by have := hm.1.1 d hd; simp only at this; omega)] at this
          exact absurd this.symm hy
      subst hab
      have hxy : x = y := by have := h a; simpa [sget] using this
      subst hxy
      have : r = t := by
        refine ih t ?_ ?_ (fun k => ?_)
        · rw [SMap.wf_iff]; exact ⟨hm.1.2, fun e he => hm.2 e (List.mem_cons_of_mem _ he)⟩
        · rw [SMap.wf_iff]; exact ⟨hn.1.2, fun e he => hn.2 e (List.mem_cons_of_mem _ he)⟩
        · have := h k
          simp only [sget] at this
          by_cases hk : a = k
          · subst hk
            rw [low r a (fun d hd => by have := hm.1.1 d hd; simpa using this),
              low t a (fun d hd => by have := hn.1.1 d hd; simpa using this)]
          · simpa [hk] using this
      rw [this]

end Sys2Proof
end

