-- ==== Sys2Proof/Laws/State.lean ====
section
/-! SUPPORT. What each update of State leaves in each field, and what a read of a part gives after an update. -/

namespace Sys2Proof.Machine

/-! ### setCore -/

@[simp] theorem State.setCore_agenda (s : State) (c : Nat) (x : Core) : (s.setCore c x).agenda = s.agenda := rfl
@[simp] theorem State.setCore_cur (s : State) (c : Nat) (x : Core) : (s.setCore c x).cur = s.cur := rfl
@[simp] theorem State.setCore_clock (s : State) (c : Nat) (x : Core) : (s.setCore c x).clock = s.clock := rfl
@[simp] theorem State.setCore_mem (s : State) (c : Nat) (x : Core) : (s.setCore c x).mem = s.mem := rfl
@[simp] theorem State.setCore_coh (s : State) (c : Nat) (x : Core) : (s.setCore c x).coh = s.coh := rfl
@[simp] theorem State.setCore_tlbs (s : State) (c : Nat) (x : Core) : (s.setCore c x).tlbs = s.tlbs := rfl
@[simp] theorem State.setCore_groups (s : State) (c : Nat) (x : Core) : (s.setCore c x).groups = s.groups := rfl
@[simp] theorem State.setCore_teams (s : State) (c : Nat) (x : Core) : (s.setCore c x).teams = s.teams := rfl
@[simp] theorem State.setCore_cores (s : State) (c : Nat) (x : Core) : (s.setCore c x).cores = kset s.cores c x := rfl
@[simp] theorem State.setCore_clusters (s : State) (c : Nat) (x : Core) : (s.setCore c x).clusters = s.clusters := rfl
@[simp] theorem State.setCore_parts (s : State) (c : Nat) (x : Core) : (s.setCore c x).parts = s.parts := rfl
@[simp] theorem State.setCore_harts (s : State) (c : Nat) (x : Core) : (s.setCore c x).harts = s.harts := rfl
@[simp] theorem State.setCore_tix (s : State) (c : Nat) (x : Core) : (s.setCore c x).tix = s.tix := rfl
@[simp] theorem State.setCore_inn (s : State) (c : Nat) (x : Core) : (s.setCore c x).inn = s.inn := rfl
@[simp] theorem State.setCore_porter (s : State) (c : Nat) (x : Core) : (s.setCore c x).porter = s.porter := rfl
@[simp] theorem State.setCore_node (s : State) (c : Nat) (x : Core) : (s.setCore c x).node = s.node := rfl
@[simp] theorem State.setCore_rpc (s : State) (c : Nat) (x : Core) : (s.setCore c x).rpc = s.rpc := rfl
@[simp] theorem State.setCore_dbg (s : State) (c : Nat) (x : Core) : (s.setCore c x).dbg = s.dbg := rfl

/-! ### setGroup -/

@[simp] theorem State.setGroup_agenda (s : State) (k : Nat) (g : Group) : (s.setGroup k g).agenda = s.agenda := rfl
@[simp] theorem State.setGroup_cur (s : State) (k : Nat) (g : Group) : (s.setGroup k g).cur = s.cur := rfl
@[simp] theorem State.setGroup_clock (s : State) (k : Nat) (g : Group) : (s.setGroup k g).clock = s.clock := rfl
@[simp] theorem State.setGroup_mem (s : State) (k : Nat) (g : Group) : (s.setGroup k g).mem = s.mem := rfl
@[simp] theorem State.setGroup_coh (s : State) (k : Nat) (g : Group) : (s.setGroup k g).coh = s.coh := rfl
@[simp] theorem State.setGroup_tlbs (s : State) (k : Nat) (g : Group) : (s.setGroup k g).tlbs = s.tlbs := rfl
@[simp] theorem State.setGroup_groups (s : State) (k : Nat) (g : Group) : (s.setGroup k g).groups = kset s.groups k g := rfl
@[simp] theorem State.setGroup_teams (s : State) (k : Nat) (g : Group) : (s.setGroup k g).teams = s.teams := rfl
@[simp] theorem State.setGroup_cores (s : State) (k : Nat) (g : Group) : (s.setGroup k g).cores = s.cores := rfl
@[simp] theorem State.setGroup_clusters (s : State) (k : Nat) (g : Group) : (s.setGroup k g).clusters = s.clusters := rfl
@[simp] theorem State.setGroup_parts (s : State) (k : Nat) (g : Group) : (s.setGroup k g).parts = s.parts := rfl
@[simp] theorem State.setGroup_harts (s : State) (k : Nat) (g : Group) : (s.setGroup k g).harts = s.harts := rfl
@[simp] theorem State.setGroup_tix (s : State) (k : Nat) (g : Group) : (s.setGroup k g).tix = s.tix := rfl
@[simp] theorem State.setGroup_inn (s : State) (k : Nat) (g : Group) : (s.setGroup k g).inn = s.inn := rfl
@[simp] theorem State.setGroup_porter (s : State) (k : Nat) (g : Group) : (s.setGroup k g).porter = s.porter := rfl
@[simp] theorem State.setGroup_node (s : State) (k : Nat) (g : Group) : (s.setGroup k g).node = s.node := rfl
@[simp] theorem State.setGroup_rpc (s : State) (k : Nat) (g : Group) : (s.setGroup k g).rpc = s.rpc := rfl
@[simp] theorem State.setGroup_dbg (s : State) (k : Nat) (g : Group) : (s.setGroup k g).dbg = s.dbg := rfl

/-! ### delGroup -/

@[simp] theorem State.delGroup_agenda (s : State) (k : Nat) : (s.delGroup k).agenda = s.agenda := rfl
@[simp] theorem State.delGroup_cur (s : State) (k : Nat) : (s.delGroup k).cur = s.cur := rfl
@[simp] theorem State.delGroup_clock (s : State) (k : Nat) : (s.delGroup k).clock = s.clock := rfl
@[simp] theorem State.delGroup_mem (s : State) (k : Nat) : (s.delGroup k).mem = s.mem := rfl
@[simp] theorem State.delGroup_coh (s : State) (k : Nat) : (s.delGroup k).coh = s.coh := rfl
@[simp] theorem State.delGroup_tlbs (s : State) (k : Nat) : (s.delGroup k).tlbs = s.tlbs := rfl
@[simp] theorem State.delGroup_groups (s : State) (k : Nat) : (s.delGroup k).groups = kdel s.groups k := rfl
@[simp] theorem State.delGroup_teams (s : State) (k : Nat) : (s.delGroup k).teams = s.teams := rfl
@[simp] theorem State.delGroup_cores (s : State) (k : Nat) : (s.delGroup k).cores = s.cores := rfl
@[simp] theorem State.delGroup_clusters (s : State) (k : Nat) : (s.delGroup k).clusters = s.clusters := rfl
@[simp] theorem State.delGroup_parts (s : State) (k : Nat) : (s.delGroup k).parts = s.parts := rfl
@[simp] theorem State.delGroup_harts (s : State) (k : Nat) : (s.delGroup k).harts = s.harts := rfl
@[simp] theorem State.delGroup_tix (s : State) (k : Nat) : (s.delGroup k).tix = s.tix := rfl
@[simp] theorem State.delGroup_inn (s : State) (k : Nat) : (s.delGroup k).inn = s.inn := rfl
@[simp] theorem State.delGroup_porter (s : State) (k : Nat) : (s.delGroup k).porter = s.porter := rfl
@[simp] theorem State.delGroup_node (s : State) (k : Nat) : (s.delGroup k).node = s.node := rfl
@[simp] theorem State.delGroup_rpc (s : State) (k : Nat) : (s.delGroup k).rpc = s.rpc := rfl
@[simp] theorem State.delGroup_dbg (s : State) (k : Nat) : (s.delGroup k).dbg = s.dbg := rfl

/-! ### setTeam -/

@[simp] theorem State.setTeam_agenda (s : State) (k : Nat) (t : Team) : (s.setTeam k t).agenda = s.agenda := rfl
@[simp] theorem State.setTeam_cur (s : State) (k : Nat) (t : Team) : (s.setTeam k t).cur = s.cur := rfl
@[simp] theorem State.setTeam_clock (s : State) (k : Nat) (t : Team) : (s.setTeam k t).clock = s.clock := rfl
@[simp] theorem State.setTeam_mem (s : State) (k : Nat) (t : Team) : (s.setTeam k t).mem = s.mem := rfl
@[simp] theorem State.setTeam_coh (s : State) (k : Nat) (t : Team) : (s.setTeam k t).coh = s.coh := rfl
@[simp] theorem State.setTeam_tlbs (s : State) (k : Nat) (t : Team) : (s.setTeam k t).tlbs = s.tlbs := rfl
@[simp] theorem State.setTeam_groups (s : State) (k : Nat) (t : Team) : (s.setTeam k t).groups = s.groups := rfl
@[simp] theorem State.setTeam_teams (s : State) (k : Nat) (t : Team) : (s.setTeam k t).teams = kset s.teams k t := rfl
@[simp] theorem State.setTeam_cores (s : State) (k : Nat) (t : Team) : (s.setTeam k t).cores = s.cores := rfl
@[simp] theorem State.setTeam_clusters (s : State) (k : Nat) (t : Team) : (s.setTeam k t).clusters = s.clusters := rfl
@[simp] theorem State.setTeam_parts (s : State) (k : Nat) (t : Team) : (s.setTeam k t).parts = s.parts := rfl
@[simp] theorem State.setTeam_harts (s : State) (k : Nat) (t : Team) : (s.setTeam k t).harts = s.harts := rfl
@[simp] theorem State.setTeam_tix (s : State) (k : Nat) (t : Team) : (s.setTeam k t).tix = s.tix := rfl
@[simp] theorem State.setTeam_inn (s : State) (k : Nat) (t : Team) : (s.setTeam k t).inn = s.inn := rfl
@[simp] theorem State.setTeam_porter (s : State) (k : Nat) (t : Team) : (s.setTeam k t).porter = s.porter := rfl
@[simp] theorem State.setTeam_node (s : State) (k : Nat) (t : Team) : (s.setTeam k t).node = s.node := rfl
@[simp] theorem State.setTeam_rpc (s : State) (k : Nat) (t : Team) : (s.setTeam k t).rpc = s.rpc := rfl
@[simp] theorem State.setTeam_dbg (s : State) (k : Nat) (t : Team) : (s.setTeam k t).dbg = s.dbg := rfl

/-! ### delTeam -/

@[simp] theorem State.delTeam_agenda (s : State) (k : Nat) : (s.delTeam k).agenda = s.agenda := rfl
@[simp] theorem State.delTeam_cur (s : State) (k : Nat) : (s.delTeam k).cur = s.cur := rfl
@[simp] theorem State.delTeam_clock (s : State) (k : Nat) : (s.delTeam k).clock = s.clock := rfl
@[simp] theorem State.delTeam_mem (s : State) (k : Nat) : (s.delTeam k).mem = s.mem := rfl
@[simp] theorem State.delTeam_coh (s : State) (k : Nat) : (s.delTeam k).coh = s.coh := rfl
@[simp] theorem State.delTeam_tlbs (s : State) (k : Nat) : (s.delTeam k).tlbs = s.tlbs := rfl
@[simp] theorem State.delTeam_groups (s : State) (k : Nat) : (s.delTeam k).groups = s.groups := rfl
@[simp] theorem State.delTeam_teams (s : State) (k : Nat) : (s.delTeam k).teams = kdel s.teams k := rfl
@[simp] theorem State.delTeam_cores (s : State) (k : Nat) : (s.delTeam k).cores = s.cores := rfl
@[simp] theorem State.delTeam_clusters (s : State) (k : Nat) : (s.delTeam k).clusters = s.clusters := rfl
@[simp] theorem State.delTeam_parts (s : State) (k : Nat) : (s.delTeam k).parts = s.parts := rfl
@[simp] theorem State.delTeam_harts (s : State) (k : Nat) : (s.delTeam k).harts = s.harts := rfl
@[simp] theorem State.delTeam_tix (s : State) (k : Nat) : (s.delTeam k).tix = s.tix := rfl
@[simp] theorem State.delTeam_inn (s : State) (k : Nat) : (s.delTeam k).inn = s.inn := rfl
@[simp] theorem State.delTeam_porter (s : State) (k : Nat) : (s.delTeam k).porter = s.porter := rfl
@[simp] theorem State.delTeam_node (s : State) (k : Nat) : (s.delTeam k).node = s.node := rfl
@[simp] theorem State.delTeam_rpc (s : State) (k : Nat) : (s.delTeam k).rpc = s.rpc := rfl
@[simp] theorem State.delTeam_dbg (s : State) (k : Nat) : (s.delTeam k).dbg = s.dbg := rfl

/-! ### setPart -/

@[simp] theorem State.setPart_agenda (s : State) (k : Nat) (x : Part) : (s.setPart k x).agenda = s.agenda := rfl
@[simp] theorem State.setPart_cur (s : State) (k : Nat) (x : Part) : (s.setPart k x).cur = s.cur := rfl
@[simp] theorem State.setPart_clock (s : State) (k : Nat) (x : Part) : (s.setPart k x).clock = s.clock := rfl
@[simp] theorem State.setPart_mem (s : State) (k : Nat) (x : Part) : (s.setPart k x).mem = s.mem := rfl
@[simp] theorem State.setPart_coh (s : State) (k : Nat) (x : Part) : (s.setPart k x).coh = s.coh := rfl
@[simp] theorem State.setPart_tlbs (s : State) (k : Nat) (x : Part) : (s.setPart k x).tlbs = s.tlbs := rfl
@[simp] theorem State.setPart_groups (s : State) (k : Nat) (x : Part) : (s.setPart k x).groups = s.groups := rfl
@[simp] theorem State.setPart_teams (s : State) (k : Nat) (x : Part) : (s.setPart k x).teams = s.teams := rfl
@[simp] theorem State.setPart_cores (s : State) (k : Nat) (x : Part) : (s.setPart k x).cores = s.cores := rfl
@[simp] theorem State.setPart_clusters (s : State) (k : Nat) (x : Part) : (s.setPart k x).clusters = s.clusters := rfl
@[simp] theorem State.setPart_parts (s : State) (k : Nat) (x : Part) : (s.setPart k x).parts = kset s.parts k x := rfl
@[simp] theorem State.setPart_harts (s : State) (k : Nat) (x : Part) : (s.setPart k x).harts = s.harts := rfl
@[simp] theorem State.setPart_tix (s : State) (k : Nat) (x : Part) : (s.setPart k x).tix = s.tix := rfl
@[simp] theorem State.setPart_inn (s : State) (k : Nat) (x : Part) : (s.setPart k x).inn = s.inn := rfl
@[simp] theorem State.setPart_porter (s : State) (k : Nat) (x : Part) : (s.setPart k x).porter = s.porter := rfl
@[simp] theorem State.setPart_node (s : State) (k : Nat) (x : Part) : (s.setPart k x).node = s.node := rfl
@[simp] theorem State.setPart_rpc (s : State) (k : Nat) (x : Part) : (s.setPart k x).rpc = s.rpc := rfl
@[simp] theorem State.setPart_dbg (s : State) (k : Nat) (x : Part) : (s.setPart k x).dbg = s.dbg := rfl

/-! ### modCluster -/

@[simp] theorem State.modCluster_agenda (s : State) (k : Nat) (f : Cluster → Cluster) : (s.modCluster k f).agenda = s.agenda := rfl
@[simp] theorem State.modCluster_cur (s : State) (k : Nat) (f : Cluster → Cluster) : (s.modCluster k f).cur = s.cur := rfl
@[simp] theorem State.modCluster_clock (s : State) (k : Nat) (f : Cluster → Cluster) : (s.modCluster k f).clock = s.clock := rfl
@[simp] theorem State.modCluster_mem (s : State) (k : Nat) (f : Cluster → Cluster) : (s.modCluster k f).mem = s.mem := rfl
@[simp] theorem State.modCluster_coh (s : State) (k : Nat) (f : Cluster → Cluster) : (s.modCluster k f).coh = s.coh := rfl
@[simp] theorem State.modCluster_tlbs (s : State) (k : Nat) (f : Cluster → Cluster) : (s.modCluster k f).tlbs = s.tlbs := rfl
@[simp] theorem State.modCluster_groups (s : State) (k : Nat) (f : Cluster → Cluster) : (s.modCluster k f).groups = s.groups := rfl
@[simp] theorem State.modCluster_teams (s : State) (k : Nat) (f : Cluster → Cluster) : (s.modCluster k f).teams = s.teams := rfl
@[simp] theorem State.modCluster_cores (s : State) (k : Nat) (f : Cluster → Cluster) : (s.modCluster k f).cores = s.cores := rfl
@[simp] theorem State.modCluster_clusters (s : State) (k : Nat) (f : Cluster → Cluster) : (s.modCluster k f).clusters = kset s.clusters k (f (s.cluster k)) := rfl
@[simp] theorem State.modCluster_parts (s : State) (k : Nat) (f : Cluster → Cluster) : (s.modCluster k f).parts = s.parts := rfl
@[simp] theorem State.modCluster_harts (s : State) (k : Nat) (f : Cluster → Cluster) : (s.modCluster k f).harts = s.harts := rfl
@[simp] theorem State.modCluster_tix (s : State) (k : Nat) (f : Cluster → Cluster) : (s.modCluster k f).tix = s.tix := rfl
@[simp] theorem State.modCluster_inn (s : State) (k : Nat) (f : Cluster → Cluster) : (s.modCluster k f).inn = s.inn := rfl
@[simp] theorem State.modCluster_porter (s : State) (k : Nat) (f : Cluster → Cluster) : (s.modCluster k f).porter = s.porter := rfl
@[simp] theorem State.modCluster_node (s : State) (k : Nat) (f : Cluster → Cluster) : (s.modCluster k f).node = s.node := rfl
@[simp] theorem State.modCluster_rpc (s : State) (k : Nat) (f : Cluster → Cluster) : (s.modCluster k f).rpc = s.rpc := rfl
@[simp] theorem State.modCluster_dbg (s : State) (k : Nat) (f : Cluster → Cluster) : (s.modCluster k f).dbg = s.dbg := rfl

/-! ### setHart -/

@[simp] theorem State.setHart_agenda (s : State) (k : Nat) (x : Hart) : (s.setHart k x).agenda = s.agenda := rfl
@[simp] theorem State.setHart_cur (s : State) (k : Nat) (x : Hart) : (s.setHart k x).cur = s.cur := rfl
@[simp] theorem State.setHart_clock (s : State) (k : Nat) (x : Hart) : (s.setHart k x).clock = s.clock := rfl
@[simp] theorem State.setHart_mem (s : State) (k : Nat) (x : Hart) : (s.setHart k x).mem = s.mem := rfl
@[simp] theorem State.setHart_coh (s : State) (k : Nat) (x : Hart) : (s.setHart k x).coh = s.coh := rfl
@[simp] theorem State.setHart_tlbs (s : State) (k : Nat) (x : Hart) : (s.setHart k x).tlbs = s.tlbs := rfl
@[simp] theorem State.setHart_groups (s : State) (k : Nat) (x : Hart) : (s.setHart k x).groups = s.groups := rfl
@[simp] theorem State.setHart_teams (s : State) (k : Nat) (x : Hart) : (s.setHart k x).teams = s.teams := rfl
@[simp] theorem State.setHart_cores (s : State) (k : Nat) (x : Hart) : (s.setHart k x).cores = s.cores := rfl
@[simp] theorem State.setHart_clusters (s : State) (k : Nat) (x : Hart) : (s.setHart k x).clusters = s.clusters := rfl
@[simp] theorem State.setHart_parts (s : State) (k : Nat) (x : Hart) : (s.setHart k x).parts = s.parts := rfl
@[simp] theorem State.setHart_harts (s : State) (k : Nat) (x : Hart) : (s.setHart k x).harts = kset s.harts k x := rfl
@[simp] theorem State.setHart_tix (s : State) (k : Nat) (x : Hart) : (s.setHart k x).tix = s.tix := rfl
@[simp] theorem State.setHart_inn (s : State) (k : Nat) (x : Hart) : (s.setHart k x).inn = s.inn := rfl
@[simp] theorem State.setHart_porter (s : State) (k : Nat) (x : Hart) : (s.setHart k x).porter = s.porter := rfl
@[simp] theorem State.setHart_node (s : State) (k : Nat) (x : Hart) : (s.setHart k x).node = s.node := rfl
@[simp] theorem State.setHart_rpc (s : State) (k : Nat) (x : Hart) : (s.setHart k x).rpc = s.rpc := rfl
@[simp] theorem State.setHart_dbg (s : State) (k : Nat) (x : Hart) : (s.setHart k x).dbg = s.dbg := rfl

/-! ### setMem -/

@[simp] theorem State.setMem_agenda (s : State) (x : Mem) : (s.setMem x).agenda = s.agenda := rfl
@[simp] theorem State.setMem_cur (s : State) (x : Mem) : (s.setMem x).cur = s.cur := rfl
@[simp] theorem State.setMem_clock (s : State) (x : Mem) : (s.setMem x).clock = s.clock := rfl
@[simp] theorem State.setMem_mem (s : State) (x : Mem) : (s.setMem x).mem = x := rfl
@[simp] theorem State.setMem_coh (s : State) (x : Mem) : (s.setMem x).coh = s.coh := rfl
@[simp] theorem State.setMem_tlbs (s : State) (x : Mem) : (s.setMem x).tlbs = s.tlbs := rfl
@[simp] theorem State.setMem_groups (s : State) (x : Mem) : (s.setMem x).groups = s.groups := rfl
@[simp] theorem State.setMem_teams (s : State) (x : Mem) : (s.setMem x).teams = s.teams := rfl
@[simp] theorem State.setMem_cores (s : State) (x : Mem) : (s.setMem x).cores = s.cores := rfl
@[simp] theorem State.setMem_clusters (s : State) (x : Mem) : (s.setMem x).clusters = s.clusters := rfl
@[simp] theorem State.setMem_parts (s : State) (x : Mem) : (s.setMem x).parts = s.parts := rfl
@[simp] theorem State.setMem_harts (s : State) (x : Mem) : (s.setMem x).harts = s.harts := rfl
@[simp] theorem State.setMem_tix (s : State) (x : Mem) : (s.setMem x).tix = s.tix := rfl
@[simp] theorem State.setMem_inn (s : State) (x : Mem) : (s.setMem x).inn = s.inn := rfl
@[simp] theorem State.setMem_porter (s : State) (x : Mem) : (s.setMem x).porter = s.porter := rfl
@[simp] theorem State.setMem_node (s : State) (x : Mem) : (s.setMem x).node = s.node := rfl
@[simp] theorem State.setMem_rpc (s : State) (x : Mem) : (s.setMem x).rpc = s.rpc := rfl
@[simp] theorem State.setMem_dbg (s : State) (x : Mem) : (s.setMem x).dbg = s.dbg := rfl

/-! ### setCoh -/

@[simp] theorem State.setCoh_agenda (s : State) (x : Coh) : (s.setCoh x).agenda = s.agenda := rfl
@[simp] theorem State.setCoh_cur (s : State) (x : Coh) : (s.setCoh x).cur = s.cur := rfl
@[simp] theorem State.setCoh_clock (s : State) (x : Coh) : (s.setCoh x).clock = s.clock := rfl
@[simp] theorem State.setCoh_mem (s : State) (x : Coh) : (s.setCoh x).mem = s.mem := rfl
@[simp] theorem State.setCoh_coh (s : State) (x : Coh) : (s.setCoh x).coh = x := rfl
@[simp] theorem State.setCoh_tlbs (s : State) (x : Coh) : (s.setCoh x).tlbs = s.tlbs := rfl
@[simp] theorem State.setCoh_groups (s : State) (x : Coh) : (s.setCoh x).groups = s.groups := rfl
@[simp] theorem State.setCoh_teams (s : State) (x : Coh) : (s.setCoh x).teams = s.teams := rfl
@[simp] theorem State.setCoh_cores (s : State) (x : Coh) : (s.setCoh x).cores = s.cores := rfl
@[simp] theorem State.setCoh_clusters (s : State) (x : Coh) : (s.setCoh x).clusters = s.clusters := rfl
@[simp] theorem State.setCoh_parts (s : State) (x : Coh) : (s.setCoh x).parts = s.parts := rfl
@[simp] theorem State.setCoh_harts (s : State) (x : Coh) : (s.setCoh x).harts = s.harts := rfl
@[simp] theorem State.setCoh_tix (s : State) (x : Coh) : (s.setCoh x).tix = s.tix := rfl
@[simp] theorem State.setCoh_inn (s : State) (x : Coh) : (s.setCoh x).inn = s.inn := rfl
@[simp] theorem State.setCoh_porter (s : State) (x : Coh) : (s.setCoh x).porter = s.porter := rfl
@[simp] theorem State.setCoh_node (s : State) (x : Coh) : (s.setCoh x).node = s.node := rfl
@[simp] theorem State.setCoh_rpc (s : State) (x : Coh) : (s.setCoh x).rpc = s.rpc := rfl
@[simp] theorem State.setCoh_dbg (s : State) (x : Coh) : (s.setCoh x).dbg = s.dbg := rfl

/-! ### setClock -/

@[simp] theorem State.setClock_agenda (s : State) (x : Clock) : (s.setClock x).agenda = s.agenda := rfl
@[simp] theorem State.setClock_cur (s : State) (x : Clock) : (s.setClock x).cur = s.cur := rfl
@[simp] theorem State.setClock_clock (s : State) (x : Clock) : (s.setClock x).clock = x := rfl
@[simp] theorem State.setClock_mem (s : State) (x : Clock) : (s.setClock x).mem = s.mem := rfl
@[simp] theorem State.setClock_coh (s : State) (x : Clock) : (s.setClock x).coh = s.coh := rfl
@[simp] theorem State.setClock_tlbs (s : State) (x : Clock) : (s.setClock x).tlbs = s.tlbs := rfl
@[simp] theorem State.setClock_groups (s : State) (x : Clock) : (s.setClock x).groups = s.groups := rfl
@[simp] theorem State.setClock_teams (s : State) (x : Clock) : (s.setClock x).teams = s.teams := rfl
@[simp] theorem State.setClock_cores (s : State) (x : Clock) : (s.setClock x).cores = s.cores := rfl
@[simp] theorem State.setClock_clusters (s : State) (x : Clock) : (s.setClock x).clusters = s.clusters := rfl
@[simp] theorem State.setClock_parts (s : State) (x : Clock) : (s.setClock x).parts = s.parts := rfl
@[simp] theorem State.setClock_harts (s : State) (x : Clock) : (s.setClock x).harts = s.harts := rfl
@[simp] theorem State.setClock_tix (s : State) (x : Clock) : (s.setClock x).tix = s.tix := rfl
@[simp] theorem State.setClock_inn (s : State) (x : Clock) : (s.setClock x).inn = s.inn := rfl
@[simp] theorem State.setClock_porter (s : State) (x : Clock) : (s.setClock x).porter = s.porter := rfl
@[simp] theorem State.setClock_node (s : State) (x : Clock) : (s.setClock x).node = s.node := rfl
@[simp] theorem State.setClock_rpc (s : State) (x : Clock) : (s.setClock x).rpc = s.rpc := rfl
@[simp] theorem State.setClock_dbg (s : State) (x : Clock) : (s.setClock x).dbg = s.dbg := rfl

/-! ### setTix -/

@[simp] theorem State.setTix_agenda (s : State) (x : Tix) : (s.setTix x).agenda = s.agenda := rfl
@[simp] theorem State.setTix_cur (s : State) (x : Tix) : (s.setTix x).cur = s.cur := rfl
@[simp] theorem State.setTix_clock (s : State) (x : Tix) : (s.setTix x).clock = s.clock := rfl
@[simp] theorem State.setTix_mem (s : State) (x : Tix) : (s.setTix x).mem = s.mem := rfl
@[simp] theorem State.setTix_coh (s : State) (x : Tix) : (s.setTix x).coh = s.coh := rfl
@[simp] theorem State.setTix_tlbs (s : State) (x : Tix) : (s.setTix x).tlbs = s.tlbs := rfl
@[simp] theorem State.setTix_groups (s : State) (x : Tix) : (s.setTix x).groups = s.groups := rfl
@[simp] theorem State.setTix_teams (s : State) (x : Tix) : (s.setTix x).teams = s.teams := rfl
@[simp] theorem State.setTix_cores (s : State) (x : Tix) : (s.setTix x).cores = s.cores := rfl
@[simp] theorem State.setTix_clusters (s : State) (x : Tix) : (s.setTix x).clusters = s.clusters := rfl
@[simp] theorem State.setTix_parts (s : State) (x : Tix) : (s.setTix x).parts = s.parts := rfl
@[simp] theorem State.setTix_harts (s : State) (x : Tix) : (s.setTix x).harts = s.harts := rfl
@[simp] theorem State.setTix_tix (s : State) (x : Tix) : (s.setTix x).tix = x := rfl
@[simp] theorem State.setTix_inn (s : State) (x : Tix) : (s.setTix x).inn = s.inn := rfl
@[simp] theorem State.setTix_porter (s : State) (x : Tix) : (s.setTix x).porter = s.porter := rfl
@[simp] theorem State.setTix_node (s : State) (x : Tix) : (s.setTix x).node = s.node := rfl
@[simp] theorem State.setTix_rpc (s : State) (x : Tix) : (s.setTix x).rpc = s.rpc := rfl
@[simp] theorem State.setTix_dbg (s : State) (x : Tix) : (s.setTix x).dbg = s.dbg := rfl

/-! ### setInn -/

@[simp] theorem State.setInn_agenda (s : State) (x : Inn) : (s.setInn x).agenda = s.agenda := rfl
@[simp] theorem State.setInn_cur (s : State) (x : Inn) : (s.setInn x).cur = s.cur := rfl
@[simp] theorem State.setInn_clock (s : State) (x : Inn) : (s.setInn x).clock = s.clock := rfl
@[simp] theorem State.setInn_mem (s : State) (x : Inn) : (s.setInn x).mem = s.mem := rfl
@[simp] theorem State.setInn_coh (s : State) (x : Inn) : (s.setInn x).coh = s.coh := rfl
@[simp] theorem State.setInn_tlbs (s : State) (x : Inn) : (s.setInn x).tlbs = s.tlbs := rfl
@[simp] theorem State.setInn_groups (s : State) (x : Inn) : (s.setInn x).groups = s.groups := rfl
@[simp] theorem State.setInn_teams (s : State) (x : Inn) : (s.setInn x).teams = s.teams := rfl
@[simp] theorem State.setInn_cores (s : State) (x : Inn) : (s.setInn x).cores = s.cores := rfl
@[simp] theorem State.setInn_clusters (s : State) (x : Inn) : (s.setInn x).clusters = s.clusters := rfl
@[simp] theorem State.setInn_parts (s : State) (x : Inn) : (s.setInn x).parts = s.parts := rfl
@[simp] theorem State.setInn_harts (s : State) (x : Inn) : (s.setInn x).harts = s.harts := rfl
@[simp] theorem State.setInn_tix (s : State) (x : Inn) : (s.setInn x).tix = s.tix := rfl
@[simp] theorem State.setInn_inn (s : State) (x : Inn) : (s.setInn x).inn = x := rfl
@[simp] theorem State.setInn_porter (s : State) (x : Inn) : (s.setInn x).porter = s.porter := rfl
@[simp] theorem State.setInn_node (s : State) (x : Inn) : (s.setInn x).node = s.node := rfl
@[simp] theorem State.setInn_rpc (s : State) (x : Inn) : (s.setInn x).rpc = s.rpc := rfl
@[simp] theorem State.setInn_dbg (s : State) (x : Inn) : (s.setInn x).dbg = s.dbg := rfl

/-! ### setPorter -/

@[simp] theorem State.setPorter_agenda (s : State) (x : Porter) : (s.setPorter x).agenda = s.agenda := rfl
@[simp] theorem State.setPorter_cur (s : State) (x : Porter) : (s.setPorter x).cur = s.cur := rfl
@[simp] theorem State.setPorter_clock (s : State) (x : Porter) : (s.setPorter x).clock = s.clock := rfl
@[simp] theorem State.setPorter_mem (s : State) (x : Porter) : (s.setPorter x).mem = s.mem := rfl
@[simp] theorem State.setPorter_coh (s : State) (x : Porter) : (s.setPorter x).coh = s.coh := rfl
@[simp] theorem State.setPorter_tlbs (s : State) (x : Porter) : (s.setPorter x).tlbs = s.tlbs := rfl
@[simp] theorem State.setPorter_groups (s : State) (x : Porter) : (s.setPorter x).groups = s.groups := rfl
@[simp] theorem State.setPorter_teams (s : State) (x : Porter) : (s.setPorter x).teams = s.teams := rfl
@[simp] theorem State.setPorter_cores (s : State) (x : Porter) : (s.setPorter x).cores = s.cores := rfl
@[simp] theorem State.setPorter_clusters (s : State) (x : Porter) : (s.setPorter x).clusters = s.clusters := rfl
@[simp] theorem State.setPorter_parts (s : State) (x : Porter) : (s.setPorter x).parts = s.parts := rfl
@[simp] theorem State.setPorter_harts (s : State) (x : Porter) : (s.setPorter x).harts = s.harts := rfl
@[simp] theorem State.setPorter_tix (s : State) (x : Porter) : (s.setPorter x).tix = s.tix := rfl
@[simp] theorem State.setPorter_inn (s : State) (x : Porter) : (s.setPorter x).inn = s.inn := rfl
@[simp] theorem State.setPorter_porter (s : State) (x : Porter) : (s.setPorter x).porter = x := rfl
@[simp] theorem State.setPorter_node (s : State) (x : Porter) : (s.setPorter x).node = s.node := rfl
@[simp] theorem State.setPorter_rpc (s : State) (x : Porter) : (s.setPorter x).rpc = s.rpc := rfl
@[simp] theorem State.setPorter_dbg (s : State) (x : Porter) : (s.setPorter x).dbg = s.dbg := rfl

/-! ### setNode -/

@[simp] theorem State.setNode_agenda (s : State) (x : Node) : (s.setNode x).agenda = s.agenda := rfl
@[simp] theorem State.setNode_cur (s : State) (x : Node) : (s.setNode x).cur = s.cur := rfl
@[simp] theorem State.setNode_clock (s : State) (x : Node) : (s.setNode x).clock = s.clock := rfl
@[simp] theorem State.setNode_mem (s : State) (x : Node) : (s.setNode x).mem = s.mem := rfl
@[simp] theorem State.setNode_coh (s : State) (x : Node) : (s.setNode x).coh = s.coh := rfl
@[simp] theorem State.setNode_tlbs (s : State) (x : Node) : (s.setNode x).tlbs = s.tlbs := rfl
@[simp] theorem State.setNode_groups (s : State) (x : Node) : (s.setNode x).groups = s.groups := rfl
@[simp] theorem State.setNode_teams (s : State) (x : Node) : (s.setNode x).teams = s.teams := rfl
@[simp] theorem State.setNode_cores (s : State) (x : Node) : (s.setNode x).cores = s.cores := rfl
@[simp] theorem State.setNode_clusters (s : State) (x : Node) : (s.setNode x).clusters = s.clusters := rfl
@[simp] theorem State.setNode_parts (s : State) (x : Node) : (s.setNode x).parts = s.parts := rfl
@[simp] theorem State.setNode_harts (s : State) (x : Node) : (s.setNode x).harts = s.harts := rfl
@[simp] theorem State.setNode_tix (s : State) (x : Node) : (s.setNode x).tix = s.tix := rfl
@[simp] theorem State.setNode_inn (s : State) (x : Node) : (s.setNode x).inn = s.inn := rfl
@[simp] theorem State.setNode_porter (s : State) (x : Node) : (s.setNode x).porter = s.porter := rfl
@[simp] theorem State.setNode_node (s : State) (x : Node) : (s.setNode x).node = x := rfl
@[simp] theorem State.setNode_rpc (s : State) (x : Node) : (s.setNode x).rpc = s.rpc := rfl
@[simp] theorem State.setNode_dbg (s : State) (x : Node) : (s.setNode x).dbg = s.dbg := rfl

/-! ### setRpc -/

@[simp] theorem State.setRpc_agenda (s : State) (x : RpcSt) : (s.setRpc x).agenda = s.agenda := rfl
@[simp] theorem State.setRpc_cur (s : State) (x : RpcSt) : (s.setRpc x).cur = s.cur := rfl
@[simp] theorem State.setRpc_clock (s : State) (x : RpcSt) : (s.setRpc x).clock = s.clock := rfl
@[simp] theorem State.setRpc_mem (s : State) (x : RpcSt) : (s.setRpc x).mem = s.mem := rfl
@[simp] theorem State.setRpc_coh (s : State) (x : RpcSt) : (s.setRpc x).coh = s.coh := rfl
@[simp] theorem State.setRpc_tlbs (s : State) (x : RpcSt) : (s.setRpc x).tlbs = s.tlbs := rfl
@[simp] theorem State.setRpc_groups (s : State) (x : RpcSt) : (s.setRpc x).groups = s.groups := rfl
@[simp] theorem State.setRpc_teams (s : State) (x : RpcSt) : (s.setRpc x).teams = s.teams := rfl
@[simp] theorem State.setRpc_cores (s : State) (x : RpcSt) : (s.setRpc x).cores = s.cores := rfl
@[simp] theorem State.setRpc_clusters (s : State) (x : RpcSt) : (s.setRpc x).clusters = s.clusters := rfl
@[simp] theorem State.setRpc_parts (s : State) (x : RpcSt) : (s.setRpc x).parts = s.parts := rfl
@[simp] theorem State.setRpc_harts (s : State) (x : RpcSt) : (s.setRpc x).harts = s.harts := rfl
@[simp] theorem State.setRpc_tix (s : State) (x : RpcSt) : (s.setRpc x).tix = s.tix := rfl
@[simp] theorem State.setRpc_inn (s : State) (x : RpcSt) : (s.setRpc x).inn = s.inn := rfl
@[simp] theorem State.setRpc_porter (s : State) (x : RpcSt) : (s.setRpc x).porter = s.porter := rfl
@[simp] theorem State.setRpc_node (s : State) (x : RpcSt) : (s.setRpc x).node = s.node := rfl
@[simp] theorem State.setRpc_rpc (s : State) (x : RpcSt) : (s.setRpc x).rpc = x := rfl
@[simp] theorem State.setRpc_dbg (s : State) (x : RpcSt) : (s.setRpc x).dbg = s.dbg := rfl

/-! ### setDbg -/

@[simp] theorem State.setDbg_agenda (s : State) (x : Dbg) : (s.setDbg x).agenda = s.agenda := rfl
@[simp] theorem State.setDbg_cur (s : State) (x : Dbg) : (s.setDbg x).cur = s.cur := rfl
@[simp] theorem State.setDbg_clock (s : State) (x : Dbg) : (s.setDbg x).clock = s.clock := rfl
@[simp] theorem State.setDbg_mem (s : State) (x : Dbg) : (s.setDbg x).mem = s.mem := rfl
@[simp] theorem State.setDbg_coh (s : State) (x : Dbg) : (s.setDbg x).coh = s.coh := rfl
@[simp] theorem State.setDbg_tlbs (s : State) (x : Dbg) : (s.setDbg x).tlbs = s.tlbs := rfl
@[simp] theorem State.setDbg_groups (s : State) (x : Dbg) : (s.setDbg x).groups = s.groups := rfl
@[simp] theorem State.setDbg_teams (s : State) (x : Dbg) : (s.setDbg x).teams = s.teams := rfl
@[simp] theorem State.setDbg_cores (s : State) (x : Dbg) : (s.setDbg x).cores = s.cores := rfl
@[simp] theorem State.setDbg_clusters (s : State) (x : Dbg) : (s.setDbg x).clusters = s.clusters := rfl
@[simp] theorem State.setDbg_parts (s : State) (x : Dbg) : (s.setDbg x).parts = s.parts := rfl
@[simp] theorem State.setDbg_harts (s : State) (x : Dbg) : (s.setDbg x).harts = s.harts := rfl
@[simp] theorem State.setDbg_tix (s : State) (x : Dbg) : (s.setDbg x).tix = s.tix := rfl
@[simp] theorem State.setDbg_inn (s : State) (x : Dbg) : (s.setDbg x).inn = s.inn := rfl
@[simp] theorem State.setDbg_porter (s : State) (x : Dbg) : (s.setDbg x).porter = s.porter := rfl
@[simp] theorem State.setDbg_node (s : State) (x : Dbg) : (s.setDbg x).node = s.node := rfl
@[simp] theorem State.setDbg_rpc (s : State) (x : Dbg) : (s.setDbg x).rpc = s.rpc := rfl
@[simp] theorem State.setDbg_dbg (s : State) (x : Dbg) : (s.setDbg x).dbg = x := rfl

/-! ### setTlb -/

@[simp] theorem State.setTlb_agenda (s : State) (d : Nat) (l : List TlbEnt) : (s.setTlb d l).agenda = s.agenda := rfl
@[simp] theorem State.setTlb_cur (s : State) (d : Nat) (l : List TlbEnt) : (s.setTlb d l).cur = s.cur := rfl
@[simp] theorem State.setTlb_clock (s : State) (d : Nat) (l : List TlbEnt) : (s.setTlb d l).clock = s.clock := rfl
@[simp] theorem State.setTlb_mem (s : State) (d : Nat) (l : List TlbEnt) : (s.setTlb d l).mem = s.mem := rfl
@[simp] theorem State.setTlb_coh (s : State) (d : Nat) (l : List TlbEnt) : (s.setTlb d l).coh = s.coh := rfl
@[simp] theorem State.setTlb_tlbs (s : State) (d : Nat) (l : List TlbEnt) : (s.setTlb d l).tlbs = kset s.tlbs d l := rfl
@[simp] theorem State.setTlb_groups (s : State) (d : Nat) (l : List TlbEnt) : (s.setTlb d l).groups = s.groups := rfl
@[simp] theorem State.setTlb_teams (s : State) (d : Nat) (l : List TlbEnt) : (s.setTlb d l).teams = s.teams := rfl
@[simp] theorem State.setTlb_cores (s : State) (d : Nat) (l : List TlbEnt) : (s.setTlb d l).cores = s.cores := rfl
@[simp] theorem State.setTlb_clusters (s : State) (d : Nat) (l : List TlbEnt) : (s.setTlb d l).clusters = s.clusters := rfl
@[simp] theorem State.setTlb_parts (s : State) (d : Nat) (l : List TlbEnt) : (s.setTlb d l).parts = s.parts := rfl
@[simp] theorem State.setTlb_harts (s : State) (d : Nat) (l : List TlbEnt) : (s.setTlb d l).harts = s.harts := rfl
@[simp] theorem State.setTlb_tix (s : State) (d : Nat) (l : List TlbEnt) : (s.setTlb d l).tix = s.tix := rfl
@[simp] theorem State.setTlb_inn (s : State) (d : Nat) (l : List TlbEnt) : (s.setTlb d l).inn = s.inn := rfl
@[simp] theorem State.setTlb_porter (s : State) (d : Nat) (l : List TlbEnt) : (s.setTlb d l).porter = s.porter := rfl
@[simp] theorem State.setTlb_node (s : State) (d : Nat) (l : List TlbEnt) : (s.setTlb d l).node = s.node := rfl
@[simp] theorem State.setTlb_rpc (s : State) (d : Nat) (l : List TlbEnt) : (s.setTlb d l).rpc = s.rpc := rfl
@[simp] theorem State.setTlb_dbg (s : State) (d : Nat) (l : List TlbEnt) : (s.setTlb d l).dbg = s.dbg := rfl

/-! ### Reads after updates -/

@[simp] theorem State.group_setGroup (s : State) (k j : Nat) (g : Group) : (s.setGroup k g).group? j = if j = k then some g else s.group? j :=
  kget_kset _ _ _ _
@[simp] theorem State.group_setCore (s : State) (c : Nat) (x : Core) (j : Nat) : (s.setCore c x).group? j = s.group? j := rfl
@[simp] theorem State.group_setTeam (s : State) (k : Nat) (t : Team) (j : Nat) : (s.setTeam k t).group? j = s.group? j := rfl
@[simp] theorem State.group_delTeam (s : State) (k : Nat) (j : Nat) : (s.delTeam k).group? j = s.group? j := rfl
@[simp] theorem State.group_setPart (s : State) (k : Nat) (x : Part) (j : Nat) : (s.setPart k x).group? j = s.group? j := rfl
@[simp] theorem State.group_modCluster (s : State) (k : Nat) (f : Cluster → Cluster) (j : Nat) : (s.modCluster k f).group? j = s.group? j := rfl
@[simp] theorem State.group_setHart (s : State) (k : Nat) (x : Hart) (j : Nat) : (s.setHart k x).group? j = s.group? j := rfl
@[simp] theorem State.group_setMem (s : State) (x : Mem) (j : Nat) : (s.setMem x).group? j = s.group? j := rfl
@[simp] theorem State.group_setCoh (s : State) (x : Coh) (j : Nat) : (s.setCoh x).group? j = s.group? j := rfl
@[simp] theorem State.group_setClock (s : State) (x : Clock) (j : Nat) : (s.setClock x).group? j = s.group? j := rfl
@[simp] theorem State.group_setTix (s : State) (x : Tix) (j : Nat) : (s.setTix x).group? j = s.group? j := rfl
@[simp] theorem State.group_setInn (s : State) (x : Inn) (j : Nat) : (s.setInn x).group? j = s.group? j := rfl
@[simp] theorem State.group_setPorter (s : State) (x : Porter) (j : Nat) : (s.setPorter x).group? j = s.group? j := rfl
@[simp] theorem State.group_setNode (s : State) (x : Node) (j : Nat) : (s.setNode x).group? j = s.group? j := rfl
@[simp] theorem State.group_setRpc (s : State) (x : RpcSt) (j : Nat) : (s.setRpc x).group? j = s.group? j := rfl
@[simp] theorem State.group_setDbg (s : State) (x : Dbg) (j : Nat) : (s.setDbg x).group? j = s.group? j := rfl
@[simp] theorem State.group_setTlb (s : State) (d : Nat) (l : List TlbEnt) (j : Nat) : (s.setTlb d l).group? j = s.group? j := rfl
@[simp] theorem State.team_setTeam (s : State) (k j : Nat) (g : Team) : (s.setTeam k g).team? j = if j = k then some g else s.team? j :=
  kget_kset _ _ _ _
@[simp] theorem State.team_setCore (s : State) (c : Nat) (x : Core) (j : Nat) : (s.setCore c x).team? j = s.team? j := rfl
@[simp] theorem State.team_setGroup (s : State) (k : Nat) (g : Group) (j : Nat) : (s.setGroup k g).team? j = s.team? j := rfl
@[simp] theorem State.team_delGroup (s : State) (k : Nat) (j : Nat) : (s.delGroup k).team? j = s.team? j := rfl
@[simp] theorem State.team_setPart (s : State) (k : Nat) (x : Part) (j : Nat) : (s.setPart k x).team? j = s.team? j := rfl
@[simp] theorem State.team_modCluster (s : State) (k : Nat) (f : Cluster → Cluster) (j : Nat) : (s.modCluster k f).team? j = s.team? j := rfl
@[simp] theorem State.team_setHart (s : State) (k : Nat) (x : Hart) (j : Nat) : (s.setHart k x).team? j = s.team? j := rfl
@[simp] theorem State.team_setMem (s : State) (x : Mem) (j : Nat) : (s.setMem x).team? j = s.team? j := rfl
@[simp] theorem State.team_setCoh (s : State) (x : Coh) (j : Nat) : (s.setCoh x).team? j = s.team? j := rfl
@[simp] theorem State.team_setClock (s : State) (x : Clock) (j : Nat) : (s.setClock x).team? j = s.team? j := rfl
@[simp] theorem State.team_setTix (s : State) (x : Tix) (j : Nat) : (s.setTix x).team? j = s.team? j := rfl
@[simp] theorem State.team_setInn (s : State) (x : Inn) (j : Nat) : (s.setInn x).team? j = s.team? j := rfl
@[simp] theorem State.team_setPorter (s : State) (x : Porter) (j : Nat) : (s.setPorter x).team? j = s.team? j := rfl
@[simp] theorem State.team_setNode (s : State) (x : Node) (j : Nat) : (s.setNode x).team? j = s.team? j := rfl
@[simp] theorem State.team_setRpc (s : State) (x : RpcSt) (j : Nat) : (s.setRpc x).team? j = s.team? j := rfl
@[simp] theorem State.team_setDbg (s : State) (x : Dbg) (j : Nat) : (s.setDbg x).team? j = s.team? j := rfl
@[simp] theorem State.team_setTlb (s : State) (d : Nat) (l : List TlbEnt) (j : Nat) : (s.setTlb d l).team? j = s.team? j := rfl
@[simp] theorem State.part_setPart (s : State) (k j : Nat) (g : Part) : (s.setPart k g).part? j = if j = k then some g else s.part? j :=
  kget_kset _ _ _ _
@[simp] theorem State.part_setCore (s : State) (c : Nat) (x : Core) (j : Nat) : (s.setCore c x).part? j = s.part? j := rfl
@[simp] theorem State.part_setGroup (s : State) (k : Nat) (g : Group) (j : Nat) : (s.setGroup k g).part? j = s.part? j := rfl
@[simp] theorem State.part_delGroup (s : State) (k : Nat) (j : Nat) : (s.delGroup k).part? j = s.part? j := rfl
@[simp] theorem State.part_setTeam (s : State) (k : Nat) (t : Team) (j : Nat) : (s.setTeam k t).part? j = s.part? j := rfl
@[simp] theorem State.part_delTeam (s : State) (k : Nat) (j : Nat) : (s.delTeam k).part? j = s.part? j := rfl
@[simp] theorem State.part_modCluster (s : State) (k : Nat) (f : Cluster → Cluster) (j : Nat) : (s.modCluster k f).part? j = s.part? j := rfl
@[simp] theorem State.part_setHart (s : State) (k : Nat) (x : Hart) (j : Nat) : (s.setHart k x).part? j = s.part? j := rfl
@[simp] theorem State.part_setMem (s : State) (x : Mem) (j : Nat) : (s.setMem x).part? j = s.part? j := rfl
@[simp] theorem State.part_setCoh (s : State) (x : Coh) (j : Nat) : (s.setCoh x).part? j = s.part? j := rfl
@[simp] theorem State.part_setClock (s : State) (x : Clock) (j : Nat) : (s.setClock x).part? j = s.part? j := rfl
@[simp] theorem State.part_setTix (s : State) (x : Tix) (j : Nat) : (s.setTix x).part? j = s.part? j := rfl
@[simp] theorem State.part_setInn (s : State) (x : Inn) (j : Nat) : (s.setInn x).part? j = s.part? j := rfl
@[simp] theorem State.part_setPorter (s : State) (x : Porter) (j : Nat) : (s.setPorter x).part? j = s.part? j := rfl
@[simp] theorem State.part_setNode (s : State) (x : Node) (j : Nat) : (s.setNode x).part? j = s.part? j := rfl
@[simp] theorem State.part_setRpc (s : State) (x : RpcSt) (j : Nat) : (s.setRpc x).part? j = s.part? j := rfl
@[simp] theorem State.part_setDbg (s : State) (x : Dbg) (j : Nat) : (s.setDbg x).part? j = s.part? j := rfl
@[simp] theorem State.part_setTlb (s : State) (d : Nat) (l : List TlbEnt) (j : Nat) : (s.setTlb d l).part? j = s.part? j := rfl
@[simp] theorem State.group_delGroup (s : State) (k j : Nat) : (s.delGroup k).group? j = if j = k then none else s.group? j :=
  kget_kdel _ _ _
@[simp] theorem State.team_delTeam (s : State) (k j : Nat) : (s.delTeam k).team? j = if j = k then none else s.team? j :=
  kget_kdel _ _ _
@[simp] theorem State.core_setCore (s : State) (c j : Nat) (x : Core) : (s.setCore c x).core j = if j = c then x else s.core j := by
  simp only [State.core, State.setCore_cores, kget_kset]
  split <;> rfl
@[simp] theorem State.hart_setHart (s : State) (c j : Nat) (x : Hart) : (s.setHart c x).hart j = if j = c then x else s.hart j := by
  simp only [State.hart, State.setHart_harts, kget_kset]
  split <;> rfl
@[simp] theorem State.cluster_modCluster (s : State) (c j : Nat) (f : Cluster → Cluster) :
    (s.modCluster c f).cluster j = if j = c then f (s.cluster c) else s.cluster j := by
  simp only [State.cluster, State.modCluster_clusters, kget_kset]
  split <;> rfl
@[simp] theorem State.core_setGroup (s : State) (k : Nat) (g : Group) (j : Nat) : (s.setGroup k g).core j = s.core j := rfl
@[simp] theorem State.core_delGroup (s : State) (k : Nat) (j : Nat) : (s.delGroup k).core j = s.core j := rfl
@[simp] theorem State.core_setTeam (s : State) (k : Nat) (t : Team) (j : Nat) : (s.setTeam k t).core j = s.core j := rfl
@[simp] theorem State.core_delTeam (s : State) (k : Nat) (j : Nat) : (s.delTeam k).core j = s.core j := rfl
@[simp] theorem State.core_setPart (s : State) (k : Nat) (x : Part) (j : Nat) : (s.setPart k x).core j = s.core j := rfl
@[simp] theorem State.core_modCluster (s : State) (k : Nat) (f : Cluster → Cluster) (j : Nat) : (s.modCluster k f).core j = s.core j := rfl
@[simp] theorem State.core_setHart (s : State) (k : Nat) (x : Hart) (j : Nat) : (s.setHart k x).core j = s.core j := rfl
@[simp] theorem State.core_setMem (s : State) (x : Mem) (j : Nat) : (s.setMem x).core j = s.core j := rfl
@[simp] theorem State.core_setCoh (s : State) (x : Coh) (j : Nat) : (s.setCoh x).core j = s.core j := rfl
@[simp] theorem State.core_setClock (s : State) (x : Clock) (j : Nat) : (s.setClock x).core j = s.core j := rfl
@[simp] theorem State.core_setTix (s : State) (x : Tix) (j : Nat) : (s.setTix x).core j = s.core j := rfl
@[simp] theorem State.core_setInn (s : State) (x : Inn) (j : Nat) : (s.setInn x).core j = s.core j := rfl
@[simp] theorem State.core_setPorter (s : State) (x : Porter) (j : Nat) : (s.setPorter x).core j = s.core j := rfl
@[simp] theorem State.core_setNode (s : State) (x : Node) (j : Nat) : (s.setNode x).core j = s.core j := rfl
@[simp] theorem State.core_setRpc (s : State) (x : RpcSt) (j : Nat) : (s.setRpc x).core j = s.core j := rfl
@[simp] theorem State.core_setDbg (s : State) (x : Dbg) (j : Nat) : (s.setDbg x).core j = s.core j := rfl
@[simp] theorem State.core_setTlb (s : State) (d : Nat) (l : List TlbEnt) (j : Nat) : (s.setTlb d l).core j = s.core j := rfl
@[simp] theorem State.hart_setCore (s : State) (c : Nat) (x : Core) (j : Nat) : (s.setCore c x).hart j = s.hart j := rfl
@[simp] theorem State.hart_setGroup (s : State) (k : Nat) (g : Group) (j : Nat) : (s.setGroup k g).hart j = s.hart j := rfl
@[simp] theorem State.hart_delGroup (s : State) (k : Nat) (j : Nat) : (s.delGroup k).hart j = s.hart j := rfl
@[simp] theorem State.hart_setTeam (s : State) (k : Nat) (t : Team) (j : Nat) : (s.setTeam k t).hart j = s.hart j := rfl
@[simp] theorem State.hart_delTeam (s : State) (k : Nat) (j : Nat) : (s.delTeam k).hart j = s.hart j := rfl
@[simp] theorem State.hart_setPart (s : State) (k : Nat) (x : Part) (j : Nat) : (s.setPart k x).hart j = s.hart j := rfl
@[simp] theorem State.hart_modCluster (s : State) (k : Nat) (f : Cluster → Cluster) (j : Nat) : (s.modCluster k f).hart j = s.hart j := rfl
@[simp] theorem State.hart_setMem (s : State) (x : Mem) (j : Nat) : (s.setMem x).hart j = s.hart j := rfl
@[simp] theorem State.hart_setCoh (s : State) (x : Coh) (j : Nat) : (s.setCoh x).hart j = s.hart j := rfl
@[simp] theorem State.hart_setClock (s : State) (x : Clock) (j : Nat) : (s.setClock x).hart j = s.hart j := rfl
@[simp] theorem State.hart_setTix (s : State) (x : Tix) (j : Nat) : (s.setTix x).hart j = s.hart j := rfl
@[simp] theorem State.hart_setInn (s : State) (x : Inn) (j : Nat) : (s.setInn x).hart j = s.hart j := rfl
@[simp] theorem State.hart_setPorter (s : State) (x : Porter) (j : Nat) : (s.setPorter x).hart j = s.hart j := rfl
@[simp] theorem State.hart_setNode (s : State) (x : Node) (j : Nat) : (s.setNode x).hart j = s.hart j := rfl
@[simp] theorem State.hart_setRpc (s : State) (x : RpcSt) (j : Nat) : (s.setRpc x).hart j = s.hart j := rfl
@[simp] theorem State.hart_setDbg (s : State) (x : Dbg) (j : Nat) : (s.setDbg x).hart j = s.hart j := rfl
@[simp] theorem State.hart_setTlb (s : State) (d : Nat) (l : List TlbEnt) (j : Nat) : (s.setTlb d l).hart j = s.hart j := rfl
@[simp] theorem State.cluster_setCore (s : State) (c : Nat) (x : Core) (j : Nat) : (s.setCore c x).cluster j = s.cluster j := rfl
@[simp] theorem State.cluster_setGroup (s : State) (k : Nat) (g : Group) (j : Nat) : (s.setGroup k g).cluster j = s.cluster j := rfl
@[simp] theorem State.cluster_delGroup (s : State) (k : Nat) (j : Nat) : (s.delGroup k).cluster j = s.cluster j := rfl
@[simp] theorem State.cluster_setTeam (s : State) (k : Nat) (t : Team) (j : Nat) : (s.setTeam k t).cluster j = s.cluster j := rfl
@[simp] theorem State.cluster_delTeam (s : State) (k : Nat) (j : Nat) : (s.delTeam k).cluster j = s.cluster j := rfl
@[simp] theorem State.cluster_setPart (s : State) (k : Nat) (x : Part) (j : Nat) : (s.setPart k x).cluster j = s.cluster j := rfl
@[simp] theorem State.cluster_setHart (s : State) (k : Nat) (x : Hart) (j : Nat) : (s.setHart k x).cluster j = s.cluster j := rfl
@[simp] theorem State.cluster_setMem (s : State) (x : Mem) (j : Nat) : (s.setMem x).cluster j = s.cluster j := rfl
@[simp] theorem State.cluster_setCoh (s : State) (x : Coh) (j : Nat) : (s.setCoh x).cluster j = s.cluster j := rfl
@[simp] theorem State.cluster_setClock (s : State) (x : Clock) (j : Nat) : (s.setClock x).cluster j = s.cluster j := rfl
@[simp] theorem State.cluster_setTix (s : State) (x : Tix) (j : Nat) : (s.setTix x).cluster j = s.cluster j := rfl
@[simp] theorem State.cluster_setInn (s : State) (x : Inn) (j : Nat) : (s.setInn x).cluster j = s.cluster j := rfl
@[simp] theorem State.cluster_setPorter (s : State) (x : Porter) (j : Nat) : (s.setPorter x).cluster j = s.cluster j := rfl
@[simp] theorem State.cluster_setNode (s : State) (x : Node) (j : Nat) : (s.setNode x).cluster j = s.cluster j := rfl
@[simp] theorem State.cluster_setRpc (s : State) (x : RpcSt) (j : Nat) : (s.setRpc x).cluster j = s.cluster j := rfl
@[simp] theorem State.cluster_setDbg (s : State) (x : Dbg) (j : Nat) : (s.setDbg x).cluster j = s.cluster j := rfl
@[simp] theorem State.cluster_setTlb (s : State) (d : Nat) (l : List TlbEnt) (j : Nat) : (s.setTlb d l).cluster j = s.cluster j := rfl

/-! ### Updates of one record -/

@[simp] theorem State.modGroup_agenda (s : State) (k : Nat) (f : Group → Group) : (s.modGroup k f).agenda = s.agenda := by
  unfold State.modGroup; split <;> rfl
@[simp] theorem State.modGroup_cur (s : State) (k : Nat) (f : Group → Group) : (s.modGroup k f).cur = s.cur := by
  unfold State.modGroup; split <;> rfl
@[simp] theorem State.modGroup_clock (s : State) (k : Nat) (f : Group → Group) : (s.modGroup k f).clock = s.clock := by
  unfold State.modGroup; split <;> rfl
@[simp] theorem State.modGroup_mem (s : State) (k : Nat) (f : Group → Group) : (s.modGroup k f).mem = s.mem := by
  unfold State.modGroup; split <;> rfl
@[simp] theorem State.modGroup_coh (s : State) (k : Nat) (f : Group → Group) : (s.modGroup k f).coh = s.coh := by
  unfold State.modGroup; split <;> rfl
@[simp] theorem State.modGroup_tlbs (s : State) (k : Nat) (f : Group → Group) : (s.modGroup k f).tlbs = s.tlbs := by
  unfold State.modGroup; split <;> rfl
@[simp] theorem State.modGroup_teams (s : State) (k : Nat) (f : Group → Group) : (s.modGroup k f).teams = s.teams := by
  unfold State.modGroup; split <;> rfl
@[simp] theorem State.modGroup_cores (s : State) (k : Nat) (f : Group → Group) : (s.modGroup k f).cores = s.cores := by
  unfold State.modGroup; split <;> rfl
@[simp] theorem State.modGroup_clusters (s : State) (k : Nat) (f : Group → Group) : (s.modGroup k f).clusters = s.clusters := by
  unfold State.modGroup; split <;> rfl
@[simp] theorem State.modGroup_parts (s : State) (k : Nat) (f : Group → Group) : (s.modGroup k f).parts = s.parts := by
  unfold State.modGroup; split <;> rfl
@[simp] theorem State.modGroup_harts (s : State) (k : Nat) (f : Group → Group) : (s.modGroup k f).harts = s.harts := by
  unfold State.modGroup; split <;> rfl
@[simp] theorem State.modGroup_tix (s : State) (k : Nat) (f : Group → Group) : (s.modGroup k f).tix = s.tix := by
  unfold State.modGroup; split <;> rfl
@[simp] theorem State.modGroup_inn (s : State) (k : Nat) (f : Group → Group) : (s.modGroup k f).inn = s.inn := by
  unfold State.modGroup; split <;> rfl
@[simp] theorem State.modGroup_porter (s : State) (k : Nat) (f : Group → Group) : (s.modGroup k f).porter = s.porter := by
  unfold State.modGroup; split <;> rfl
@[simp] theorem State.modGroup_node (s : State) (k : Nat) (f : Group → Group) : (s.modGroup k f).node = s.node := by
  unfold State.modGroup; split <;> rfl
@[simp] theorem State.modGroup_rpc (s : State) (k : Nat) (f : Group → Group) : (s.modGroup k f).rpc = s.rpc := by
  unfold State.modGroup; split <;> rfl
@[simp] theorem State.modGroup_dbg (s : State) (k : Nat) (f : Group → Group) : (s.modGroup k f).dbg = s.dbg := by
  unfold State.modGroup; split <;> rfl
@[simp] theorem State.group_modGroup (s : State) (k j : Nat) (f : Group → Group) :
    (s.modGroup k f).group? j = if j = k then (s.group? k).map f else s.group? j := by
  unfold State.modGroup
  split <;> rename_i h
  · by_cases hj : j = k <;> simp [hj, h]
  · by_cases hj : j = k <;> simp [hj, h]
@[simp] theorem State.team_modGroup (s : State) (k : Nat) (f : Group → Group) (j : Nat) : (s.modGroup k f).team? j = s.team? j := by
  unfold State.modGroup; split <;> rfl
@[simp] theorem State.part_modGroup (s : State) (k : Nat) (f : Group → Group) (j : Nat) : (s.modGroup k f).part? j = s.part? j := by
  unfold State.modGroup; split <;> rfl
@[simp] theorem State.core_modGroup (s : State) (k : Nat) (f : Group → Group) (j : Nat) : (s.modGroup k f).core j = s.core j := by
  unfold State.modGroup; split <;> rfl
@[simp] theorem State.hart_modGroup (s : State) (k : Nat) (f : Group → Group) (j : Nat) : (s.modGroup k f).hart j = s.hart j := by
  unfold State.modGroup; split <;> rfl
@[simp] theorem State.cluster_modGroup (s : State) (k : Nat) (f : Group → Group) (j : Nat) : (s.modGroup k f).cluster j = s.cluster j := by
  unfold State.modGroup; split <;> rfl
@[simp] theorem State.modTeam_agenda (s : State) (k : Nat) (f : Team → Team) : (s.modTeam k f).agenda = s.agenda := by
  unfold State.modTeam; split <;> rfl
@[simp] theorem State.modTeam_cur (s : State) (k : Nat) (f : Team → Team) : (s.modTeam k f).cur = s.cur := by
  unfold State.modTeam; split <;> rfl
@[simp] theorem State.modTeam_clock (s : State) (k : Nat) (f : Team → Team) : (s.modTeam k f).clock = s.clock := by
  unfold State.modTeam; split <;> rfl
@[simp] theorem State.modTeam_mem (s : State) (k : Nat) (f : Team → Team) : (s.modTeam k f).mem = s.mem := by
  unfold State.modTeam; split <;> rfl
@[simp] theorem State.modTeam_coh (s : State) (k : Nat) (f : Team → Team) : (s.modTeam k f).coh = s.coh := by
  unfold State.modTeam; split <;> rfl
@[simp] theorem State.modTeam_tlbs (s : State) (k : Nat) (f : Team → Team) : (s.modTeam k f).tlbs = s.tlbs := by
  unfold State.modTeam; split <;> rfl
@[simp] theorem State.modTeam_groups (s : State) (k : Nat) (f : Team → Team) : (s.modTeam k f).groups = s.groups := by
  unfold State.modTeam; split <;> rfl
@[simp] theorem State.modTeam_cores (s : State) (k : Nat) (f : Team → Team) : (s.modTeam k f).cores = s.cores := by
  unfold State.modTeam; split <;> rfl
@[simp] theorem State.modTeam_clusters (s : State) (k : Nat) (f : Team → Team) : (s.modTeam k f).clusters = s.clusters := by
  unfold State.modTeam; split <;> rfl
@[simp] theorem State.modTeam_parts (s : State) (k : Nat) (f : Team → Team) : (s.modTeam k f).parts = s.parts := by
  unfold State.modTeam; split <;> rfl
@[simp] theorem State.modTeam_harts (s : State) (k : Nat) (f : Team → Team) : (s.modTeam k f).harts = s.harts := by
  unfold State.modTeam; split <;> rfl
@[simp] theorem State.modTeam_tix (s : State) (k : Nat) (f : Team → Team) : (s.modTeam k f).tix = s.tix := by
  unfold State.modTeam; split <;> rfl
@[simp] theorem State.modTeam_inn (s : State) (k : Nat) (f : Team → Team) : (s.modTeam k f).inn = s.inn := by
  unfold State.modTeam; split <;> rfl
@[simp] theorem State.modTeam_porter (s : State) (k : Nat) (f : Team → Team) : (s.modTeam k f).porter = s.porter := by
  unfold State.modTeam; split <;> rfl
@[simp] theorem State.modTeam_node (s : State) (k : Nat) (f : Team → Team) : (s.modTeam k f).node = s.node := by
  unfold State.modTeam; split <;> rfl
@[simp] theorem State.modTeam_rpc (s : State) (k : Nat) (f : Team → Team) : (s.modTeam k f).rpc = s.rpc := by
  unfold State.modTeam; split <;> rfl
@[simp] theorem State.modTeam_dbg (s : State) (k : Nat) (f : Team → Team) : (s.modTeam k f).dbg = s.dbg := by
  unfold State.modTeam; split <;> rfl
@[simp] theorem State.team_modTeam (s : State) (k j : Nat) (f : Team → Team) :
    (s.modTeam k f).team? j = if j = k then (s.team? k).map f else s.team? j := by
  unfold State.modTeam
  split <;> rename_i h
  · by_cases hj : j = k <;> simp [hj, h]
  · by_cases hj : j = k <;> simp [hj, h]
@[simp] theorem State.group_modTeam (s : State) (k : Nat) (f : Team → Team) (j : Nat) : (s.modTeam k f).group? j = s.group? j := by
  unfold State.modTeam; split <;> rfl
@[simp] theorem State.part_modTeam (s : State) (k : Nat) (f : Team → Team) (j : Nat) : (s.modTeam k f).part? j = s.part? j := by
  unfold State.modTeam; split <;> rfl
@[simp] theorem State.core_modTeam (s : State) (k : Nat) (f : Team → Team) (j : Nat) : (s.modTeam k f).core j = s.core j := by
  unfold State.modTeam; split <;> rfl
@[simp] theorem State.hart_modTeam (s : State) (k : Nat) (f : Team → Team) (j : Nat) : (s.modTeam k f).hart j = s.hart j := by
  unfold State.modTeam; split <;> rfl
@[simp] theorem State.cluster_modTeam (s : State) (k : Nat) (f : Team → Team) (j : Nat) : (s.modTeam k f).cluster j = s.cluster j := by
  unfold State.modTeam; split <;> rfl
@[simp] theorem State.modPart_agenda (s : State) (k : Nat) (f : Part → Part) : (s.modPart k f).agenda = s.agenda := by
  unfold State.modPart; split <;> rfl
@[simp] theorem State.modPart_cur (s : State) (k : Nat) (f : Part → Part) : (s.modPart k f).cur = s.cur := by
  unfold State.modPart; split <;> rfl
@[simp] theorem State.modPart_clock (s : State) (k : Nat) (f : Part → Part) : (s.modPart k f).clock = s.clock := by
  unfold State.modPart; split <;> rfl
@[simp] theorem State.modPart_mem (s : State) (k : Nat) (f : Part → Part) : (s.modPart k f).mem = s.mem := by
  unfold State.modPart; split <;> rfl
@[simp] theorem State.modPart_coh (s : State) (k : Nat) (f : Part → Part) : (s.modPart k f).coh = s.coh := by
  unfold State.modPart; split <;> rfl
@[simp] theorem State.modPart_tlbs (s : State) (k : Nat) (f : Part → Part) : (s.modPart k f).tlbs = s.tlbs := by
  unfold State.modPart; split <;> rfl
@[simp] theorem State.modPart_groups (s : State) (k : Nat) (f : Part → Part) : (s.modPart k f).groups = s.groups := by
  unfold State.modPart; split <;> rfl
@[simp] theorem State.modPart_teams (s : State) (k : Nat) (f : Part → Part) : (s.modPart k f).teams = s.teams := by
  unfold State.modPart; split <;> rfl
@[simp] theorem State.modPart_cores (s : State) (k : Nat) (f : Part → Part) : (s.modPart k f).cores = s.cores := by
  unfold State.modPart; split <;> rfl
@[simp] theorem State.modPart_clusters (s : State) (k : Nat) (f : Part → Part) : (s.modPart k f).clusters = s.clusters := by
  unfold State.modPart; split <;> rfl
@[simp] theorem State.modPart_harts (s : State) (k : Nat) (f : Part → Part) : (s.modPart k f).harts = s.harts := by
  unfold State.modPart; split <;> rfl
@[simp] theorem State.modPart_tix (s : State) (k : Nat) (f : Part → Part) : (s.modPart k f).tix = s.tix := by
  unfold State.modPart; split <;> rfl
@[simp] theorem State.modPart_inn (s : State) (k : Nat) (f : Part → Part) : (s.modPart k f).inn = s.inn := by
  unfold State.modPart; split <;> rfl
@[simp] theorem State.modPart_porter (s : State) (k : Nat) (f : Part → Part) : (s.modPart k f).porter = s.porter := by
  unfold State.modPart; split <;> rfl
@[simp] theorem State.modPart_node (s : State) (k : Nat) (f : Part → Part) : (s.modPart k f).node = s.node := by
  unfold State.modPart; split <;> rfl
@[simp] theorem State.modPart_rpc (s : State) (k : Nat) (f : Part → Part) : (s.modPart k f).rpc = s.rpc := by
  unfold State.modPart; split <;> rfl
@[simp] theorem State.modPart_dbg (s : State) (k : Nat) (f : Part → Part) : (s.modPart k f).dbg = s.dbg := by
  unfold State.modPart; split <;> rfl
@[simp] theorem State.part_modPart (s : State) (k j : Nat) (f : Part → Part) :
    (s.modPart k f).part? j = if j = k then (s.part? k).map f else s.part? j := by
  unfold State.modPart
  split <;> rename_i h
  · by_cases hj : j = k <;> simp [hj, h]
  · by_cases hj : j = k <;> simp [hj, h]
@[simp] theorem State.group_modPart (s : State) (k : Nat) (f : Part → Part) (j : Nat) : (s.modPart k f).group? j = s.group? j := by
  unfold State.modPart; split <;> rfl
@[simp] theorem State.team_modPart (s : State) (k : Nat) (f : Part → Part) (j : Nat) : (s.modPart k f).team? j = s.team? j := by
  unfold State.modPart; split <;> rfl
@[simp] theorem State.core_modPart (s : State) (k : Nat) (f : Part → Part) (j : Nat) : (s.modPart k f).core j = s.core j := by
  unfold State.modPart; split <;> rfl
@[simp] theorem State.hart_modPart (s : State) (k : Nat) (f : Part → Part) (j : Nat) : (s.modPart k f).hart j = s.hart j := by
  unfold State.modPart; split <;> rfl
@[simp] theorem State.cluster_modPart (s : State) (k : Nat) (f : Part → Part) (j : Nat) : (s.modPart k f).cluster j = s.cluster j := by
  unfold State.modPart; split <;> rfl
@[simp] theorem State.modCore_agenda (s : State) (k : Nat) (f : Core → Core) : (s.modCore k f).agenda = s.agenda := rfl
@[simp] theorem State.modCore_cur (s : State) (k : Nat) (f : Core → Core) : (s.modCore k f).cur = s.cur := rfl
@[simp] theorem State.modCore_clock (s : State) (k : Nat) (f : Core → Core) : (s.modCore k f).clock = s.clock := rfl
@[simp] theorem State.modCore_mem (s : State) (k : Nat) (f : Core → Core) : (s.modCore k f).mem = s.mem := rfl
@[simp] theorem State.modCore_coh (s : State) (k : Nat) (f : Core → Core) : (s.modCore k f).coh = s.coh := rfl
@[simp] theorem State.modCore_tlbs (s : State) (k : Nat) (f : Core → Core) : (s.modCore k f).tlbs = s.tlbs := rfl
@[simp] theorem State.modCore_groups (s : State) (k : Nat) (f : Core → Core) : (s.modCore k f).groups = s.groups := rfl
@[simp] theorem State.modCore_teams (s : State) (k : Nat) (f : Core → Core) : (s.modCore k f).teams = s.teams := rfl
@[simp] theorem State.modCore_clusters (s : State) (k : Nat) (f : Core → Core) : (s.modCore k f).clusters = s.clusters := rfl
@[simp] theorem State.modCore_parts (s : State) (k : Nat) (f : Core → Core) : (s.modCore k f).parts = s.parts := rfl
@[simp] theorem State.modCore_harts (s : State) (k : Nat) (f : Core → Core) : (s.modCore k f).harts = s.harts := rfl
@[simp] theorem State.modCore_tix (s : State) (k : Nat) (f : Core → Core) : (s.modCore k f).tix = s.tix := rfl
@[simp] theorem State.modCore_inn (s : State) (k : Nat) (f : Core → Core) : (s.modCore k f).inn = s.inn := rfl
@[simp] theorem State.modCore_porter (s : State) (k : Nat) (f : Core → Core) : (s.modCore k f).porter = s.porter := rfl
@[simp] theorem State.modCore_node (s : State) (k : Nat) (f : Core → Core) : (s.modCore k f).node = s.node := rfl
@[simp] theorem State.modCore_rpc (s : State) (k : Nat) (f : Core → Core) : (s.modCore k f).rpc = s.rpc := rfl
@[simp] theorem State.modCore_dbg (s : State) (k : Nat) (f : Core → Core) : (s.modCore k f).dbg = s.dbg := rfl
@[simp] theorem State.core_modCore (s : State) (k j : Nat) (f : Core → Core) :
    (s.modCore k f).core j = if j = k then f (s.core k) else s.core j := by
  simp [State.modCore]
@[simp] theorem State.group_modCore (s : State) (k : Nat) (f : Core → Core) (j : Nat) : (s.modCore k f).group? j = s.group? j := rfl
@[simp] theorem State.team_modCore (s : State) (k : Nat) (f : Core → Core) (j : Nat) : (s.modCore k f).team? j = s.team? j := rfl
@[simp] theorem State.part_modCore (s : State) (k : Nat) (f : Core → Core) (j : Nat) : (s.modCore k f).part? j = s.part? j := rfl
@[simp] theorem State.hart_modCore (s : State) (k : Nat) (f : Core → Core) (j : Nat) : (s.modCore k f).hart j = s.hart j := rfl
@[simp] theorem State.cluster_modCore (s : State) (k : Nat) (f : Core → Core) (j : Nat) : (s.modCore k f).cluster j = s.cluster j := rfl
@[simp] theorem State.modHart_agenda (s : State) (k : Nat) (f : Hart → Hart) : (s.modHart k f).agenda = s.agenda := rfl
@[simp] theorem State.modHart_cur (s : State) (k : Nat) (f : Hart → Hart) : (s.modHart k f).cur = s.cur := rfl
@[simp] theorem State.modHart_clock (s : State) (k : Nat) (f : Hart → Hart) : (s.modHart k f).clock = s.clock := rfl
@[simp] theorem State.modHart_mem (s : State) (k : Nat) (f : Hart → Hart) : (s.modHart k f).mem = s.mem := rfl
@[simp] theorem State.modHart_coh (s : State) (k : Nat) (f : Hart → Hart) : (s.modHart k f).coh = s.coh := rfl
@[simp] theorem State.modHart_tlbs (s : State) (k : Nat) (f : Hart → Hart) : (s.modHart k f).tlbs = s.tlbs := rfl
@[simp] theorem State.modHart_groups (s : State) (k : Nat) (f : Hart → Hart) : (s.modHart k f).groups = s.groups := rfl
@[simp] theorem State.modHart_teams (s : State) (k : Nat) (f : Hart → Hart) : (s.modHart k f).teams = s.teams := rfl
@[simp] theorem State.modHart_cores (s : State) (k : Nat) (f : Hart → Hart) : (s.modHart k f).cores = s.cores := rfl
@[simp] theorem State.modHart_clusters (s : State) (k : Nat) (f : Hart → Hart) : (s.modHart k f).clusters = s.clusters := rfl
@[simp] theorem State.modHart_parts (s : State) (k : Nat) (f : Hart → Hart) : (s.modHart k f).parts = s.parts := rfl
@[simp] theorem State.modHart_tix (s : State) (k : Nat) (f : Hart → Hart) : (s.modHart k f).tix = s.tix := rfl
@[simp] theorem State.modHart_inn (s : State) (k : Nat) (f : Hart → Hart) : (s.modHart k f).inn = s.inn := rfl
@[simp] theorem State.modHart_porter (s : State) (k : Nat) (f : Hart → Hart) : (s.modHart k f).porter = s.porter := rfl
@[simp] theorem State.modHart_node (s : State) (k : Nat) (f : Hart → Hart) : (s.modHart k f).node = s.node := rfl
@[simp] theorem State.modHart_rpc (s : State) (k : Nat) (f : Hart → Hart) : (s.modHart k f).rpc = s.rpc := rfl
@[simp] theorem State.modHart_dbg (s : State) (k : Nat) (f : Hart → Hart) : (s.modHart k f).dbg = s.dbg := rfl
@[simp] theorem State.hart_modHart (s : State) (k j : Nat) (f : Hart → Hart) :
    (s.modHart k f).hart j = if j = k then f (s.hart k) else s.hart j := by
  simp [State.modHart]
@[simp] theorem State.group_modHart (s : State) (k : Nat) (f : Hart → Hart) (j : Nat) : (s.modHart k f).group? j = s.group? j := rfl
@[simp] theorem State.team_modHart (s : State) (k : Nat) (f : Hart → Hart) (j : Nat) : (s.modHart k f).team? j = s.team? j := rfl
@[simp] theorem State.part_modHart (s : State) (k : Nat) (f : Hart → Hart) (j : Nat) : (s.modHart k f).part? j = s.part? j := rfl
@[simp] theorem State.core_modHart (s : State) (k : Nat) (f : Hart → Hart) (j : Nat) : (s.modHart k f).core j = s.core j := rfl
@[simp] theorem State.cluster_modHart (s : State) (k : Nat) (f : Hart → Hart) (j : Nat) : (s.modHart k f).cluster j = s.cluster j := rfl

end Sys2Proof.Machine
end

