-- ==== Sys2Proof/Laws/Group.lean ====
section
/-! SUPPORT. Laws of the operations on a group: lanes and masks, register writes, barriers (R24, R27, R30, R112). -/

namespace Sys2Proof

theorem mem_lanesOf {m : BitVec 32} {l : Nat} : l ∈ lanesOf m ↔ l < 32 ∧ m.getLsbD l = true := by
  simp [lanesOf]

theorem lanesOf_zero : lanesOf 0 = [] := by decide

theorem laneBit_getLsbD (l j : Nat) : (laneBit l).getLsbD j = (decide (j < 32) && decide (j = l)) := by
  simp only [laneBit, BitVec.getLsbD_ofNat, Nat.testBit_two_pow]
  by_cases h : l = j
  · simp [h]
  · simp [h, Ne.symm h]

theorem foldl_or_getLsbD {α : Type} (f : α → BitVec 32) (ls : List α) (m : BitVec 32) (j : Nat) :
    (ls.foldl (fun m a => m ||| f a) m).getLsbD j = (m.getLsbD j || ls.any (fun a => (f a).getLsbD j)) := by
  induction ls generalizing m with
  | nil => simp
  | cons a r ih => simp [ih, Bool.or_assoc]

theorem maskOf_getLsbD (ls : List Nat) (j : Nat) : (maskOf ls).getLsbD j = (decide (j < 32) && decide (j ∈ ls)) := by
  unfold maskOf
  rw [foldl_or_getLsbD]
  have h0 : (0 : BitVec 32).getLsbD j = false := by simp
  simp only [h0, Bool.false_or, laneBit_getLsbD]
  by_cases h : j < 32
  · by_cases hm : j ∈ ls
    · simp [h, hm]
    · simp only [h, decide_true, Bool.true_and, hm, decide_false]
      rw [List.any_eq_false]
      intro a ha
      simp only [decide_eq_true_eq]
      intro hja; exact hm (hja ▸ ha)
  · simp [h]

end Sys2Proof

namespace Sys2Proof.Machine

theorem sget_setLanes (m : SMap 32) (mask : LaneMask) (f : Nat → BitVec 32) (l : Nat) :
    sget (setLanes m mask f) l = if l < 32 ∧ mask.getLsbD l = true then f l else sget m l := by
  unfold setLanes
  split
  · rename_i h
    refine sget_ssets_mem _ _ _ _ ?_ ?_
    · exact List.mem_map.mpr ⟨l, mem_lanesOf.mpr h, rfl⟩
    · intro e he hk
      obtain ⟨a, -, ha⟩ := List.mem_map.mp he
      subst ha; simp only at hk ⊢; rw [hk]
  · rename_i h
    refine sget_ssets_other _ _ _ ?_
    intro e he hk
    obtain ⟨a, ha, hae⟩ := List.mem_map.mp he
    subst hae; simp only at hk; subst hk
    exact h (mem_lanesOf.mp ha)

/-! ### Register writes -/

@[simp] theorem Group.putV_v (g : Group) (l : List (Nat × BitVec 32)) : (g.putV l).v = ssets g.v l := rfl
@[simp] theorem Group.putV_s (g : Group) (l : List (Nat × BitVec 32)) : (g.putV l).s = g.s := rfl
@[simp] theorem Group.putV_p (g : Group) (l : List (Nat × BitVec 32)) : (g.putV l).p = g.p := rfl
@[simp] theorem Group.putV_sflags (g : Group) (l : List (Nat × BitVec 32)) : (g.putV l).sflags = g.sflags := rfl
@[simp] theorem Group.putV_exited (g : Group) (l : List (Nat × BitVec 32)) : (g.putV l).exited = g.exited := rfl
@[simp] theorem Group.putV_stopEv (g : Group) (l : List (Nat × BitVec 32)) : (g.putV l).stopEv = g.stopEv := rfl
@[simp] theorem Group.putV_pcv (g : Group) (l : List (Nat × BitVec 32)) : (g.putV l).pcv = g.pcv := rfl
@[simp] theorem Group.putS_v (g : Group) (r : Nat) (x : BitVec 64) : (g.putS r x).v = g.v := rfl
@[simp] theorem Group.putS_s (g : Group) (r : Nat) (x : BitVec 64) : (g.putS r x).s = sset g.s r x := rfl
@[simp] theorem Group.putS_p (g : Group) (r : Nat) (x : BitVec 64) : (g.putS r x).p = g.p := rfl
@[simp] theorem Group.putS_sflags (g : Group) (r : Nat) (x : BitVec 64) : (g.putS r x).sflags = g.sflags := rfl
@[simp] theorem Group.putS_exited (g : Group) (r : Nat) (x : BitVec 64) : (g.putS r x).exited = g.exited := rfl
@[simp] theorem Group.putS_stopEv (g : Group) (r : Nat) (x : BitVec 64) : (g.putS r x).stopEv = g.stopEv := rfl
@[simp] theorem Group.putS_pcv (g : Group) (r : Nat) (x : BitVec 64) : (g.putS r x).pcv = g.pcv := rfl
@[simp] theorem Group.putP_v (g : Group) (r : Nat) (x : LaneMask) : (g.putP r x).v = g.v := by unfold Group.putP; split <;> rfl
@[simp] theorem Group.putP_s (g : Group) (r : Nat) (x : LaneMask) : (g.putP r x).s = g.s := by unfold Group.putP; split <;> rfl
@[simp] theorem Group.putP_sflags (g : Group) (r : Nat) (x : LaneMask) : (g.putP r x).sflags = g.sflags := by
  unfold Group.putP; split <;> rfl
@[simp] theorem Group.putP_exited (g : Group) (r : Nat) (x : LaneMask) : (g.putP r x).exited = g.exited := by
  unfold Group.putP; split <;> rfl
@[simp] theorem Group.putP_stopEv (g : Group) (r : Nat) (x : LaneMask) : (g.putP r x).stopEv = g.stopEv := by
  unfold Group.putP; split <;> rfl
@[simp] theorem Group.putP_pcv (g : Group) (r : Nat) (x : LaneMask) : (g.putP r x).pcv = g.pcv := by
  unfold Group.putP; split <;> rfl
@[simp] theorem Group.addFlags_v (g : Group) (f : Flags) : (g.addFlags f).v = g.v := rfl
@[simp] theorem Group.addFlags_s (g : Group) (f : Flags) : (g.addFlags f).s = g.s := rfl
@[simp] theorem Group.addFlags_p (g : Group) (f : Flags) : (g.addFlags f).p = g.p := rfl
@[simp] theorem Group.addFlags_sflags (g : Group) (f : Flags) : (g.addFlags f).sflags = orFlags g.sflags f := rfl
@[simp] theorem Group.addFlags_exited (g : Group) (f : Flags) : (g.addFlags f).exited = g.exited := rfl
@[simp] theorem Group.addFlags_stopEv (g : Group) (f : Flags) : (g.addFlags f).stopEv = g.stopEv := rfl
@[simp] theorem Group.addFlags_pcv (g : Group) (f : Flags) : (g.addFlags f).pcv = g.pcv := rfl

theorem Group.putV_eq (g : Group) (l : List (Nat × BitVec 32)) : g.putV l = { g with v := ssets g.v l, oldv := (g.putV l).oldv } := rfl
theorem Group.addFlags_eq (g : Group) (f : Flags) : g.addFlags f = { g with sflags := orFlags g.sflags f } := rfl
theorem Group.putP_eq (g : Group) (r : Nat) (x : LaneMask) : g.putP r x = { g with p := (g.putP r x).p } := by
  unfold Group.putP; split <;> rfl

theorem Group.sr_putS (g : Group) (r j : Nat) (x : BitVec 64) : (g.putS r x).sr j = if j = r then x else g.sr j := by
  simp [Group.sr, sget_sset]
theorem Group.pr_putP (g : Group) (r j : Nat) (x : LaneMask) :
    (g.putP r x).pr j = if j = 0 then 0xFFFFFFFF else if j = r then x else g.pr j := by
  unfold Group.pr Group.putP
  by_cases hj : j = 0
  · simp [hj]
  · by_cases hr : r = 0
    · have : ¬ j = r := by omega
      simp [hj, hr]
    · simp [hj, hr, sget_sset]

/-! ### Barriers -/

theorem Group.release1_eq (g : Group) (b : Nat) :
    g.release1 b = { g with pcv := (g.release1 b).pcv, rwait := (g.release1 b).rwait, rmask := (g.release1 b).rmask } := by
  simp only [Group.release1]; split <;> rfl

theorem Group.release_fold_eq (l : List Nat) (g : Group) :
    l.foldl (fun g b => g.release1 b) g = { g with
      pcv := (l.foldl (fun g b => g.release1 b) g).pcv, rwait := (l.foldl (fun g b => g.release1 b) g).rwait,
      rmask := (l.foldl (fun g b => g.release1 b) g).rmask } := by
  induction l generalizing g with
  | nil => rfl
  | cons b r ih =>
    rw [List.foldl_cons, ih]
    rw [Group.release1_eq]

/-- The release test touches counters, waits and masks alone (R27). -/
theorem Group.releaseAll_eq (g : Group) :
    g.releaseAll = { g with pcv := g.releaseAll.pcv, rwait := g.releaseAll.rwait, rmask := g.releaseAll.rmask } :=
  Group.release_fold_eq _ g

@[simp] theorem Group.releaseAll_v (g : Group) : g.releaseAll.v = g.v := by rw [Group.releaseAll_eq]
@[simp] theorem Group.releaseAll_s (g : Group) : g.releaseAll.s = g.s := by rw [Group.releaseAll_eq]
@[simp] theorem Group.releaseAll_p (g : Group) : g.releaseAll.p = g.p := by rw [Group.releaseAll_eq]
@[simp] theorem Group.releaseAll_sflags (g : Group) : g.releaseAll.sflags = g.sflags := by rw [Group.releaseAll_eq]
@[simp] theorem Group.releaseAll_exited (g : Group) : g.releaseAll.exited = g.exited := by rw [Group.releaseAll_eq]
@[simp] theorem Group.releaseAll_stopEv (g : Group) : g.releaseAll.stopEv = g.stopEv := by rw [Group.releaseAll_eq]
@[simp] theorem Group.releaseAll_ops (g : Group) : g.releaseAll.ops = g.ops := by rw [Group.releaseAll_eq]

theorem Group.rejoining_getLsbD (g : Group) (b l : Nat) (h : g.rejoining.getLsbD l = false) :
    (sget g.rwait b).getLsbD l = false := by
  have key : ∀ (w : SMap 32), w.any (fun e => e.2.getLsbD l) = false → (sget w b).getLsbD l = false := by
    intro w hw
    induction w with
    | nil => simp [sget]
    | cons e r ih =>
      obtain ⟨a, x⟩ := e
      simp only [List.any_cons, Bool.or_eq_false_iff] at hw
      simp only [sget]
      split
      · exact hw.1
      · exact ih hw.2
  unfold Group.rejoining at h
  rw [foldl_or_getLsbD] at h
  have h0 : (0 : BitVec 32).getLsbD l = false := by simp
  simp only [h0, Bool.false_or] at h
  exact key _ h

theorem Group.release1_lane (g : Group) (b l : Nat) (h : ∀ c, (sget g.rwait c).getLsbD l = false) :
    sget (g.release1 b).pcv l = sget g.pcv l ∧ ∀ c, (sget (g.release1 b).rwait c).getLsbD l = false := by
  simp only [Group.release1]
  split
  · refine ⟨?_, fun c => ?_⟩
    · simp only [sget_setLanes]
      rw [if_neg]; intro hc; rw [h b] at hc; simp at hc
    · simp only [sget_sset]
      split
      · simp
      · exact h c
  · exact ⟨rfl, h⟩

/-- A lane that waits at no barrier keeps its counter through the release test. -/
theorem Group.releaseAll_pcv (g : Group) (l : Nat) (h : g.rejoining.getLsbD l = false) :
    sget g.releaseAll.pcv l = sget g.pcv l := by
  have key : ∀ (bs : List Nat) (g : Group), (∀ c, (sget g.rwait c).getLsbD l = false) →
      sget (bs.foldl (fun g b => g.release1 b) g).pcv l = sget g.pcv l := by
    intro bs
    induction bs with
    | nil => intro g _; rfl
    | cons b r ih =>
      intro g hg
      have h1 := Group.release1_lane g b l hg
      rw [List.foldl_cons, ih _ h1.2, h1.1]
  exact key _ g (fun c => Group.rejoining_getLsbD g c l h)

end Sys2Proof.Machine
end

