-- ==== Sys2Proof/Laws/Issue.lean ====
section
/-! SUPPORT. What one issue does (R24, R205, R416): the facts that `issue?` gives, and what `perform` leaves
where nothing faults and nothing holds the instruction. -/

namespace Sys2Proof.Machine

theorem maskOf_and_lane {m : BitVec 32} (l : Nat) (h : m.getLsbD l = true) : l < 32 := by
  by_contra hl
  rw [BitVec.getLsbD_of_ge m l (by omega)] at h
  exact Bool.noConfusion h

/-- What an issue says of the state (R24). -/
theorem issue?_some {s : State} {h : Hdr} {i : Issue} (hi : s.issue? h = some i) :
    s.cur = .group i.gk ∧ (∃ g0, s.group? i.gk = some g0 ∧ g0.st = .running ∧ g0.txend = none ∧ g0.stopEv = none ∧ g0.arrived = none ∧
      i.g = if g0.eligible = 0 then { g0 with yielded := 0 } else g0) ∧
    i.g.eligible ≠ 0 ∧ i.pc = i.g.pcMin i.g.eligible ∧ i.act = i.g.lanesAt i.g.eligible i.pc ∧
    i.exe = i.act &&& (if h.gn then ~~~(i.g.pr h.g.toNat) else i.g.pr h.g.toNat) := by
  unfold State.issue? at hi
  split at hi
  · rename_i gk hcur
    split at hi
    · rename_i g0 hg
      split at hi
      · cases hi
      · rename_i hst
        simp only [Bool.or_eq_true, not_or, bne_iff_ne, ne_eq, not_not, Bool.not_eq_true, Option.isSome_eq_false_iff, Option.isNone_iff_eq_none] at hst
        generalize hgg : (if g0.eligible = 0 then { g0 with yielded := 0 } else g0) = g' at hi
        simp only at hi
        split at hi
        · cases hi
        · rename_i he
          cases hi
          exact ⟨hcur, ⟨g0, hg, hst.1.1.1, hst.1.1.2, hst.1.2, hst.2, hgg.symm⟩, he, rfl, rfl, rfl⟩
    · cases hi
  · cases hi

/-- A lane of `act` is eligible and stands at the instruction. -/
theorem issue?_act {s : State} {h : Hdr} {i : Issue} (hi : s.issue? h = some i) (l : Nat) (ha : i.act.getLsbD l = true) :
    l < 32 ∧ i.g.eligible.getLsbD l = true ∧ (sget i.g.pcv l).toNat = i.pc := by
  obtain ⟨-, -, -, -, hact, -⟩ := issue?_some hi
  rw [hact] at ha
  unfold Group.lanesAt at ha
  rw [maskOf_getLsbD] at ha
  simp only [Bool.and_eq_true, decide_eq_true_eq, List.mem_filter, mem_lanesOf, beq_iff_eq] at ha
  exact ⟨ha.1, ha.2.1.2, ha.2.2⟩

/-- A lane of `exe` is one of `act`. -/
theorem issue?_exe {s : State} {h : Hdr} {i : Issue} (hi : s.issue? h = some i) (l : Nat) (ha : i.exe.getLsbD l = true) :
    i.act.getLsbD l = true := by
  obtain ⟨-, -, -, -, -, hexe⟩ := issue?_some hi
  rw [hexe, BitVec.getLsbD_and, Bool.and_eq_true] at ha
  exact ha.1

theorem eligible_lane {g : Group} {l : Nat} (h : g.eligible.getLsbD l = true) :
    g.exited.getLsbD l = false ∧ g.rejoining.getLsbD l = false ∧ g.mwait.getLsbD l = false ∧ g.yielded.getLsbD l = false := by
  unfold Group.eligible at h
  simp only [BitVec.getLsbD_not, BitVec.getLsbD_or, Bool.and_eq_true, Bool.not_eq_true', Bool.or_eq_false_iff] at h
  exact ⟨h.2.1.1.1, h.2.1.1.2, h.2.1.2, h.2.2⟩

/-- An issuing group has a lane that has not exited. -/
theorem issue?_alive {s : State} {h : Hdr} {i : Issue} (hi : s.issue? h = some i) : i.g.exited ≠ 0xFFFFFFFF := by
  obtain ⟨-, -, hel, -⟩ := issue?_some hi
  intro he
  apply hel
  unfold Group.eligible
  rw [he]
  apply BitVec.eq_of_getLsbD_eq
  intro j hj
  have h1 : (0xFFFFFFFF : BitVec 32).getLsbD j = true := by
    have : (0xFFFFFFFF : BitVec 32) = BitVec.allOnes 32 := by decide
    rw [this, BitVec.getLsbD_allOnes]; simpa using hj
  simp only [BitVec.getLsbD_not, BitVec.getLsbD_or, h1, hj]
  simp

/-- Entering a region moves region entries and the lanes of a watch, and nothing else. -/
theorem enterRegion_pcv (g : Group) (k : Nat) (m : LaneMask) (off : Nat) : (g.enterRegion k m off).pcv = g.pcv := by
  unfold Group.enterRegion; split <;> rfl
theorem enterRegion_rwait (g : Group) (k : Nat) (m : LaneMask) (off : Nat) : (g.enterRegion k m off).rwait = g.rwait := by
  unfold Group.enterRegion; split <;> rfl

theorem advance_moved (s : State) (i : Issue) (h : Hdr) (len opc : Nat) :
    (s.advance i h len opc).withMoved i.g = i.g := by
  unfold State.advance Group.withMoved
  simp only
  split
  · unfold Group.enterRegion; split <;> rfl
  · rfl

theorem advance_pcv (s : State) (i : Issue) (h : Hdr) (len opc : Nat) :
    (s.advance i h len opc).pcv = setLanes i.g.pcv i.act (fun _ => BitVec.ofNat 32 (i.pc + len)) := by
  unfold State.advance
  simp only
  split
  · rw [enterRegion_pcv]
  · rfl

theorem advance_epcv (s : State) (i : Issue) (h : Hdr) (len opc : Nat) (hw : h.w = false) :
    (s.advance i h len opc).epcv = i.g.epcv := by
  unfold State.advance
  simp [hw]

/-- The state when an instruction has issued and before its effect. -/
theorem issued_group (s : State) (i : Issue) (g : Group) (opc : Nat) :
    ((s.setGroup i.gk g).fireIssue i opc).group? i.gk = some g := by
  simp [State.fireIssue, State.group?, State.modCore, kget_kset_same]

theorem fireIssue_core (s : State) (i : Issue) (opc c : Nat) :
    ((s.fireIssue i opc).core c).withCounts (s.core c) = s.core c := by
  unfold State.fireIssue State.modCore
  by_cases hc : c = coreOf i.gk
  · subst hc; simp [State.core, kget_kset_same, Core.withCounts]
  · simp [State.core, kget_kset_ne _ _ hc, Core.withCounts]

theorem fireIssue_rest (s : State) (i : Issue) (opc : Nat) : { s.fireIssue i opc with cores := s.cores } = s := by
  unfold State.fireIssue State.modCore State.setCore; rfl

theorem maybeEnd_alive {s : State} {gk : Nat} {g : Group} (hg : s.group? gk = some g) (h : g.exited ≠ 0xFFFFFFFF)
    (hs : g.stopEv = none) : s.maybeEnd gk = s := by
  unfold State.maybeEnd; rw [hg]
  have h2 : (g.exited = 0xFFFFFFFF) = False := by simpa using h
  simp only [Group.ended, h2, decide_false, Bool.false_and, Bool.false_eq_true, if_false, hs]

/-- An issuing group takes no stop. -/
theorem issue?_stopEv {s : State} {h : Hdr} {i : Issue} (hi : s.issue? h = some i) : i.g.stopEv = none := by
  obtain ⟨-, ⟨g0, -, -, -, hs, -, hg⟩, -⟩ := issue?_some hi
  rw [hg]; split <;> exact hs

theorem finish_alive {s : State} {gk : Nat} {g : Group} (hg : s.group? gk = some g) (h : g.exited ≠ 0xFFFFFFFF)
    (hs : g.stopEv = none) :
    s.finish gk = s.setGroup gk g.releaseAll := by
  have h1 : s.modGroup gk Group.releaseAll = s.setGroup gk g.releaseAll := by unfold State.modGroup; rw [hg]
  unfold State.finish
  rw [h1]
  refine maybeEnd_alive (g := g.releaseAll) ?_ (by simpa using h) (by simpa using hs)
  simp [State.group?, kget_kset_same]

/-- Where no lane of `exe` is in a transaction none aborts with ILLEGAL (R249). -/
theorem illegal_none (i : Issue) (sp : Spec) (hx : sp.noTx = true → i.exe &&& i.g.intx = 0) : i.illegal sp = (0, i.exe) := by
  unfold Issue.illegal
  cases hn : sp.noTx
  · simp
  · have h0 := hx hn
    have h1 : maskOf ((lanesOf i.exe).take 1) &&& i.g.intx = 0 := by
      apply BitVec.eq_of_getLsbD_eq
      intro j hj
      have hz := congrArg (fun x => BitVec.getLsbD x j) h0
      simp only [BitVec.getLsbD_and] at hz ⊢
      cases hm : (maskOf ((lanesOf i.exe).take 1)).getLsbD j
      · simp
      · rw [maskOf_getLsbD] at hm
        simp only [Bool.and_eq_true, decide_eq_true_eq] at hm
        have hmem := mem_lanesOf.mp (List.mem_of_mem_take hm.2)
        rw [hmem.2] at hz
        simpa using hz
    have h2 : i.exe &&& ~~~(0 : BitVec 32) = i.exe := by
      ext j hj; rw [BitVec.getElem_and, BitVec.getElem_not]; simp
    rw [h0, h2, if_pos h1, ite_self]; rfl

/-- An instruction that nothing stops takes its effect in the state that has advanced (R24, R205, R416). -/
theorem perform_next {s : State} {h : Hdr} {i : Issue} (sp : Spec) (faults : State → Issue → List Flt)
    (hold : State → Issue → Option State) (effect : State → Issue → State)
    (hi : s.issue? h = some i) (hx : sp.noTx = true → i.exe &&& i.g.intx = 0)
    (hf : i.common sp ++ faults s i = []) (hw : ((i.exe != 0 || sp.always) && i.waitsReg sp) = false)
    (ha : sp.access = true → i.exe ≠ 0 → i.g.acquiring = false) (hh : hold s i = none) :
    perform s h sp faults hold effect =
      .next ((effect ((s.setGroup i.gk (s.advance i h sp.len sp.opc)).fireIssue i sp.opc) i).finish i.gk) := by
  have hill : i.illegal sp = (0, i.exe) := illegal_none i sp hx
  have hacc : (sp.access && i.exe != 0 && i.g.acquiring) = false := by
    cases h1 : sp.access
    · rfl
    · by_cases h2 : i.exe = 0
      · simp [h2]
      · simp [ha h1 h2]
  unfold perform
  rw [hi]
  simp only [hill, hf, State.pickFault, hw, hacc, hh, lanesOf_zero, List.map_nil, State.abortLanes,
    Bool.false_or, Bool.false_eq_true, if_false]

/-- The bytes of memory and of the local spaces read as before where only counts of issues change. -/
theorem readByte_of_rest {s t : State} (hr : { t with groups := s.groups, cores := s.cores } = s)
    (hcores : ∀ c, (t.core c).withCounts (s.core c) = s.core c) (p : Place) : t.readByte p = s.readByte p := by
  have hm : t.mem = s.mem := by have e := congrArg State.mem hr; exact e
  have hp : t.porter = s.porter := by have e := congrArg State.porter hr; exact e
  have hn : t.node = s.node := by have e := congrArg State.node hr; exact e
  have hc : t.clock = s.clock := by have e := congrArg State.clock hr; exact e
  have hg : ∀ pa, t.isGone pa = s.isGone pa := by intro pa; unfold State.isGone; rw [hm, hp, hn, hc]
  have hk : ∀ c, (t.core c).a = (s.core c).a ∧ (t.core c).w = (s.core c).w ∧
      (t.core c).apoison = (s.core c).apoison ∧ (t.core c).wpoison = (s.core c).wpoison := by
    intro c
    have hcc := hcores c
    have e1 := congrArg Core.a hcc
    have e2 := congrArg Core.w hcc
    have e3 := congrArg Core.apoison hcc
    have e4 := congrArg Core.wpoison hcc
    exact ⟨e1, e2, e3, e4⟩
  have e1 : t.isPoison p = s.isPoison p := by
    cases p with
    | glob pa => show (t.isGone pa || t.mem.poison.contains (pa / 64)) = _; rw [hg, hm]; rfl
    | aspc c o => show (t.core c).apoison.contains (o / 64) = _; rw [(hk c).2.2.1]; rfl
    | wspc c o => show (t.core c).wpoison.contains (o / 64) = _; rw [(hk c).2.2.2]; rfl
  have e2 : t.rawByte p = s.rawByte p := by
    cases p with
    | glob pa => show (if t.isGone pa = true then 0 else sget t.mem.bytes pa) = _; rw [hg, hm]; rfl
    | aspc c o => show sget (t.core c).a o = _; rw [(hk c).1]; rfl
    | wspc c o => show sget (t.core c).w o = _; rw [(hk c).2.1]; rfl
  unfold State.readByte
  rw [e1, e2]

/-- An instruction that acts on its group alone: the next state, its group and its frame. -/
theorem perform_onGroup {s : State} {h : Hdr} {i : Issue} (sp : Spec) (faults : State → Issue → List Flt)
    (hold : State → Issue → Option State) (f : Issue → Group → Group)
    (hi : s.issue? h = some i) (hx : sp.noTx = true → i.exe &&& i.g.intx = 0)
    (hf : i.common sp ++ faults s i = []) (hw : ((i.exe != 0 || sp.always) && i.waitsReg sp) = false)
    (ha : sp.access = true → i.exe ≠ 0 → i.g.acquiring = false) (hh : hold s i = none)
    (he : (f i (s.advance i h sp.len sp.opc)).exited ≠ 0xFFFFFFFF) (hst : (f i (s.advance i h sp.len sp.opc)).stopEv = none) :
    ∃ t, perform s h sp faults hold (onGroup f) = .next t ∧ IssueFrame s t i.gk ∧
      t.group? i.gk = some (f i (s.advance i h sp.len sp.opc)).releaseAll := by
  refine ⟨_, perform_next sp faults hold (onGroup f) hi hx hf hw ha hh, ?_⟩
  generalize hA : s.advance i h sp.len sp.opc = A at *
  have hg := issued_group s i A sp.opc
  have h1 : onGroup f ((s.setGroup i.gk A).fireIssue i sp.opc) i = ((s.setGroup i.gk A).fireIssue i sp.opc).setGroup i.gk (f i A) := by
    unfold onGroup State.modGroup; rw [hg]
  have h2 : (((s.setGroup i.gk A).fireIssue i sp.opc).setGroup i.gk (f i A)).group? i.gk = some (f i A) := by
    simp [State.group?, kget_kset_same]
  rw [h1, finish_alive h2 he hst]
  have hrest : { ((((s.setGroup i.gk A).fireIssue i sp.opc).setGroup i.gk (f i A)).setGroup i.gk (f i A).releaseAll) with
      groups := s.groups, cores := s.cores } = s := by
    simp only [State.setGroup, State.fireIssue, State.modCore, State.setCore]
  have hcores : ∀ c, (((((s.setGroup i.gk A).fireIssue i sp.opc).setGroup i.gk (f i A)).setGroup i.gk (f i A).releaseAll).core c).withCounts (s.core c) = s.core c := by
    intro c
    have := fireIssue_core (s.setGroup i.gk A) i sp.opc c
    exact this
  refine ⟨⟨hrest, ?_, hcores, fun p => readByte_of_rest hrest hcores p⟩, ?_⟩
  · intro k hk
    simp [State.group?, kget_kset_ne _ _ hk, State.fireIssue, State.modCore]
  · simp [State.group?, kget_kset_same]

end Sys2Proof.Machine
end

