-- ==== Sys2Proof/Laws/Compute.lean ====
section
/-! SUPPORT. What the shapes of format K leave (R172 to R180): results by lane, flags, counters, and nothing else. -/

namespace Sys2Proof.Machine

theorem Issue.Free.common {i : Issue} {sp : Spec} (h : i.Free sp.always sp.v sp.s) (hr : sp.roles.contains i.g.kind = true) :
    i.common sp = [] := by
  unfold Issue.common
  rw [hr]
  have : ((i.exe != 0 || sp.always) && sp.v.any (fun r => !i.g.held.getLsbD (r / 64))) = false := by
    by_cases hc : i.exe ≠ 0 ∨ sp.always = true
    · have h1 := h.1 hc
      have h2 : sp.v.any (fun r => !i.g.held.getLsbD (r / 64)) = false := by
        rw [List.any_eq_false]; intro r hr'; simp [h1 r hr']
      simp [h2]
    · simp only [not_or, not_not, Bool.not_eq_true] at hc
      simp [hc.1, hc.2]
  rw [this]; rfl

theorem Issue.Free.waits {i : Issue} {sp : Spec} (h : i.Free sp.always sp.v sp.s) : ((i.exe != 0 || sp.always) && i.waitsReg sp) = false := by
  rw [Bool.and_eq_false_imp]
  intro hx
  have hx : i.exe ≠ 0 ∨ sp.always = true := by simpa using hx
  unfold Issue.waitsReg
  rw [List.any_eq_false]
  intro o ho hc
  simp only [Bool.and_eq_true, Bool.or_eq_true, beq_iff_eq] at hc
  obtain ⟨hk, hd⟩ := hc
  have h2 := h.2 o ho hk hx
  by_cases hs : o.scalar = true
  · simp only [hs, if_true] at h2 hd
    exact h2 (by simpa using hd)
  · simp only [hs, Bool.false_eq_true, if_false] at h2 hd
    simp only [Bool.or_eq_true, Bool.and_eq_true, List.contains_iff_mem] at hd
    rcases hd with hd | hd
    · exact h2.1 hd
    · exact h2.2 hd.1 hd.2

theorem allRoles (g : Group) (sp : Spec) (h : sp.roles = [.copy, .matrix, .general, .lodge]) : sp.roles.contains g.kind = true := by
  rw [h]; cases g.kind <;> decide

/-- Counters after an effect that moves none (R24). -/
theorem advanced_of {s : State} {h : Hdr} {i : Issue} (hi : s.issue? h = some i) (len opc : Nat) (g : Group)
    (hp : g.pcv = (s.advance i h len opc).pcv) (he : g.epcv = (s.advance i h len opc).epcv) (hw : g.rwait = i.g.rwait) :
    Advanced i h len g.releaseAll := by
  have hrej : g.rejoining = i.g.rejoining := by unfold Group.rejoining; rw [hw]
  have hepc : g.releaseAll.epcv = g.epcv := by rw [Group.releaseAll_eq]
  refine ⟨fun l hl => ?_, fun l h32 hl hr => ?_, fun h0 => ?_⟩
  · have h1 := issue?_act hi l hl
    have h2 := (eligible_lane h1.2.1).2.1
    rw [Group.releaseAll_pcv g l (by rw [hrej]; exact h2), hp, advance_pcv, sget_setLanes, if_pos ⟨h1.1, hl⟩]
  · rw [Group.releaseAll_pcv g l (by rw [hrej]; exact hr), hp, advance_pcv, sget_setLanes, if_neg (by simp [hl])]
  · rw [hepc, he, advance_epcv _ _ _ _ _ h0]

/-- A group that differs from the advanced one in some fields differs from the issued one in these and in what an issue
moves. -/
theorem withMoved_releaseAll (g r : Group) : g.releaseAll.withMoved r = g.withMoved r := by
  rw [Group.releaseAll_eq]; rfl

theorem advance_rwait (s : State) (i : Issue) (h : Hdr) (len opc : Nat) : (s.advance i h len opc).rwait = i.g.rwait := by
  unfold State.advance
  simp only
  split
  · exact enterRegion_rwait _ _ _ _
  · rfl
theorem advance_v (s : State) (i : Issue) (h : Hdr) (len opc : Nat) : (s.advance i h len opc).v = i.g.v := by
  rw [← advance_moved s i h len opc]; rfl
theorem advance_s (s : State) (i : Issue) (h : Hdr) (len opc : Nat) : (s.advance i h len opc).s = i.g.s := by
  rw [← advance_moved s i h len opc]; rfl
theorem advance_p (s : State) (i : Issue) (h : Hdr) (len opc : Nat) : (s.advance i h len opc).p = i.g.p := by
  rw [← advance_moved s i h len opc]; rfl
theorem advance_sflags (s : State) (i : Issue) (h : Hdr) (len opc : Nat) : (s.advance i h len opc).sflags = i.g.sflags := by
  rw [← advance_moved s i h len opc]; rfl
theorem advance_exited (s : State) (i : Issue) (h : Hdr) (len opc : Nat) : (s.advance i h len opc).exited = i.g.exited := by
  rw [← advance_moved s i h len opc]; rfl
theorem advance_stopEv (s : State) (i : Issue) (h : Hdr) (len opc : Nat) : (s.advance i h len opc).stopEv = i.g.stopEv := by
  rw [← advance_moved s i h len opc]; rfl

theorem ofInt_narrow (v : Int) : BitVec.ofNat 32 (BitVec.ofInt 64 v).toNat = BitVec.ofInt 32 v := by
  apply BitVec.eq_of_toNat_eq
  rw [BitVec.toNat_ofNat, BitVec.toNat_ofInt, BitVec.toNat_ofInt]
  omega

/-- The words that a lane's result fills, by register (R121, R174, R175). -/
theorem vwords_regWord (t : Typ) (d l x : Nat) :
    vwords t d l x = if t.is64 then [(32 * d + l, regWord t x 0), (32 * (d + 1) + l, regWord t x 1)] else [(32 * d + l, regWord t x 0)] := by
  have hofNat : ∀ y : Nat, BitVec.ofNat 32 (y % 2 ^ 64) = BitVec.ofNat 32 y := by
    intro y; apply BitVec.eq_of_toNat_eq; simp only [BitVec.toNat_ofNat]; omega
  have hofNat1 : ∀ y : Nat, BitVec.ofNat 32 (y % 2 ^ 64 / 2 ^ 32) = BitVec.ofNat 32 (y / 2 ^ 32) := by
    intro y; apply BitVec.eq_of_toNat_eq; simp only [BitVec.toNat_ofNat]; omega
  have hs : (BitVec.ofInt 64 (toSigned 64 x)).toNat = x % 2 ^ 64 := by
    rw [BitVec.toNat_ofInt]; unfold toSigned; simp only; split <;> omega
  have hu : (BitVec.ofInt 64 ((x % 2 ^ 64 : Nat) : Int)).toNat = x % 2 ^ 64 := by
    rw [BitVec.toNat_ofInt]; omega
  unfold vwords regWord
  cases t <;> simp only [Typ.is64, Typ.isInt, extendTo, intVal, Typ.signed, Typ.width, if_true, if_false, Bool.false_eq_true,
    Nat.mul_zero, pow_zero, Nat.div_one, Nat.mul_one, ofInt_narrow, hs, hu, hofNat, hofNat1]

/-- What a lane-by-lane result leaves in the vector registers (R172, R174). -/
theorem lanewise_vr (g : Group) (exe : LaneMask) (t : Typ) (d : Nat) (res : Nat → Nat × Flags) (r l : Nat) (hl : l < 32) :
    (g.lanewise exe (fun l => (vwords t d l (res l).1, (res l).2))).vr r l =
      if exe.getLsbD l = true then laneWrite t d r (res l).1 (g.vr r l) else g.vr r l := by
  unfold Group.lanewise Group.vr
  simp only [Group.addFlags_v, Group.putV_v, List.flatMap_map]
  have hkey : ∀ e ∈ (lanesOf exe).flatMap (fun l => vwords t d l (res l).1), e.1 = 32 * r + l →
      exe.getLsbD l = true ∧ ((r = d ∧ e.2 = regWord t (res l).1 0) ∨ (r = d + 1 ∧ t.is64 = true ∧ e.2 = regWord t (res l).1 1)) := by
    intro e he hk
    obtain ⟨l', hl', hm⟩ := List.mem_flatMap.mp he
    have hl'2 := mem_lanesOf.mp hl'
    rw [vwords_regWord] at hm
    by_cases h64 : t.is64 = true
    · simp only [h64, if_true, List.mem_cons, List.not_mem_nil, or_false] at hm
      rcases hm with hm | hm <;> subst hm <;> simp only at hk
      · have h1 : l' = l := by omega
        have h2 : r = d := by omega
        subst h1; exact ⟨hl'2.2, .inl ⟨h2, rfl⟩⟩
      · have h1 : l' = l := by omega
        have h2 : r = d + 1 := by omega
        subst h1; exact ⟨hl'2.2, .inr ⟨h2, h64, rfl⟩⟩
    · simp only [h64, Bool.false_eq_true, if_false, List.mem_singleton] at hm
      subst hm; simp only at hk
      have h1 : l' = l := by omega
      have h2 : r = d := by omega
      subst h1; exact ⟨hl'2.2, .inl ⟨h2, rfl⟩⟩
  by_cases hx : exe.getLsbD l = true
  · rw [if_pos hx]
    have hmem : l ∈ lanesOf exe := mem_lanesOf.mpr ⟨hl, hx⟩
    unfold laneWrite
    by_cases hr : r = d
    · rw [if_pos hr]
      refine sget_ssets_mem _ _ _ _ ?_ ?_
      · exact List.mem_flatMap.mpr ⟨l, hmem, by rw [vwords_regWord]; split <;> simp [hr]⟩
      · intro e he hk
        rcases (hkey e he hk).2 with h | h
        · exact h.2
        · omega
    · rw [if_neg hr]
      by_cases h2 : t.is64 = true ∧ r = d + 1
      · rw [if_pos h2]
        refine sget_ssets_mem _ _ _ _ ?_ ?_
        · exact List.mem_flatMap.mpr ⟨l, hmem, by rw [vwords_regWord, if_pos h2.1]; simp [h2.2]⟩
        · intro e he hk
          rcases (hkey e he hk).2 with h | h
          · exact absurd h.1 hr
          · exact h.2.2
      · rw [if_neg h2]
        refine sget_ssets_other _ _ _ ?_
        intro e he hk
        rcases (hkey e he hk).2 with h | h
        · exact hr h.1
        · exact h2 ⟨h.2.1, h.1⟩
  · rw [if_neg hx]
    refine sget_ssets_other _ _ _ ?_
    intro e he hk
    exact hx (hkey e he hk).1

theorem lanewise_flags (g : Group) (exe : LaneMask) (f : Nat → List (Nat × BitVec 32) × Flags) :
    (g.lanewise exe f).sflags = orFlags g.sflags (laneFlags exe (fun l => (f l).2)) := by
  unfold Group.lanewise laneFlags
  simp only [Group.addFlags_sflags, Group.putV_sflags, List.foldl_map]

theorem advance_rest (s : State) (i : Issue) (h : Hdr) (len opc : Nat) : (s.advance i h len opc).withMoved i.g = i.g :=
  advance_moved s i h len opc

/-- An instruction that only writes a lane-by-lane result completes (R172, R173). -/
theorem perform_lanes {s : State} {h : Hdr} {i : Issue} (sp : Spec) (t : Typ) (d : Nat) (res : Issue → Group → Nat → Nat × Flags)
    (hi : s.issue? h = some i) (hfree : i.Free sp.always sp.v sp.s) (hr : sp.roles = [.copy, .matrix, .general, .lodge])
    (hn : sp.noTx = false) (ha : sp.access = false) :
    Completes s i (perform s h sp noFaults noHold (onGroup (fun i g => g.lanewise i.exe (fun l =>
      (vwords t d l (res i g l).1, (res i g l).2)))))
      (LanesWritten i h sp.len t d (res i (s.advance i h sp.len sp.opc))) := by
  have hc : i.common sp ++ noFaults s i = [] := by rw [hfree.common (allRoles _ _ hr)]; rfl
  obtain ⟨u, h1, h2, h3⟩ := perform_onGroup sp noFaults noHold (fun i g => g.lanewise i.exe (fun l =>
      (vwords t d l (res i g l).1, (res i g l).2))) hi (by simp [hn]) hc hfree.waits (by simp [ha]) rfl
      (by simp only [Group.lanewise, Group.addFlags_exited, Group.putV_exited, advance_exited]; exact issue?_alive hi)
      (by simp only [Group.lanewise, Group.addFlags_stopEv, Group.putV_stopEv, advance_stopEv]; exact issue?_stopEv hi)
  refine ⟨u, _, h1, h2, h3, advanced_of hi sp.len sp.opc _ rfl rfl (advance_rwait s i h sp.len sp.opc), ?_, ?_, ?_⟩
  · intro r l hl
    have := lanewise_vr (s.advance i h sp.len sp.opc) i.exe t d (res i (s.advance i h sp.len sp.opc)) r l hl
    simp only [Group.vr, Group.releaseAll_v, advance_v] at this ⊢
    exact this
  · rw [Group.releaseAll_sflags, lanewise_flags, advance_sflags]
  · rw [withMoved_releaseAll]
    have := advance_rest s i h sp.len sp.opc
    unfold Group.lanewise Group.addFlags Group.putV
    rw [← this]; rfl

/-- An instruction that only writes a scalar register completes (R180). -/
theorem perform_scalar {s : State} {h : Hdr} {i : Issue} (sp : Spec) (d : Nat) (res : Issue → BitVec 64 × Flags)
    (hi : s.issue? h = some i) (hfree : i.Free sp.always sp.v sp.s) (hr : sp.roles = [.copy, .matrix, .general, .lodge])
    (hn : sp.noTx = false) (ha : sp.access = false) :
    Completes s i (perform s h sp noFaults noHold (onGroup (fun i g => (g.putS d (res i).1).addFlags (res i).2)))
      (ScalarWritten i h sp.len d (res i)) := by
  have hc : i.common sp ++ noFaults s i = [] := by rw [hfree.common (allRoles _ _ hr)]; rfl
  obtain ⟨u, h1, h2, h3⟩ := perform_onGroup sp noFaults noHold (fun i g => (g.putS d (res i).1).addFlags (res i).2) hi
      (by simp [hn]) hc hfree.waits (by simp [ha]) rfl
      (by simp only [Group.addFlags_exited, Group.putS_exited, advance_exited]; exact issue?_alive hi)
      (by simp only [Group.addFlags_stopEv, Group.putS_stopEv, advance_stopEv]; exact issue?_stopEv hi)
  refine ⟨u, _, h1, h2, h3, advanced_of hi sp.len sp.opc _ rfl rfl (advance_rwait s i h sp.len sp.opc), ?_, ?_, ?_⟩
  · intro r
    have := Group.sr_putS (s.advance i h sp.len sp.opc) d r (res i).1
    simp only [Group.sr, Group.releaseAll_s, Group.addFlags_s, advance_s] at this ⊢
    exact this
  · rw [Group.releaseAll_sflags, Group.addFlags_sflags, Group.putS_sflags, advance_sflags]
  · rw [withMoved_releaseAll]
    have := advance_rest s i h sp.len sp.opc
    unfold Group.addFlags Group.putS
    rw [← this]; rfl

/-- An instruction that only writes a predicate register completes (R144, R198, R202). -/
theorem perform_pred {s : State} {h : Hdr} {i : Issue} (sp : Spec) (d : Nat) (res : Issue → LaneMask × Flags)
    (hi : s.issue? h = some i) (hfree : i.Free sp.always sp.v sp.s) (hr : sp.roles = [.copy, .matrix, .general, .lodge])
    (hn : sp.noTx = false) (ha : sp.access = false) :
    Completes s i (perform s h sp noFaults noHold (onGroup (fun i g => (g.putP d (res i).1).addFlags (res i).2)))
      (PredWritten i h sp.len d (res i)) := by
  have hc : i.common sp ++ noFaults s i = [] := by rw [hfree.common (allRoles _ _ hr)]; rfl
  obtain ⟨u, h1, h2, h3⟩ := perform_onGroup sp noFaults noHold (fun i g => (g.putP d (res i).1).addFlags (res i).2) hi
      (by simp [hn]) hc hfree.waits (by simp [ha]) rfl
      (by simp only [Group.addFlags_exited, Group.putP_exited, advance_exited]; exact issue?_alive hi)
      (by simp only [Group.addFlags_stopEv, Group.putP_stopEv, advance_stopEv]; exact issue?_stopEv hi)
  have hrest := advance_rest s i h sp.len sp.opc
  refine ⟨u, _, h1, h2, h3, advanced_of hi sp.len sp.opc _ ?_ ?_ ?_, ?_, ?_, ?_⟩
  · simp
  · rw [Group.addFlags_eq, Group.putP_eq]
  · rw [Group.addFlags_eq, Group.putP_eq]; exact advance_rwait s i h sp.len sp.opc
  · intro r
    have := Group.pr_putP (s.advance i h sp.len sp.opc) d r (res i).1
    simp only [Group.pr, Group.releaseAll_p, Group.addFlags_p, advance_p] at this ⊢
    rw [this]
  · rw [Group.releaseAll_sflags, Group.addFlags_sflags, Group.putP_sflags, advance_sflags]
  · rw [withMoved_releaseAll, Group.addFlags_eq, Group.putP_eq]
    rw [← hrest]; rfl

/-- A vector instruction of format K completes (R173, R182). -/
theorem execVector_completes {opc : Nat} {at_ bt ct rt : Typ} {useB useC : Bool} {f : Nat → Nat → Nat → Nat × Flags} {s : State} {h : Hdr}
    {k : KOps} {i : Issue} (hi : s.issue? h = some i)
    (hfree : i.Free false (vregs rt k.d ++ vregs at_ k.a ++ (if useB then Src2.vregs bt k.b else []) ++ (if useC then vregs ct k.c else []))
      (if useB then Src2.sregs k.b else [])) :
    Completes s i (execVector opc at_ bt ct rt useB useC f h k s) (LanesWritten i h k.len rt k.d.toNat (fun l =>
      f (i.g.vread at_ k.a.toNat l) (i.g.vsecond bt k.b l) (i.g.vread ct k.c.toNat l))) :=
  perform_lanes { len := k.len, opc := opc, v := vregs rt k.d ++ vregs at_ k.a ++ (if useB then Src2.vregs bt k.b else []) ++ (if useC then vregs ct k.c else []), s := if useB then Src2.sregs k.b else [] }
    rt k.d.toNat (fun i _ l => f (i.g.vread at_ k.a.toNat l) (i.g.vsecond bt k.b l) (i.g.vread ct k.c.toNat l)) hi hfree rfl rfl rfl

/-- A scalar instruction of format K completes (R173, R180). -/
theorem execScalar_completes {opc : Nat} {sgn useB useC : Bool} {f : Nat → Nat → Nat → BitVec 64 × Flags} {s : State} {h : Hdr}
    {k : KOps} {i : Issue} (hi : s.issue? h = some i)
    (hfree : i.Free true [] ([k.d.toNat, k.a.toNat] ++ (if useB then (match k.b with | .reg r | .bcast r => [r.toNat] | _ => []) else []) ++
      (if useC then [k.c.toNat] else []))) :
    Completes s i (execScalar opc sgn useB useC f h k s) (ScalarWritten i h k.len k.d.toNat
      (f (i.g.sr k.a.toNat).toNat (i.g.ssecond sgn k.b) (i.g.sr k.c.toNat).toNat)) :=
  perform_scalar { len := k.len, opc := opc, always := true, s := [k.d.toNat, k.a.toNat] ++ (if useB then (match k.b with | .reg r | .bcast r => [r.toNat] | _ => []) else []) ++ (if useC then [k.c.toNat] else []) }
    k.d.toNat (fun i => f (i.g.sr k.a.toNat).toNat (i.g.ssecond sgn k.b) (i.g.sr k.c.toNat).toNat) hi hfree rfl rfl rfl

/-- A comparison of format K completes (R198). -/
theorem execCompare_completes {opc : Nat} {f : Nat → Nat → Bool × Flags} {s : State} {h : Hdr} {k : KOps} {i : Issue}
    (hi : s.issue? h = some i) (hfree : i.Free false (vregs k.t k.a ++ Src2.vregs k.t k.b) (Src2.sregs k.b)) :
    Completes s i (execCompare opc f h k s) (PredWritten i h k.len k.d.toNat
      ((i.g.pr k.d.toNat &&& ~~~i.exe) ||| maskOf ((((lanesOf i.exe).map (fun l => (l, f (i.g.vread k.t k.a.toNat l) (i.g.vsecond k.t k.b l)))).filter (fun e => e.2.1)).map (·.1)),
       laneFlags i.exe (fun l => (f (i.g.vread k.t k.a.toNat l) (i.g.vsecond k.t k.b l)).2))) := by
  have key := perform_pred (s := s) (h := h) { len := k.len, opc := opc, v := vregs k.t k.a ++ Src2.vregs k.t k.b, s := Src2.sregs k.b } k.d.toNat
    (fun i =>
      let r := (lanesOf i.exe).map (fun l => (l, f (i.g.vread k.t k.a.toNat l) (i.g.vsecond k.t k.b l)))
      let m := maskOf ((r.filter (fun e => e.2.1)).map (·.1))
      ((i.g.pr k.d.toNat &&& ~~~i.exe) ||| m, r.foldl (fun a e => a ||| e.2.2) 0)) hi hfree rfl rfl rfl
  have e : laneFlags i.exe (fun l => (f (i.g.vread k.t k.a.toNat l) (i.g.vsecond k.t k.b l)).2) =
      ((lanesOf i.exe).map (fun l => (l, f (i.g.vread k.t k.a.toNat l) (i.g.vsecond k.t k.b l)))).foldl (fun a e => a ||| e.2.2) 0 := by
    unfold laneFlags; rw [List.foldl_map]
  rw [e]
  exact key

/-- A bit of a predicate that an instruction has merged over the lanes of `exe` (R173). -/
theorem merged_lane (old exe new : LaneMask) (l : Nat) (hl : l < 32) (b : Bool)
    (hn : new.getLsbD l = (exe.getLsbD l && b)) :
    ((old &&& ~~~exe) ||| new).getLsbD l = if exe.getLsbD l = true then b else old.getLsbD l := by
  rw [BitVec.getLsbD_or, BitVec.getLsbD_and, BitVec.getLsbD_not, hn]
  cases exe.getLsbD l <;> simp [hl]

end Sys2Proof.Machine
end

