-- ==== Sys2Proof/Laws/Hart.lean ====
section
/-! SUPPORT. Harts: what the entry to a trap, the returns from it and a floating-point result leave as they are. -/

namespace Sys2Proof.Machine

/-! ### The entry to a trap -/

@[simp] theorem Hart.enterTrap_x (k : Hart) (c : Nat) (v : BitVec 64) : (k.enterTrap c v).x = k.x := by unfold Hart.enterTrap; split <;> rfl
@[simp] theorem Hart.enterTrap_f (k : Hart) (c : Nat) (v : BitVec 64) : (k.enterTrap c v).f = k.f := by unfold Hart.enterTrap; split <;> rfl
@[simp] theorem Hart.enterTrap_fcsr (k : Hart) (c : Nat) (v : BitVec 64) : (k.enterTrap c v).fcsr = k.fcsr := by unfold Hart.enterTrap; split <;> rfl
@[simp] theorem Hart.enterTrap_satp (k : Hart) (c : Nat) (v : BitVec 64) : (k.enterTrap c v).satp = k.satp := by unfold Hart.enterTrap; split <;> rfl
@[simp] theorem Hart.enterTrap_ckpt (k : Hart) (c : Nat) (v : BitVec 64) : (k.enterTrap c v).ckpt = k.ckpt := by unfold Hart.enterTrap; split <;> rfl
@[simp] theorem Hart.enterTrap_resv (k : Hart) (c : Nat) (v : BitVec 64) : (k.enterTrap c v).resv = k.resv := by unfold Hart.enterTrap; split <;> rfl
@[simp] theorem Hart.enterTrap_part (k : Hart) (c : Nat) (v : BitVec 64) : (k.enterTrap c v).part = k.part := by unfold Hart.enterTrap; split <;> rfl

/-- A trap of machine mode stays there. -/
theorem Hart.enterTrap_machine (k : Hart) (c : Nat) (v : BitVec 64) (h : k.mode = .m) :
    (k.enterTrap c v).mode = .m ∧ (k.enterTrap c v).mepc = k.pc ∧ (k.enterTrap c v).pc = vectorAt k.mtvec c := by
  simp [Hart.enterTrap, Hart.toSup, h]
/-- A trap goes to the mode that delegation names, with the pc saved there. -/
theorem Hart.enterTrap_saves (k : Hart) (c : Nat) (v : BitVec 64) :
    ((k.enterTrap c v).mode = .s ∧ (k.enterTrap c v).sepc = k.pc ∧ (k.enterTrap c v).mepc = k.mepc) ∨
    ((k.enterTrap c v).mode = .m ∧ (k.enterTrap c v).mepc = k.pc ∧ (k.enterTrap c v).sepc = k.sepc) := by
  unfold Hart.enterTrap
  split
  · exact .inl ⟨rfl, rfl, rfl⟩
  · exact .inr ⟨rfl, rfl, rfl⟩

/-! ### The returns -/

/-- A return undoes the stack of interrupt enables that the entry made. -/
theorem Hart.mret_enterTrap (k : Hart) (c : Nat) (v : BitVec 64) (h : k.mode = .m) :
    (k.enterTrap c v).mret.pc = k.pc ∧ (k.enterTrap c v).mret.mode = .m ∧ (k.enterTrap c v).mret.mie = k.mie := by
  simp [Hart.enterTrap, Hart.toSup, Hart.mret, h]

/-! ### Registers of F and D -/

@[simp] theorem Hart.fput_x (k : Hart) (d : Bool) (r x : Nat) : (k.fput d r x).x = k.x := rfl
@[simp] theorem Hart.fput_pc (k : Hart) (d : Bool) (r x : Nat) : (k.fput d r x).pc = k.pc := rfl
@[simp] theorem Hart.fput_fcsr (k : Hart) (d : Bool) (r x : Nat) : (k.fput d r x).fcsr = k.fcsr := rfl
@[simp] theorem Hart.accrue_x (k : Hart) (x : Flags) : (k.accrue x).x = k.x := by unfold Hart.accrue; split <;> rfl
@[simp] theorem Hart.accrue_f (k : Hart) (x : Flags) : (k.accrue x).f = k.f := by unfold Hart.accrue; split <;> rfl
@[simp] theorem Hart.accrue_pc (k : Hart) (x : Flags) : (k.accrue x).pc = k.pc := by unfold Hart.accrue; split <;> rfl

end Sys2Proof.Machine
end

