-- ==== Sys2Proof/Laws/Memory.lean ====
section
/-! SUPPORT. Physical memory and the local spaces: what one put byte changes, and that every operation that puts or clears bytes
keeps the canonical form of memory. -/

namespace Sys2Proof.Machine

/-- What `putByte` does to physical memory: one byte of it, or nothing. -/
theorem State.putByte_bytes (s : State) (p : Place) (b : Byte) :
    (s.putByte p b).mem.bytes = s.mem.bytes ∨ ∃ pa, p = .glob pa ∧ s.isGone pa = false ∧ (s.putByte p b).mem.bytes = sset s.mem.bytes pa b := by
  cases p with
  | glob pa =>
    by_cases h : s.isGone pa = true
    · left; simp [State.putByte, h]
    · right; exact ⟨pa, rfl, by simpa using h, by simp [State.putByte, h, State.setMem]⟩
  | aspc c o => left; rfl
  | wspc c o => left; rfl

/-- One byte put keeps memory's canonical form. -/
theorem State.putByte_wf (s : State) (p : Place) (b : Byte) (h : Memory.wf s.mem.bytes = true) :
    Memory.wf (s.putByte p b).mem.bytes = true := by
  rcases s.putByte_bytes p b with e | ⟨pa, -, -, e⟩
  · rw [e]; exact h
  · rw [e]; exact sset_wf _ _ _ h

/-- Bytes put one after another keep it. -/
theorem State.putBytes_wf (l : List Byte) (s : State) (p : Place) (h : Memory.wf s.mem.bytes = true) :
    Memory.wf (s.putBytes p l).mem.bytes = true := by
  induction l generalizing s p with
  | nil => exact h
  | cons b r ih => exact ih _ _ (s.putByte_wf p b h)

/-- The bytes of memory are not touched when poison is marked or cleared. -/
theorem State.setPoison_bytes (s : State) (p : Place) (on : Bool) : (s.setPoison p on).mem.bytes = s.mem.bytes := by
  cases p <;> rfl

/-- A read of the byte just put gives it. -/
theorem State.rawByte_putByte_same (s : State) (pa : Nat) (b : Byte) (h : s.isGone pa = false) :
    (s.putByte (.glob pa) b).rawByte (.glob pa) = b := by
  have e : (s.putByte (.glob pa) b) = s.setMem { s.mem with bytes := sset s.mem.bytes pa b } := by simp [State.putByte, h]
  have g : (s.setMem { s.mem with bytes := sset s.mem.bytes pa b }).isGone pa = s.isGone pa := rfl
  rw [e, State.rawByte, g, h]
  exact sget_sset_same _ _ _

/-- Every other byte of physical memory stays. -/
theorem State.rawByte_putByte_ne (s : State) {pa q : Nat} (b : Byte) (h : q ≠ pa) :
    (s.putByte (.glob pa) b).rawByte (.glob q) = s.rawByte (.glob q) := by
  by_cases g : s.isGone pa = true
  · simp [State.putByte, g]
  · have e : (s.putByte (.glob pa) b) = s.setMem { s.mem with bytes := sset s.mem.bytes pa b } := by simp [State.putByte, g]
    have k : (s.setMem { s.mem with bytes := sset s.mem.bytes pa b }).isGone q = s.isGone q := rfl
    rw [e, State.rawByte, State.rawByte, k]
    split
    · rfl
    · exact sget_sset_ne _ _ h

/-- What stays of memory after some addresses are cleared is in the form. -/
theorem Memory.wf_filter (m : List Host.Cell) (f : Host.Cell → Bool) (h : Memory.wf m = true) : Memory.wf (m.filter f) = true := by
  simp only [Memory.wf, SMap.wf_iff, List.pairwise_map] at h ⊢
  exact ⟨h.1.filter f, fun e he => h.2 e (List.mem_of_mem_filter he)⟩

/-- A frame that is cleared for a table or a mapping keeps it. -/
theorem State.newFrame_wf (s : State) (n : Nat) (h : Memory.wf s.mem.bytes = true) : Memory.wf (s.newFrame n).2.mem.bytes = true := by
  unfold State.newFrame
  simp only
  split
  · exact h
  · exact Memory.wf_filter s.mem.bytes _ h

/-- The bytes of one sector keep it. -/
theorem State.putSector_wf (s : State) (p : Place) (ws : List (Nat × Byte)) (h : Memory.wf s.mem.bytes = true) :
    Memory.wf (s.putSector p ws).mem.bytes = true := by
  have k : ∀ (l : List (Nat × Byte)) (t : State), Memory.wf t.mem.bytes = true →
      Memory.wf (l.foldl (fun (t : State) e => t.putByte (p.add e.1) e.2) t).mem.bytes = true := by
    intro l
    induction l with
    | nil => exact fun _ ht => ht
    | cons e r ih => exact fun t ht => ih _ (t.putByte_wf _ _ ht)
  unfold State.putSector
  split
  · rw [State.setPoison_bytes]; exact k ws s h
  · exact k ws s h

/-- Memory at reset is in canonical form. -/
theorem reset_memory_wf : Memory.wf State.reset.mem.bytes = true := by decide

end Sys2Proof.Machine
end

