-- ==== Sys2Proof/Laws/PerInstr.lean ====
section
/-! SUPPORT. What each instruction is as syntax, one lemma for each constructor of `Instr`: the opcode, header and
fields that `Instr.view` gives stand for that instruction and no other. The proof that decoding undoes encoding goes
through these. -/

namespace Sys2Proof.Laws.ViewRemakes

/-- A well-formed instruction is the one that its opcode, header and fields make, in the format of its opcode. -/
def Statement (i : Instr) : Prop :=
  i.wellFormed = true → match i.view with
    | .nop h n => i = .nop h n
    | .j op h o => jMake op h o = some i ∧ formOf op = some .j
    | .y op h o => yMake op h o = some i ∧ formOf op = some .y
    | .k op h o => kMake op h o = some i ∧ formOf op = some .k
    | .m op h o => mMake op h o = some i ∧ formOf op = some .m
    | .x op h o => xMake op h o = some i ∧ formOf op = some .x
    | .t op h o => tMake op h o = some i ∧ formOf op = some .t
    | .e op h o => eMake op h o = some i ∧ formOf op = some .e
    | .hart f rd rs => hartMake f rd.toNat rs.toNat = some i
    | .other w => i = .custom0Illegal w
    | .step => i.view = .step ∧ encode i = 0

theorem nop (h : Hdr) (bytes : Nat) : Statement (.nop h bytes) := fun _ => rfl
theorem bra (h : Hdr) (o : JOps) : Statement (.bra h o) := fun _ => ⟨rfl, rfl⟩
theorem brx (h : Hdr) (o : JOps) : Statement (.brx h o) := fun _ => ⟨rfl, rfl⟩
theorem jmp (h : Hdr) (o : JOps) : Statement (.jmp h o) := fun _ => ⟨rfl, rfl⟩
theorem call (h : Hdr) (o : JOps) : Statement (.call h o) := fun _ => ⟨rfl, rfl⟩
theorem ret (h : Hdr) (o : JOps) : Statement (.ret h o) := fun _ => ⟨rfl, rfl⟩
theorem enrol (h : Hdr) (o : JOps) : Statement (.enrol h o) := fun _ => ⟨rfl, rfl⟩
theorem rejoin (h : Hdr) (o : JOps) : Statement (.rejoin h o) := fun _ => ⟨rfl, rfl⟩
theorem yield (h : Hdr) (o : JOps) : Statement (.yield h o) := fun _ => ⟨rfl, rfl⟩
theorem exit (h : Hdr) (o : JOps) : Statement (.exit h o) := fun _ => ⟨rfl, rfl⟩
theorem wait (h : Hdr) (o : JOps) : Statement (.wait h o) := fun _ => ⟨rfl, rfl⟩
theorem rvinit (h : Hdr) (o : YOps) : Statement (.rvinit h o) := fun _ => ⟨rfl, rfl⟩
theorem rvarrive (h : Hdr) (o : YOps) : Statement (.rvarrive h o) := fun _ => ⟨rfl, rfl⟩
theorem rvwait (h : Hdr) (o : YOps) : Statement (.rvwait h o) := fun _ => ⟨rfl, rfl⟩
theorem monitor (h : Hdr) (o : YOps) : Statement (.monitor h o) := fun _ => ⟨rfl, rfl⟩
theorem mwait (h : Hdr) (o : YOps) : Statement (.mwait h o) := fun _ => ⟨rfl, rfl⟩
theorem mwaitWake (gk : Nat) : Statement (.mwaitWake gk) := fun _ => ⟨rfl, rfl⟩
theorem mwaitTimeout (gk : Nat) : Statement (.mwaitTimeout gk) := fun _ => ⟨rfl, rfl⟩
theorem fetchw (h : Hdr) (o : YOps) : Statement (.fetchw h o) := fun _ => ⟨rfl, rfl⟩
theorem switchv (h : Hdr) (o : YOps) : Statement (.switchv h o) := fun _ => ⟨rfl, rfl⟩
theorem variantSwitch (tk : Nat) : Statement (.variantSwitch tk) := fun _ => ⟨rfl, rfl⟩
theorem xacq (h : Hdr) (o : YOps) : Statement (.xacq h o) := fun _ => ⟨rfl, rfl⟩
theorem xrel (h : Hdr) (o : YOps) : Statement (.xrel h o) := fun _ => ⟨rfl, rfl⟩
theorem svcOstler (h : Hdr) (o : YOps) : Statement (.svcOstler h o) := by
  intro wf
  have hf : o.f = false := by have := (Bool.and_eq_true_iff.mp wf).2; simpa using this
  exact ⟨show (if o.f = true then some (Instr.svcApp h o) else some (Instr.svcOstler h o)) = _ by rw [hf]; rfl, rfl⟩
theorem svcApp (h : Hdr) (o : YOps) : Statement (.svcApp h o) := by
  intro wf
  have hf : o.f = true := by have := (Bool.and_eq_true_iff.mp wf).2; simpa using this
  exact ⟨show (if o.f = true then some (Instr.svcApp h o) else some (Instr.svcOstler h o)) = _ by rw [hf]; rfl, rfl⟩
theorem trap (h : Hdr) (o : YOps) : Statement (.trap h o) := fun _ => ⟨rfl, rfl⟩
theorem hret (h : Hdr) (o : YOps) : Statement (.hret h o) := fun _ => ⟨rfl, rfl⟩
theorem srd (h : Hdr) (o : YOps) : Statement (.srd h o) := fun _ => ⟨rfl, rfl⟩
theorem swr (h : Hdr) (o : YOps) : Statement (.swr h o) := fun _ => ⟨rfl, rfl⟩
theorem wmark (h : Hdr) (o : YOps) : Statement (.wmark h o) := fun _ => ⟨rfl, rfl⟩
theorem sflagSet (h : Hdr) (o : YOps) : Statement (.sflagSet h o) := by
  intro wf
  have hf : o.f = false := by have := (Bool.and_eq_true_iff.mp wf).2; simpa using this
  exact ⟨show (if o.f = true then some (Instr.sflagClr h o) else some (Instr.sflagSet h o)) = _ by rw [hf]; rfl, rfl⟩
theorem sflagClr (h : Hdr) (o : YOps) : Statement (.sflagClr h o) := by
  intro wf
  have hf : o.f = true := by have := (Bool.and_eq_true_iff.mp wf).2; simpa using this
  exact ⟨show (if o.f = true then some (Instr.sflagClr h o) else some (Instr.sflagSet h o)) = _ by rw [hf]; rfl, rfl⟩
theorem sadd (h : Hdr) (k : KOps) : Statement (.sadd h k) := fun _ => ⟨rfl, rfl⟩
theorem ssub (h : Hdr) (k : KOps) : Statement (.ssub h k) := fun _ => ⟨rfl, rfl⟩
theorem smul (h : Hdr) (k : KOps) : Statement (.smul h k) := fun _ => ⟨rfl, rfl⟩
theorem smulh (h : Hdr) (k : KOps) : Statement (.smulh h k) := fun _ => ⟨rfl, rfl⟩
theorem sdiv (h : Hdr) (k : KOps) : Statement (.sdiv h k) := fun _ => ⟨rfl, rfl⟩
theorem srem (h : Hdr) (k : KOps) : Statement (.srem h k) := fun _ => ⟨rfl, rfl⟩
theorem smin (h : Hdr) (k : KOps) : Statement (.smin h k) := fun _ => ⟨rfl, rfl⟩
theorem smax (h : Hdr) (k : KOps) : Statement (.smax h k) := fun _ => ⟨rfl, rfl⟩
theorem sand (h : Hdr) (k : KOps) : Statement (.sand h k) := fun _ => ⟨rfl, rfl⟩
theorem sor (h : Hdr) (k : KOps) : Statement (.sor h k) := fun _ => ⟨rfl, rfl⟩
theorem sxor (h : Hdr) (k : KOps) : Statement (.sxor h k) := fun _ => ⟨rfl, rfl⟩
theorem sshl (h : Hdr) (k : KOps) : Statement (.sshl h k) := fun _ => ⟨rfl, rfl⟩
theorem sshr (h : Hdr) (k : KOps) : Statement (.sshr h k) := fun _ => ⟨rfl, rfl⟩
theorem ssra (h : Hdr) (k : KOps) : Statement (.ssra h k) := fun _ => ⟨rfl, rfl⟩
theorem scmp (h : Hdr) (k : KOps) : Statement (.scmp h k) := fun _ => ⟨rfl, rfl⟩
theorem ssel (h : Hdr) (k : KOps) : Statement (.ssel h k) := fun _ => ⟨rfl, rfl⟩
theorem smovi (h : Hdr) (k : KOps) : Statement (.smovi h k) := fun _ => ⟨rfl, rfl⟩
theorem slea (h : Hdr) (k : KOps) : Statement (.slea h k) := fun _ => ⟨rfl, rfl⟩
theorem sclz (h : Hdr) (k : KOps) : Statement (.sclz h k) := fun _ => ⟨rfl, rfl⟩
theorem spop (h : Hdr) (k : KOps) : Statement (.spop h k) := fun _ => ⟨rfl, rfl⟩
theorem sbfx (h : Hdr) (k : KOps) : Statement (.sbfx h k) := fun _ => ⟨rfl, rfl⟩
theorem sbfi (h : Hdr) (k : KOps) : Statement (.sbfi h k) := fun _ => ⟨rfl, rfl⟩
theorem vadd (h : Hdr) (k : KOps) : Statement (.vadd h k) := fun _ => ⟨rfl, rfl⟩
theorem vsub (h : Hdr) (k : KOps) : Statement (.vsub h k) := fun _ => ⟨rfl, rfl⟩
theorem vmul (h : Hdr) (k : KOps) : Statement (.vmul h k) := fun _ => ⟨rfl, rfl⟩
theorem vmulh (h : Hdr) (k : KOps) : Statement (.vmulh h k) := fun _ => ⟨rfl, rfl⟩
theorem vmad (h : Hdr) (k : KOps) : Statement (.vmad h k) := fun _ => ⟨rfl, rfl⟩
theorem vdiv (h : Hdr) (k : KOps) : Statement (.vdiv h k) := fun _ => ⟨rfl, rfl⟩
theorem vmin (h : Hdr) (k : KOps) : Statement (.vmin h k) := fun _ => ⟨rfl, rfl⟩
theorem vmax (h : Hdr) (k : KOps) : Statement (.vmax h k) := fun _ => ⟨rfl, rfl⟩
theorem vabs (h : Hdr) (k : KOps) : Statement (.vabs h k) := fun _ => ⟨rfl, rfl⟩
theorem vneg (h : Hdr) (k : KOps) : Statement (.vneg h k) := fun _ => ⟨rfl, rfl⟩
theorem vand (h : Hdr) (k : KOps) : Statement (.vand h k) := fun _ => ⟨rfl, rfl⟩
theorem vor (h : Hdr) (k : KOps) : Statement (.vor h k) := fun _ => ⟨rfl, rfl⟩
theorem vxor (h : Hdr) (k : KOps) : Statement (.vxor h k) := fun _ => ⟨rfl, rfl⟩
theorem vnot (h : Hdr) (k : KOps) : Statement (.vnot h k) := fun _ => ⟨rfl, rfl⟩
theorem vshl (h : Hdr) (k : KOps) : Statement (.vshl h k) := fun _ => ⟨rfl, rfl⟩
theorem vshr (h : Hdr) (k : KOps) : Statement (.vshr h k) := fun _ => ⟨rfl, rfl⟩
theorem vsra (h : Hdr) (k : KOps) : Statement (.vsra h k) := fun _ => ⟨rfl, rfl⟩
theorem vrot (h : Hdr) (k : KOps) : Statement (.vrot h k) := fun _ => ⟨rfl, rfl⟩
theorem vcmp (h : Hdr) (k : KOps) : Statement (.vcmp h k) := fun _ => ⟨rfl, rfl⟩
theorem vsel (h : Hdr) (k : KOps) : Statement (.vsel h k) := fun _ => ⟨rfl, rfl⟩
theorem vpop (h : Hdr) (k : KOps) : Statement (.vpop h k) := fun _ => ⟨rfl, rfl⟩
theorem vclz (h : Hdr) (k : KOps) : Statement (.vclz h k) := fun _ => ⟨rfl, rfl⟩
theorem vbfx (h : Hdr) (k : KOps) : Statement (.vbfx h k) := fun _ => ⟨rfl, rfl⟩
theorem vbfi (h : Hdr) (k : KOps) : Statement (.vbfi h k) := fun _ => ⟨rfl, rfl⟩
theorem vmov (h : Hdr) (k : KOps) : Statement (.vmov h k) := fun _ => ⟨rfl, rfl⟩
theorem vmovi (h : Hdr) (k : KOps) : Statement (.vmovi h k) := fun _ => ⟨rfl, rfl⟩
theorem vdot4 (h : Hdr) (k : KOps) : Statement (.vdot4 h k) := fun _ => ⟨rfl, rfl⟩
theorem pkadd (h : Hdr) (k : KOps) : Statement (.pkadd h k) := fun _ => ⟨rfl, rfl⟩
theorem pksub (h : Hdr) (k : KOps) : Statement (.pksub h k) := fun _ => ⟨rfl, rfl⟩
theorem pkmul (h : Hdr) (k : KOps) : Statement (.pkmul h k) := fun _ => ⟨rfl, rfl⟩
theorem pkmad (h : Hdr) (k : KOps) : Statement (.pkmad h k) := fun _ => ⟨rfl, rfl⟩
theorem pksad (h : Hdr) (k : KOps) : Statement (.pksad h k) := fun _ => ⟨rfl, rfl⟩
theorem pkavg (h : Hdr) (k : KOps) : Statement (.pkavg h k) := fun _ => ⟨rfl, rfl⟩
theorem pkmin (h : Hdr) (k : KOps) : Statement (.pkmin h k) := fun _ => ⟨rfl, rfl⟩
theorem pkmax (h : Hdr) (k : KOps) : Statement (.pkmax h k) := fun _ => ⟨rfl, rfl⟩
theorem pknar (h : Hdr) (k : KOps) : Statement (.pknar h k) := fun _ => ⟨rfl, rfl⟩
theorem pkwid (h : Hdr) (k : KOps) : Statement (.pkwid h k) := fun _ => ⟨rfl, rfl⟩
theorem permb (h : Hdr) (k : KOps) : Statement (.permb h k) := fun _ => ⟨rfl, rfl⟩
theorem lxch (h : Hdr) (k : KOps) : Statement (.lxch h k) := fun _ => ⟨rfl, rfl⟩
theorem lprev (h : Hdr) (k : KOps) : Statement (.lprev h k) := fun _ => ⟨rfl, rfl⟩
theorem lscan (h : Hdr) (k : KOps) : Statement (.lscan h k) := fun _ => ⟨rfl, rfl⟩
theorem lred (h : Hdr) (k : KOps) : Statement (.lred h k) := fun _ => ⟨rfl, rfl⟩
theorem lpoll (h : Hdr) (k : KOps) : Statement (.lpoll h k) := fun _ => ⟨rfl, rfl⟩
theorem fadd (h : Hdr) (k : KOps) : Statement (.fadd h k) := fun _ => ⟨rfl, rfl⟩
theorem fsub (h : Hdr) (k : KOps) : Statement (.fsub h k) := fun _ => ⟨rfl, rfl⟩
theorem fmul (h : Hdr) (k : KOps) : Statement (.fmul h k) := fun _ => ⟨rfl, rfl⟩
theorem ffma (h : Hdr) (k : KOps) : Statement (.ffma h k) := fun _ => ⟨rfl, rfl⟩
theorem fmin (h : Hdr) (k : KOps) : Statement (.fmin h k) := fun _ => ⟨rfl, rfl⟩
theorem fmax (h : Hdr) (k : KOps) : Statement (.fmax h k) := fun _ => ⟨rfl, rfl⟩
theorem fabs (h : Hdr) (k : KOps) : Statement (.fabs h k) := fun _ => ⟨rfl, rfl⟩
theorem fneg (h : Hdr) (k : KOps) : Statement (.fneg h k) := fun _ => ⟨rfl, rfl⟩
theorem fcmp (h : Hdr) (k : KOps) : Statement (.fcmp h k) := fun _ => ⟨rfl, rfl⟩
theorem fclass (h : Hdr) (k : KOps) : Statement (.fclass h k) := fun _ => ⟨rfl, rfl⟩
theorem frnd (h : Hdr) (k : KOps) : Statement (.frnd h k) := fun _ => ⟨rfl, rfl⟩
theorem fdiv (h : Hdr) (k : KOps) : Statement (.fdiv h k) := fun _ => ⟨rfl, rfl⟩
theorem fsqrt (h : Hdr) (k : KOps) : Statement (.fsqrt h k) := fun _ => ⟨rfl, rfl⟩
theorem exp2 (h : Hdr) (k : KOps) : Statement (.exp2 h k) := fun _ => ⟨rfl, rfl⟩
theorem log2 (h : Hdr) (k : KOps) : Statement (.log2 h k) := fun _ => ⟨rfl, rfl⟩
theorem rcp (h : Hdr) (k : KOps) : Statement (.rcp h k) := fun _ => ⟨rfl, rfl⟩
theorem rsq (h : Hdr) (k : KOps) : Statement (.rsq h k) := fun _ => ⟨rfl, rfl⟩
theorem cvt (h : Hdr) (k : KOps) : Statement (.cvt h k) := fun _ => ⟨rfl, rfl⟩
theorem pand (h : Hdr) (k : KOps) : Statement (.pand h k) := fun _ => ⟨rfl, rfl⟩
theorem por (h : Hdr) (k : KOps) : Statement (.por h k) := fun _ => ⟨rfl, rfl⟩
theorem pxor (h : Hdr) (k : KOps) : Statement (.pxor h k) := fun _ => ⟨rfl, rfl⟩
theorem pnot (h : Hdr) (k : KOps) : Statement (.pnot h k) := fun _ => ⟨rfl, rfl⟩
theorem pmov (h : Hdr) (k : KOps) : Statement (.pmov h k) := fun _ => ⟨rfl, rfl⟩
theorem ld (h : Hdr) (o : MOps) : Statement (.ld h o) := fun _ => ⟨rfl, rfl⟩
theorem st (h : Hdr) (o : MOps) : Statement (.st h o) := fun _ => ⟨rfl, rfl⟩
theorem lda (h : Hdr) (o : MOps) : Statement (.lda h o) := fun _ => ⟨rfl, rfl⟩
theorem sta (h : Hdr) (o : MOps) : Statement (.sta h o) := fun _ => ⟨rfl, rfl⟩
theorem ldw (h : Hdr) (o : MOps) : Statement (.ldw h o) := fun _ => ⟨rfl, rfl⟩
theorem ldx (h : Hdr) (o : MOps) : Statement (.ldx h o) := fun _ => ⟨rfl, rfl⟩
theorem stx (h : Hdr) (o : MOps) : Statement (.stx h o) := fun _ => ⟨rfl, rfl⟩
theorem pref (h : Hdr) (o : MOps) : Statement (.pref h o) := fun _ => ⟨rfl, rfl⟩
theorem fence (h : Hdr) (o : MOps) : Statement (.fence h o) := fun _ => ⟨rfl, rfl⟩
theorem atom (h : Hdr) (o : MOps) : Statement (.atom h o) := fun _ => ⟨rfl, rfl⟩
theorem atoma (h : Hdr) (o : MOps) : Statement (.atoma h o) := fun _ => ⟨rfl, rfl⟩
theorem loadRetire (gk id : Nat) : Statement (.loadRetire gk id) := fun _ => ⟨rfl, rfl⟩
theorem storeRetire (gk id : Nat) : Statement (.storeRetire gk id) := fun _ => ⟨rfl, rfl⟩
theorem atomicPerform (gk id : Nat) : Statement (.atomicPerform gk id) := fun _ => ⟨rfl, rfl⟩
theorem nodeReleasePerform (gk id : Nat) : Statement (.nodeReleasePerform gk id) := fun _ => ⟨rfl, rfl⟩
theorem txbegin (h : Hdr) (o : XOps) : Statement (.txbegin h o) := fun _ => ⟨rfl, rfl⟩
theorem txend (h : Hdr) (o : XOps) : Statement (.txend h o) := fun _ => ⟨rfl, rfl⟩
theorem txabort (h : Hdr) (o : XOps) : Statement (.txabort h o) := fun _ => ⟨rfl, rfl⟩
theorem txstat (h : Hdr) (o : XOps) : Statement (.txstat h o) := fun _ => ⟨rfl, rfl⟩
theorem txB (rd : BitVec 5) : Statement (.txB rd) := fun _ => by simp [Instr.view, hartMake]
theorem txE (rd : BitVec 5) : Statement (.txE rd) := fun _ => by simp [Instr.view, hartMake]
theorem txA (rs : BitVec 5) : Statement (.txA rs) := fun _ => by simp [Instr.view, hartMake]
theorem txS (rd : BitVec 5) : Statement (.txS rd) := fun _ => by simp [Instr.view, hartMake]
theorem custom0Illegal (w : BitVec 32) : Statement (.custom0Illegal w) := fun _ => rfl
theorem ticketRequest : Statement .ticketRequest := fun _ => ⟨rfl, rfl⟩
theorem groupCommitDecision : Statement .groupCommitDecision := fun _ => ⟨rfl, rfl⟩
theorem hartCommitPublish : Statement .hartCommitPublish := fun _ => ⟨rfl, rfl⟩
theorem serialTokenGrant : Statement .serialTokenGrant := fun _ => ⟨rfl, rfl⟩
theorem mma (h : Hdr) (o : TOps) : Statement (.mma h o) := fun _ => ⟨rfl, rfl⟩
theorem mmas (h : Hdr) (o : TOps) : Statement (.mmas h o) := fun _ => ⟨rfl, rfl⟩
theorem mmab (h : Hdr) (o : TOps) : Statement (.mmab h o) := fun _ => ⟨rfl, rfl⟩
theorem ldmeta (h : Hdr) (o : TOps) : Statement (.ldmeta h o) := fun _ => ⟨rfl, rfl⟩
theorem tkacq (h : Hdr) (o : TOps) : Statement (.tkacq h o) := fun _ => ⟨rfl, rfl⟩
theorem tkrel (h : Hdr) (o : TOps) : Statement (.tkrel h o) := fun _ => ⟨rfl, rfl⟩
theorem accld (h : Hdr) (o : TOps) : Statement (.accld h o) := fun _ => ⟨rfl, rfl⟩
theorem accst (h : Hdr) (o : TOps) : Statement (.accst h o) := fun _ => ⟨rfl, rfl⟩
theorem accz (h : Hdr) (o : TOps) : Statement (.accz h o) := fun _ => ⟨rfl, rfl⟩
theorem opfence (h : Hdr) (o : TOps) : Statement (.opfence h o) := fun _ => ⟨rfl, rfl⟩
theorem matrixOpRetire (core : Nat) : Statement (.matrixOpRetire core) := fun _ => ⟨rfl, rfl⟩
theorem copy (h : Hdr) (o : EOps) : Statement (.copy h o) := fun _ => ⟨rfl, rfl⟩
theorem copyt (h : Hdr) (o : EOps) : Statement (.copyt h o) := fun _ => ⟨rfl, rfl⟩
theorem gather (h : Hdr) (o : EOps) : Statement (.gather h o) := fun _ => ⟨rfl, rfl⟩
theorem scadd (h : Hdr) (o : EOps) : Statement (.scadd h o) := fun _ => ⟨rfl, rfl⟩
theorem decomp (h : Hdr) (o : EOps) : Statement (.decomp h o) := fun _ => ⟨rfl, rfl⟩
theorem nput (h : Hdr) (o : EOps) : Statement (.nput h o) := fun _ => ⟨rfl, rfl⟩
theorem nget (h : Hdr) (o : EOps) : Statement (.nget h o) := fun _ => ⟨rfl, rfl⟩
theorem natom (h : Hdr) (o : EOps) : Statement (.natom h o) := fun _ => ⟨rfl, rfl⟩
theorem sread (h : Hdr) (o : EOps) : Statement (.sread h o) := fun _ => ⟨rfl, rfl⟩
theorem engineCommandRetire (core entry : Nat) (data : List (BitVec 8)) : Statement (.engineCommandRetire core entry data) := fun _ => ⟨rfl, rfl⟩
theorem scarabRowRequest (core entry : Nat) : Statement (.scarabRowRequest core entry) := fun _ => ⟨rfl, rfl⟩
theorem scarabBurst (core entry : Nat) : Statement (.scarabBurst core entry) := fun _ => ⟨rfl, rfl⟩
theorem scaddRowUpdate (core entry : Nat) : Statement (.scaddRowUpdate core entry) := fun _ => ⟨rfl, rfl⟩
theorem networkCommandFail (core entry : Nat) (written : List (BitVec 8)) (syndrome : BitVec 16) : Statement (.networkCommandFail core entry written syndrome) := fun _ => ⟨rfl, rfl⟩
theorem storageCompletion (core entry : Nat) (status : BitVec 16) (data : List (BitVec 8)) : Statement (.storageCompletion core entry status data) := fun _ => ⟨rfl, rfl⟩
theorem storageTimeout (core entry : Nat) : Statement (.storageTimeout core entry) := fun _ => ⟨rfl, rfl⟩
theorem partCreate (r : Rpc) : Statement (.partCreate r) := fun _ => ⟨rfl, rfl⟩
theorem partDestroy (r : Rpc) : Statement (.partDestroy r) := fun _ => ⟨rfl, rfl⟩
theorem imageLoad (r : Rpc) : Statement (.imageLoad r) := fun _ => ⟨rfl, rfl⟩
theorem imageUnload (r : Rpc) : Statement (.imageUnload r) := fun _ => ⟨rfl, rfl⟩
theorem residentStart (r : Rpc) : Statement (.residentStart r) := fun _ => ⟨rfl, rfl⟩
theorem memExpose (r : Rpc) : Statement (.memExpose r) := fun _ => ⟨rfl, rfl⟩
theorem memUnexpose (r : Rpc) : Statement (.memUnexpose r) := fun _ => ⟨rfl, rfl⟩
theorem queueCreate (r : Rpc) : Statement (.queueCreate r) := fun _ => ⟨rfl, rfl⟩
theorem queueDestroy (r : Rpc) : Statement (.queueDestroy r) := fun _ => ⟨rfl, rfl⟩
theorem queryPartitionState (r : Rpc) : Statement (.queryPartitionState r) := fun _ => ⟨rfl, rfl⟩
theorem queryQueueIndices (r : Rpc) : Statement (.queryQueueIndices r) := fun _ => ⟨rfl, rfl⟩
theorem queryErrorCounters (r : Rpc) : Statement (.queryErrorCounters r) := fun _ => ⟨rfl, rfl⟩
theorem querySpareStatus (r : Rpc) : Statement (.querySpareStatus r) := fun _ => ⟨rfl, rfl⟩
theorem peerSet (r : Rpc) : Statement (.peerSet r) := fun _ => ⟨rfl, rfl⟩
theorem storageSet (r : Rpc) : Statement (.storageSet r) := fun _ => ⟨rfl, rfl⟩
theorem swap (r : Rpc) : Statement (.swap r) := fun _ => ⟨rfl, rfl⟩
theorem mgmtPowercap (r : Rpc) : Statement (.mgmtPowercap r) := fun _ => ⟨rfl, rfl⟩
theorem mgmtGate (r : Rpc) : Statement (.mgmtGate r) := fun _ => ⟨rfl, rfl⟩
theorem mgmtUngate (r : Rpc) : Statement (.mgmtUngate r) := fun _ => ⟨rfl, rfl⟩
theorem mgmtVcweight (r : Rpc) : Statement (.mgmtVcweight r) := fun _ => ⟨rfl, rfl⟩
theorem mgmtWindow (r : Rpc) : Statement (.mgmtWindow r) := fun _ => ⟨rfl, rfl⟩
theorem mgmtAdminlistAdd (r : Rpc) : Statement (.mgmtAdminlistAdd r) := fun _ => ⟨rfl, rfl⟩
theorem mgmtAdminlistRemove (r : Rpc) : Statement (.mgmtAdminlistRemove r) := fun _ => ⟨rfl, rfl⟩
theorem mgmtGrandmaster (r : Rpc) : Statement (.mgmtGrandmaster r) := fun _ => ⟨rfl, rfl⟩
theorem mgmtClearcnt (r : Rpc) : Statement (.mgmtClearcnt r) := fun _ => ⟨rfl, rfl⟩
theorem mgmtImage (r : Rpc) : Statement (.mgmtImage r) := fun _ => ⟨rfl, rfl⟩
theorem debugAttach (r : Rpc) : Statement (.debugAttach r) := fun _ => ⟨rfl, rfl⟩
theorem debugDetach (r : Rpc) : Statement (.debugDetach r) := fun _ => ⟨rfl, rfl⟩
theorem debugLogSetup (r : Rpc) : Statement (.debugLogSetup r) := fun _ => ⟨rfl, rfl⟩
theorem debugLogOn (r : Rpc) : Statement (.debugLogOn r) := fun _ => ⟨rfl, rfl⟩
theorem debugLogOff (r : Rpc) : Statement (.debugLogOff r) := fun _ => ⟨rfl, rfl⟩
theorem debugHalt (r : Rpc) : Statement (.debugHalt r) := fun _ => ⟨rfl, rfl⟩
theorem debugResume (r : Rpc) : Statement (.debugResume r) := fun _ => ⟨rfl, rfl⟩
theorem debugAdvance (r : Rpc) : Statement (.debugAdvance r) := fun _ => ⟨rfl, rfl⟩
theorem debugReverse (r : Rpc) : Statement (.debugReverse r) := fun _ => ⟨rfl, rfl⟩
theorem debugSolo (r : Rpc) : Statement (.debugSolo r) := fun _ => ⟨rfl, rfl⟩
theorem debugBreakSet (r : Rpc) : Statement (.debugBreakSet r) := fun _ => ⟨rfl, rfl⟩
theorem debugBreakClear (r : Rpc) : Statement (.debugBreakClear r) := fun _ => ⟨rfl, rfl⟩
theorem debugWaitev (r : Rpc) : Statement (.debugWaitev r) := fun _ => ⟨rfl, rfl⟩
theorem debugGread (r : Rpc) : Statement (.debugGread r) := fun _ => ⟨rfl, rfl⟩
theorem debugGwrite (r : Rpc) : Statement (.debugGwrite r) := fun _ => ⟨rfl, rfl⟩
theorem traceSetup (r : Rpc) : Statement (.traceSetup r) := fun _ => ⟨rfl, rfl⟩
theorem traceEnable (r : Rpc) : Statement (.traceEnable r) := fun _ => ⟨rfl, rfl⟩
theorem traceDrain (r : Rpc) : Statement (.traceDrain r) := fun _ => ⟨rfl, rfl⟩
theorem traceStatus (r : Rpc) : Statement (.traceStatus r) := fun _ => ⟨rfl, rfl⟩
theorem replaySetup (r : Rpc) : Statement (.replaySetup r) := fun _ => ⟨rfl, rfl⟩
theorem replayList (r : Rpc) : Statement (.replayList r) := fun _ => ⟨rfl, rfl⟩
theorem replayRun (r : Rpc) : Statement (.replayRun r) := fun _ => ⟨rfl, rfl⟩
theorem replayRelease (r : Rpc) : Statement (.replayRelease r) := fun _ => ⟨rfl, rfl⟩
theorem badopRequest (r : Rpc) : Statement (.badopRequest r) := fun _ => ⟨rfl, rfl⟩
theorem innkeeperGrant : Statement .innkeeperGrant := fun _ => ⟨rfl, rfl⟩
theorem tailLineWrite (part queue : Nat) : Statement (.tailLineWrite part queue) := fun _ => ⟨rfl, rfl⟩
theorem dependenceCounterChange (part queue : Nat) : Statement (.dependenceCounterChange part queue) := fun _ => ⟨rfl, rfl⟩
theorem workgroupRetire (tk : Nat) : Statement (.workgroupRetire tk) := fun _ => ⟨rfl, rfl⟩
theorem upshiftQuantumExpiry (tk : Nat) : Statement (.upshiftQuantumExpiry tk) := fun _ => ⟨rfl, rfl⟩
theorem switchGraceExpiry (core : Nat) : Statement (.switchGraceExpiry core) := fun _ => ⟨rfl, rfl⟩
theorem allocationSpill (tk : Nat) : Statement (.allocationSpill tk) := fun _ => ⟨rfl, rfl⟩
theorem groupRestore (core : Nat) : Statement (.groupRestore core) := fun _ => ⟨rfl, rfl⟩
theorem userTrapEntry (gk : Nat) (cause : Nat) : Statement (.userTrapEntry gk cause) := fun _ => ⟨rfl, rfl⟩
theorem preciseStop (gk : Nat) : Statement (.preciseStop gk) := fun _ => ⟨rfl, rfl⟩
theorem executionFreeze (gk event subc op : Nat) (lanes : LaneMask) : Statement (.executionFreeze gk event subc op lanes) := fun _ => ⟨rfl, rfl⟩
theorem partitionViolation (gk id : Nat) : Statement (.partitionViolation gk id) := fun _ => ⟨rfl, rfl⟩
theorem watchdogPendingStop (gk : Nat) : Statement (.watchdogPendingStop gk) := fun _ => ⟨rfl, rfl⟩
theorem watchdogNoWaypoint (gk : Nat) : Statement (.watchdogNoWaypoint gk) := fun _ => ⟨rfl, rfl⟩
theorem eventQueueEntryWrite (core : Nat) : Statement (.eventQueueEntryWrite core) := fun _ => ⟨rfl, rfl⟩
theorem gctlResume (gk : Nat) (ord : BitVec 16) (lanes : LaneMask) : Statement (.gctlResume gk ord lanes) := fun _ => ⟨rfl, rfl⟩
theorem gctlStep (gk : Nat) (ord : BitVec 16) (lanes : LaneMask) : Statement (.gctlStep gk ord lanes) := fun _ => ⟨rfl, rfl⟩
theorem gctlHalt (gk : Nat) : Statement (.gctlHalt gk) := fun _ => ⟨rfl, rfl⟩
theorem engctlResume (tk : Nat) : Statement (.engctlResume tk) := fun _ => ⟨rfl, rfl⟩
theorem engctlDiscard (tk : Nat) : Statement (.engctlDiscard tk) := fun _ => ⟨rfl, rfl⟩
theorem windowMap (core : Nat) (idx : Nat) (entry : BitVec 64) : Statement (.windowMap core idx entry) := fun _ => ⟨rfl, rfl⟩
theorem windowMapValid (cluster idx : Nat) : Statement (.windowMapValid cluster idx) := fun _ => ⟨rfl, rfl⟩
theorem windowUnmap (core : Nat) (idx : Nat) (entry : BitVec 64) : Statement (.windowUnmap core idx entry) := fun _ => ⟨rfl, rfl⟩
theorem windowLineWriteback (cluster idx : Nat) : Statement (.windowLineWriteback cluster idx) := fun _ => ⟨rfl, rfl⟩
theorem upost (core : Nat) (v : BitVec 64) : Statement (.upost core v) := fun _ => ⟨rfl, rfl⟩
theorem xvuint (hart : Nat) (v : BitVec 64) : Statement (.xvuint hart v) := fun _ => ⟨rfl, rfl⟩
theorem xvwake (hart : Nat) (v : BitVec 64) : Statement (.xvwake hart v) := fun _ => ⟨rfl, rfl⟩
theorem xvfreeze (hart : Nat) (v : BitVec 64) : Statement (.xvfreeze hart v) := fun _ => ⟨rfl, rfl⟩
theorem xvshootPage (hart : Nat) (v : BitVec 64) : Statement (.xvshootPage hart v) := fun _ => ⟨rfl, rfl⟩
theorem xvshootAll (hart : Nat) (v : BitVec 64) : Statement (.xvshootAll hart v) := fun _ => ⟨rfl, rfl⟩
theorem shootdownComplete (hart : Nat) : Statement (.shootdownComplete hart) := fun _ => ⟨rfl, rfl⟩
theorem ostlerRegisterWrite (core : Nat) (off : Nat) (bytes : List (BitVec 8)) : Statement (.ostlerRegisterWrite core off bytes) := fun _ => ⟨rfl, rfl⟩
theorem pageWalk (die part : Nat) (va : BitVec 64) (acc : Access) : Statement (.pageWalk die part va acc) := fun _ => ⟨rfl, rfl⟩
theorem ringHeadAdvance (part : Nat) : Statement (.ringHeadAdvance part) := fun _ => ⟨rfl, rfl⟩
theorem directoryRead (core sector : Nat) : Statement (.directoryRead core sector) := fun _ => ⟨rfl, rfl⟩
theorem directoryOwnership (core sector : Nat) : Statement (.directoryOwnership core sector) := fun _ => ⟨rfl, rfl⟩
theorem directoryWriteBack (core sector : Nat) : Statement (.directoryWriteBack core sector) := fun _ => ⟨rfl, rfl⟩
theorem l2Eviction (line : Nat) : Statement (.l2Eviction line) := fun _ => ⟨rfl, rfl⟩
theorem visibilityWindowStart : Statement .visibilityWindowStart := fun _ => ⟨rfl, rfl⟩
theorem leaseRebase (slice : Nat) : Statement (.leaseRebase slice) := fun _ => ⟨rfl, rfl⟩
theorem packetPromotion : Statement .packetPromotion := fun _ => ⟨rfl, rfl⟩
theorem peerLineRead (sector : Nat) : Statement (.peerLineRead sector) := fun _ => ⟨rfl, rfl⟩
theorem peerWriteThrough (pkg pa : Nat) (data : List (BitVec 8)) (release : Option Nat) : Statement (.peerWriteThrough pkg pa data release) := fun _ => ⟨rfl, rfl⟩
theorem operationPacket (pkg pa : Nat) (op : PacketOp) (t : Typ) (x y : BitVec 64) : Statement (.operationPacket pkg pa op t x y) := fun _ => ⟨rfl, rfl⟩
theorem windowMarker (link lc : Nat) (n : Nat) : Statement (.windowMarker link lc n) := fun _ => ⟨rfl, rfl⟩
theorem nodeLinkFlit (link : Nat) (f : BitVec 2048) : Statement (.nodeLinkFlit link f) := fun _ => ⟨rfl, rfl⟩
theorem flitResendTimeout (link : Nat) : Statement (.flitResendTimeout link) := fun _ => ⟨rfl, rfl⟩
theorem linkRetrain (link lanesOk : Nat) : Statement (.linkRetrain link lanesOk) := fun _ => ⟨rfl, rfl⟩
theorem linkDown (link : Nat) : Statement (.linkDown link) := fun _ => ⟨rfl, rfl⟩
theorem ptpSync (offset : Nat) : Statement (.ptpSync offset) := fun _ => ⟨rfl, rfl⟩
theorem softErrorDetect (site : EccSite) (correctable : Bool) : Statement (.softErrorDetect site correctable) := fun _ => ⟨rfl, rfl⟩
theorem memoryScrub (sector : Nat) (found : Nat) : Statement (.memoryScrub sector found) := fun _ => ⟨rfl, rfl⟩
theorem unitRemoval (u : UnitName) : Statement (.unitRemoval u) := fun _ => ⟨rfl, rfl⟩
theorem thermalSample (die temp : Nat) : Statement (.thermalSample die temp) := fun _ => ⟨rfl, rfl⟩
theorem thermalHoldExpiry : Statement .thermalHoldExpiry := fun _ => ⟨rfl, rfl⟩
theorem coolantFlowLoss : Statement .coolantFlowLoss := fun _ => ⟨rfl, rfl⟩
theorem powerCapExceeded (watts : Nat) : Statement (.powerCapExceeded watts) := fun _ => ⟨rfl, rfl⟩
theorem clockRaiseTimer : Statement .clockRaiseTimer := fun _ => ⟨rfl, rfl⟩
theorem clusterPowerGate (cluster : Nat) : Statement (.clusterPowerGate cluster) := fun _ => ⟨rfl, rfl⟩
theorem packageReset : Statement .packageReset := fun _ => ⟨rfl, rfl⟩
theorem fireflyTag (core sched : Nat) : Statement (.fireflyTag core sched) := fun _ => ⟨rfl, rfl⟩
theorem fireflyRecord (core sched : Nat) : Statement (.fireflyRecord core sched) := fun _ => ⟨rfl, rfl⟩
theorem traceBufferDrain (cluster : Nat) : Statement (.traceBufferDrain cluster) := fun _ => ⟨rfl, rfl⟩
theorem partitionSwapExchange (part : Nat) : Statement (.partitionSwapExchange part) := fun _ => ⟨rfl, rfl⟩
theorem windowAdvanceSnapshot (part : Nat) : Statement (.windowAdvanceSnapshot part) := fun _ => ⟨rfl, rfl⟩
theorem logAutoAdvance (part : Nat) : Statement (.logAutoAdvance part) := fun _ => ⟨rfl, rfl⟩
theorem rpcSendOversize (session : Nat) : Statement (.rpcSendOversize session) := fun _ => ⟨rfl, rfl⟩
theorem rpcSessionLoss (session : Nat) : Statement (.rpcSessionLoss session) := fun _ => ⟨rfl, rfl⟩
theorem soloTimeout (session : Nat) : Statement (.soloTimeout session) := fun _ => ⟨rfl, rfl⟩
theorem waitevTimeout (session : Nat) : Statement (.waitevTimeout session) := fun _ => ⟨rfl, rfl⟩
theorem replayRunTimeout (replay : Nat) : Statement (.replayRunTimeout replay) := fun _ => ⟨rfl, rfl⟩
theorem rdmaRead (rkey : BitVec 32) (va : BitVec 64) (len : Nat) : Statement (.rdmaRead rkey va len) := fun _ => ⟨rfl, rfl⟩
theorem rdmaWrite (rkey : BitVec 32) (va : BitVec 64) (data : List (BitVec 8)) : Statement (.rdmaWrite rkey va data) := fun _ => ⟨rfl, rfl⟩
theorem rdmaAtomic (rkey : BitVec 32) (va : BitVec 64) (cas : Bool) (x y : BitVec 64) : Statement (.rdmaAtomic rkey va cas x y) := fun _ => ⟨rfl, rfl⟩
theorem rv64MemoryAccess (a : HartAcc) : Statement (.rv64MemoryAccess a) := fun _ => ⟨rfl, rfl⟩
theorem hartInterrupt (hart : Nat) : Statement (.hartInterrupt hart) := fun _ => ⟨rfl, rfl⟩
theorem rpcSessionOpen (session : Nat) (gid : BitVec 128) (port : Nat) : Statement (.rpcSessionOpen session gid port) := fun _ => ⟨rfl, rfl⟩
theorem rcRetransmitTimeout (core entry : Nat) : Statement (.rcRetransmitTimeout core entry) := fun _ => ⟨rfl, rfl⟩
theorem powerFailure (write : Option Rpc) : Statement (.powerFailure write) := fun _ => ⟨rfl, rfl⟩

end Sys2Proof.Laws.ViewRemakes
end

