-- ==== Sys2Proof/Tests/Slice0.lean ====
section
/-! SUPPORT. Tests: terms that the well-formedness check refuses, words written out from the encodings of the spec and what they
decode to, results of single steps worked out from the rules by hand, and for each statement with hypotheses a state and operands
that meet them (`witness_…`). -/

namespace Sys2Proof.Tests

open Sys2Proof Sys2Proof.Machine Sys2Proof.Claims

-- One theorem after the other: in parallel these many small evaluations take a thread each.
set_option Elab.async false

/-! ### Terms that stand for no word -/

/-- A word has 8, 12 or 16 bytes (R141). -/
theorem test_wf_nop : (Instr.nop {} 10).wellFormed = false ∧ (Instr.nop {} 12).wellFormed = true := by decide
/-- JMP has no guard (R206); a displacement is a multiple of 4 (R149); a barrier is no field of BRA. -/
theorem test_wf_j : (Instr.jmp { g := 1 } { disp := 8 }).wellFormed = false ∧ (Instr.bra {} { disp := 2 }).wellFormed = false ∧
    (Instr.bra {} { disp := 8, bar := 1 }).wellFormed = false ∧ (Instr.bra { g := 1 } { disp := 8 }).wellFormed = true := by decide
/-- A rendezvous point is below 24, its count is not 0, and F tells SVC's two rows and SFLAG's apart (R150, R211). -/
theorem test_wf_y : (Instr.rvinit {} { spec := 24, imm := 1 }).wellFormed = false ∧ (Instr.rvinit {} { spec := 23 }).wellFormed = false ∧
    (Instr.rvinit {} { spec := 23, imm := 1 }).wellFormed = true ∧ (Instr.svcOstler {} { f := true }).wellFormed = false ∧
    (Instr.svcApp {} { f := false }).wellFormed = false ∧ (Instr.sflagSet {} { f := true }).wellFormed = false ∧
    (Instr.sflagClr {} { f := false }).wellFormed = false ∧ (Instr.fetchw {} { imm := 1 }).wellFormed = false := by decide
/-- A packed type is no type of VADD, a 64-bit operand has an even register, and an unused field is clear (R146, R175, R181). -/
theorem test_wf_k : (Instr.vadd {} { d := 0, t := .i16x2 }).wellFormed = false ∧ (Instr.vadd {} { d := 1, t := .i64 }).wellFormed = false ∧
    (Instr.vadd {} { d := 2, c := 1, t := .i64 }).wellFormed = false ∧ (Instr.vadd {} { d := 2, t := .i64 }).wellFormed = true := by decide
/-- A load takes no release, and ST has no D (R233). -/
theorem test_wf_m : (Instr.ld {} { ord := .rel }).wellFormed = false ∧ (Instr.st {} { d := 1 }).wellFormed = false ∧
    (Instr.st {} { b := 1 }).wellFormed = true := by decide
/-- A code beyond 15 is none of TXABORT's (R247), and TXEND has no code. -/
theorem test_wf_x : (Instr.txabort {} { code := 5 }).wellFormed = true ∧ (Instr.txend {} { code := 5 }).wellFormed = false := by decide
/-- Integer and floating-point sources do not mix (R264), and MMA has no scale vectors. -/
theorem test_wf_t : (Instr.mma {} { ta := .i8, tb := .bf16 }).wellFormed = false ∧
    (Instr.mma {} { ta := .bf16, tb := .bf16, ma := 1 }).wellFormed = false := by decide
/-- NPUT has its destination at a network peer (R289, R292). -/
theorem test_wf_e : (Instr.nput {} {}).wellFormed = false := by decide
/-- A custom-0 word that is TX.B is no illegal word, and an access of 3 bytes is none (R257, R260, R340). -/
theorem test_wf_hart : (Instr.custom0Illegal 0x50B).wellFormed = false ∧ (Instr.custom0Illegal 0x33).wellFormed = false ∧
    (Instr.custom0Illegal 0x400B).wellFormed = true ∧ (Instr.rv64MemoryAccess { hart := 0, op := .load, va := 0, size := 3 }).wellFormed = false := by decide

/-! ### Words (R141 to R157, and the words that the spec writes out) -/

/-- SADD.I64 s1, s2, s3: LEN 1, OP 0x20, D 1 at 15, A 2 at 23, B 3 at 31, TYPE 6 at 53 (R145, R156). -/
theorem test_decode_scalar : decode 0 0x00C0000181008101 = .ok (.sadd {} { d := 1, a := 2, b := .reg 3, t := .i64 }) 8 := by decide +kernel
/-- VADD.I32.SAT (!p2) v5, v7, 100. -/
theorem test_decode_vector : decode 0 (100 * 2 ^ 64 + 0x009200000382D202) =
    .ok (.vadd { g := 2, gn := true } { d := 5, a := 7, b := .imm32 100, t := .i32, sat := true }) 12 := by decide +kernel
/-- PKADD.N8X4 v1, v2, v3: OP 0x60, TYPE 0x0B at 53. -/
theorem test_decode_packed : decode 0 0x0160000181008301 = .ok (.pkadd {} { d := 1, a := 2, b := .reg 3, t := .n8x4 }) 8 := by decide +kernel
/-- PERMB.HI v6, v4, s6. -/
theorem test_decode_lanes : decode 0 0x0401000302030351 = .ok (.permb {} { d := 6, a := 4, b := .bcast 6, sub := 1 }) 8 := by decide +kernel
/-- FADD.F32 v1, v2, v3: OP 0x70, TYPE 0x10 at 53. -/
theorem test_decode_float : decode 0 0x0200000181008381 = .ok (.fadd {} { d := 1, a := 2, b := .reg 3, t := .f32 }) 8 := by decide +kernel
/-- PAND p1, p2, p3: OP 0x88. -/
theorem test_decode_predicate : decode 0 0x0000000181008441 = .ok (.pand {} { d := 1, a := 2, b := .reg 3 }) 8 := by decide +kernel
/-- WAIT with LC, SC and CC unbounded and TC 0, EXIT, and BRX v9. -/
theorem test_decode_control : decode 0 0x00FFFFC000000051 = .ok (.wait {} { disp := 0xFFFFC0 }) 8 ∧ decode 0 0x4D = .ok (.exit { w := true } {}) 8 ∧
    decode 0 0x48011 = .ok (.brx {} { d := 9 }) 8 := by decide +kernel
/-- RVWAIT 3, 1, FETCHW and WMARK. -/
theorem test_decode_sync : decode 0 0x38000000091 = .ok (.rvwait {} { spec := 3, f := true }) 8 ∧ decode 0 0xAD = .ok (.fetchw { w := true } {}) 8 ∧
    decode 0 0xF1 = .ok (.wmark {} {}) 8 := by decide +kernel
/-- TRAP 7 (p1) and HRET. -/
theorem test_decode_traps : decode 0 0x00070000000008D1 = .ok (.trap { g := 1 } { imm := 7 }) 8 ∧ decode 0 0xD9 = .ok (.hret {} {}) 8 := by decide +kernel
/-- LD.N32.ACQ.CLUSTER v4, v10, 0x40, and FENCE.SC.NODE. -/
theorem test_decode_memory : decode 0 (0x40 * 2 ^ 64 + 0x0298000005020482) =
      .ok (.ld {} { d := 4, a := 10, ord := .acq, scope := .cluster, disp := some 0x40 }) 12 ∧
    decode 0 0x004C0000000004C1 = .ok (.fence {} { t := .i8, ord := .sc, scope := .node }) 8 := by decide +kernel
/-- ATOM.ADD.N32.ACQREL.PACKAGE s7, s2, s3, 8. -/
theorem test_decode_atomic : decode 0 (8 * 2 ^ 64 + 0x02BA0081810384CA) =
    .ok (.atom {} { d := 7, a := 2, b := 3, am := .scalar, ord := .acqrel, scope := .package, disp := some 8 }) 12 := by decide +kernel
/-- TXSTAT v20 and TXABORT 5. -/
theorem test_decode_tx : decode 0 0xA04F9 = .ok (.txstat {} { d := 20 }) 8 ∧ decode 0 0x28004F1 = .ok (.txabort {} { code := 5 }) 8 := by decide +kernel
/-- MMA.BF16 a2, s10, s12, and MMAS with pairs at 40 and 42, AS 1 and MB 1. -/
theorem test_decode_matrix : decode 0 0x94A2000006050501 = .ok (.mma {} { ta := .bf16, tb := .bf16, pairA := true, tile := 2, br := 12, ar := 10 }) 8 := by
  decide +kernel
theorem test_decode_matrix_scaled : decode 0 0x95E0001015140509 =
    .ok (.mmas {} { ta := .bf16, tb := .q4e, pairA := true, mb := 1, br := 42, ar := 40 }) 8 := by decide +kernel
/-- COPY A(s4), G(s6), 256, ARRIVE(3), and GATHER with its result in A-space. -/
theorem test_decode_engine : decode 0 (0x0000010001518000 * 2 ^ 64 + 0x0080000003020583) =
    .ok (.copy {} { d := 4, a := 6, dsp := .ownA, arrive := some (3, .team), imm := some 256 }) 16 := by decide +kernel
theorem test_decode_engine_gather : decode 0 (0x0000001801500000 * 2 ^ 64 + 0x0080060005868593) =
    .ok (.gather {} { d := 13, a := 11, c := 12, dsp := .ownA, arrive := some (0, .team), imm := some 24 }) 16 := by decide +kernel
/-- TX.B x10, TX.E x11, TX.A x12 and TX.S x13; a word of another opcode is none of these. -/
theorem test_decode_hart : decodeHart 0x50B = some (.txB 10) ∧ decodeHart 0x158B = some (.txE 11) ∧ decodeHart 0x6200B = some (.txA 12) ∧
    decodeHart 0x368B = some (.txS 13) ∧ decodeHart 0x400B = some (.custom0Illegal 0x400B) ∧ decodeHart 0x13 = none := by decide +kernel
/-- Refusals: length code 0, an opcode without an instruction, a word across a 32-byte block, VADD of a packed type, a
NOP with a bit above the header set (R232), a reserved bit of BRX, FENCE with AM 3 (R152, R261), and RVP 24 of a COPY that arrives nowhere (R155) (R409, R410). -/
theorem test_decode_refuses : decode 0 0x0 = .bad 2 ∧ decode 0 0x7F9 = .bad 1 ∧ decode 24 0x2 = .bad 3 ∧
    decode 0 0x0100000181008201 = .bad 4 ∧ decode 0 0x8001 = .bad 4 ∧ decode 0 0x10000048011 = .reserved 40 ∧
    decode 0 (0x004C0000000004C1 + 3 * 2 ^ 39) = .bad 4 ∧ decode 0 (0x0000010001500000 * 2 ^ 64 + 0x0080000003020583 + 24 * 2 ^ 79) = .bad 4 := by decide +kernel

/-! ### A small state -/

/-- The 32 lanes of a vector register, all holding `x`. -/
def fill (r x : Nat) : SMap 32 := (List.range 32).map (fun l => (32 * r + l, BitVec.ofNat 32 x))
/-- A group at offset 0 of the code of 32 bytes at 0x100000, with every lane there. -/
def tg : Group := { part := 0, image := 1, var := 0, kind := .general, tslot := 0 }
def tt : Team := { part := 0, image := 1, var := 0, ngrp := 1 }
/-- The package with that group issuing. -/
def ts (g : Group) : State :=
  { State.reset with cur := .group 0, groups := [(0, g)], teams := [(0, tt)], parts := [(0, probePart)] }
/-- The issue of such a group under guard p0. -/
def ti (g : Group) : Issue := { gk := 0, g := g, pc := 0, act := 0xFFFFFFFF, exe := 0xFFFFFFFF }
/-- A group with all its blocks, and a load to v9 in flight. -/
def tg4 : Group :=
  { tg with held := 15, lc := 1, ops := [{ id := 0, kind := .load, accs := [{ lane := 0, place := .glob 0, size := 4 }], dst := 9 }] }
theorem ti_ok : (ts tg).issue? {} = some (ti tg) ∧ (ts tg4).issue? {} = some (ti tg4) := by decide +kernel

/-! ### Witnesses -/

/-- Scalar operands at both ends of the file, with a load to v9 in flight. -/
theorem witness_ScalarIntegerResults : (ts tg4).issue? {} = some (ti tg4) ∧ (ti tg4).Free true [] [0, 63, 62] := by
  unfold Issue.Free; decide +kernel
theorem witness_ScalarCompareAndMove : (ts tg4).issue? {} = some (ti tg4) ∧ (ti tg4).Free true [] [63, 0] := by unfold Issue.Free; decide +kernel
/-- Vector operands at both ends of the file, beside the register that the load will write. -/
theorem witness_VectorArithmeticResults : (ts tg4).issue? {} = some (ti tg4) ∧ (ti tg4).Free false ([254, 255] ++ [0, 1] ++ [10, 11]) [63] := by
  unfold Issue.Free; decide +kernel
theorem witness_VectorBitResults : (ts tg4).issue? {} = some (ti tg4) ∧ (ti tg4).Free false ([255] ++ [0] ++ [8] ++ []) [0] := by
  unfold Issue.Free; decide +kernel
theorem witness_VectorMoves : (ts tg4).issue? {} = some (ti tg4) ∧ (ti tg4).Free false ([254, 255] ++ [0, 1]) [] := by unfold Issue.Free; decide +kernel
theorem witness_PackedResults : (ts tg4).issue? {} = some (ti tg4) ∧ (ti tg4).Free false ([255] ++ [0] ++ [] ++ []) [] ∧ 3 < Typ.n8x4.elems := by
  unfold Issue.Free; decide +kernel
theorem witness_LaneExchanges : (ts tg4).issue? {} = some (ti tg4) ∧ (ti tg4).Free false [255, 0] [62, 63] ∧ (ti tg4).Free true [0] [63] := by
  refine ⟨by decide +kernel, ?_, ?_⟩ <;> unfold Issue.Free <;> decide +kernel
theorem witness_PredicateResults : (ts tg4).issue? {} = some (ti tg4) ∧ (ti tg4).Free false ([254, 255] ++ [0, 1]) [] := by unfold Issue.Free; decide +kernel
theorem witness_FloatResults : (ts tg4).issue? {} = some (ti tg4) ∧ (ti tg4).Free false ([255] ++ [0] ++ [1] ++ []) [0] ∧
    typOfCode (fld (0x14 : BitVec 8) 4 0) = some .e5m2 := by unfold Issue.Free; decide +kernel
theorem witness_IssueChoosesLanes : (ts { tg with p := [(1, 0x80000001)] }).issue? { g := 1, gn := true } =
    some { ti { tg with p := [(1, 0x80000001)] } with exe := 0x7FFFFFFE } := by decide +kernel
/-- A group that goes on, and one whose last lane has left. -/
theorem witness_IssueAdvances : (ts tg).issue? {} = some (ti tg) ∧ (ts tg4).group? 0 = some tg4 ∧
    ¬(tg4.exited = 0xFFFFFFFF ∧ tg4.lc = 0 ∧ tg4.sc = 0 ∧ tg4.cc = 0 ∧ tg4.tc = 0) ∧
    (let g : Group := { tg with exited := 0xFFFFFFFF }
     (ts g).group? 0 = some g ∧ g.exited = 0xFFFFFFFF ∧ g.lc = 0 ∧ g.sc = 0 ∧ g.cc = 0 ∧ g.tc = 0) := by decide +kernel
/-- Targets 28 in code of 32 bytes; 32 and 2 are refused. -/
theorem witness_BranchTargets : (ts { tg with v := fill 9 28 }).issue? {} = some (ti { tg with v := fill 9 28 }) ∧ (ti tg).Free false [9] [] ∧
    (∀ l, l < 32 → ((ti { tg with v := fill 9 28 }).g.vr 9 l).toNat % 4 = 0 ∧
      ((ti { tg with v := fill 9 28 }).g.vr 9 l).toNat < (((ts tg).gvar? tg).map (·.csz)).getD 0) ∧
    (∀ l, l < 32 → (((0xFFFFFFFF : LaneMask).getLsbD l = true ↔ (ti tg).exe.getLsbD l = true ∧
      (((ti { tg with v := fill 9 32 }).g.vr 9 l).toNat % 4 ≠ 0 ∨ (((ts tg).gvar? tg).map (·.csz)).getD 0 ≤ ((ti { tg with v := fill 9 32 }).g.vr 9 l).toNat)))) ∧
    (∀ l, l < 32 → (((0xFFFFFFFF : LaneMask).getLsbD l = true ↔ (ti tg).exe.getLsbD l = true ∧
      (((ti { tg with v := fill 9 2 }).g.vr 9 l).toNat % 4 ≠ 0 ∨ (((ts tg).gvar? tg).map (·.csz)).getD 0 ≤ ((ti { tg with v := fill 9 2 }).g.vr 9 l).toNat)))) := by
  unfold Issue.Free; decide +kernel
/-- EXIT of a group that goes on and of one that ends; WAIT at its bound and beyond it. -/
theorem witness_LanesWaitAndLeave : (ts tg).issue? {} = some (ti tg) ∧ (ti tg).exe &&& tg.intx = 0 ∧
    (tg.exited ||| (ti tg).exe = 0xFFFFFFFF ∧ tg.lc = 0 ∧ tg.sc = 0 ∧ tg.cc = 0 ∧ tg.tc = 0) ∧
    ¬(tg4.exited ||| (ti tg4).exe = 0xFFFFFFFF ∧ tg4.lc = 0 ∧ tg4.sc = 0 ∧ tg4.cc = 0 ∧ tg4.tc = 0) ∧
    (tg4.lc ≤ fld (0x1 : BitVec 32) 5 0 ∧ tg4.sc ≤ fld (0x1 : BitVec 32) 11 6 ∧ tg4.cc ≤ fld (0x1 : BitVec 32) 17 12 ∧ tg4.tc ≤ fld (0x1 : BitVec 32) 23 18) ∧
    ¬(tg4.lc ≤ fld (0x0 : BitVec 32) 5 0) := by decide +kernel
/-- Points 23 and 0: not initialised, initialised at the count named, and the phase awaited or not. -/
theorem witness_RendezvousPoints :
    let s := ({ ts tg with teams := [(0, { tt with rv := [(23, pointWord 2 1 true true)] })] } : State)
    s.issue? {} = some (ti tg) ∧ (s.point (ti tg) 0).getLsbD 33 = false ∧ fld (s.point (ti tg) 23) 15 0 = 2 ∧ (ti tg).exe &&& tg.intx = 0 ∧
    (s.point (ti tg) 23).getLsbD 33 = true ∧ tg.ops = [] ∧ (s.point (ti tg) 23).getLsbD 32 = true ∧ (s.point (ti tg) 23).getLsbD 32 ≠ false ∧ (ti tg).exe ≠ 0 := by
  decide +kernel
/-- The same state with the page at 0x100000 mapped to itself. -/
def tm (g : Group) : State := probeTables.foldl (fun (s : State) e => s.putBytes (.glob e.1) (toBytes 8 e.2.toNat)) (ts g)

/-- A-space line 4,032 and a global line, a watch kept through a stop, a watch in A-space that is due or not, and a wait at its limit. -/
theorem witness_WatchAndWait : (ts tg).issue? {} = some (ti tg) ∧ (ti tg).Free false [] [5] ∧ (ti tg).exe ≠ 0 ∧ tg.acquiring = false ∧ tg.lc < 63 ∧
    (let x : BitVec 64 := 0x8000000000000FC0
     x.getLsbD 63 = true ∧ fld x 62 19 = 0 ∧ (ts tg).team? (tg.tk 0) = some tt ∧ fld x 18 0 < 4096 * tt.asize) ∧
    (let w : Watch := { armed := true, bound := true, keep := 0xFFFFFFFF, loc := true, line := 63, home := .aspc 0 0xFC0 }
     w.keep &&& (ti tg).exe ≠ 0 ∧ w.loc = (0x8000000000000FC0 : BitVec 64).getLsbD 63 ∧ w.line = BitVec.ofNat 56 (fld (0x8000000000000FC0 : BitVec 64) 18 6) ∧
       w.armed = true ∧ (ts tg).watchDue w = false ∧ (ts tg).watchDue { w with snap := 1 } = true) ∧
    (let g : Group := { tg with s := [(5, 0x100000)] }
     (tm g).issue? {} = some (ti g) ∧ g.watch.keep &&& (ti g).exe = 0 ∧ fld (g.sr 5) 62 56 = 0 ∧ (g.sr 5).getLsbD 63 = false ∧
       ((issued (tm g) (ti g) {} 8 0x13).coreXlate 0 0 .load (fld (g.sr 5) 55 6 * 64)).1 = .ok 0x100000) ∧ tg.watch.armed = false ∧
    (let g : Group := { tg with mwait := 1, watch := { armed := true, trig := true }, mwaitEnd := some 0 }
     (ts g).group? 0 = some g ∧ g.st = .running ∧ g.mwait ≠ 0 ∧ g.watch.trig = true ∧ g.mwaitEnd = some 0 ∧ 0 ≤ (ts g).clock.now) := by
  unfold Issue.Free; decide +kernel
/-- An MMA of two register operands on tile 15. -/
def tmat : MatOp := { kind := .mma, gk := 0, tk := 0, tile := 15, exe := 0xFFFFFFFF, aReg := some 0, bReg := some 128 }
/-- FETCHW of a lodge group; SWITCHV with and without a request; blocks 1 and 3 at the ends of what XACQ and XREL name. -/
theorem witness_SchedulingInstructions :
    (let g : Group := { tg with kind := .lodge, fetchw := some (0, 0) }
     (ts g).issue? {} = some (ti g) ∧ g.kind = .lodge ∧ (ti g).exe &&& g.intx = 0 ∧ g.fetchw.isSome = true) ∧
    (let g : Group := { tg with kind := .lodge }
     (ts { g with fetchAt := some (1, 8) }).group? 0 = some { g with fetchAt := some (1, 8) } ∧ g.fetchw = none ∧ (ts g).inn.fetch.any (fun f => f.gk == 0) = false ∧
     ((ts g).setInn { fetch := [{ gk := 0, at_ := 0 }] }).inn.fetch.any (fun f => f.gk == 0) = true) ∧
    (let s := ({ ts tg with teams := [(0, { tt with request := some 1 })] } : State)
     s.issue? {} = some (ti tg) ∧ (ti tg).g.kind ≠ .lodge ∧ s.team? (tg.tk 0) = some { tt with request := some 1 } ∧ tg.handler = false ∧
     (ti tg).act = ~~~tg.exited ∧ ({ tt with request := some 1 } : Team).request.isSome = true ∧ tt.later = false ∧ tt.request.isSome = false ∧
     ({ ts tg with teams := [(0, { tt with request := some 1, later := true, partial_ := true })] } : State).teamWhole (tg.tk 0) = false) ∧
    (let g : Group := { tg with held := 7, budget := 4 }
     (ts g).issue? {} = some (ti g) ∧ (ts g).team? (g.tk 0) = some tt ∧ g.held.getLsbD 1 = true ∧ g.held.getLsbD 3 = false ∧ g.held.getLsbD (3 - 1) = true ∧
     3 < g.budget ∧ tt.poolFree = 0 ∧ 0 < ({ tt with poolFree := 1 } : Team).poolFree ∧ (ts g).behind (ti g) 16 = false ∧ g.held.getLsbD 2 = true ∧
     (2 < 3 → g.held.getLsbD (2 + 1) = false) ∧ ((ts g).core (coreOf 0)).mq.any (fun m => (ts g).matOf 0 m && m.blocks.getLsbD 2) = false ∧
     (let s := (ts g).setCore 0 { mq := [{ tmat with blocks := 4 }] }
      s.issue? {} = some (ti g) ∧ (s.core (coreOf 0)).mq.any (fun m => s.matOf 0 m && m.blocks.getLsbD 2) = true)) := by
  repeat' apply And.intro
  all_goals decide +kernel

/-- A request record at 0x100000, with room in the Ostler's queue and in a service ring. -/
def tsvc : State := (tm { tg with s := [(5, 0x100000), (6, 9)] }).setPart 0 { probePart with sring := some ⟨0x108040, 6⟩ }
theorem witness_ServiceCalls :
    let g : Group := { tg with s := [(5, 0x100000), (6, 9)] }
    tsvc.issue? {} = some (ti g) ∧ (ti g).Free false [] [5, 6] ∧ (ti g).exe &&& g.intx = 0 ∧ (ti g).exe ≠ 0 ∧ fld (g.sr 5) 5 0 = 0 ∧ fld (g.sr 5) 63 56 = 0 ∧
    ((issued tsvc (ti g) {} 8 0x19).xlate 0 0 .load (fld (g.sr 5) 55 0)).1 = .ok 0x100000 ∧
    (tsvc.core (coreOf 0)).reqTail - (tsvc.core (coreOf 0)).reqHead < 16 ∧ (tsvc.part? 0).bind (·.sring) = some ⟨0x108040, 6⟩ ∧ g.ops = [] ∧
    tsvc.svcFull 0 (svcRecord tsvc (ti g) { a := 5, b := 6 }) = false ∧
    (let w := ((issued tsvc (ti g) {} 8 0x19).xlate 0 0 .load (fld (g.sr 5) 55 0)).2
     (w.part? 0).bind (·.sring) = some ⟨0x108040, 6⟩ ∧ (match w.ringPost 0 ⟨0x108040, 6⟩ 64 true (fun _ => svcRecord w (ti g) { a := 5, b := 6 }) with
       | .posted _ => true
       | _ => false) = true) := by unfold Issue.Free; decide +kernel

theorem witness_HandlerEntrySaves : 3 < 4 ∧ 0xFFFF < 2 ^ 16 ∧ (tg.enterHandler 3 0xFFFF 16 (fun _ => 4)).handler = true := by decide +kernel
/-- A partition whose variant has a handler at offset 16, in code of 32 bytes. -/
def th (g : Group) : State := (tm g).setPart 0 { probePart with images := [(1, { probeImage with vars := probeImage.vars.map (fun v => { v with handler := some 16 }) })] }
theorem witness_UserTraps : (th tg).issue? {} = some (ti tg) ∧ (ti tg).exe &&& tg.intx = 0 ∧ (ti tg).exe ≠ 0 ∧ tg.handler = false ∧ tg.lc = 0 ∧ tg.sc = 0 ∧
    (th tg).handlerOf tg = some 16 ∧ (ts tg).handlerOf tg = none ∧ tg4.lc ≠ 0 ∧
    (let g : Group := { tg with handler := true }
     (th g).issue? {} = some (ti g) ∧ g.pending = none ∧ (g.raise 2 0).pending = some 2 ∧ (th g).handlerOf (g.raise 2 0) = some 16) ∧
    (let g := tg.raise 2 0
     let s := ((tm g).setPart 0 { probePart with images := [(1, { probeImage with vars := probeImage.vars.map (fun v =>
       { v with handler := some 16, wps := [{ offs := 0, kind := 0, sword := 0 }] }) })] }).putBytes (.glob 0x100000) [0x05]
     s.group? 0 = some g ∧ (s.stand? 0).map (fun x => ((x.2.causesDue 0 x.1.g (some x.1)).head?, x.2.handlerOf x.1.g, x.1.g.lc)) =
       some (some 2, some 16, 0)) := by decide +kernel
/-- SRD into both files, SWR of each register in and out of the handler, SFLAG and WMARK. -/
theorem witness_SpecialRegisters : (ts tg).issue? {} = some (ti tg) ∧ (ti tg).Free false [255 % 64] [] ∧ (ti tg).Free true [] [63] ∧ (ti tg).exe ≠ 0 ∧
    tg.handler = false ∧ (ti tg).exe &&& tg.intx = 0 ∧
    (let g : Group := { tg with handler := true }
     (ts g).issue? {} = some (ti g) ∧ (ti g).Free true [] [0] ∧ g.handler = true) := by
  repeat' apply And.intro
  all_goals decide +kernel

/-- A load of one word at an address in a scalar pair of the mapped page, at the ends of A-space, and through the own binding. -/
def tga : Group := { tg with s := [(5, 0x100FFC)], lc := 62, sc := 62 }
theorem witness_AccessesLaunch :
    (tm tga).issue? {} = some (ti tga) ∧ (ti tga).Free false [] ([63] ++ [5]) ∧ (ti tga).exe ≠ 0 ∧ (ti tga).exe &&& tga.intx = 0 ∧ tga.acquiring = false ∧
    tga.lc < 63 ∧ tga.sc < 63 ∧ bndBound ((tm tga).binding (ti tga) 0) = true ∧
    (let o : MOps := { d := 63, a := 5, b := 63, am := .scalar }
     (∀ b ∈ [false, true], ∀ l ∈ accLanes o (ti tga).exe, ∀ n ∈ [1, 2, 3, 4, 5], (tm tga).violates (ti tga) o .global b 4 l n = false) ∧
     (∀ c ∈ [Access.load, .store, .atomic], let r := (issued (tm tga) (ti tga) {} 8 0x90).places (ti tga) o .global c 4
       (r.1, r.2.1) = ([(0, 0x100FFC, .glob 0x100FFC)], []))) ∧
    (let o : MOps := { d := 1, a := 2, am := .stride, disp := some 0 }
     let g : Group := { tg with s := [(2, 3968)] }
     (∀ l ∈ accLanes o (ti g).exe, ∀ n ∈ [1, 2, 3, 4, 5], (ts g).violates (ti g) o .ownA true 4 l n = false ∧ (ts g).violates (ti g) o .peer true 4 l n = false) ∧
     (let r := (issued (ts g) (ti g) {} 12 0x92).places (ti g) o .ownA .load 4
      r.2.1 = [] ∧ r.1.length = 32 ∧ r.1.getLast? = some (31, 4092, .aspc 0 4092))) ∧
    (let g : Group := { tg with ops := [{ id := 0, kind := .store, accs := [] }] }
     ∃ p ∈ g.ops, p.kind = .load ∨ p.kind = .atomic ∨ p.kind = .snapshot ∨ Ord.sc ≠ .acq) ∧
    (let g : Group := { tg with fenceWin := some 0 }
     let s := (ts g).setClock { now := 1152 }
     s.issue? {} = some (ti g) ∧ g.fenceWin = some 0 ∧ (0 + 2) * s.clock.winLen + 128 ≤ s.clock.now ∧ s.clock.unsync = false) ∧
    (let x : HeldRel := { gk := 0, id := 0, sent := 0, by_ := { part := 0, kind := 0 }, op := { id := 0, kind := .release, accs := [] } }
     let s := (ts tg).setNode { held := [x] }
     s.issue? {} = some (ti tg) ∧ x ∈ s.node.held ∧ x.gk = (ti tg).gk ∧ Ord.sc ≠ .acq) ∧
    (∀ p ∈ tg.ops, p.kind ≠ .load ∧ p.kind ≠ .atomic ∧ p.kind ≠ .snapshot ∧ Ord.sc = .acq) ∧ (∀ x ∈ (ts tg).node.held, x.gk ≠ 0) ∧ tg.fenceWin = none := by
  repeat' apply And.intro
  all_goals decide +kernel

/-- Lanes at the address 0x100002, misaligned, and at 2^56, beyond the address space. -/
theorem witness_AddressesAndViolations :
    (let g : Group := { tg with v := fill 10 0x100002 }
     (ts g).issue? {} = some (ti g) ∧ (ti g).Free false (vregs .n32 4 ++ addrV { d := 4, a := 10 } .global) (addrS { d := 4, a := 10 }) ∧
     ∀ l, l < 32 → ((0xFFFFFFFF : LaneMask).getLsbD l = true ↔ (ti g).exe.getLsbD l = true ∧
       (effAddr g { d := 4, a := 10 } .global 4 l).toNat % 4 ≠ 0)) ∧
    (let g : Group := { tg with v := fill 11 0x1000000 }
     (ts g).issue? {} = some (ti g) ∧ (ti g).exe &&& g.intx = 0 ∧
     (∀ l, l < 32 → (effAddr g { d := 4, a := 10 } .global 4 l).toNat % 4 = 0) ∧
     ∀ l, l < 32 → ((0xFFFFFFFF : LaneMask).getLsbD l = true ↔ (ti g).exe.getLsbD l = true ∧
       fld (effAddr g { d := 4, a := 10 } .global 4 l) 63 56 ≠ 0)) := by
  repeat' apply And.intro
  all_goals decide +kernel

/-- A group with one access of a kind in flight. -/
def tgo (o : MemOp) : Group := { tg with lc := 1, sc := 1, ops := [o] }
/-- A load, a store, releases before and after their window, and an atomic; and an access to a line of partition 1. -/
theorem witness_AccessesPerformed :
    (let acc : List Acc := [{ lane := 0, place := .glob 0x100000, size := 4, data := 7 }]
     let mk := fun (k : OpKind) => ({ id := 3, kind := k, accs := acc, exe := 1 } : MemOp)
     (∀ k ∈ [OpKind.load, .store, .release, .atomic], (ts (tgo (mk k))).op? 0 3 = some (tgo (mk k), mk k) ∧
       (ts (tgo (mk k))).opReady 0 (tgo (mk k)) (mk k) = true ∧ (ts (tgo (mk k))).opBad (tgo (mk k)) (mk k) = false) ∧
     (∀ a ∈ (mk .load).accs, (ts (tgo (mk .load))).anyPoison ((ts (tgo (mk .load))).norm a.place) a.size = false) ∧
     (let o : MemOp := { mk .release with ord := .rel, scope := .node, sent := some 0 }
      let s := (ts (tgo o)).setClock { now := 1152 }
      s.op? 0 3 = some (tgo o, o) ∧ s.opReady 0 (tgo o) o = true ∧ o.sent = some 0 ∧ (0 + 2) * s.clock.winLen + 128 ≤ s.clock.now ∧ s.clock.unsync = false ∧
        s.node.held.find? (fun x => x.gk == 0 && x.id == 3) = none ∧ s.heldBack 0 o = false) ∧
     (let o : MemOp := { mk .release with ord := .rel, scope := .node }
      let s := ts (tgo o)
      s.op? 0 3 = some (tgo o, o) ∧ s.opReady 0 (tgo o) o = true ∧ s.opBad (tgo o) o = false ∧ s.clock.unsync = false ∧ o.sent = none) ∧
     (∀ e ∈ (ts (tgo (mk .load))).coh.l1, e.2 < 3) ∧
     (let s := (ts (tgo (mk .store))).setMem { tags := [(0x1000, 1)] }
      s.op? 0 3 = some (tgo (mk .store), mk .store) ∧ s.opBad (tgo (mk .store)) (mk .store) = true)) := by decide +kernel
/-- The last four bytes of A-space's first block. -/
theorem witness_LocalStoreFrame : ∀ n, n < ([1, 2, 3, 4] : List (BitVec 8)).length → (4095 : Nat) = 4092 + n → ([1, 2, 3, 4] : List (BitVec 8)).getD n 0 = 4 := by
  decide

/-- TXBEGIN of a lane below its limit and of one at it, TXEND of a transaction, of none, and with a load in flight. -/
theorem witness_TransactionInstructions : (ts tg).issue? {} = some (ti tg) ∧ (ts tg).txNeed (ti tg) = 0 ∧ (ti tg).Free false [20] [] ∧
    (ti tg).exe &&& tg.intx = 0 ∧ tg.lc = 0 ∧ tg.sc = 0 ∧ tg4.lc ≠ 0 ∧ (ti tg4).exe ≠ 0 ∧
    (let g : Group := { tg with txCount := [(3, 4)] }
     (ts g).issue? {} = some (ti g) ∧ (ts g).txNeed (ti g) ≠ 0 ∧ (ts g).tix.token ≠ some (.group 0) ∧ (ts g).tix.tokReqs.any (fun r => r.who == .group 0) = false ∧
     ((ts g).setTix { token := some (.group 0) }).tix.token = some (.group 0)) ∧
    (let g : Group := { tg with intx := 0x80000001 }
     (ts g).issue? {} = some (ti g) ∧ (ti g).exe &&& g.intx ≠ 0) := by
  repeat' apply And.intro
  all_goals decide +kernel
theorem witness_LaneAborts : (ts { tg with intx := 0x80000000 }).group? 0 = some { tg with intx := 0x80000000 } ∧ 31 < 32 ∧ 9 < 256 ∧ 255 < 256 ∧
    (let s := (ts { tg with intx := 0x80000000, serial := 0x80000000 }).setTix { token := some (.group 0) }
     ((s.abortLanes 0 [(31, 9, 0)]).group? 0).map (·.serial) = some 0 ∧ s.tix.token = some (.group 0)) := by decide +kernel
theorem witness_TicketOrder : firstReq [{ who := .hart 2, at_ := 4 }, { who := .group 1, at_ := 4 }, { who := .hart 0, at_ := 6 }] =
    some { who := .group 1, at_ := 4 } := by decide +kernel
/-- A request of a group, a decision for a group and for a hart, and a grant of the token. -/
theorem witness_TicketsAndDecisions :
    (let s := ((ts tg).setTix { reqs := [{ who := .group 0, at_ := 4 }, { who := .group 1, at_ := 6 }], ready := 5 }).setClock { now := 3 }
     s.tix.ready ≤ 2 * s.clock.now ∧
     firstReq (s.tix.reqs.filter (fun r => r.at_ < 2 * s.clock.now && (s.tix.token.isNone || s.tix.token == some r.who))) = some { who := .group 0, at_ := 4 }) ∧
    (let g : Group := { tg with intx := 1, txend := some (1, 1, 8) }
     let s := (ts g).setTix { next := 6, decided := 5, out := [(5, .group 0)], token := some (.group 0) }
     s.tix.out = [(5, .group 0)] ∧ s.tix.token = some (.group 0) ∧ s.group? 0 = some g ∧ g.txend = some (1, 1, 8) ∧ g.stopEv = none ∧
       s.log? g.part = none) ∧
    (let s := ((ts tg).setTix { next := 6, decided := 5, out := [(5, .hart 2)], slots := [(63, 2)] }).setHart 2
       { ending := some 5, ckpt := some { x := [], f := [], fcsr := 0, next := 4, rd := 1 }, slot := some 63 }
     s.tix.out = [(5, .hart 2)] ∧ s.tix.token = none ∧ (s.hart 2).ending = some (5 : BitVec 48).toNat ∧ (s.hart 2).ckpt.isSome = true ∧
       (∀ e ∈ s.tix.slots, e.2 = 2 → (s.hart 2).slot = some e.1) ∧ s.log? ((s.hart 2).part.getD 64) = none) ∧
    (let s := (ts tg).setTix { tokReqs := [{ who := .group 0, at_ := 4 }] }
     s.tix.tokReqs = [{ who := .group 0, at_ := 4 }] ∧ s.tix.token = none ∧ s.tix.out = []) := by decide +kernel
/-- Hart 15 outside and inside a transaction, at the retry limit less one. -/
theorem witness_HartTransactions :
    (let s := ({ State.reset with cur := .hart 15 } : State).setHart 15 { count := 3 }
     s.cur = .hart 15 ∧ (s.hart 15).ckpt = none ∧ (s.hart 15).count.toNat < s.retryLimit ((s.hart 15).part.getD 64) ∧ s.freeTxSlot = some 0) ∧
    (let s := ({ State.reset with cur := .hart 15 } : State).setHart 15 { ckpt := some { x := [], f := [], fcsr := 0, next := 4, rd := 1 } }
     (s.hart 15).ckpt.isSome = true ∧ (s.hart 15).ending = none ∧ s.tix.reqs.any (fun q => q.who == .hart 15) = false) := by decide +kernel
theorem witness_HartAbortRestores : ((State.reset.setHart 15 { ckpt := some { x := [], f := [], fcsr := 0, next := 4, rd := 1 } }).hart 15).ckpt =
    some { x := [], f := [], fcsr := 0, next := 4, rd := 1 } ∧ 9 < 256 ∧ 255 < 256 := by decide +kernel
theorem witness_HartTraps : ({ State.reset with cur := .hart 271 } : State).cur = .hart 271 ∧ (({ State.reset with cur := .hart 271 } : State).hart 271).ckpt = none ∧
    (let k := (State.reset.setHart 15 { mode := .u, medeleg := 4 }).hart 15
     k.mode ≠ .m ∧ k.medeleg.getLsbD 2 = true) := by
  decide +kernel
/-- A matrix group of a team with tile 15 and metadata register 63; MMA of 64-bit rows at both ends of the register file. -/
def tgm : Group := { tg with kind := .matrix, held := 15, s := [(40, 0), (41, 0), (42, 0), (43, 0)] }
def tmx (k : Core) : State := { ts tgm with teams := [(0, { tt with tiles := 0x8000, mbase := [63], asize := 128, wsize := 192 })], cores := [(0, k)] }
theorem witness_MatrixOperationsAccepted :
    let o : TOps := { ta := .i8, tb := .i8, regB := true, ar := 0, br := 128 }
    let q : TOps := { ta := .bf16, tb := .bf16, pairA := true, ar := 40, br := 42 }
    let s := tmx {}
    s.issue? {} = some (ti tgm) ∧ tgm.kind = .matrix ∧ (ti tgm).exe ≠ 0 ∧ (ti tgm).exe &&& tgm.intx = 0 ∧ s.coreTile (ti tgm) 0 = some 15 ∧
    (ti tgm).Free false (vrun o.ar (matRegs .i8 .i8 .i8) ++ vrun o.br (matRegs .i8 .i8 .i8)) [] ∧ matFaults o false s (ti tgm) = [] ∧
    s.matHold (ti tgm) (some 15) = false ∧
    (ti tgm).Free false ([] ++ []) ([40, 41] ++ [42, 43]) ∧ matFaults q false s (ti tgm) = [] ∧
    s.coreMeta (ti tgm) 0 = some 63 ∧ fld (tgm.sr 40) 63 20 = 0 ∧ (tgm.sr 40).toNat % 64 = 0 ∧
    (∀ t ∈ s.team? 0, fld (tgm.sr 40) 19 0 + 256 ≤ 4096 * t.asize) ∧ s.matHold (ti tgm) none = false ∧ tgm.acquiring = false := by
  repeat' apply And.intro
  all_goals decide +kernel
/-- The token of tile 15 free, held by another group, and held by this one. -/
theorem witness_TileInstructions :
    (tmx {}).issue? {} = some (ti tgm) ∧ (ti tgm).exe ≠ 0 ∧ (tmx {}).coreTile (ti tgm) 0 = some 15 ∧ kget ((tmx {}).core 0).token 15 = none ∧
    ((tmx {}).core 0).mq.any (fun m => m.onTile (tgm.tk 0) 15) = false ∧ tgm.acquiring = false ∧ (tmx {}).behind (ti tgm) 15 = false ∧
    kget ((tmx { token := [(15, 1)] }).core 0).token 15 = some 1 ∧ (tmx { token := [(15, 0)] }).issue? {} = some (ti tgm) ∧
    kget ((tmx { token := [(15, 0)] }).core 0).token 15 = some 0 ∧ (ti tgm).exe &&& tgm.intx = 0 ∧ (ti tgm).Free false (vrun 128 128) [] ∧
    ((tmx { token := [(15, 0)] }).core 0).tpoison = [] ∧ tgm.ops.any (fun p => (p.kind == .load || p.kind == .atomic) && !p.scalar) = false := by
  repeat' apply And.intro
  all_goals decide +kernel
theorem witness_MatrixSlices :
    let m := tmat
    let s := tmx { mq := [m] }
    nextMat (s.core 0).mq [] = some m ∧ s.matWaits 0 m = false ∧ m.kind ≠ .ldmeta ∧
    s.matHeld 0 m = [] ∧ m.k / 32 > m.slice + 1 ∧
    (let m := { m with slice := m.k / 32 - 1 }
     m.k / 32 ≤ m.slice + 1 ∧ s.matWaits 0 m = false) ∧
    (let m := { tmat with aReg := none, aPair := (0, 0) }
     let s := tmx { mq := [m], rsb := [{ tk := 0, wSpace := false, lo := 0, hi := 4096, dest := true, cmd := some (0, 63) }] }
     nextMat (s.core 0).mq [] = some m ∧ s.matWaits 0 m = false ∧ s.matHeld 0 m ≠ []) := by
  repeat' apply And.intro
  all_goals decide +kernel

/-- A copy group, and a command of it at the last entry of the queue. -/
def tge : Group := { tg with kind := .copy, cc := 1, s := [(5, 0), (6, 4032), (7, 64)] }
def ec : EngCmd := { entry := 63, kind := .copy, gk := 0, tk := 0, part := 0, src := .loc false 0 0 4096 4032, dst := .loc true 0 0 4096 0, len := 64 }
def te (l : List EngCmd) : State := { ts tge with teams := [(0, { tt with wsize := 1 })], cores := [(0, { eq := l })] }
/-- COPY of the last 64 bytes of the team's A-space to its W-space. -/
theorem witness_EngineInstructions :
    let o : EOps := { d := 5, a := 6, b := 7, ssp := .ownA, dsp := .ownW }
    (te []).issue? {} = some (ti tge) ∧ tge.kind = .copy ∧ (ti tge).Free false [] ([5, 6] ++ ([7] ++ []) ++ []) ∧ (ti tge).exe ≠ 0 ∧
    (ti tge).exe &&& tge.intx = 0 ∧ engFaults .copy o (te []) (ti tge) = [] ∧ engHold .copy o (te []) (ti tge) = none ∧ tge.acquiring = false ∧
    ((te [ec]).core 0).eq.length < 64 ∧ (te [ec]).group? 0 = some tge ∧ (te [ec]).log? 0 = none := by
  repeat' apply And.intro
  all_goals decide +kernel
/-- A command alone in the queue can take its turn. -/
theorem ready_alone (c : EngCmd) (h : (te [c]).cmdReady c = true) (e : c.entry = 63) (k : c.gk = 0) (t : c.tk = 0) (n : c.torn = false) :
    Ready (te [c]) 0 63 c tge :=
  { found := by show List.find? (fun (x : EngCmd) => x.entry == 63) [c] = some c; simp [e]
    home := by rw [k]; rfl
    entry := e
    ready := h
    group := by rw [k]; rfl
    team := by rw [k, t]; rfl
    alive := by decide
    sound := n }
/-- COPY and DECOMP of 64 bytes, COPYT with a descriptor the engine takes, and a GATHER at its end. -/
theorem witness_EngineTransfers :
    Ready (te [ec]) 0 63 ec tge ∧ Ready (te [{ ec with len := 0 }]) 0 63 { ec with len := 0 } tge ∧ Clean (te [ec]) 0 ∧ ec.kind = .copy ∧ ec.len ≠ 0 ∧
    (∀ i j, i < ec.len → j < ec.len → place false 0 (0 + 4032 + i) ≠ place true 0 (0 + 0 + j)) ∧
    (let c : EngCmd := { ec with kind := .decomp, sub := 1, c := pack 64 [(0, 25, 64)], unit := some 0 }
     Ready (te [c]) 0 63 c tge ∧ c.len ≠ 0 ∧
       (decodeStream (fld c.sub 1 0 = 1) false c.cap ((List.range c.len).map (fun n => (te [c]).readByte (place false 0 (0 + 4032 + n))))
         ((List.range (dictLen c.c)).map (fun n => (te [c]).readByte (.wspc 0 ((te [c]).wBase c.tk + dictOff c.c + n))))).out.length ≤ c.cap) ∧
    (let c : EngCmd := { ec with kind := .gather, batch := 8, table := some { rows := 1, rlen := 1 } }
     Ready (te [c]) 0 63 c tge ∧ c.len ≠ 0 ∧ c.len ≤ 8 * c.batch ∧ c.bursts = []) := by
  refine ⟨ready_alone _ ?_ rfl rfl rfl rfl, ready_alone _ ?_ rfl rfl rfl rfl, ⟨rfl, rfl⟩, rfl, by decide, ?_, ⟨ready_alone _ ?_ rfl rfl rfl rfl, ?_, ?_⟩,
    ready_alone _ ?_ rfl rfl rfl rfl, ?_, ?_, rfl⟩
  case refine_3 => intro i j _ _ h; simp [place] at h
  all_goals decide +kernel
/-- Sums of a row of one sector, over one index. -/
def tacc : Acum := { n := 1, vals := List.replicate 16 0 }
/-- A GATHER of one good and one bad index, a burst, sums of an SCADD, and rows inside and outside the pool. -/
theorem witness_TableCommands :
    (let c : EngCmd := { ec with kind := .gather, len := 2, table := some { rows := 1, rlen := 1 } }
     Ready (te [c]) 0 63 c tge ∧ c.bursts = [] ∧ 8 * c.batch < c.len ∧ Clean (te [c]) 0 ∧ ({ rows := 1, rlen := 1 } : TableSample).defrow = 0 ∧ c.defRow = none ∧
       ∀ j, j < min 8 (c.len - 8 * c.batch) → (te [c]).rowViol c.part { rows := 1, rlen := 1 } 0 = false) ∧
    (let c : EngCmd := { ec with kind := .scadd, len := 2, table := some { rows := 0, rlen := 1 } }
     Ready (te [c]) 0 63 c tge ∧ ∀ j, j < min 8 (c.len - 8 * c.batch) →
       badIndex { rows := 0, rlen := 1 } (BitVec.ofNat 32 (ofBytes ((List.range 4).map (fun n => (te [c]).readByte (place true 0 (0 + 0 + 32 * c.batch + 4 * j + n)))))) = true) ∧
    (let c : EngCmd := { ec with kind := .gather, len := 2 }
     Ready (te [c]) 0 63 c tge ∧ c.len ≠ 0 ∧ c.table = none) ∧
    (let c : EngCmd := { ec with kind := .gather, len := 8, table := some { rows := 1, rlen := 1 }, bursts := [{ part := 0, cmd := 63, batch := 0, chunk := 0, pos := 128, poison := false, data := 5 }] }
     Ready (te [c]) 0 63 c tge ∧ tabSwz c.c = 0 ∧ 7 < 8 ∧ (128 : BitVec 8) = BitVec.ofNat 8 (2 ^ 7)) ∧
    (let c : EngCmd := { ec with kind := .scadd, len := 1, batch := 1, table := some { rows := 1, rlen := 1 }, accs := [(0, tacc)] }
     let p : Part := { probePart with pool := [0], psize := 64 }
     let s := (te [c]).setPart 0 p
     (te [c]).cmd? (coreOf c.gk) c.entry = some c ∧ kget c.accs 1 = none ∧ ((te [c]).accsAt (scarabOf (((te [c]).part? c.part).getD {}) 1)).length < 512 ∧
     s.part? c.part = some p ∧ kget c.accs 0 = some tacc ∧ tacc.slot = none ∧ c.len ≤ 8 * c.batch ∧ s.coh.winLines = [] ∧ p.log = none ∧
     s.rowViol c.part { rows := 1, rlen := 1 } 0 = false ∧ rowIn p { rows := 1, rlen := 1 } 0 = true ∧ (∀ j, j < 64 → s.isPoison (.glob (rowPa p { rows := 1, rlen := 1 } 0 j)) = false) ∧
     tacc.vals.length * 4 = ({ rows := 1, rlen := 1 } : TableSample).bytes ∧ rowIn { p with psize := 63 } { rows := 1, rlen := 1 } 0 = false) := by
  refine ⟨⟨ready_alone _ ?_ rfl rfl rfl rfl, ?_⟩, ⟨ready_alone _ ?_ rfl rfl rfl rfl, ?_⟩, ⟨ready_alone _ ?_ rfl rfl rfl rfl, ?_⟩,
    ⟨ready_alone _ ?_ rfl rfl rfl rfl, ?_⟩, ?_⟩
  case refine_2 => exact ⟨rfl, by decide, ⟨rfl, rfl⟩, rfl, rfl, by decide +kernel⟩
  all_goals decide +kernel

/-- Where no partition has a log, no write waits for one. -/
theorem witness_TableCommands_log : ∀ pa, ((te [ec]).setPart 0 { probePart with pool := [0], psize := 64 }).logHeld pa = false := fun _ => rfl
/-- NPUT, NGET and NATOM at peer entry 0, an SREAD before and after its last byte, retries before and at their bound, and a frozen queue. -/
theorem witness_NetworkAndStorage :
    (let c : EngCmd := { ec with kind := .nput, dst := .net 0 }
     Ready (te [c]) 0 63 c tge ∧ (te [c]).part? c.part = some probePart ∧ (te [c]).peerBehind c = false ∧ probePart.peerErr.contains (fld c.c 11 0) = false ∧
       Clean (te [c]) 0 ∧ c.written = 0 ∧ c.len ≠ 0 ∧ c.unit = none ∧ c.retries < 7) ∧
    (let c : EngCmd := { ec with kind := .nget, src := .net 0, dst := .loc false 0 0 4096 0, retries := 7 }
     Ready (te [c]) 0 63 c tge ∧ (te [c]).peerBehind c = false ∧ (List.replicate 64 (1 : BitVec 8)).length = c.len ∧ 7 ≤ c.retries ∧
       ((te [c]).setClock { now := 8000000 }).clock.now ≥ c.since + 1000000 * (c.retries + 1)) ∧
    (let c : EngCmd := { ec with kind := .natom, dst := .net 0 }
     Ready (te [c]) 0 63 c tge ∧ (te [c]).peerBehind c = false ∧ (List.replicate 8 (1 : BitVec 8)).length = 8) ∧
    (let c : EngCmd := { ec with kind := .sread, src := .stor 0, dst := .loc false 0 0 4096 0 }
     Ready (te [c]) 0 63 c tge ∧ fld c.sub 1 0 = 0 ∧ ¬(c.len ≤ c.written) ∧ Ready (te [{ c with written := 64 }]) 0 63 { c with written := 64 } tge ∧ c.len ≤ 64 ∧
       ((te [c]).setClock { now := 1000000000 }).clock.now ≥ c.since + 1000000000) ∧
    (let s := ({ te [ec] with teams := [(0, { tt with frozen := some (11, 63) })] } : State)
     s.team? 0 = some { tt with frozen := some (11, 63) } ∧ s.cmd? (0 / 16) 63 = some ec ∧ ec.entry = 63 ∧ ec.tk = 0 ∧ coreOf ec.gk = 0 / 16) := by
  refine ⟨⟨ready_alone _ ?_ rfl rfl rfl rfl, rfl, ?_, ?_, ⟨rfl, rfl⟩, rfl, ?_⟩, ⟨ready_alone _ ?_ rfl rfl rfl rfl, ?_⟩, ⟨ready_alone _ ?_ rfl rfl rfl rfl, ?_⟩,
    ⟨ready_alone _ ?_ rfl rfl rfl rfl, rfl, ?_, ready_alone _ ?_ rfl rfl rfl rfl, ?_⟩, ?_⟩
  all_goals decide +kernel

/-- A queue with one ready item of two workgroups, and a lodge group that waits for work. -/
def titem : Item := { idx := 0, raw := pack 1024 [(0, 16, 1), (16, 4, 3), (20, 1, 1), (64, 16, 2), (80, 16, 1), (96, 16, 1)], ready := true }
def tqueue : Queue := { ring := 0x100000, log2 := 4, headLine := 0x104000, tailLine := 0x104080, prio := 1, tail := 1, readyAt := some 0, items := [titem] }
/-- The same with one permitted variant. -/
def tqueue1 : Queue := { tqueue with items := [{ titem with raw := pack 1024 [(0, 16, 1), (16, 4, 1), (20, 1, 1), (64, 16, 2), (80, 16, 1), (96, 16, 1)] }] }
def tlodge : Group := { tg with kind := .lodge, tslot := 1, fetchAt := some (0xFFFFFFFF, 8) }
/-- Two variants: the second asks for less W-space. -/
def tvar (w : Nat) : Variant :=
  { code := 0, csz := 32, handler := none, wps := [{ offs := 0, kind := 1, sword := 0 }], abytes := 4096, wbytes := 4096 * w, carry := 0, pool := 0, tiles := 0, metas := 0, ngrp := 1,
    roles := [{ kind := .general, count := 1, budget := 1 }] }
def timage (w : Nat) : Image := { probeImage with vars := [tvar w, tvar 0] }
def tq (w : Nat) (teams : List (Nat × Team)) (groups : List (Nat × Group)) : State :=
  { tm tg with groups := groups, teams := teams, inn := { fetch := [{ gk := 8, at_ := 0 }] },
               parts := [(0, { probePart with images := [(1, timage w)], queues := [(0, tqueue)], spillSz := 0x100000 })] }
theorem witness_GrantPlacesTeam :
    (let s := tq 1 [] [(8, tlodge)]
     s.looked.grantable.map (fun c => (c.1.gk, c.2.1, c.2.2.1, c.2.2.2.1.idx, c.2.2.2.2.2)) = [(8, 0, 0, 0, 0)] ∧ s.looked.inn.grants ≤ s.looked.meshNow + 1 ∧
     (∃ p, s.part? 0 = some p ∧ p.capture = none ∧ kget p.queues 0 = some tqueue) ∧ s.group? 8 = some tlodge ∧ tlodge.fetchAt = some (0xFFFFFFFF, 8) ∧ titem.ready = true ∧ (timage 1).vars[1]? = some (tvar 0) ∧
     titem.und = false ∧ titem.over_ = false ∧ s.queue? 0 0 = some tqueue ∧ (s.xlate 8 0 .innRead (tqueue.tailLine % 2 ^ 56)).1 = .ok 0x104080 ∧
     (s.xlate 8 0 .innRead (tqueue.tailLine % 2 ^ 56)).2.tagBad 0 0x104080 = false ∧ (s.xlate 8 0 .innRead (tqueue.tailLine % 2 ^ 56)).2.anyPoison ((s.xlate 8 0 .innRead (tqueue.tailLine % 2 ^ 56)).2.locate 0x104080) 8 = false) ∧
    ({ tq 1 [] [] with inn := {} } : State).looked.grantable = [] := by
  refine ⟨⟨?_, ?_, ⟨_, rfl, rfl, rfl⟩, ?_⟩, ?_⟩
  all_goals decide +kernel
/-- A dependence at 0x100000, an item that becomes ready, and the first of two workgroups retiring. -/
theorem witness_WorkItemsProgress :
    (let s := tq 1 [] [(8, tlodge)]
     (s.xlate 8 0 .innRead 0x100000).1 = .ok 0x100000 ∧ (s.xlate 8 0 .innRead 0x100000).2.tagBad 0 0x100000 = false ∧
     (match (s.xlate 8 0 .innRead 0x900000).1 with | .bad _ => true | _ => false) = true ∧ (s.xlate 8 0 .innRead 0x100000).2.anyPoison ((s.xlate 8 0 .innRead 0x100000).2.locate 0x100000) 8 = false ∧
     (let x := { titem with ready := false }
      let q := { tqueue with items := [x] }
      let s := s.setQueue 0 0 q
      s.queue? 0 0 = some q ∧ q.place < q.tail ∧ q.item? q.place = some x ∧ x.ready = false ∧ x.ovl = true ∧ x.deps = [] ∧ s.rejects 0 x = false)) ∧
    (let t : Team := { tt with queue := 0, item := 0 }
     let s := tq 1 [(0, t)] [(8, tlodge)]
     s.team? 0 = some t ∧ s.teamGroups 0 = [] ∧ s.teamSaved 0 = [] ∧ (s.part? t.part).map (fun p => (p.swapOut, p.outCores)) = some (none, []) ∧ t.frozen = none ∧
       s.coh.winLines = [] ∧ s.queue? t.part t.queue = some tqueue ∧ tqueue.item? t.item = some titem ∧ titem.rejected = false ∧ titem.ready = true ∧
       titem.retired + 1 < titem.total) := by decide +kernel
/-- A switch at which every group has arrived, arrivals at two switches, an upshift at its quantum, a grace that ends, an eviction of a parked group, a
spill and a restore. -/
theorem witness_SwitchesAndEvictions :
    (let t : Team := { tt with request := some 0, var := 1, vmask := 3, freeSince := [(0, 0)] }
     let g : Group := { tg with var := 1, arrived := some 0 }
     let s := tq 1 [(0, t)] [(0, g)]
     s.team? 0 = some t ∧ t.partial_ = false ∧ switchArrived (s.teamGroups 0) = true ∧ (∀ e ∈ s.teamGroups 0, e.2.arrived = some 0 ∧ e.2.lc = 0 ∧ e.2.sc = 0 ∧ e.2.cc = 0 ∧ e.2.tc = 0) ∧
       (s.core 0).rsb.any (fun r => r.tk == 0 && r.cmd.isSome) = false ∧ s.image? 0 1 = some (timage 1) ∧ (timage 1).vars[0]? = some (tvar 1) ∧ s.switchFits 0 t (tvar 1) = true ∧
       (let s := tq 1 [(0, t)] [(0, g), (1, { g with grpid := 1, arrived := some 1 })]
        switchArrived (s.teamGroups 0) = true ∧ ((s.teamGroups 0).filterMap (fun e => e.2.arrived)).dedup.length ≠ 1)) ∧
    (let t : Team := { tt with var := 1, vmask := 3, freeSince := [(0, 0)] }
     let s := (tq 1 [(0, t)] [(0, { tg with var := 1 })]).setClock { now := 200000 }
     let w := s.trackFree 0
     s.team? 0 = some t ∧ w.team? 0 = some t ∧ t.freeSince.find? (fun e => e.2 + ((w.part? t.part).map (·.quantum)).getD 0 ≤ w.clock.now) = some (0, 0)) ∧
    (let s := ({ tq 0 [(0, { tt with vmask := 1 })] [(0, tg), (8, tlodge)] with
       inn := { fetch := [{ gk := 8, at_ := 0 }], press := [{ core := 0, part := 0, queue := 0, item := 0, since := 0 }] },
       parts := [(0, { probePart with images := [(1, { timage 0 with vars := [{ tvar 0 with pool := Config.blocks - 2 }] })], queues := [(0, tqueue1)] })] } : State).setClock
       { now := 20000 }
     let w := s.pressCore 0
     (w.shortItems 0).map (fun y => (w.press? 0 y).map (fun p => w.graceOver p)) = [some true] ∧ (w.shortItems 0).map (fun y => (y.1, y.2.1, y.2.2.1.idx)) = [(0, 0, 0)] ∧
       (w.shortItems 0).map (fun y => (permitted y.2.2.2.1 y.2.2.1.vmask).findSome? (fun v => (y.2.2.2.1.vars[v]?).bind (fun z => w.evictionFor 0 (w.victims 0 y.2.2.2.2) z.demand))) = [some [0]]) ∧
    (let g : Group := { tg with st := .parked, held := 15 }
     let s := tq 1 [(0, tt)] [(0, g)]
     s.group? 0 = some g ∧ g.st ≠ .running ∧ g.saveable = true ∧ s.team? (g.tk 0) = some tt ∧ s.shadowUsed (coreOf 0) + 8192 * popCount g.held ≤ Config.shadowBytes) ∧
    (let t : Team := { tt with vmask := 1 }
     let s := ({ tq 0 [(0, t)] [(8, tlodge)] with
       inn := { fetch := [{ gk := 8, at_ := 0 }], saved := [{ gk := 0, ord := 0, shadow := true, grp := tg }] },
       parts := [(0, { probePart with images := [(1, { timage 0 with vars := [{ tvar 0 with abytes := 524288 }] })], queues := [(0, tqueue1)], spillSz := 4096 })] } : State)
     s.team? 0 = some t ∧ s.teamGroups 0 = [] ∧ s.teamSaved 0 ≠ [] ∧ s.spillWanted (0 / 16) 0 = true ∧ kget s.inn.spilled 0 = none ∧ (s.spillTake 0 t.allocBytes).map (·.1) = some 0 ∧
       ((s.spillTake 0 t.allocBytes).map (fun x => ((x.2.core 0).rsb, (x.2.core 0).mq))) = some ([], []) ∧ t.out = 0) ∧
    (let x : Saved := { gk := 0, ord := 0, shadow := true, grp := tg }
     let s := ({ tq 1 [(0, tt)] [] with inn := { saved := [x] } } : State)
     s.oldestSaved 0 = some x ∧ s.team? (x.grp.tk x.gk) = some tt ∧ s.featOk x.grp = true ∧ s.group? x.gk = none ∧ s.coreRuns 0 = true ∧ s.outranked 0 (s.teamRank tt) = false ∧
       s.spillFree (x.grp.tk x.gk) tt = true ∧ slotsFit (s.lodges 0) (s.holds 0 []) { grp := 1, blk := popCount x.grp.held, a := 0, w := 0, tiles := 0, metas := 0 } = true ∧
       kget s.inn.spilled (x.grp.tk x.gk) = none ∧ x.spill = none ∧ x.grp.exited ≠ 0xFFFFFFFF) := by
  repeat' apply And.intro
  all_goals decide +kernel
theorem witness_FaultParks : (ts tg4).group? 0 = some tg4 ∧ tg4.intx = 0 ∧ tg4.exited ≠ 0xFFFFFFFF ∧ (let g : Group := { tg with exited := 0xFFFFFFFF }
    (ts g).group? 0 = some g ∧ g.cc = 0 ∧ g.tc = 0 ∧ ∀ o ∈ g.ops, o.kind ≠ .store) ∧ 15 < 256 ∧ 255 < 256 ∧ 0xFFFFFFFF < 2 ^ 32 := by decide +kernel
/-- A variant with an E waypoint at offset 0, whose code begins with NOP with its waypoint bit, or with a word that is no instruction. -/
def tw (w : Nat) (g : Group) : State := ((tq 0 [(0, tt)] [(0, g)]).putBytes (.glob 0x100000) (toBytes 8 w))
theorem witness_StopsAndResumes :
    (let s := tw 0x5 { tg with haltReq := some 7 }
     (s.stand? 0).map (fun x => (x.2.stopDue x.1, x.2.stopsAt x.1, x.1.g.lc, x.1.g.sc, (x.2.breaksAt x.1).any (fun e => e.2.skip == 0 && e.2.allstop))) =
       some (true, [7], 0, 0, false) ∧ (s.stand? 0).map (fun x => (x.1.g.intx, x.1.g.breakReq)) = some (0, none)) ∧
    (let s := (tw 0x5 { tg with intx := 1 }).modPart 0 (fun p => { p with breaks := [(0, { image := 1, var := 0, ord := 0, skip := 0, enable := true, allstop := true })] })
     (s.stand? 0).map (fun x => (x.2.stopDue x.1, x.1.g.intx)) = some (true, 1)) ∧
    (let s := tw 0x5 { tg with haltReq := some 7, lc := 1 }
     (s.stand? 0).map (fun x => (x.2.stopDue x.1, decide (x.2.stopsAt x.1 ≠ []), decide (x.1.g.lc ≠ 0))) = some (true, true, true)) ∧
    (let s := tw 0x0 tg
     ((s.stand? 0).bind (fun x => x.1.wordFault)).isSome = true) ∧
    (let s := tw 0x1 { tg with haltReq := some 7, pendAge := 2 ^ 20, since := 2 ^ 26 }
     (s.stand? 0).map (fun x => (x.1.g.stopPending, decide (2 ^ 20 ≤ x.1.g.pendAge), decide (2 ^ 26 ≤ x.1.g.since))) = some (true, true, true)) ∧
    (let g : Group := { tg with st := .halted, event := 7 }
     let s := tw 0x5 g
     s.group? 0 = some g ∧ g.st ≠ .running ∧ g.event ≠ 1 ∧ s.featOk g = true ∧ (s.gvar? g).map (·.wps[(0 : BitVec 16).toNat]?) = some (some { offs := 0, kind := 1, sword := 0 }) ∧ g.mwait = 0 ∧ g.watch.armed = false) ∧
    (tw 0x5 tg).group? 0 = some tg ∧ tg.st = .running ∧
    (let s := (ts tg).setCore 0 { evPend := [(0, 7)], evTail := 63 }
     (s.core 0).evPend = [(0, 7)] ∧ (s.core 0).evTail - (s.core 0).evHead < 64) := by
  repeat' apply And.intro
  all_goals decide +kernel
/-- A window of 64 KiB onto A-space, at the last entry: asked for, refused, valid, removed, written back, done. -/
def tmap : BitVec 64 := 0x100000
theorem witness_WindowMapping :
    (let s := (ts tg).setCore 0 {}
     (s.core 0).mapBusy = false ∧ mapV tmap = false) ∧
    (({ ts tg with teams := [(0, { tt with asize := 16 })] } : State).mapRefused 0 255 0x100001 = false ∧ (ts tg).mapRefused 0 255 0x100001 = true ∧ kget ((ts tg).cluster 0).setting 255 = none ∧ mapV (sget ((ts tg).cluster 0).map 255) = false) ∧
    (let s := (ts tg).modCluster 0 (fun c => { c with setting := [(255, [0x100000, 0x100100])] })
     kget (s.cluster 0).setting 255 = some [0x100000, 0x100100] ∧ (([0x100000, 0x100100] : List Nat).map (· / 256)).Nodup) ∧
    (let s := (ts tg).modCluster 0 (fun c => { c with map := [(255, 1)], clearing := [(254, [0x1000]), (253, [])] })
     mapV (sget (s.cluster 0).map 255) = true ∧ kget (s.cluster 0).clearing 254 = some [0x1000] ∧ (∀ n, n < 256 → s.isGone (0x1000 * 256 + n) = false) ∧
       kget (s.cluster 0).clearing 253 = some []) := by
  repeat' apply And.intro
  all_goals decide +kernel
/-- A post that reaches a group and one that does not, a wake, a freeze, a shoot-down under way, and a parked group's register file at its last word. -/
theorem witness_SignalsAndRegisters :
    ((th tg).group? 0 = some tg ∧ 0xFFFF < 2 ^ 16 ∧ coreOf 0 = 0 ∧ tg.tslot = 0 ∧ tg.kind ≠ .lodge ∧ (1 : Nat).testBit tg.grpid = true ∧ (((th tg).gvar? tg).bind (·.handler)).isSome = true ∧
      ¬((0 : Nat).testBit tg.grpid = true)) ∧
    (let s := (ts tg).setHart 15 { mode := .s, part := some 0 }
     (s.hart 15).ckpt = none ∧ 15 < 16 ∧ (s.hart 15).mode ≠ .u ∧ (s.hart 15).part = some 0 ∧ (s.hart 15).busy = false ∧ s.team? (fld (0x0 : BitVec 64) 7 0 * 16 + fld (0x0 : BitVec 64) 19 16) = some tt ∧
       (0x4000000000000000 : BitVec 64).getLsbD 62 = true) ∧
    (let g : Group := { tg with st := .parked, event := 1, fault := [{ cause := 2, acc := .load, level := 0, pte := 0, comp := 0, va := 0 }] }
     parkNone 0 = false ∧ parkNone 0x800 = true ∧ (ts g).group? (parkGroup 0) = some g ∧ g.mwait = 0 ∧ g.part = 0 ∧ g.st = .parked ∧ g.event = 1 ∧ (g.fault.map (·.cause)).dedup = [2]) ∧
    (((ts tg).setHart 15 { busy := true }).hart 15).busy = true ∧ (∀ e ∈ (ts tg).coh.l1, e.2 < 3) ∧
    (let x : L1Line := { vline := 0x1000, pline := 0x1000, part := 0 }
     let s := (ts tg).setCoh { tags := [(0, [x])], l1 := [(0x4000, 1)] }
     x ∈ s.l1Tags 0 ∧ x.part ∈ s.rootParts (((s.part? 0).map (·.root)).getD 0) ∧ inPage 0 true (256 * x.vline) = true) ∧
    (let g : Group := { tg with st := .halted, held := 15 }
     (ts g).group? (0 * 64 + 0) = some g ∧ g.st ≠ .running ∧ g.held.getLsbD (0x1FFF / 2048) = true) := by
  repeat' apply And.intro
  all_goals decide +kernel
/-- A cached leaf that a load may use, a walk that ends at one, and a leaf that refuses a store. -/
theorem witness_PagesTranslate :
    (let e : TlbEnt := { part := 0, lvl := 0, page := 16, pte := 0x0200000F, leaf := 0x820100, wr := true }
     let s := ({ ts tg with tlbs := [(0, [e])] } : State)
     tlbFind (s.tlb 0) 0 0x100000 = some e ∧ (isWrite .store = true → e.wr = true) ∧ refused .store e.pte = none) ∧
    (let s := tm tg
     s.part? 0 = some probePart ∧ tlbFind (s.tlb 0) 0 0x100000 = none ∧ tlbFind (s.tlb (pkgTlb 0x100000)) 0 0x100000 = none ∧ (s.tlb 0).length < Config.tlbEntries 0 ∧
       (match s.walk probePart.root 0x100000 with
        | .leaf l a p _ => decide (l = 0 ∧ a = 0x820100 ∧ refused .load p = none)
        | _ => false) = true) ∧
    refused .store 0x7 ≠ none ∧ Access.store ≠ .innRead ∧ Access.store ≠ .innWrite := by
  repeat' apply And.intro
  all_goals decide +kernel
/-- Sector 0x4000 of this package in each directory state, lines of package 1, a link before and after its limits. -/
theorem witness_CachesAndNode :
    (let s := fun (d : DirEnt) (l : KMap Nat) => (ts tg).setCoh { dir := [(0x4000, d)], l1 := l }
     Sys2Proof.Claims.Roomy (s {} []) (0x4000 / 4) ∧ (s {} []).ownLine (64 * 0x4000) = true ∧ (s {} []).l1 1 0x4000 = 0 ∧ ((s { state := 2, owner := 0 } [(0x4000, 2)]).dirEnt 0x4000).state = 2 ∧ (s { state := 2 } [(0x4000, 2)]).l1 0 0x4000 ≠ 0 ∧
     ((s { state := 4, owner := 0 } [(0x4000, 4)]).dirEnt 0x4000).owner ≠ 1 ∧ ((s { state := 1, watch := true } []).dirEnt 0x4000).watch = true ∧ 4 * 0x1000 + 3 < 2 ^ 46) ∧
    (let s := ((ts tg).setClock { now := 2 ^ 21, present := 3 }).setCoh { leases := [(2 ^ 43, { data := 0, off := 0, early := false })] }
     (sget s.coh.base 0).toNat + 2 ^ 21 ≤ s.clock.now ∧ s.clock.now < 2 ^ 64 ∧ (s.coh.leases.map (·.1)).Nodup ∧ s.isPeer (64 * 2 ^ 43) = true ∧ s.isGone (64 * 2 ^ 43) = false ∧
       s.clock.unsync = false ∧ s.isPoison (.glob (64 * 2 ^ 43)) = false ∧ ({ s with coh := {} } : State).leaseHit (2 ^ 43) = none ∧ (sget s.coh.base (s.homeSlice (64 * 2 ^ 43))).toNat % 64 = 0 ∧ s.clock.winLen % 64 = 0 ∧ 0 < s.clock.winLen ∧ s.clock.winLen ≤ 4096) ∧
    (let s := (ts tg).setClock { now := 1152 }
     s.isPeer 0x100000 = false ∧ s.isGone 0x100000 = false ∧ kget s.coh.winLines (0x100000 / 256) = none ∧ s.holdOver 0 = true ∧ s.holdOver 1 = false ∧ s.peerWaits 0x100000 Typ.n64.bytes = false ∧
       0x100000 % Typ.n64.bytes = 0 ∧ s.anyPoison (.glob 0x100000) Typ.n64.bytes = false) ∧
    (let g : Group := { tg with mwait := 1, watch := { armed := true, bound := true, home := .glob (2 ^ 49), snap := 1 } }
     let s := (ts g).setClock { present := 3 }
     s.group? 0 = some g ∧ s.isPeer (2 ^ 49) = true ∧ g.mwait ≠ 0 ∧ BitVec.ofNat 512 (ofBytes (s.readBytes (.glob (2 ^ 49)) 64)) ≠ g.watch.snap) ∧
    (let s := fun (x : Link) => ((ts tg).setClock { now := 10000000, present := 3 }).setLink 0 x
     (s {}).linkUp 0 = true ∧ (s {}).linkUp 1 = false ∧ (s { resends := 17 }).linkUp 0 = true ∧ (s { unack := [5] }).linkUp 0 = true ∧ (0 : BitVec 12) = ((s {}).link 0).rxSeq + 1 ∧ ((s { unack := [5] }).link 0).unack ≠ [] ∧ ((s {}).link 0).ackAt + 2000 ≤ (s {}).clock.now ∧
       16 < ((s { resends := 17 }).link 0).resends ∧ ((s { resends := 17 }).link 0).width ≠ 0 ∧ ((s {}).link 0).lastRx + 10000000 ≤ (s {}).clock.now ∧
       (s {}).clock.present.getLsbD ((s {}).linkPeer 0) = true ∧ (s {}).linkPeer 0 ≠ (s {}).clock.pkgid ∧ (s {}).node.lost.getLsbD ((s {}).linkPeer 0) = false) ∧
    ((ts tg).clock.unsync = false ∧ (32 : Nat) < 33 ∧ (15 : Nat) < 16 ∧ (ts tg).clock.present.toNat = 2 ^ (ts tg).clock.pkgid ∧ ((ts tg).setClock { unsync := true }).clock.unsync = true) := by
  repeat' apply And.intro
  all_goals first
    | exact Or.inr (by decide +kernel)
    | decide +kernel
/-- Entries of each kind that an error can meet, units that remain, temperatures at each bound, a clock that may rise, a gate asked for, and a firmware
image that verifies. -/
theorem witness_PorterActions :
    ((ts tg).group? 0 = some tg ∧ tg.st = .running ∧ tg.txend = none ∧ tg.exited ≠ 0xFFFFFFFF ∧
     (let g : Group := { tg with intx := 1, txend := some (1, 1, 8) }
      (ts g).group? 0 = some g ∧ g.st = .running ∧ g.txend.isSome = true) ∧
     (∀ k ∈ (ts tg).cores, ∀ x ∈ k.2.eq, x.unit ≠ some 7) ∧ (∃ k ∈ (te [{ ec with unit := some 7 }]).cores, ∃ x ∈ k.2.eq, x.unit = some 7) ∧
     (let s := (ts tg).setCoh { dir := [(0x4000, { state := 4 })], l1 := [(0x4000, 4)] }
      s.l1 0 0x4000 = 4 ∧ (s.dirEnt 0x4001).state ≠ 3 ∧ (s.dirEnt 0x4001).state ≠ 4 ∧ s.isPeer (64 * 0x4001) = false ∧ (s.dirEnt 0x4000).state ≠ 5 ∧ s.isGone (64 * 0x4000) = false) ∧
     (let s := (ts { tg with intx := 1 }).setCore 0 { rlog := [{ gslot := 0, lane := 0, word := 0, mask := 1, value := 0 }], tsec := [{ gslot := 0, lane := 0, sector := 0, mask := 1, data := 0 }] }
      (s.core 0).rlog[0]?.map (·.gslot) = some 0 ∧ (s.core 0).tsec[0]?.map (·.lane) = some 0 ∧ (s.group? (0 * 64 + 0)).map (·.intx.getLsbD 0) = some true) ∧
     (let s := (ts tg).modCluster 0 (fun c => { c with trace := [(0, 5)] })
      (s.cluster 0).trace[0]? = some (0, 5) ∧ isLoss 5 = false)) ∧
    ((ts tg).core 255).gone = false ∧ (∀ x ∈ (ts tg).porter.removed, x.1 ≠ 2) ∧ (7, 15) ∉ (ts tg).porter.removed ∧ ((ts tg).cluster 7).removed = false ∧
    (let s := (ts tg).setPorter { (ts tg).porter with temps := [(5, 120)] }
     s.hottestCluster = some 5) ∧
    (∀ t ∈ [(94, 0), (95, 1), (104, 1), (105, 2), (114, 2), (115, 3), (124, 3), (125, 4)],
      let w := (ts tg).setPorter { (ts tg).porter with temps := kset (ts tg).porter.temps 0 t.1 }
      w.hottest = t.1 ∧ (if t.1 < 95 then 0 else if t.1 < 105 then 1 else if t.1 < 115 then 2 else if t.1 < 125 then 3 else 4) = t.2) ∧
    (let s := ((ts tg).setPorter { (ts tg).porter with hotAt := some 0, mhz := 1300 }).setClock { now := 10000000 }
     s.porter.hotAt = some 0 ∧ s.porter.mhz = 1300 ∧ 0 + 10000000 ≤ s.clock.now ∧ s.porter.above = false ∧ s.porter.hot = false ∧ s.porter.powerAt + 1000000 ≤ s.clock.now ∧
       s.porter.coolAt + 1000000 ≤ s.clock.now ∧ s.porter.mhz < 2600) ∧ 2600 ≤ (ts tg).porter.mhz ∧
    (let s := (ts tg).modCluster 7 (fun c => { c with gateReq := true })
     (s.cluster 7).gateReq = true ∧ (s.cluster 7).trace = [] ∧ s.clusterBound 7 = false ∧ s.clusterBound 0 = true) := by
  repeat' apply And.intro
  all_goals decide +kernel

/-- A scheduler whose gap has run out, a tagged issue that is done, a trace buffer with a ring and without room, a swap ready on its core, and logs. -/
def tlog : UndoLog := { base := 0x100000, size := 0x100000, policy := 1, auto := 10, on := true, autoReq := true }
theorem witness_TraceSwapAndWindows :
    (sget ((ts tg).core 0).fireGap 3 = 0 ∧ 3 ∉ ((ts tg).core 0).fireArm ∧ sget (((ts tg).setCore 0 { fireGap := [(3, 1)] }).core 0).fireGap 3 ≠ 0) ∧
    (let t : FireTag := { gk := 48, off := 0, op := 0x40, data := 5 }
     let s := (ts tg).setCore 0 { fireTag := [t] }
     (s.core 0).fireTag.find? (fun t => slotOf t.gk / 16 == 3 && s.tagDone t) = some t) ∧
    (let p : Part := { probePart with tring := some ⟨0x108040, 10⟩ }
     let s := ((tm tg).setPart 0 p).modCluster 0 (fun c => { c with trace := [(0, 5)] })
     (s.cluster 0).trace = [(0, 5)] ∧ s.part? 0 = some p ∧
       (match s.ringPost 0 ⟨0x108040, 10⟩ 8 false (fun _ => 5) with | .posted _ => true | _ => false) = true ∧
       (match (s.putBytes (.glob 0x108040) (toBytes 8 1024)).ringPost 0 ⟨0x108040, 10⟩ 8 false (fun _ => 5) with | .full _ => true | _ => false) = true ∧
       (match s.ringPost 0 ⟨0x908040, 10⟩ 8 false (fun _ => 5) with | .unmapped _ => true | _ => false) = true) ∧
    (let p : Part := { probePart with swapOut := some 1 }
     let s := (ts tg).setPart 0 p
     s.part? 0 = some p ∧ p.swapOut = some 1 ∧ p.cores.filter (fun c => !p.outCores.contains c && (s.swapStop 0).swapReady 0 c) = [0] ∧ (1 : Nat) ≠ 0 ∧
       (let s := (te [ec]).setPart 0 p
        p.cores.filter (fun c => !p.outCores.contains c && (s.swapStop 0).swapReady 0 c) = [] ∧
          ((s.swapStop 0).part? 0).map (fun q => p.cores.filter (fun c => !q.outCores.contains c)) = some [0])) ∧
    (let s := (ts tg).setPart 0 { probePart with log := some tlog }
     s.log? 0 = some tlog ∧ tlog.on = true ∧ tlog.autoReq = true ∧ tlog.full = false ∧ (s.part? 0).map (·.halted) = some false ∧ s.group? 0 = some tg ∧ tg.st = .running ∧
       tg.watch.armed = false ∧ tg.exited ≠ 0xFFFFFFFF ∧ (s.groups.map (·.1)).Nodup) ∧
    (let p : Part := { probePart with halted := true, log := some tlog }
     let s := (ts tg).setPart 0 p
     s.part? 0 = some p ∧ p.halted = true ∧ s.commandsOf (s.sessionParts 0) = [] ∧ s.stopping (s.sessionParts 0) = false ∧ s.debugger? 0 = none ∧
       ((te [ec]).setPart 0 p).commandsOf (((te [ec]).setPart 0 p).sessionParts 0) ≠ [] ∧ ((tlog.roomWindow 4096).fitsWindow 4096 = true ∧ (tlog.roomWindow (2 ^ 30)).fitsWindow (2 ^ 30) = false)) := by
  repeat' apply And.intro
  all_goals decide +kernel

/-- The package with session 1 of the GID 7, which owns partition 0 and stands in the admin list. -/
def tr (p : Part) : State :=
  ({ tm tg with parts := [(0, p)], rpc := { sessions := [(1, { gid := 7, port := 0 })] } } : State).setPorter { (tm tg).porter with admins := [7], recovery := false }
def tpart : Part := { probePart with owners := [7] }
/-- A request on partition 0. -/
def rq (op : Nat) (body : List (BitVec 64)) : Rpc := { session := 1, hdr := pack 128 [(32, 4, 1), (36, 12, 8 * body.length), (48, 16, op)], body := body }
/-- Sessions that open, a reply of the longest body, a host's accesses at the ends of a region, a hart's accesses of 8 bytes, interrupts. -/
theorem witness_SessionsAndHosts :
    (kget (tr tpart).rpc.sessions 2 = none ∧ (7, 15) ∉ (tr tpart).porter.removed ∧ (tr tpart).porter.recovery = false ∧ kget (tr tpart).rpc.sessions 1 = some { gid := 7, port := 0 } ∧
      (List.replicate 509 (0 : BitVec 64)).length < 510 ∧ (rq 0xFFFF []).opcode ≠ 0x000A) ∧
    (let s := (tr tpart).setPorter { (tr tpart).porter with recovery := true }
     s.porter.recovery = true ∧ ¬((rq 0x0001 []).opcode = 0x0011 ∧ fld ((rq 0x0001 []).slot 0) 15 0 = 8)) ∧
    (let g : Region := { base := 0x100000, len := 0x10000, bits := 7, rkey := 5 }
     let s := tr { tpart with exposed := [(255, g)] }
     s.regionOf 5 = some (0, g) ∧ s.regionOf 6 = none ∧ g.base ≤ (0x10FFF8 : BitVec 64).toNat ∧ (0x10FFF8 : BitVec 64).toNat + 8 ≤ g.base + g.len ∧ g.bits.getLsbD 0 = true ∧ g.bits.getLsbD 1 = true ∧
       g.bits.getLsbD 2 = true ∧ (0x10FFF8 : BitVec 64).toNat % 8 = 0 ∧ (∀ acc ∈ [Access.engRead, .engWrite], let sp := s.spans (ioTlb 1) 0 0 acc (.glob 0x10FFF8) (chunks 0x10FFF8 8)
         sp.page.isNone = true ∧ sp.viol = false ∧ sp.ok = [(.glob 0x10FFF8, 8)] ∧ sp.s.logHeld 0x10FFF8 = false) ∧
       (let sp := s.spans (ioTlb 1) 0 0 .engWrite (.glob 0x10FFF8) (chunks 0x10FFF8 8)
        (sp.s.atomicAt { part := 0, kind := 3, va := some 0x10FFF8 } (.glob 0x10FFF8) .add .n64 1 0).2.2.1 = false)) ∧
    (let s := ({ ts tg with cur := .hart 15 } : State).setHart 15 { resv := some (0x100000 / 64) }
     (s.hart 15).ckpt = none ∧ (s.hart 15).ending = none ∧ (∀ q ∈ s.tix.reqs, q.who ≠ .hart 15) ∧ (s.hart 15).wild (hartAcc .load) 0x100000 = false ∧
       (s.hart 15).wild (hartAcc .load) (2 ^ 52) = true ∧ (0x100000 : BitVec 64).toNat % 8 = 0 ∧ (0x100004 : BitVec 64).toNat % 8 ≠ 0 ∧
       (match s.hartXlate 15 (hartAcc .load) 0x100000 with
        | (.ok pa, w) => pa == 0x100000 && (w.privAt 15 pa).isNone && !inPriv pa && !w.logHeld pa && !((w.touchTag 64 pa).loadEffects none none pa).loadPoison (.glob pa) 8
        | _ => false) = true ∧
       (s.hart 15).part = none ∧ (s.hart 15).sentPeer = false ∧ (s.hart 15).resv = some (0x100000 / 64) ∧ (s.hart 15).resv ≠ some (0x100040 / 64)) ∧
    (let s := ((ts tg).setHart 15 { sentPeer := true, relWin := some 0 }).setClock { now := 1152 }
     (s.hart 15).ending = none ∧ (s.hart 15).ckpt = none ∧ (s.hart 15).sentPeer = true ∧ (s.hart 15).relWin = some 0 ∧ s.holdOver 0 = true ∧ s.holdOver 1 = false) ∧
    (let s := (((ts tg).setHart 15 { mie := true, part := some 0, mier := 0x200 }).setHart 14 { mode := .s, sie := true, part := some 0, mier := 0x200, mideleg := 0x200 }).setHart
        271 { mie := true, mier := 0x800, mipr := 0x800 }
     (s.hart 15).mie = true ∧ (s.hart 15).part = some 0 ∧ (s.hart 15).mier = 0x200 ∧ (s.hart 15).mideleg.getLsbD 9 = false ∧
       (s.hart 14).mode = .s ∧ (s.hart 14).sie = true ∧ (s.hart 14).mier = 0x200 ∧ (s.hart 14).mideleg.getLsbD 9 = true ∧ (s.hart 14).part = some 0 ∧
       (s.hart 271).mie = true ∧ (s.hart 271).mier = 0x800 ∧ (s.hart 271).mideleg = 0 ∧ (s.hart 271).mipr.getLsbD 11 = true ∧
       (s.hart 13).mier = 0 ∧ (s.hart 13).mode = .m ∧ (s.hart 13).mie = false) := by
  repeat' apply And.intro
  all_goals decide +kernel
/-! ### Requests -/

/-- A request made by `rq` from session 1 on partition 0, of which the header is in order. -/
theorem well_made {s : State} {op : Nat} {body : List (BitVec 64)} (h : fld (rq op body).hdr 35 32 = 1 ∧ (rq op body).hdr.getLsbD 16 = false ∧
    (fld (rq op body).hdr 31 24 = 0 ∧ fld (rq op body).hdr 23 17 = 0 ∧ fld (rq op body).hdr 15 6 = 0) ∧ (rq op body).len = 8 * body.length)
    (k : s.porter.recovery = false) : WellMade s (rq op body) body.length := ⟨h.1, h.2.1, h.2.2.1, rfl, h.2.2.2, k⟩
theorem tr_admin (p : Part) (op : Nat) (body : List (BitVec 64)) : (tr p).isAdmin (rq op body) = true := by
  simp [tr, State.isAdmin, State.gidOf, rq, State.setPorter, kget]
theorem tr_part (p : Part) : (tr p).part? 0 = some p := by simp [tr, State.setPorter, State.part?, kget]
theorem tr_normal (p : Part) : (tr p).porter.recovery = false := by simp [tr, State.setPorter]
theorem by_owner {p : Part} {op : Nat} {body : List (BitVec 64)} (h : fld (rq op body).hdr 35 32 = 1 ∧ (rq op body).hdr.getLsbD 16 = false ∧
    (fld (rq op body).hdr 31 24 = 0 ∧ fld (rq op body).hdr 23 17 = 0 ∧ fld (rq op body).hdr 15 6 = 0) ∧ (rq op body).len = 8 * body.length)
    (k : (rq op body).part = 0) : ByOwner (tr p) (rq op body) body.length p := ⟨well_made h (tr_normal p), by rw [k]; exact tr_part p, Or.inl (tr_admin p op body)⟩
theorem by_sub {p : Part} {op : Nat} {body : List (BitVec 64)} (h : fld (rq op body).hdr 35 32 = 1 ∧ (rq op body).hdr.getLsbD 16 = false ∧
    (fld (rq op body).hdr 31 24 = 0 ∧ fld (rq op body).hdr 23 17 = 0 ∧ fld (rq op body).hdr 15 6 = 0) ∧ (rq op body).len = 8 * body.length)
    (k : (rq op body).part = 0) (z : fld ((rq op body).slot 0) 63 16 = 0) : BySub (tr p) (rq op body) body.length p := ⟨by_owner h k, z⟩
theorem by_admin {p : Part} {op : Nat} {body : List (BitVec 64)} (h : fld (rq op body).hdr 35 32 = 1 ∧ (rq op body).hdr.getLsbD 16 = false ∧
    (fld (rq op body).hdr 31 24 = 0 ∧ fld (rq op body).hdr 23 17 = 0 ∧ fld (rq op body).hdr 15 6 = 0) ∧ (rq op body).len = 8 * body.length)
    (z : fld ((rq op body).slot 0) 63 16 = 0) : ByAdmin (tr p) (rq op body) body.length := ⟨well_made h (tr_normal p), tr_admin p op body, z⟩
/-- A number is found where none is in use. -/
theorem freshNum_nil (s : State) (n : Nat) : ∃ k x, s.freshNum (n + 1) [] = (some k, x) := by
  refine ⟨_, _, Prod.ext (?_ : _ = some ((s.draw.1.toNat + 0) % (n + 1))) rfl⟩
  simp [State.freshNum, List.range_succ_eq_map]

/-- And where one number is in use, of two or more. -/
theorem freshNum_one (s : State) (n : Nat) : ∃ k x, s.freshNum (n + 2) [0] = (some k, x) := by
  have h : ∀ d : Nat, ¬((d % (n + 2) = 0) ∧ (d + 1) % (n + 2) = 0) := fun d => by
    rw [Nat.add_mod]; rintro ⟨h, k⟩; rw [h, Nat.zero_add, Nat.mod_mod, Nat.mod_eq_of_lt (by omega)] at k; omega
  match e : s.freshNum (n + 2) [0] with
  | (some k, x) => exact ⟨k, x, rfl⟩
  | (none, x) =>
    have e := List.find?_eq_none.1 (congrArg Prod.fst e)
    have two : ∀ j, j < 2 → (s.draw.1.toNat + j) % (n + 2) = 0 := fun j hj => by
      simpa using e _ (List.mem_map.2 ⟨j, by simp; omega, rfl⟩)
    exact absurd ⟨two 0 (by omega), two 1 (by omega)⟩ (h _)
/-- A PART_CREATE of core 1, and an image of one NOP with its waypoint bit. -/
def rcreate : Rpc := rq 1 ([7, 0, 0, 0, 0, 0, 0, 0, 2, 0, 0, 0, 1, 0, 0, 0, 0x400000, 0, 0x100040, 6] ++ [0, 0, 0, 1, 0, 1, 0, 0, 0, 0, 4096, 1000, 10000, 1])
def timg : List (BitVec 8) :=
  toBytes 4 0x4B565833 ++ toBytes 4 0x01400001 ++ toBytes 8 0x100000009 ++ toBytes 40 0 ++ toBytes 8 416 ++
  toBytes 8 0x140 ++ toBytes 8 0xFFFFFFFF00000020 ++ toBytes 8 0x100000160 ++ toBytes 8 0x10000000000 ++ toBytes 8 4096 ++ toBytes 8 0x0100000000000040 ++ toBytes 4 0x010102 ++ toBytes 204 0 ++
  toBytes 8 5 ++ toBytes 8 1 ++ toBytes 8 1 ++ toBytes 8 1 ++ toBytes 64 0
theorem witness_Requests_create : WellMade ({ tr tpart with parts := [] } : State) rcreate 34 ∧ ({ tr tpart with parts := [] } : State).isAdmin rcreate = true ∧
    (∀ g ∈ ({ tr tpart with parts := [] } : State).createBad rcreate, g.1 = false) ∧ (∃ k x, ({ tr tpart with parts := [] } : State).freshNum 64 [] = (some k, x)) ∧ rcreate.num 16 ≠ 0 ∧
    ((({ tr tpart with parts := [] } : State).setPart 63 (({ tr tpart with parts := [] } : State).newPart rcreate 0x400000)).reach 63 (ringSpan ⟨0x100040, 6⟩).1 (ringSpan ⟨0x100040, 6⟩).2 .innWrite).1 = true := by
  refine ⟨well_made (by decide +kernel) (by decide +kernel), by decide +kernel, by decide +kernel, freshNum_nil _ 63, by decide +kernel, by decide +kernel⟩
theorem witness_Requests_image : ByOwner (tr { tpart with images := [] }) (rq 3 [0x100000, 416]) 2 { tpart with images := [] } ∧ (rq 3 [0x100000, 416]).num 0 < 2 ^ 56 ∧ 0x18 ≤ timg.length ∧
    timg.length = 416 ∧ imgNum timg 0x10 8 / 512 = 0 ∧ (parseImage timg 0x100000).isSome = true ∧ (timg.drop (imgNum timg 0x18 8)).take (imgNum timg 0x20 8) = [] ∧ imgNum (timg.take 0x10 ++ toBytes 8 512) 0x10 8 / 512 ≠ 0 ∧ parseImage (timg.take 0x18) 0x100000 = none ∧
    (∃ k x, (tr tpart).freshNum 65536 [] = (some k, x)) := by
  refine ⟨by_owner (by decide +kernel) (by decide +kernel), by decide +kernel, by decide +kernel, by decide +kernel, by decide +kernel, by decide +kernel, by decide +kernel, by decide +kernel, by decide +kernel, freshNum_nil _ 65535⟩
/-- A constant segment of no bytes needs no frame. -/
theorem witness_Requests_constants (s : State) (part root va : Nat) : s.mapBytes part root va [] false = some s := rfl
theorem witness_Requests_fetch :
    (((tr tpart).putBytes (.glob 0x100000) timg).fetchBytes 0 0x100000 416).1 = some timg := by decide +kernel
/-- Requests on partition 0 at the ends of their ranges: PART_DESTROY, IMAGE_UNLOAD, RESIDENT_START, MEM_EXPOSE, QUEUE_CREATE, QUEUE_DESTROY, PEER_SET, SWAP,
and MGMT. -/
theorem witness_Requests :
    (WellMade (tr tpart) (rq 2 []) 0 ∧ (tr tpart).isAdmin (rq 2 []) = true ∧ (tr tpart).part? (rq 2 []).part = some tpart ∧ tpart.swapOut = none ∧ tpart.dying = none ∧
      (∀ e ∈ (tr tpart).parts, e.2.swapOut ≠ some 0) ∧ (tr tpart).dbg.replays = [] ∧ (tr tpart).commandsOf [0] = [] ∧ ∀ e ∈ (tr tpart).parts, e.2.dying = none) ∧
    (ByOwner (tr tpart) (rq 4 [1]) 1 tpart ∧ kget tpart.images 1 = some probeImage ∧ ((tr tpart).setGroup 0 { tg with image := 2 }).imageBusy 0 1 tpart = (tr tpart).imageBusy 0 1 tpart ∧
      probeImage.vars.head?.map (fun v => (v.ngrp, v.pool, v.tiles, v.metas)) = some (1, 0, 0, 0) ∧ tpart.resident = none ∧ tpart.slots = [(0, [0])] ∧ ((tr tpart).core 0).gone = false ∧
      ((tr tpart).freeSlot? 0).isSome = true) ∧
    (let r := rq 6 [0xFFFFFFFFFF0000, 0x10000000000, 7]
     ByOwner (tr tpart) r 3 tpart ∧ r.num 0 % 0x10000 = 0 ∧ r.num 0 < 2 ^ 56 ∧ r.num 1 % 0x10000 = 0 ∧ r.num 1 ≤ 2 ^ 40 ∧ r.num 2 < 8 ∧ tpart.exposed.length < 256) ∧
    (let p := { tpart with queues := [(63, tqueue), (62, { tqueue with tail := 0 })], exposed := [(255, { base := 0, len := 0, bits := 0, rkey := 0 })] }
     ByOwner (tr p) (rq 9 [62]) 1 p ∧ kget p.queues 62 = some { tqueue with tail := 0 } ∧ ByOwner (tr p) (rq 7 [255]) 1 p ∧ (kget p.exposed 255).isSome = true) ∧
    (let r := rq 8 [63, 0x100000, 4, 0x104000, 0x104040, 7]
     ByOwner (tr tpart) r 6 tpart ∧ r.num 0 < 64 ∧ kget tpart.queues 63 = none ∧ r.num 1 % 4096 = 0 ∧ 4 ≤ r.num 2 ∧ (∀ i ∈ [3, 4], r.num i % 64 = 0 ∧ r.num 1 + 128 * 2 ^ r.num 2 ≤ r.num i) ∧ r.num 3 ≠ r.num 4 ∧
       r.num 5 < 8 ∧ ((tr tpart).reach 0 0x100000 1 .innRead).1 = true ∧ ((tr tpart).reach 0 0x104000 1 .innWrite).1 = true ∧ ((tr tpart).reach 0 0x104040 1 .innRead).1 = true) ∧
    (let r := rq 0xF [4095, 1, 0, 0, 0, 0, 0, 0, 0, 0]
     ByOwner (tr tpart) r (2 + 8 * r.num 1) tpart ∧ r.num 0 < 4096 ∧ r.num 0 + r.num 1 ≤ 4096 ∧ (∀ k, k < r.num 1 → (∀ g ∈ tabBad tpart.ports false r k, g.1 = false) ∧ (tr tpart).tabBusy 0 false (r.num 0 + k) = false) ∧
       ∀ k, k < r.num 1 → (tabEntry r k).getLsbD 0 = false) ∧
    (ByAdmin (tr tpart) (rq 0x11 [1, 2800]) 2 ∧ ByAdmin (tr tpart) (rq 0x11 [3, 7, 0]) 3 ∧ ByAdmin (tr tpart) (rq 0x11 [5, 0, 9, 0]) 4 ∧ (9 : BitVec 128) ∉ (tr tpart).porter.admins ∧
      (tr tpart).porter.admins.length < 16 ∧ (∀ e ∈ (tr tpart).parts, ∀ c ∈ e.2.cores, clusterOf c ≠ 7) ∧ ((tr tpart).cluster 7).trace = [] ∧ ByAdmin (tr tpart) (rq 0x11 [8, 0, 8, 0, 1]) 5 ∧
      (({ tr tpart with parts := [] } : State).clock.present.toNat = 2 ^ (tr tpart).clock.pkgid)) := by
  repeat' apply And.intro
  all_goals first
    | exact well_made (by decide +kernel) (by decide +kernel)
    | exact by_owner (by decide +kernel) (by decide +kernel)
    | exact by_admin (by decide +kernel) (by decide +kernel)
    | decide +kernel
/-- The package with a debug session of partition 0. -/
def td (p : Part) (d : DbgSession) : State := { tr { p with session := some 3 } with dbg := { sessions := [(3, d)] } }
theorem in_session {p : Part} {d : DbgSession} {op : Nat} {body : List (BitVec 64)} (h : fld (rq op body).hdr 35 32 = 1 ∧ (rq op body).hdr.getLsbD 16 = false ∧
    (fld (rq op body).hdr 31 24 = 0 ∧ fld (rq op body).hdr 23 17 = 0 ∧ fld (rq op body).hdr 15 6 = 0) ∧ (rq op body).len = 8 * body.length)
    (k : (rq op body).part = 0) (z : fld ((rq op body).slot 0) 63 16 = 0) : InSession (td p d) (rq op body) body.length { p with session := some 3 } 3 d :=
  ⟨⟨⟨well_made h (by simp [td, tr, State.setPorter]), by rw [k]; simp [td, tr, State.setPorter, State.part?, kget],
    Or.inl (by simp [td, tr, State.isAdmin, State.gidOf, rq, State.setPorter, kget])⟩, z⟩, by
    rw [k]; simp [td, tr, State.debugger?, State.setPorter, State.part?, kget]⟩
/-- Sub-operations of DEBUG on a session that runs, has halted, reverses and has an event; of TRACE and REPLAY. The least log that LOG_SETUP takes depends on
the length of a snapshot's private chunk, which is free. -/
theorem witness_DebugRequests :
    (BySub (tr tpart) (rq 0xB [1, 0]) 2 tpart ∧ (tr tpart).part? 0 = some tpart ∧ tpart.session = none) ∧
    (let s := td tpart { parts := [0] }
     InSession s (rq 0xB [2]) 1 { tpart with session := some 3 } 3 { parts := [0] } ∧ s.moving { parts := [0] } = false ∧ ({ parts := [0] } : DbgSession).solo = none ∧ ({ parts := [0] } : DbgSession).want = false ∧ (s.groups.map (·.1)).Nodup) ∧
    (let r := rq 0xB [3, 0x100000, 0x1000000000, 1, 30]
     InSession (td tpart { parts := [0] }) r 5 { tpart with session := some 3 } 3 { parts := [0] } ∧ r.num 1 % 0x10000 = 0 ∧ r.num 1 + r.num 2 ≤ 2 ^ 56 ∧ r.num 2 % 0x10000 = 0 ∧ 2 ^ 20 ≤ r.num 2 ∧
       r.num 2 ≤ 2 ^ 36 ∧ r.num 3 ≤ 1 ∧ (r.num 4 = 0 ∨ 10 ≤ r.num 4 ∧ r.num 4 ≤ 30) ∧ (Config.privateBlocks ≤ 2 ^ 29 → tpart.worstSnapshot ≤ r.num 2 - 0x21000) ∧
       ((td tpart { parts := [0] }).vaOf 0 (r.num 1)).1 = some 0x100000 ∧ pkgOf 0x100000 = (td tpart { parts := [0] }).clock.pkgid ∧ tpart.log = none) ∧
    (let l : UndoLog := { tlog with wins := [{ num := 5, snapOff := 0, recOff := 0 }] }
     let s := td { tpart with log := some l } { parts := [0] }
     InSession s (rq 0xB [9, 5]) 2 { tpart with log := some l, session := some 3 } 3 { parts := [0] } ∧ s.log? 0 = some l ∧ (∃ x ∈ l.wins, x.num = BitVec.ofNat 32 5) ∧
       s.recordBad 0 { l with base := 0xEF000 } 0 = false ∧ (∀ n, n < 64 → s.isGone (64 * 0x4000 + n) = false)) ∧
    (let d : DbgSession := { parts := [0], halted := true }
     let r := rq 0xB [0xA, 0, 0, 65535, 1000000000]
     InSession (td tpart d) r 5 { tpart with session := some 3 } 3 d ∧ r.num 1 < 256 ∧ r.num 2 < 64 ∧ (td tpart d).group? (r.num 1 * 64 + r.num 2) = some tg ∧ 1 ≤ r.num 3 ∧ r.num 3 ≤ 65535 ∧ 1000 ≤ r.num 4 ∧
       r.num 4 ≤ 10 ^ 9 ∧ (td tpart d).moving d = false ∧ d.solo = none) ∧
    (let d : DbgSession := { parts := [0], solo := some (0, 1, 0) }
     kget (td tpart d).dbg.sessions 3 = some d ∧ 0 ≤ (td tpart d).clock.now ∧ (td tpart d).group? 0 = some tg) ∧
    (let r := rq 0xB [0xB, 63, 65535, 3, 65535, 0xFFFFFFFF, 3]
     InSession (td tpart { parts := [0] }) r 7 { tpart with session := some 3 } 3 { parts := [0] } ∧ r.num 1 < 64 ∧ r.num 2 < 2 ^ 16 ∧ r.num 3 ≤ 3 ∧ r.num 4 < 2 ^ 16 ∧ r.num 5 < 2 ^ 32 ∧ r.num 6 ≤ 3) ∧
    (let d : DbgSession := { parts := [0], events := [(1, 0, 0, 5)] }
     let r := rq 0xB [0xD, 10000000000]
     InSession (td tpart d) r 2 { tpart with session := some 3 } 3 d ∧ r.num 1 ≤ 10 ^ 10 ∧ d.events = (1, 0, 0, 5) :: []) ∧
    (let g : Group := { tg with st := .halted, event := 7 }
     let s := (td tpart { parts := [0] }).setGroup 0 g
     let r := rq 0xB [0xE, 0, 0, 0xFFF0, 16]
     s.group? (r.num 1 * 64 + r.num 2) = some g ∧ g.st ≠ .running ∧ r.num 4 ≤ 4000 ∧ r.num 3 + r.num 4 ≤ 0x10000 ∧ 5 + (r.num 4 + 7) / 8 = 7) ∧
    (let r := rq 0xC [1, 0x100040, 10]
     BySub (tr tpart) r 3 tpart ∧ r.num 1 % 64 = 0 ∧ 10 ≤ r.num 2 ∧ r.num 2 ≤ 24 ∧ ((tr tpart).reach 0 0x100000 65000 .innWrite).1 = true) ∧
    (∃ k x, (tr tpart).freshNum 64 ((tr tpart).parts.map (·.1)) = (some k, x)) ∧ (BySub (tr tpart) (rq 0xC [2, 1]) 2 tpart ∧ BySub (tr tpart) (rq 0xC [3]) 1 tpart) ∧
    (let r := rq 0xD [1, 0x100000, 0x10000, 64]
     BySub (tr tpart) r 4 tpart ∧ r.num 1 % 0x10000 = 0 ∧ 0 < r.num 2 ∧ r.num 2 ≤ 2 ^ 36 ∧ 64 ≤ r.num 3 ∧ r.num 3 % 64 = 0 ∧ ((tr tpart).vaOf 0 (r.num 1)).1 = some 0x100000) ∧
    (let p := { tpart with capture := some (0x100000, 0x10000, 64, 1), captures := [{ seqno := 0, image := 1, wiid := 0, item := [], args := [], off := 0 }], resident := some 1 }
     let r := rq 0xD [3, 0, 1, 0, 0, 0, 1000]
     ByOwner (tr p) r 7 p ∧ p.capture.isSome = true ∧ p.captures[r.num 1]?.isSome = true ∧ ∀ g ∈ (tr p).replayBad r p, g.1 = false) := by
  repeat' apply And.intro
  all_goals first
    | exact by_sub (by decide +kernel) (by decide +kernel) (by decide +kernel)
    | exact in_session (by decide +kernel) (by decide +kernel) (by decide +kernel)
    | exact by_owner (by decide +kernel) (by decide +kernel)
    | exact freshNum_one _ 62
    | decide +kernel
    | (intro h; simp [Part.worstSnapshot, tpart, probePart, rq, Rpc.num, Rpc.slot, Config.aBytes, Config.wBytes]; omega)

theorem witness_DecodeEncodeAgree : (Instr.copy {} { d := 63, a := 0, b := 0, imm := some 0xFFFFFFFF }).wellFormed = true ∧ 8 ≤ (Instr.copy {} { d := 63, a := 0, b := 0, imm := some 0xFFFFFFFF }).bytes ∧
    16 % 32 + (Instr.copy {} { d := 63, a := 0, b := 0, imm := some 0xFFFFFFFF }).bytes ≤ 32 ∧ (Instr.txS 31).wellFormed = true ∧ (Instr.txS 31).bytes = 4 ∧ decode 24 1 = .ok (.nop {} 8) 8 := by decide +kernel
/-- A group with NOP at its pc_min, a hart with TX.B at its pc, a request, a step of another agent and time. -/
theorem witness_StepRunsDecoded :
    (let s := State.reset.withFetchWord 64 1
     let x := s.settleAll
     let u : State := { x with agenda := [], cur := .group 0 }
     x.nextQueued [] x.rpc.queue = none ∧ x.agenda = [.group 0] ∧ u.mayIssue 0 = true ∧ u.group? 0 = some tg ∧ tg.st = .running ∧ tg.txend = none ∧ tg.eligible ≠ 0 ∧ tg.arrived = none ∧
       ({ x with agenda := [] } : State).pick exec 0 = 0 ∧ ({ x with agenda := [] } : State).waitedLonger 0 = [] ∧ u.image? 0 1 = some probeImage ∧ (u.gvar? tg).map (·.csz) = some 32 ∧ tg.pcMin tg.eligible = 0 ∧ (u.xlate 0 0 .fetch ((probeImage.base + 0 + 0) % 2 ^ 56)).1 = .ok 0x100000 ∧
       (let w := (u.xlate 0 0 .fetch 0x100000).2
        let t : Stand := { g := tg, pc := 0, act := tg.lanesAt tg.eligible 0, word := ofBytes (w.readBytes (w.locate 0x100000) 16), faults := [], csz := 32 }
        decode 0 t.word = .ok (.nop {} 8) 8 ∧ tg.dogPending = false ∧ tg.dogWaypoint = false ∧ w.stopDue t = false ∧ w.causesDue 0 tg (some t) = [])) ∧
    (let s := State.reset.withFetchWord 32 0x50B
     let x := s.settleAll
     let u : State := { x with agenda := [], cur := .hart 0 }
     x.agenda = [.hart 0] ∧ u.hartRuns 0 = true ∧ (u.hart 0).wild .xfetch (u.hart 0).pc.toNat = false ∧ (u.hartXlate 0 .xfetch (u.hart 0).pc.toNat).1 = .ok 0 ∧ (u.hartXlate 0 .xfetch (u.hart 0).pc.toNat).2.anyPoison (u.locate 0) 2 = false ∧
       ofBytes (u.readBytes (u.locate 0) 2) % 4 = 3 ∧ (u.hart 0).wild .xfetch 2 = false ∧ (u.hartXlate 0 .xfetch 2).1 = .ok 2 ∧ (u.hartXlate 0 .xfetch 2).2.anyPoison (u.locate 2) 2 = false ∧
       decodeHart (ofBytes (u.readBytes (u.locate 0) 2) + 2 ^ 16 * ofBytes (u.readBytes (u.locate 2) 2)) = some (.txB 10)) ∧
    (let x := (State.reset.withFetchWord 32 0x4505).settleAll
     x.agenda = [.hart 0] ∧ ofBytes (x.readBytes (x.locate 0) 2) % 4 ≠ 3) ∧
    (let s := ({ tr tpart with agenda := [.rpc (rq 0xA [0])] } : State)
     s.settleAll.agenda = [.rpc (rq 0xA [0])] ∧ s.settleAll.rpcLive (rq 0xA [0]) = true ∧ s.settleAll.rpcHeld (rq 0xA [0]) = false ∧ s.settleAll.rpc.queue = []) ∧
    ({ State.reset with agenda := [.event (.ptpSync 0)] } : State).settleAll.agenda = [.event (.ptpSync 0)] ∧ ({ State.reset with agenda := [.elapse 5] } : State).settleAll.agenda = [.elapse 5] := by
  repeat' apply And.intro
  all_goals decide +kernel
theorem witness_StepKeepsMemoryForm : Memory.wf (State.reset.withFetchWord 64 1).mem.bytes = true ∧ (match step (State.reset.withFetchWord 64 1) with | .next _ => true | _ => false) = true := by
  repeat' apply And.intro
  all_goals decide +kernel
/-! ### Witnesses of further clauses -/

/-- The descriptor of a box of one row of 16 bytes. -/
def tdesc : BitVec 512 := pack 512 [(0, 16, 16), (16, 16, 1), (32, 16, 1), (48, 16, 1), (64, 16, 16), (80, 16, 1), (96, 16, 1), (112, 16, 1), (320, 32, 16)]
/-- COPYT with its descriptor at 0x100000, and the command it makes. -/
theorem witness_EngineInstructions_descriptor :
    let g : Group := { tge with s := [(5, 0), (6, 4032), (7, 0x100000)] }
    let o : EOps := { d := 5, a := 6, b := 7, c := 7, ssp := .ownA, dsp := .ownW }
    let s := ({ (tm g).putBytes (.glob 0x100000) (toBytes 64 tdesc.toNat) with teams := [(0, { tt with wsize := 1 })] } : State)
    let c : EngCmd := { ec with kind := .copyt, desc := tdesc }
    let x := (issued s (ti g) {} 16 0xb1).xlate 0 0 .engRead (fld (g.sr 7) 55 0) 0
    s.issue? {} = some (ti g) ∧ (ti g).Free false [] ([5, 6] ++ ([7] ++ []) ++ [7]) ∧ engFaults .copyt o s (ti g) = [] ∧
      engHold .copyt o s (ti g) = none ∧ x.1 = .ok 0x100000 ∧ x.2.tagBad 0 0x100000 = false ∧ (te [c]).cmdReady c = true ∧
      fld c.sub 3 0 = 0 ∧ tBadDesc c.desc = false := by
  repeat' apply And.intro
  all_goals decide +kernel
/-- An accumulator that exists, a row of more than 1,024 values, and a row with two accumulators before that of another row. -/
theorem witness_TableCommands_sums :
    (let c : EngCmd := { ec with kind := .scadd, len := 1, batch := 1, table := some { rows := 2, rlen := 2 }, accs := [(0, tacc), (1, tacc), (2, tacc)] }
     let p : Part := { probePart with pool := [0], psize := 128 }
     let s := (te [c]).setPart 0 p
     Ready (te [c]) 0 63 c tge ∧ s.cmd? (coreOf c.gk) c.entry = some c ∧ kget c.accs 1 = some tacc ∧ tacc.slot = none ∧ 1024 < (List.replicate 1025 ((0, 0) : Nat × Flags)).length ∧
     (s.contribute1 c (2 * 3) ((List.replicate 1025 (0, 0)).take 1024)).isSome = true ∧
     (∀ e ∈ [(0, tacc), (1, tacc)], e.1 / 2 = 0 ∧ e.2.slot = none) ∧ (∀ e ∈ [(2, tacc)], e.1 / 2 ≠ 0) ∧ s.rowViol c.part { rows := 2, rlen := 2 } 0 = false ∧
     rowIn p { rows := 2, rlen := 2 } 0 = true ∧ (∀ j, j < 128 → s.isPoison (.glob (rowPa p { rows := 2, rlen := 2 } 0 j)) = false ∧
       (s.dirEnt (rowPa p { rows := 2, rlen := 2 } 0 j / 64)).state ≠ 3 ∧ (s.dirEnt (rowPa p { rows := 2, rlen := 2 } 0 j / 64)).state ≠ 4) ∧
     ([(0, tacc), (1, tacc)].flatMap (fun e => e.2.vals)).length * 4 = ({ rows := 2, rlen := 2 } : TableSample).bytes) := by
  refine ⟨ready_alone _ ?_ rfl rfl rfl rfl, ?_⟩
  all_goals decide +kernel
/-- An SREAD before its read goes out, and at each length of data that answers it; a failed command of a frozen queue. -/
theorem witness_NetworkAndStorage_more :
    (let c : EngCmd := { ec with kind := .sread, src := .stor 0, dst := .loc false 0 0 4096 0 }
     c.written = 0 ∧ c.asked = 0 ∧ c.len ≤ 2 ^ 20 ∧ (te [c]).storOut c < 64 ∧
     (let d := { c with asked := 64 }
      Ready (te [d]) 0 63 d tge ∧ d.len ≤ d.asked ∧ d.written < d.len ∧ (List.replicate 64 (1 : BitVec 8)).length = min (2 ^ 20) (d.len - d.written) ∧
        ([] : List (BitVec 8)).length ≠ min (2 ^ 20) (d.len - d.written))) ∧
    (let c : EngCmd := { ec with failed := true }
     let s := ({ te [c] with teams := [(0, { tt with frozen := some (11, 63) })] } : State)
     s.team? 0 = some { tt with frozen := some (11, 63) } ∧ s.cmd? (0 / 16) 63 = some c ∧ c.entry = 63 ∧ c.tk = 0 ∧ c.failed = true ∧ c.table = none ∧ coreOf c.gk = 0 / 16) := by
  refine ⟨⟨?_, ?_, ?_, ?_, ready_alone _ ?_ rfl rfl rfl rfl, ?_⟩, ?_⟩
  all_goals decide +kernel
/-- A grant that places a team, and one whose capture block does not translate. -/
theorem witness_GrantPlacesTeam_captured :
    (let w := (tq 1 [] [(8, tlodge)]).looked
     (w.firstGrant).map (fun c => (w.grant c.1.gk c.2.1 c.2.2.1 c.2.2.2.1 c.2.2.2.2.1 c.2.2.2.2.2).inn.fetch.any (· == c.1)) = some false ∧ w.grantable.length = 1) ∧
    (let x : Item := { titem with raw := pack 1024 [(0, 16, 1), (16, 4, 3), (20, 1, 1), (21, 1, 1), (64, 16, 2), (80, 16, 1), (96, 16, 1)] }
     let s := tq 1 [] [(8, tlodge)]
     let w := ({ s with parts := s.parts.map (fun e => (e.1, { e.2 with capture := some (0x900000, 0x10000, 64, 0), queues := [(0, { tqueue with items := [x] })] })) } : State).looked
     x.cap = true ∧ w.grantable.length = 1 ∧
     (w.firstGrant).map (fun c => let u := w.grant c.1.gk c.2.1 c.2.2.1 c.2.2.2.1 c.2.2.2.2.1 c.2.2.2.2.2
       (u.inn.fetch.any (· == c.1), ((u.queue? c.2.1 c.2.2.1).map (·.faulted)).getD false)) = some (true, true)) := by
  repeat' apply And.intro
  all_goals decide +kernel
/-- A store in flight whose bytes the range scoreboard keeps for a command. -/
def tstore : Group := tgo { id := 3, kind := .store, accs := [{ lane := 0, place := .aspc 0 0, size := 4, data := 7 }], exe := 1 }
def tscored : State := (ts tstore).setCore 0 { eq := [ec], rsb := [{ tk := 0, wSpace := false, lo := 0, hi := 4096, dest := true, cmd := some (0, 63) }] }
/-- A stop of a group with a store that goes out, and with one that stays in flight. -/
theorem witness_FaultParks_store :
    (let g := tgo { id := 3, kind := .store, accs := [{ lane := 0, place := .glob 0x100000, size := 4, data := 7 }], exe := 1 }
     (ts g).group? 0 = some g ∧ g.intx = 0 ∧ g.txend = none ∧ (((ts g).regionStop 0).group? 0).map (fun g => (g.ops, g.sc)) = some ([], 0)) ∧
    tscored.group? 0 = some tstore ∧ (tscored.group? 0).map (fun g => (g.intx, decide (g.exited ≠ 0xFFFFFFFF))) = some (0, true) ∧
    ((tscored.regionStop 0).group? 0).map (fun g => (g.ops.length, g.sc)) = some (1, 1) := by
  repeat' apply And.intro
  all_goals decide +kernel
/-- A running group that is evicted, and a saved one with no stop under way. -/
theorem witness_SwitchesAndEvictions_running :
    let g : Group := { tg with held := 15 }
    let s := tq 1 [(0, tt)] [(0, g)]
    let w := s.regionStop 0
    s.group? 0 = some g ∧ g.txend = none ∧ (w.group? 0).map (fun g => (g.saveable, (w.team? (g.tk 0)).isSome, decide (w.shadowUsed 0 + 8192 * popCount g.held ≤ Config.shadowBytes))) =
      some (true, true, true) ∧ g.stopEv = none ∧ (s.spillTake 0 4096).map (fun x => (x.2.core 0).mq.any (fun o => o.tk == 0 && o.kind == .ldmeta)) = some false := by
  repeat' apply And.intro
  all_goals decide +kernel
/-- An L1 that holds line 0x1000 and not line 0x1001; no owner anywhere; an owner in M, in O and in E. -/
def tline : L1Line := { vline := 0x1000, pline := 0x1000, part := 0 }
theorem witness_CachesAndNode_lines :
    (let s := fun (d : DirEnt) (l : KMap Nat) => (ts tg).setCoh { tags := [(1, [tline])], dir := [(0x4000, d)], l1 := l }
     (s {} []).l1Tagged 1 0x4000 = true ∧ (s {} []).l1Tagged 1 0x4004 = false ∧ (s {} []).ownLine (64 * 0x4000) = true ∧ (s {} []).l1 1 0x4000 = 0 ∧
       (s {} []).l1 1 0x4000 ≠ 4 ∧ ((s {} []).dirEnt 0x4000).state ≠ 5 ∧ (∀ e ∈ (s {} []).coh.dir, e.2.state ≠ 3 ∧ e.2.state ≠ 4) ∧ ((s { state := 3, owner := 0 } [(0x4000, 3)]).dirEnt 0x4000).state = 3 ∧
       (s { state := 4, owner := 0 } [(0x4000, 4)]).l1 0 0x4000 = 4 ∧ (s {} [(0x4000, 2)]).l1 0 0x4000 = 2 ∧ ((s { watch := true } []).dirEnt 0x4000).watch = true) ∧
    (let s := (ts tg).setClock { now := 1152, present := 3 }
     s.reached 1 = true ∧ s.reached 2 = false ∧ s.isPeer 0x100000 = false ∧ s.peerWaits 0x100000 8 = false ∧
     (∀ a, 0x100000 / 64 * 64 ≤ a → a < 0x100000 + 8 → s.isGone a = false ∧ kget s.coh.winLines (a / 256) = none ∧ s.isPeer a = false ∧ (s.dirEnt (a / 64)).state ≠ 3 ∧ (s.dirEnt (a / 64)).state ≠ 4) ∧
     s.isPeer (2 ^ 49) = true ∧ s.awayAt 1 (2 ^ 49) none = true ∧ s.awayAt 0 (2 ^ 49) none = false ∧ s.awayAt 1 (2 ^ 49) (some 0) = true ∧ s.awayAt 1 (2 ^ 49) (some 1) = false ∧
       (∀ a, 2 ^ 49 / 64 * 64 ≤ a → a < 2 ^ 49 + 8 → s.isGone a = false) ∧ s.isGone (0x100000 / 64 * 64) = false ∧ (∀ n, n < 64 → s.isPeer (rowByte 0x100000 (64 * n)) = false)) ∧
    (let s := ((ts tg).setClock { now := 2 ^ 21, present := 3 })
     s.reached (pkgOf (64 * 2 ^ 43)) = true ∧ kget s.coh.lines (2 ^ 43 / 4) = none ∧
       (s.coh.lines.filter (fun x => s.homeSlice (256 * x.1) == s.homeSlice (256 * (2 ^ 43 / 4)))).length < Config.l2Lines) := by
  repeat' apply And.intro
  all_goals decide +kernel
set_option maxRecDepth 100000 in
/-- Flits that are accepted and not, one that announces nothing, a flit on its way, and Syncs of the grandmaster and of another package. -/
theorem witness_CachesAndNode_flits :
    (let f := flitOf 0 0 3 (List.replicate 248 7)
     let s := (((ts tg).setClock { now := 10000000, present := 3 }).setLink 0 { unack := [flitOf 0 0 1 []] })
     s.linkUp 0 = true ∧ flitOk f = true ∧ flitSeq f = (s.link 0).rxSeq + 1 ∧ (List.replicate 248 (7 : BitVec 8)).length ≤ 248 ∧ flitLc f ≠ 0 ∧
       (s.link 0).unack.findIdx? (fun x => flitSeq x == flitAck f) = some 0 ∧ flitOk (setFld f 48 16 0) = false ∧ flitSeq (flitOf 5 0 0 []) ≠ (s.link 0).rxSeq + 1 ∧ s.linkUp 2 = false) ∧
    (let s := (ts tg).setClock { now := 125000, syncAt := 125000, gm := 1, present := 3 }
     s.clock.syncAt ≤ s.clock.now ∧ s.isMaster = false ∧ (s.setClock { s.clock with syncAt := 125001 }).clock.now < 125001 ∧ s.clock.unsync = false) ∧
    (let s := (ts tg).setClock { now := 125000, present := 3 }
     s.isMaster = true ∧ s.clock.fabric = none ∧ (s.setClock { s.clock with fabric := some (1, 0), unsync := true }).clock.fabric ≠ none) := by
  repeat' apply And.intro
  all_goals decide +kernel
/-- A halted group that an error of its register file meets, an L1 line with no M or O sector, and an image of one chunk; whether an
image verifies is free. -/
theorem witness_PorterActions_more :
    (let g : Group := { tg with st := .halted, event := 7 }
     (ts g).group? 0 = some g ∧ g.st ≠ .running ∧ coreOf 0 = 0 ∧ ((ts g).core 0).gone = false) ∧
    (let s := (ts tg).setCoh { tags := [(1, [tline])], l1 := [(0x4000, 2)] }
     (s.l1Tags 1)[0]? = some tline ∧ (∀ j, j < 4 → s.l1 1 (4 * tline.pline + j) < 3) ∧ s.l1 0 0x4000 = 2) ∧
    (let r := rq 0x11 [8, 0, 8, 1, 5]
     r.num 3 = 1 ∧ ∀ x ∈ (tr tpart).imageBad r, x.1 = false) ∧ (∀ x ∈ (ts tg).porter.removed, x.1 ≠ 2) ∧ (tg.stopEv = none ∧ tg.txend = none ∧ tg.exited ≠ 0xFFFFFFFF) ∧
    (let s := (ts tg).setPorter { (ts tg).porter with above := true }
     ¬(s.porter.cap < 2800) ∧ s.porter.cap ≤ 2800 ∧ s.porter.above = true) := by
  repeat' apply And.intro
  all_goals decide +kernel
/-- A tagged global access of LEVEL 5 whose record leaves LEVEL to it. -/
theorem witness_TraceSwapAndWindows_level :
    let t : FireTag := { gk := 48, off := 0, op := 0x90, data := 5, lvl := 5 }
    fld t.data 239 237 = 0 ∧ t.lvl < 8 ∧ ({ t with cancel := true } : FireTag).cancel = true := by decide +kernel
/-- A session in error, a session number of which nothing waits, an Ostler at its private region in a transaction, and harts in other states. -/
theorem witness_SessionsAndHosts_more :
    (({ gid := 7, port := 0, err := true } : Session).err = true ∧ ({ gid := 7, port := 0 } : Session).err = false ∧ (tr tpart).begun 2 = false ∧ 255 < 256) ∧
    (let s := (ts tg).setHart 16 { ckpt := some { x := [], f := [], fcsr := 0, next := 4, rd := 1 } }
     (s.hart 16).ckpt.isSome = true ∧ (s.hart 16).ending = none ∧ (∀ q ∈ s.tix.reqs, q.who ≠ .hart 16) ∧ (2 ^ 48 : Nat) % 8 = 0 ∧ (s.hart 16).wild .store (2 ^ 48) = false ∧
       (s.hartXlate 16 .store (2 ^ 48)).1 = .ok (2 ^ 48) ∧ (s.hartXlate 16 .store (2 ^ 48)).2.privAt 16 (2 ^ 48) = some 0 ∧ (s.hart 16).bufFull (2 ^ 48) = false) ∧
    (let s := (ts tg).setHart 15 {}
     s.hartPart (s.hart 15) .load = 64 ∧ (match s.hartXlate 15 .load 0x100000 with
      | (.ok pa, w) => !((w.touchTag 64 pa).atHome none (w.locate pa)).anyPoison (w.locate pa) 8 && !(w.atomicAt (w.hartWriter 15 (w.hart 15) 0 (some 0x100000)) (.glob pa) .add (amoType 8 .add false) 0 0).2.2.1
      | _ => false) = true) ∧
    (let s := ((ts tg).setHart 15 { sentPeer := true }).setClock { unsync := true }
     (s.hart 15).sentPeer = true ∧ (s.hart 15).relWin = none ∧ s.clock.unsync = true ∧ ((ts tg).setHart 15 { sentPeer := true }).clock.unsync = false) ∧
    (let s := (ts tg).setHart 15 { part := some 0, mode := .s, satp := BitVec.ofNat 64 (8 * 2 ^ 60 + probePart.root / 4096) }
     s.hartPart (s.hart 15) .load = 0 ∧ s.tagBad 0 0x100000 = false) := by
  repeat' apply And.intro
  all_goals decide +kernel
/-- A TRAP inside a transaction of another lane, with and without a handler. -/
theorem witness_UserTraps_transaction :
    let g : Group := { tg with intx := 1, p := [(1, 2)] }
    (ts g).issue? { g := 1 } = some { ti g with exe := 2 } ∧ ({ ti g with exe := 2 } : Issue).exe &&& g.intx = 0 ∧ g.intx ≠ 0 ∧ (ts g).handlerOf g = none ∧
    (th tg4).handlerOf tg4 ≠ none ∧ tg4.lc ≠ 0 ∧ tg4.intx = 0 := by decide +kernel
/-- An image at an address that does not translate, and a group of a session that a SOLO has let run. -/
theorem witness_Requests_unmapped :
    ((tr tpart).fetchBytes 0 0x900000 8).1 = none ∧ (8 : Nat) ≠ 0 ∧ 0x900000 + 8 ≤ 2 ^ 56 ∧ tpart.dying = none ∧ tg.st = .running ∧ tg.stopEv = none := by decide +kernel
/-- GCTL at the end of a group's window. -/
theorem witness_DebugRequests_gctl :
    let g : Group := { tg with st := .halted, event := 7 }
    let r := rq 0xB [0xF, 0, 0, 0x8700, 8, 0x1FFFFFFFF]
    ((td tpart { parts := [0] }).setGroup 0 g).group? (r.num 1 * 64 + r.num 2) = some g ∧ r.num 3 < 0x8708 ∧ 0x8700 < r.num 3 + r.num 4 ∧ r.num 3 + r.num 4 ≤ 0x10000 ∧ 5 + (r.num 4 + 7) / 8 = 6 := by
  decide +kernel
/-- XACQ of the next block of a pool that has one, XREL of the highest block held and of one not held, FETCHW and SWITCHV where each completes. -/
theorem witness_SchedulingInstructions_complete :
    (let g : Group := { tg with held := 7, budget := 4 }
     let x : Team := { tt with poolFree := 1 }
     let s := ({ ts g with teams := [(0, x)] } : State)
     s.issue? {} = some (ti g) ∧ (ti g).exe &&& g.intx = 0 ∧ s.team? (g.tk 0) = some x ∧ g.held.getLsbD 3 = false ∧ g.held.getLsbD (3 - 1) = true ∧ 3 < g.budget ∧ 0 < x.poolFree ∧
       s.behind (ti g) 16 = false ∧ g.held.getLsbD 1 = true ∧ (2 < 3 → g.held.getLsbD (2 + 1) = false) ∧ g.held.getLsbD 2 = true ∧
       (s.core (coreOf 0)).mq.any (fun m => s.matOf 0 m && m.blocks.getLsbD 2) = false) ∧
    (let g : Group := { tg with kind := .lodge, fetchw := some (0xFFFFFFFF, 8) }
     (ts g).issue? {} = some (ti g) ∧ g.kind = .lodge ∧ (ti g).exe &&& g.intx = 0 ∧ g.fetchw.isSome = true) ∧
    (ts tg).issue? {} = some (ti tg) ∧ tg.kind ≠ .lodge ∧ ((ts tg).team? (tg.tk 0)).map (·.request.isSome) = some false := by
  repeat' apply And.intro
  all_goals decide +kernel
/-- What the fetch of the instruction reads, at the home of its line. -/
theorem witness_StepRunsDecoded_fetch :
    (let x := (State.reset.withFetchWord 64 1).settleAll
     let u : State := { x with agenda := [], cur := .group 0 }
     let f := (u.xlate 0 0 .fetch (probeImage.base % 2 ^ 56) 0).2
     let w := fetchedAt f 0 none 0x100000
     let t : Stand := { g := tg, pc := 0, act := tg.lanesAt tg.eligible 0, word := ofBytes (w.readBytes (w.locate 0x100000) (min 16 (32 - 0 % 32))), faults := [], csz := 32 }
     tg.stopEv = none ∧ f.looped 0 tg 0 = false ∧ f.tagBad 0 0x100000 = false ∧ decode 0 t.word = .ok (.nop {} 8) 8 ∧ w.stopDue t = false ∧ w.causesDue 0 tg (some t) = []) ∧
    (let x := (State.reset.withFetchWord 32 0x50B).settleAll
     let u : State := { x with agenda := [], cur := .hart 0 }
     let f := (u.hartXlate 0 .xfetch 0).2
     let w := fetchedAt f (f.hartPart (f.hart 0) .xfetch) (f.hart 0).slot 0
     let y := (w.hartXlate 0 .xfetch 2).2
     let z := fetchedAt y (y.hartPart (y.hart 0) .xfetch) (y.hart 0).slot 2
     ¬(f.hartPart (f.hart 0) .xfetch < 64) ∧ w.anyPoison (w.locate 0) 2 = false ∧ (w.hart 0).pc = 0 ∧ (w.hart 0).wild .xfetch 2 = false ∧ (w.hartXlate 0 .xfetch 2).1 = .ok 2 ∧
       z.anyPoison (z.locate 2) 2 = false ∧ decodeHart (ofBytes (w.readBytes (w.locate 0) 2) + 2 ^ 16 * ofBytes (z.readBytes (z.locate 2) 2)) = some (.txB 10)) := by
  repeat' apply And.intro
  all_goals decide +kernel
/-! ### Single steps, worked out by hand from the rules -/

/-- The group after one instruction, and a word of it. -/
def run (i : Instr) (g : Group) : Option Group := match exec i (ts g) with
  | .next t => t.group? 0
  | _ => none
def vword (o : Option Group) (r l : Nat) : Option (BitVec 32) := o.map (fun g => g.vr r l)
def two (x y : Nat) : Group := { tg with v := fill 1 x ++ fill 2 y }
/-- D 3, A 1, B 2. -/
def k3 (t : Typ) : KOps := { d := 3, a := 1, b := .reg 2, t := t }

/-- R121 to R123, R182: a sum of I32 wraps, or saturates with SAT; a quotient by zero is all ones, with DZ. -/
theorem test_vadd_wraps : vword (run (.vadd {} (k3 .i32)) (two 0x7FFFFFFF 1)) 3 31 = some 0x80000000 := by decide +kernel
theorem test_vadd_saturates : (run (.vadd {} { k3 .i32 with sat := true }) (two 0x7FFFFFFF 1)).map (fun g => (g.vr 3 0, fld g.sflags 6 0)) =
    some (0x7FFFFFFF, fSAT.toNat) := by decide +kernel
theorem test_vdiv_zero : (run (.vdiv {} (k3 .i32)) (two 5 0)).map (fun g => (g.vr 3 0, fld g.sflags 6 0)) = some (0xFFFFFFFF, fDZ.toNat) := by decide +kernel
/-- R121, R174: an I8 result is extended with its sign, an N8 result with zeros. -/
theorem test_vadd_extends : vword (run (.vadd {} (k3 .i8)) (two 0x7F 1)) 3 0 = some 0xFFFFFF80 ∧ vword (run (.vadd {} (k3 .n8)) (two 0xFF 1)) 3 0 = some 0 := by decide +kernel
/-- R175: a 64-bit type carries from the even register into the odd one. -/
theorem test_vadd_pairs : (run (.vadd {} { d := 4, a := 0, b := .reg 2, t := .n64 }) { tg with v := fill 0 0xFFFFFFFF ++ fill 2 1 }).map (fun g => (g.vr 4 7, g.vr 5 7)) =
    some (0, 1) := by decide +kernel
/-- R183: a shift by the width or more. -/
theorem test_vsra_wide : vword (run (.vsra {} (k3 .i32)) (two 0x80000000 255)) 3 0 = some 0xFFFFFFFF ∧ vword (run (.vshl {} (k3 .n32)) (two 1 32)) 3 0 = some 0 := by decide +kernel
/-- R187: bytes do not carry into each other. -/
theorem test_pkadd : vword (run (.pkadd {} (k3 .n8x4)) (two 0x01FF01FF 0x01010101)) 3 0 = some 0x02000200 := by decide +kernel
/-- R193: the lane sum, and the sum up to each lane. -/
theorem test_lred : (run (.lred {} { d := 9, a := 1, t := .n32 }) (two 1 0)).map (fun g => g.sr 9) = some 32 := by decide +kernel
theorem test_lscan : (run (.lscan {} (k3 .n32)) (two 1 0)).map (fun g => (g.vr 3 0, g.vr 3 31)) = some (1, 32) := by decide +kernel
/-- R191: LXCH by exclusive or with 1 swaps neighbours. -/
theorem test_lxch : (run (.lxch {} { d := 3, a := 1, b := .imm32 1, t := .n32, sub := 3 }) { tg with v := [(32, 7), (33, 8)] }).map (fun g => (g.vr 3 0, g.vr 3 1)) = some (8, 7) := by decide +kernel
/-- R127, R195: 1 + 2^-24 is a tie that goes to even, and up under RUP. -/
theorem test_fadd_rounds : vword (run (.fadd {} (k3 .f32)) (two 0x3F800000 0x33800000)) 3 0 = some 0x3F800000 ∧
    vword (run (.fadd {} { k3 .f32 with rm := .rup }) (two 0x3F800000 0x33800000)) 3 0 = some 0x3F800001 := by decide +kernel
/-- R130, R196: infinity less infinity is the canonical NaN with INV; 1 / 0 is infinity with DZ. -/
theorem test_fadd_invalid : (run (.fadd {} (k3 .f32)) (two 0x7F800000 0xFF800000)).map (fun g => (g.vr 3 0, fld g.sflags 6 0)) = some (0x7FC00000, fINV.toNat) := by decide +kernel
theorem test_fdiv_zero : (run (.fdiv {} (k3 .f32)) (two 0x3F800000 0)).map (fun g => (g.vr 3 0, fld g.sflags 6 0)) = some (0x7F800000, fDZ.toNat) := by decide +kernel
/-- R201: 3.5 to I32 is 4 under RNE and 3 under RTZ. -/
theorem test_cvt : vword (run (.cvt {} { d := 3, a := 1, c := 0x10, t := .i32 }) (two 0x40600000 0)) 3 0 = some 4 ∧
    vword (run (.cvt {} { d := 3, a := 1, c := 0x10, t := .i32, rm := .rtz }) (two 0x40600000 0)) 3 0 = some 3 := by decide +kernel
/-- R173: lanes outside the guard keep the destination; a scalar instruction acts under any guard. -/
theorem test_guard : (run (.vadd { g := 1 } (k3 .n32)) { two 1 1 with p := [(1, 2)] }).map (fun g => (g.vr 3 0, g.vr 3 1)) = some (0, 2) ∧
    (run (.sadd { g := 1 } { d := 1, a := 2, b := .imm32 5, t := .n64 }) tg).map (fun g => g.sr 1) = some 5 := by decide +kernel
/-- R30, R144: p0 stays all ones. -/
theorem test_p0 : (run (.pnot {} { d := 0, a := 0 }) tg).map (fun g => g.pr 0) = some 0xFFFFFFFF := by decide +kernel
/-- R207: CALL leaves the offset past it in D. -/
theorem test_call : (run (.call {} { d := 9, disp := 16 }) tg).map (fun g => (g.vr 9 5, sget g.pcv 5)) = some (8, 16) := by decide +kernel
/-- R25: the group ends with its last lane. -/
theorem test_exit : run (.exit {} {}) tg = none ∧ (run (.exit { g := 1 } {}) { tg with p := [(1, 1)] }).map (·.exited) = some 1 := by decide +kernel
/-- R26, R27: lanes that have all come to the barrier go on past it. -/
theorem test_rejoin : (run (.rejoin {} { bar := 2 }) { tg with rmask := [(2, 0xFFFFFFFF)] }).map (fun g => (sget g.pcv 0, sget g.rmask 2)) = some (8, 0) := by decide +kernel
/-- R228: SRD of the lane number. -/
theorem test_srd_lane : (run (.srd {} { d := 20, spec := 0 }) tg).map (fun g => (g.vr 20 0, g.vr 20 31)) = some (0, 31) := by decide +kernel
/-- R229, R411: a write of a register that is not writable parks the group with EVENT 12, SUBC 7. -/
theorem test_swr_parks : (run (.swr {} { a := 1, spec := 1 }) tg).map (fun g => (g.st, g.event, fld g.xfault 55 48)) = some (.parked, 12, 7) := by decide +kernel
/-- R243: a compare-and-swap writes only where the old value agrees. -/
theorem test_atomics : (atomicNew .cas .n32 5 5 9).1 = some 9 ∧ (atomicNew .cas .n32 4 5 9).1 = none ∧ (atomicNew .add .n32 0xFFFFFFFF 2 0).1 = some 1 := by decide +kernel
/-- R364: an LZ4 block of one literal. -/
theorem test_lz4 : (lz4Block 64 [0x10, 0x41] []).out = [0x41] := by decide +kernel
/-- R288: a Zstandard frame of one raw block of one byte, and of one byte repeated three times. -/
theorem test_zstd : (zstdFrame 64 [0x28, 0xB5, 0x2F, 0xFD, 0x20, 1, 9, 0, 0, 0x41] []).out = [0x41] ∧
    (zstdFrame 64 [0x28, 0xB5, 0x2F, 0xFD, 0x20, 3, 0x1B, 0, 0, 0x41] []).out = [0x41, 0x41, 0x41] := by decide +kernel
/-- R356: a QUEUE_CREATE on partition 5 with a priority above 7 is refused with BADFIELD, and DETAIL names byte 40 of the body. -/
theorem test_reply :
    (match exec (.queueCreate { session := 1, hdr := 0x0008030100000005, body := [0, 0x100000, 4, 0x104000, 0x104040, 8] }) { tr tpart with parts := [(5, tpart)] } with
     | .next t => t.rpc.replies.map (fun r => (fld r.hdr 63 0, r.body))
     | _ => []) = [(0x0008008103010005, [40])] := by decide +kernel
/-- R24, R142: the NOP at offset 0 leaves every lane at 8. -/
theorem test_step_nop : (match step (State.reset.withFetchWord 64 1) with
     | .next t => (t.group? 0).map (fun g => (sget g.pcv 0, sget g.pcv 31))
     | _ => none) = some (8, 8) := by decide +kernel
/-- ADDI x5, x0, -3 in the RISC-V manual's encoding (R340, log 30). -/
theorem test_step_addi : (match step (State.reset.withFetchWord 32 0xFFD00293) with
     | .next t => ((t.hart 0).reg 5, (t.hart 0).pc)
     | _ => (0, 0)) = (0xFFFFFFFFFFFFFFFD, 4) := by decide +kernel
/-- C.LI x10, -1 in the RISC-V manual's encoding, and the word of zeros, which it keeps illegal (R340, log 30). -/
theorem test_step_compressed : (match step (State.reset.withFetchWord 32 0x557D) with
     | .next t => ((t.hart 0).reg 10, (t.hart 0).pc)
     | _ => (0, 0)) = (0xFFFFFFFFFFFFFFFF, 2) ∧ (match step (State.reset.withFetchWord 32 0) with
     | .next t => (t.hart 0).mcause
     | _ => 0) = 2 := by decide +kernel
/-- FADD.D f3, f1, f2 of 1.0 and 2.5, and FCVT.W.D x10, f1 of -2.5 toward zero, in the RISC-V manual's encodings (R340, log 30). -/
theorem test_hart_fp : (({ fs := 1, f := [(1, 0x3FF0000000000000), (2, 0x4004000000000000)] } : Hart).fpWord 0x022081D3).map (fun k => sget k.f 3) = some 0x400C000000000000 ∧
    (({ fs := 1, f := [(1, 0xC004000000000000)] } : Hart).fpWord 0xC2009553).map (fun k => (k.reg 10, k.fcsr)) = some (0xFFFFFFFFFFFFFFFE, 1) := by decide +kernel
/-- R260, R340: an illegal custom-0 word traps with mcause 2 and the pc in mepc. -/
theorem test_step_hart : (match step (State.reset.withFetchWord 32 0x400B) with
     | .next t => ((t.hart 0).mcause, (t.hart 0).mepc, (t.hart 0).mode)
     | _ => (0, 0, .u)) = (2, 0, .m) := by decide +kernel

end Sys2Proof.Tests
end

section
/-! SUPPORT. Every instruction and every step answers a next state: no branch of a meaning ends in `.fault` or `.refused`. A fault of
the spec parks a group, freezes a queue, traps a hart or refuses a request, and an agent whose condition does not hold changes nothing
(log 12, the model's choice): each of these is a next state. -/

namespace Sys2Proof.Machine

/-- The outcome is a next state. -/
def Answers (out : Host.Outcome State Fault Refusal) : Prop := ∃ t, out = .next t

theorem answers_next (t : State) : Answers (.next t) := ⟨t, rfl⟩

/-! ### The operations that the meanings share -/

/-- An issue, whatever the instruction is: nothing issues, the group parks on a fault, it stalls on a register or on
what the instruction waits for, or the effect follows the advance (R24, R205, R416). -/
theorem perform_answers (s : State) (h : Hdr) (sp : Spec) (faults : State → Issue → List Flt) (hold : State → Issue → Option State)
    (effect : State → Issue → State) : Answers (perform s h sp faults hold effect) := by
  fun_cases perform <;> exact answers_next _

theorem onHart_answers (s : State) (f : Nat → Hart → State) : Answers (onHart s f) := by
  fun_cases onHart <;> exact answers_next _

/-- A write of a supervisor CSR of the package: the hart aborts its transaction, traps, or moves past the instruction (R259). -/
theorem csrWrite_answers (s : State) (h : Nat) (ok : Hart → Bool) (f : State → Nat → State) : Answers (s.csrWrite h ok f) := by
  fun_cases State.csrWrite <;> exact answers_next _

/-! ### Teams under the Innkeeper -/

theorem execVariantSwitch_answers (tk : Nat) (s : State) : Answers (execVariantSwitch tk s) := by
  fun_cases execVariantSwitch <;> exact answers_next _

theorem execWorkgroupRetire_answers (tk : Nat) (s : State) : Answers (execWorkgroupRetire tk s) := by
  fun_cases execWorkgroupRetire <;> exact answers_next _

theorem execUpshiftQuantumExpiry_answers (tk : Nat) (s : State) : Answers (execUpshiftQuantumExpiry tk s) := by
  fun_cases execUpshiftQuantumExpiry <;> exact answers_next _

theorem execAllocationSpill_answers (tk : Nat) (s : State) : Answers (execAllocationSpill tk s) := by
  fun_cases execAllocationSpill <;> exact answers_next _

theorem execGroupRestore_answers (core : Nat) (s : State) : Answers (execGroupRestore core s) := by
  fun_cases execGroupRestore <;> exact answers_next _

/-! ### Memory operations in flight -/

theorem execLoadRetire_answers (gk id : Nat) (s : State) : Answers (execLoadRetire gk id s) := by
  fun_cases execLoadRetire <;> exact answers_next _

theorem execStoreRetire_answers (gk id : Nat) (s : State) : Answers (execStoreRetire gk id s) := by
  fun_cases execStoreRetire <;> exact answers_next _

theorem execAtomicPerform_answers (gk id : Nat) (s : State) : Answers (execAtomicPerform gk id s) := by
  fun_cases execAtomicPerform <;> exact answers_next _

theorem execNodeReleasePerform_answers (gk id : Nat) (s : State) : Answers (execNodeReleasePerform gk id s) := by
  fun_cases execNodeReleasePerform <;> exact answers_next _

theorem execPartitionViolation_answers (gk id : Nat) (s : State) : Answers (execPartitionViolation gk id s) := by
  fun_cases execPartitionViolation <;> exact answers_next _

/-! ### Tickets, group commits and the serial token -/

theorem execTicketRequest_answers (s : State) : Answers (execTicketRequest s) := by
  fun_cases execTicketRequest <;> exact answers_next _

theorem execGroupCommitDecision_answers (s : State) : Answers (execGroupCommitDecision s) := by
  fun_cases execGroupCommitDecision <;> exact answers_next _

theorem execSerialTokenGrant_answers (s : State) : Answers (execSerialTokenGrant s) := by
  fun_cases execSerialTokenGrant <;> exact answers_next _

/-! ### Harts -/

theorem execHartCommitPublish_answers (s : State) : Answers (execHartCommitPublish s) := by
  fun_cases execHartCommitPublish <;> exact answers_next _

theorem execRv64MemoryAccess_answers (a : HartAcc) (s : State) : Answers (execRv64MemoryAccess a s) := by
  fun_cases execRv64MemoryAccess <;> exact answers_next _

/-! ### The matrix unit -/

theorem execMatrixOpRetire_answers (core : Nat) (s : State) : Answers (execMatrixOpRetire core s) := by
  fun_cases execMatrixOpRetire <;> exact answers_next _

/-! ### Commands of the copy engines -/

theorem execEngineCommandRetire_answers (core entry : Nat) (data : List Byte) (s : State) :
    Answers (execEngineCommandRetire core entry data s) := by
  fun_cases execEngineCommandRetire <;> exact answers_next _

theorem execScarabRowRequest_answers (core entry : Nat) (s : State) : Answers (execScarabRowRequest core entry s) := by
  fun_cases execScarabRowRequest <;> exact answers_next _

theorem execScarabBurst_answers (core entry : Nat) (s : State) : Answers (execScarabBurst core entry s) := by
  fun_cases execScarabBurst <;> exact answers_next _

theorem execScaddRowUpdate_answers (core entry : Nat) (s : State) : Answers (execScaddRowUpdate core entry s) := by
  fun_cases execScaddRowUpdate <;> exact answers_next _

theorem execNetworkCommandFail_answers (core entry : Nat) (written : List Byte) (syndrome : BitVec 16) (s : State) :
    Answers (execNetworkCommandFail core entry written syndrome s) := by
  fun_cases execNetworkCommandFail <;> exact answers_next _

theorem execStorageCompletion_answers (core entry : Nat) (status : BitVec 16) (data : List Byte) (s : State) :
    Answers (execStorageCompletion core entry status data s) := by
  fun_cases execStorageCompletion <;> exact answers_next _

theorem execStorageTimeout_answers (core entry : Nat) (s : State) : Answers (execStorageTimeout core entry s) := by
  fun_cases execStorageTimeout <;> exact answers_next _

theorem execRcRetransmitTimeout_answers (core entry : Nat) (s : State) : Answers (execRcRetransmitTimeout core entry s) := by
  fun_cases execRcRetransmitTimeout <;> exact answers_next _

/-! ### Traps, stops and faults of a group -/

theorem execUserTrapEntry_answers (gk cause : Nat) (s : State) : Answers (execUserTrapEntry gk cause s) := by
  fun_cases execUserTrapEntry <;> exact answers_next _

theorem execPreciseStop_answers (gk : Nat) (s : State) : Answers (execPreciseStop gk s) := by
  fun_cases execPreciseStop <;> exact answers_next _

theorem execExecutionFreeze_answers (gk event subc op : Nat) (lanes : LaneMask) (s : State) :
    Answers (execExecutionFreeze gk event subc op lanes s) := by
  fun_cases execExecutionFreeze <;> exact answers_next _

/-! ### Windows and translation -/

theorem execWindowMapValid_answers (cluster idx : Nat) (s : State) : Answers (execWindowMapValid cluster idx s) := by
  fun_cases execWindowMapValid <;> exact answers_next _

theorem execWindowLineWriteback_answers (cluster idx : Nat) (s : State) : Answers (execWindowLineWriteback cluster idx s) := by
  fun_cases execWindowLineWriteback <;> exact answers_next _

theorem execPageWalk_answers (die part : Nat) (va : BitVec 64) (acc : Access) (s : State) : Answers (execPageWalk die part va acc s) := by
  fun_cases execPageWalk <;> exact answers_next _

/-! ### Packets and links of the node -/

theorem execPeerWriteThrough_answers (pkg pa : Nat) (data : List Byte) (release : Option Nat) (s : State) :
    Answers (execPeerWriteThrough pkg pa data release s) := by
  fun_cases execPeerWriteThrough <;> exact answers_next _

theorem execOperationPacket_answers (pkg pa : Nat) (op : PacketOp) (t : Typ) (x y : BitVec 64) (s : State) :
    Answers (execOperationPacket pkg pa op t x y s) := by
  fun_cases execOperationPacket <;> exact answers_next _

theorem execNodeLinkFlit_answers (link : Nat) (f : BitVec 2048) (s : State) : Answers (execNodeLinkFlit link f s) := by
  fun_cases execNodeLinkFlit <;> exact answers_next _

theorem execLinkRetrain_answers (link lanesOk : Nat) (s : State) : Answers (execLinkRetrain link lanesOk s) := by
  fun_cases execLinkRetrain <;> exact answers_next _

theorem execPtpSync_answers (offset : Nat) (s : State) : Answers (execPtpSync offset s) := by
  fun_cases execPtpSync <;> exact answers_next _

/-! ### Errors, heat, clock and power -/

theorem execMemoryScrub_answers (sector found : Nat) (s : State) : Answers (execMemoryScrub sector found s) := by
  fun_cases execMemoryScrub <;> exact answers_next _

theorem execThermalSample_answers (die temp : Nat) (s : State) : Answers (execThermalSample die temp s) := by
  fun_cases execThermalSample <;> exact answers_next _

theorem execThermalHoldExpiry_answers (s : State) : Answers (execThermalHoldExpiry s) := by
  fun_cases execThermalHoldExpiry <;> exact answers_next _

theorem execClockRaiseTimer_answers (s : State) : Answers (execClockRaiseTimer s) := by
  fun_cases execClockRaiseTimer <;> exact answers_next _

theorem execClusterPowerGate_answers (cluster : Nat) (s : State) : Answers (execClusterPowerGate cluster s) := by
  fun_cases execClusterPowerGate <;> exact answers_next _

/-! ### Firefly -/

theorem execFireflyTag_answers (core sched : Nat) (s : State) : Answers (execFireflyTag core sched s) := by
  fun_cases execFireflyTag <;> exact answers_next _

theorem execFireflyRecord_answers (core sched : Nat) (s : State) : Answers (execFireflyRecord core sched s) := by
  fun_cases execFireflyRecord <;> exact answers_next _

/-! ### The log of a debugged partition -/

theorem execWindowAdvanceSnapshot_answers (part : Nat) (s : State) : Answers (execWindowAdvanceSnapshot part s) := by
  fun_cases execWindowAdvanceSnapshot <;> exact answers_next _

/-! ### Loss of power -/

theorem execPowerFailure_answers (write : Option Rpc) (s : State) : Answers (execPowerFailure write s) := by
  fun_cases execPowerFailure <;> exact answers_next _

/-! ### Every instruction and every step -/

/-- The steps of the package that branch have their lemmas above; a request and every other step is one next state; the instructions
of harts and groups are calls of the shared operations. -/
theorem exec_answers (i : Instr) (s : State) : Answers (exec i s) := by
  cases i with
  | variantSwitch => exact execVariantSwitch_answers ..
  | loadRetire => exact execLoadRetire_answers ..
  | storeRetire => exact execStoreRetire_answers ..
  | atomicPerform => exact execAtomicPerform_answers ..
  | nodeReleasePerform => exact execNodeReleasePerform_answers ..
  | ticketRequest => exact execTicketRequest_answers ..
  | groupCommitDecision => exact execGroupCommitDecision_answers ..
  | hartCommitPublish => exact execHartCommitPublish_answers ..
  | serialTokenGrant => exact execSerialTokenGrant_answers ..
  | matrixOpRetire => exact execMatrixOpRetire_answers ..
  | engineCommandRetire => exact execEngineCommandRetire_answers ..
  | scarabRowRequest => exact execScarabRowRequest_answers ..
  | scarabBurst => exact execScarabBurst_answers ..
  | scaddRowUpdate => exact execScaddRowUpdate_answers ..
  | networkCommandFail => exact execNetworkCommandFail_answers ..
  | storageCompletion => exact execStorageCompletion_answers ..
  | storageTimeout => exact execStorageTimeout_answers ..
  | workgroupRetire => exact execWorkgroupRetire_answers ..
  | upshiftQuantumExpiry => exact execUpshiftQuantumExpiry_answers ..
  | allocationSpill => exact execAllocationSpill_answers ..
  | groupRestore => exact execGroupRestore_answers ..
  | userTrapEntry => exact execUserTrapEntry_answers ..
  | preciseStop => exact execPreciseStop_answers ..
  | executionFreeze => exact execExecutionFreeze_answers ..
  | partitionViolation => exact execPartitionViolation_answers ..
  | windowMapValid => exact execWindowMapValid_answers ..
  | windowLineWriteback => exact execWindowLineWriteback_answers ..
  | pageWalk => exact execPageWalk_answers ..
  | peerWriteThrough => exact execPeerWriteThrough_answers ..
  | operationPacket => exact execOperationPacket_answers ..
  | nodeLinkFlit => exact execNodeLinkFlit_answers ..
  | linkRetrain => exact execLinkRetrain_answers ..
  | ptpSync => exact execPtpSync_answers ..
  | memoryScrub => exact execMemoryScrub_answers ..
  | thermalSample => exact execThermalSample_answers ..
  | thermalHoldExpiry => exact execThermalHoldExpiry_answers ..
  | clockRaiseTimer => exact execClockRaiseTimer_answers ..
  | clusterPowerGate => exact execClusterPowerGate_answers ..
  | fireflyTag => exact execFireflyTag_answers ..
  | fireflyRecord => exact execFireflyRecord_answers ..
  | windowAdvanceSnapshot => exact execWindowAdvanceSnapshot_answers ..
  | rv64MemoryAccess => exact execRv64MemoryAccess_answers ..
  | rcRetransmitTimeout => exact execRcRetransmitTimeout_answers ..
  | powerFailure => exact execPowerFailure_answers ..
  | mwaitWake | mwaitTimeout | partCreate | partDestroy | imageLoad | imageUnload | residentStart | memExpose | memUnexpose | queueCreate
  | queueDestroy | queryPartitionState | queryQueueIndices | queryErrorCounters | querySpareStatus | peerSet | storageSet | swap
  | mgmtPowercap | mgmtGate | mgmtUngate | mgmtVcweight | mgmtWindow | mgmtAdminlistAdd | mgmtAdminlistRemove | mgmtGrandmaster
  | mgmtClearcnt | mgmtImage | debugAttach | debugDetach | debugLogSetup | debugLogOn | debugLogOff | debugHalt | debugResume
  | debugAdvance | debugReverse | debugSolo | debugBreakSet | debugBreakClear | debugWaitev | debugGread | debugGwrite | traceSetup
  | traceEnable | traceDrain | traceStatus | replaySetup | replayList | replayRun | replayRelease | badopRequest | innkeeperGrant
  | tailLineWrite | dependenceCounterChange | switchGraceExpiry | watchdogPendingStop | watchdogNoWaypoint | eventQueueEntryWrite
  | gctlResume | gctlStep | gctlHalt | engctlResume | engctlDiscard | windowMap | windowUnmap | upost | shootdownComplete
  | ostlerRegisterWrite | ringHeadAdvance | directoryRead | directoryOwnership | directoryWriteBack | l2Eviction | visibilityWindowStart
  | leaseRebase | packetPromotion | peerLineRead | windowMarker | flitResendTimeout | linkDown | softErrorDetect | unitRemoval
  | coolantFlowLoss | powerCapExceeded | packageReset | traceBufferDrain | partitionSwapExchange | logAutoAdvance | rpcSendOversize
  | rpcSessionLoss | soloTimeout | waitevTimeout | replayRunTimeout | rdmaRead | rdmaWrite | rdmaAtomic | hartInterrupt | rpcSessionOpen =>
    exact answers_next _
  | txB | txE | txA | txS | custom0Illegal =>
    simp only [exec, execTxB, execTxE, execTxA, execTxS, execCustom0Illegal, onHart_answers]
  | xvuint | xvwake | xvfreeze | xvshootPage | xvshootAll =>
    simp only [exec, execXvuint, execXvwake, execXvfreeze, execXvshootPage, execXvshootAll, csrWrite_answers]
  -- What is left are the instructions of a group: each is one call of `perform`.
  | _ =>
    simp only [
      exec, execNop, execBra, execBrx, execJmp, execCall, execRet, execEnrol, execRejoin, execYield, execExit, execWait, execRvinit,
      execRvarrive, execRvwait, execMonitor, execMwait, execFetchw, execSwitchv, execXacq, execXrel, execSvcOstler, execSvcApp, execTrap,
      execHret, execSrd, execSwr, execWmark, execSflagSet, execSflagClr, execSadd, execSsub, execSmul, execSmulh, execSdiv, execSrem,
      execSmin, execSmax, execSand, execSor, execSxor, execSshl, execSshr, execSsra, execScmp, execSsel, execSmovi, execSlea, execSclz,
      execSpop, execSbfx, execSbfi, execVadd, execVsub, execVmul, execVmulh, execVmad, execVdiv, execVmin, execVmax, execVabs, execVneg,
      execVand, execVor, execVxor, execVnot, execVshl, execVshr, execVsra, execVrot, execVcmp, execVsel, execVpop, execVclz, execVbfx,
      execVbfi, execVmov, execVmovi, execVdot4, execPkadd, execPksub, execPkmul, execPkmad, execPksad, execPkavg, execPkmin, execPkmax,
      execPknar, execPkwid, execPermb, execLxch, execLprev, execLscan, execLred, execLpoll, execFadd, execFsub, execFmul, execFfma,
      execFmin, execFmax, execFabs, execFneg, execFcmp, execFclass, execFrnd, execFdiv, execFsqrt, execExp2, execLog2, execRcp, execRsq,
      execCvt, execPand, execPor, execPxor, execPnot, execPmov, execLd, execSt, execLda, execSta, execLdw, execLdx, execStx, execPref,
      execFence, execAtom, execAtoma, execTxbegin, execTxend, execTxabort, execTxstat, execMma, execMmas, execMmab, execLdmeta, execTkacq,
      execTkrel, execAccld, execAccst, execAccz, execOpfence, execCopy, execCopyt, execGather, execScadd, execDecomp, execNput, execNget,
      execNatom, execSread, execSInt, execScalar, execVInt, execBitwise, execVFloat, execVector, execCompare, execPred, jump, jumpReg,
      execLoad, execStore, execAtomic, matOp, engIssue, ↓perform_answers]

/-- A turn performs one instruction, or it is a next state already. -/
theorem step_runs (s : State) : Runs s := by
  unfold Runs
  fun_cases step with
  | case1 i t _ => exact exec_answers i t
  | case2 t _ => exact answers_next t

end Sys2Proof.Machine

namespace Sys2Proof

/-- Settles O58: every instruction has a next state, hence every step has one. -/
theorem nothingStops : Obligations.NothingStops := ⟨Machine.exec_answers, Machine.step_runs⟩

end Sys2Proof
end

section
/-! SUPPORT. Settles O60: what stands after reset (R16, R94, R294, R357, R445). -/

namespace Sys2Proof

/-- Settles O60: every map, list and record of the reset state is empty, and its counters and settings are those of the rules. -/
theorem resetLeaves : Obligations.ResetLeaves := by
  have nothingKept : Memory.wf Machine.State.reset.mem.bytes = true := by decide
  have noEntry : ∀ n, Machine.State.reset.dirEnt n = { state := 0, sharers := 0, owner := 0, watch := false } := fun _ => rfl
  exact ⟨nothingKept, rfl, rfl, rfl, rfl, rfl, rfl, rfl, rfl, rfl, rfl, rfl, rfl, rfl, rfl, noEntry⟩

end Sys2Proof
end

section
/-! SUPPORT. Settles O57: what a step performs at each kind of turn (R19, R24, R260, R340, R351), read from the agenda once the state has
settled and no queued request goes first. -/

namespace Sys2Proof.Machine

open Sys2Proof.Claims

/-! ### From a turn to the step -/

theorem step_of_run {s t : State} {i : Instr} (h : s.turn exec = .run i t) : step s = exec i t := by
  rw [step, h]

theorem step_of_done {s t : State} (h : s.turn exec = .done t) : step s = .next t := by
  rw [step, h]

/-- With no queued request that may go, the agenda gives the turn (R354). -/
theorem State.turn_of_no_queued {s : State} (h : s.settleAll.nextQueued [] s.settleAll.rpc.queue = none) (ex : Exec) :
    s.turn ex = s.settleAll.agendaTurn ex := by
  simp only [State.turn, h]

theorem State.nextTurn_cons {s : State} {t : Turn} {rest : List Turn} (h : s.agenda = t :: rest) :
    s.nextTurn = (t, { s with agenda := rest }) := by
  simp only [State.nextTurn, h]

/-! ### Which group of a scheduler -/

/-- A group that can issue gives its turn to the one that has waited longest of those that can issue too (R19). -/
theorem State.pick_waited {s : State} {ex : Exec} {turn gk : Nat} (hi : s.issues ex turn = true)
    (hf : (s.waitedLonger turn).find? (s.issues ex) = some gk) : s.pick ex turn = gk := by
  simp only [State.pick, hi, hf, if_true, Option.getD_some]

theorem State.pick_self {s : State} {ex : Exec} {turn : Nat} (h : s.issues ex turn = false ∨ (s.waitedLonger turn).find? (s.issues ex) = none) :
    s.pick ex turn = turn := by
  rcases h with hi | hf
  · simp only [State.pick, hi, Bool.false_eq_true, if_false]
  · simp only [State.pick, hf, Option.getD_none, ite_self]

/-! ### The turn of a group -/

/-- The code word of a group whose fetch translates to a line that its partition may reach: it is read from a loop buffer as it
stands, else at the home of the line (R15, R43, R142). -/
theorem State.codeWord_of_ok {s f w : State} {gk pc pa : Nat} {g : Group} {im : Image} {v : Variant} (him : s.image? g.part g.image = some im)
    (hv : s.gvar? g = some v) (hx : s.xlate (clusterOf (coreOf gk)) g.part .fetch ((im.base + v.code + pc) % 2 ^ 56) (coreOf gk) = (.ok pa, f))
    (ht : f.tagBad g.part pa = false) (hw : (if f.looped gk g pc = true then f else fetchedAt f g.part none pa) = w) :
    s.codeWord gk g pc = ((ofBytes (w.readBytes (w.locate pa) (min 16 (32 - pc % 32))), [], false), w) := by
  have home : (if (f.looped gk g pc || (kget f.coh.winLines (pa / 256)).isSome) = true then f else (f.touchTag g.part pa).homeRead none pa) =
      w := by
    rw [← hw]
    cases f.looped gk g pc <;> rfl
  simp only [State.codeWord, him, hv, hx, ht, Bool.false_eq_true, if_false, home]

/-- Where a running group with an eligible lane stands, within its code and at a word that it can read (R24). -/
theorem State.stand?_of_running {s w : State} {gk word : Nat} {g : Group} {v : Variant} (hg : s.group? gk = some g) (hr : g.st = .running)
    (hx : g.txend = none) (hs : g.stopEv = none) (he : g.eligible ≠ 0) (hv : s.gvar? g = some v) (hpc : g.pcMin g.eligible < v.csz)
    (hw : s.codeWord gk g (g.pcMin g.eligible) = ((word, [], false), w)) :
    s.stand? gk = some ({ g := g, pc := g.pcMin g.eligible, act := g.lanesAt g.eligible (g.pcMin g.eligible), word := word, faults := [], csz := v.csz }, w) := by
  have runs : (g.st != .running || g.txend.isSome || g.stopEv.isSome) = false := by simp [hr, hx, hs]
  simp only [State.stand?, hg, runs, Bool.false_eq_true, if_false, if_neg he, hv, Option.map_some, Option.getD_some, if_neg (Nat.not_le.2 hpc), hw,
    List.map_nil]

/-- A group at whose word nothing is due, and which decodes, performs the instruction there (R24, R416). -/
theorem State.turnOf_of_stand {s w : State} {gk n : Nat} {g : Group} {t : Stand} {i : Instr} (hg : s.group? gk = some g)
    (ht : s.stand? gk = some (t, w)) (hi : t.ins = .ok i n) (hf : t.faults = []) (hv : t.viol = false) (ha : t.g.arrived = none)
    (hp : t.g.dogPending = false) (hw : t.g.dogWaypoint = false) (hs : w.stopDue t = false) (hc : w.causesDue gk t.g (some t) = []) :
    s.turnOf gk = .run i w := by
  simp [State.turnOf, hg, ht, hi, hf, hv, ha, hp, hw, hs, hc, Stand.wordFault]

/-- The turn of the agenda that a group takes, its own or that of a group of its scheduler. -/
theorem State.agendaTurn_group {s w : State} {ex : Exec} {turn gk : Nat} {rest : List Turn} {i : Instr} (ha : s.agenda = .group turn :: rest)
    (hp : ({ s with agenda := rest } : State).pick ex turn = gk) (hm : ({ s with agenda := rest, cur := .group gk } : State).mayIssue gk = true)
    (ht : ({ s with agenda := rest, cur := .group gk } : State).turnOf gk = .run i w) : s.agendaTurn ex = .run i w := by
  simp only [State.agendaTurn, State.nextTurn_cons ha, State.groupTurn, hp, hm, ht, Bool.not_true, Bool.false_eq_true, if_false]

/-! ### The turn of a hart -/

/-- Two bytes of an instruction of a hart, read at the home of their line (R301, R422). -/
theorem State.hartParcel_of_ok {s f w : State} {h pa : Nat} {va : BitVec 64} (hw : (s.hart h).wild .xfetch va.toNat = false)
    (hx : s.hartXlate h .xfetch va.toNat = (.ok pa, f))
    (ht : f.hartPart (f.hart h) .xfetch < 64 → f.tagBad (f.hartPart (f.hart h) .xfetch) pa = false)
    (hf : fetchedAt f (f.hartPart (f.hart h) .xfetch) (f.hart h).slot pa = w) (hp : w.anyPoison (w.locate pa) 2 = false) :
    s.hartParcel h va = .word (BitVec.ofNat 32 (ofBytes (w.readBytes (w.locate pa) 2))) w := by
  have tag : (decide (f.hartPart (f.hart h) .xfetch < 64) && f.tagBad (f.hartPart (f.hart h) .xfetch) pa) = false := by
    by_cases hl : f.hartPart (f.hart h) .xfetch < 64
    · simp [ht hl]
    · simp [hl]
  have home : (if (kget f.coh.winLines (pa / 256)).isSome = true then f
      else (f.touchTag (f.hartPart (f.hart h) .xfetch) pa).homeRead (f.hart h).slot pa) = w := hf
  simp only [State.hartParcel, hw, hx, tag, home, hp, Bool.false_eq_true, if_false]

/-- The two bytes that a place holds are a number below 2^16. -/
theorem State.parcel_lt (s : State) (p : Place) : ofBytes (s.readBytes p 2) < 2 ^ 16 := by
  have a := (s.readByte (p.add 0)).isLt
  have b := (s.readByte (p.add 1)).isLt
  simp only [State.readBytes, List.range_succ, List.range_zero, List.nil_append, List.cons_append, List.map_cons, List.map_nil, ofBytes]
  omega

/-- A word whose low two bits are not both set is none of the custom-0 opcode (R260). -/
theorem decodeHart_of_compressed {w : Nat} (h : w % 4 ≠ 3) : decodeHart w = none := by
  have opc : fieldAt w 0 7 ≠ 0x0B := by
    simp only [fieldAt]
    omega
  simp [decodeHart, opc]

/-- Two parcels side by side are one word. -/
theorem ofNat_or_shiftLeft {lo hi : Nat} (hl : lo < 2 ^ 16) (hh : hi < 2 ^ 16) :
    BitVec.ofNat 32 lo ||| BitVec.ofNat 32 hi <<< 16 = BitVec.ofNat 32 (lo + 2 ^ 16 * hi) := by
  apply BitVec.eq_of_toNat_eq
  have fits : hi <<< 16 < 2 ^ 32 := by rw [Nat.shiftLeft_eq]; omega
  rw [BitVec.toNat_or, BitVec.toNat_shiftLeft, BitVec.toNat_ofNat, BitVec.toNat_ofNat, BitVec.toNat_ofNat, Nat.mod_eq_of_lt (by omega : lo < 2 ^ 32),
    Nat.mod_eq_of_lt (by omega : hi < 2 ^ 32), Nat.mod_eq_of_lt fits, Nat.mod_eq_of_lt (by omega), Nat.lor_comm, ← Nat.shiftLeft_add_eq_or_of_lt hl,
    Nat.shiftLeft_eq, Nat.add_comm, Nat.mul_comm]

theorem State.hartFetch_of_short {s w : State} {h : Nat} {lo : BitVec 32} (hl : s.hartParcel h (s.hart h).pc = .word lo w) (hc : lo.toNat % 4 ≠ 3) :
    s.hartFetch h = .word lo w := by
  simp only [State.hartFetch, hl, bne_iff_ne.2 hc, if_true]

theorem State.hartFetch_of_long {s w z : State} {h : Nat} {lo hi : BitVec 32} (hl : s.hartParcel h (s.hart h).pc = .word lo w) (hc : lo.toNat % 4 = 3)
    (hh : w.hartParcel h ((w.hart h).pc + 2) = .word hi z) : s.hartFetch h = .word (lo ||| hi <<< 16) z := by
  simp only [State.hartFetch, hl, hc, hh, bne_self_eq_false, Bool.false_eq_true, if_false]

section
variable {s t : State} {h : Nat} {rest : List Turn} {w : BitVec 32} (ha : s.agenda = .hart h :: rest)
  (hr : ({ s with agenda := rest, cur := .hart h } : State).hartRuns h = true)
  (hf : ({ s with agenda := rest, cur := .hart h } : State).hartFetch h = .word w t)
include ha hr hf

/-- The turn of a hart that fetches a custom-0 instruction (R260). -/
theorem State.agendaTurn_hart_custom (ex : Exec) {i : Instr} (hd : decodeHart w.toNat = some i) : s.agendaTurn ex = .run i t := by
  simp only [State.agendaTurn, State.nextTurn_cons ha, hr, hf, hd, Bool.not_true, Bool.false_eq_true, if_false]

/-- And of one that fetches another word (R340). -/
theorem State.agendaTurn_hart_base (ex : Exec) (hd : decodeHart w.toNat = none) : s.agendaTurn ex = .done (t.hartBase h w) := by
  simp only [State.agendaTurn, State.nextTurn_cons ha, hr, hf, hd, Bool.not_true, Bool.false_eq_true, if_false]

end

/-! ### The other turns -/

theorem State.agendaTurn_rpc {s : State} {ex : Exec} {r : Rpc} {rest : List Turn} (ha : s.agenda = .rpc r :: rest)
    (hl : ({ s with agenda := rest, cur := .none } : State).rpcLive r = true) (hh : ({ s with agenda := rest, cur := .none } : State).rpcHeld r = false)
    (hq : s.rpc.queue = []) : s.agendaTurn ex = .run (rpcInstr r) { s with agenda := rest, cur := .none } := by
  simp [State.agendaTurn, State.nextTurn_cons ha, hl, hh, hq]

theorem State.agendaTurn_event {s : State} {ex : Exec} {i : Instr} {rest : List Turn} (ha : s.agenda = .event i :: rest) :
    s.agendaTurn ex = .run i { s with agenda := rest, cur := .none } := by
  simp only [State.agendaTurn, State.nextTurn_cons ha]

theorem State.agendaTurn_elapse {s : State} {ex : Exec} {n : Nat} {rest : List Turn} (ha : s.agenda = .elapse n :: rest) :
    s.agendaTurn ex = .done { s with agenda := rest, cur := .none, clock := { s.clock with now := s.clock.now + n } } := by
  simp only [State.agendaTurn, State.nextTurn_cons ha]
  rfl

end Sys2Proof.Machine

namespace Sys2Proof

open Sys2Proof.Machine Sys2Proof.Claims

/-- Settles O57: each kind of turn gives the instruction that it lays out, and `step` is `exec` of it. -/
theorem stepRunsDecoded : Obligations.StepRunsDecoded := by
  intro s rest x hq
  have turn : s.turn exec = x.agendaTurn exec := State.turn_of_no_queued hq exec
  refine ⟨?group, ?hart, ?pick, ?request, ?event, ?elapse⟩
  case group =>
    intro gk₀ gk pa n g im v i f u pc w t ha hp hm hg hr hx hs he harr him hv hpc hxl htag hd hdog hway hstop hcause
    have stand : u.stand? gk = some (t, w) :=
      State.stand?_of_running hg hr hx hs he hv hpc (State.codeWord_of_ok him hv hxl htag rfl)
    have ins : t.ins = .ok i n := by
      rw [Stand.ins, if_neg (Nat.not_le.2 hpc)]
      exact hd
    exact step_of_run (turn.trans (State.agendaTurn_group ha hp hm (State.turnOf_of_stand hg stand ins rfl rfl harr hdog hway hstop hcause)))
  case hart =>
    intro h pa f u pc part w lo ha hr hw hx ht hp
    have low := State.hartParcel_of_ok hw hx ht rfl hp
    have lo_lt : lo < 2 ^ 16 := State.parcel_lt _ _
    have lo_toNat : (BitVec.ofNat 32 lo).toNat = lo := by
      rw [BitVec.toNat_ofNat, Nat.mod_eq_of_lt (by omega)]
    constructor
    · intro hc
      have fetch := State.hartFetch_of_short low (by rw [lo_toNat]; exact hc)
      exact step_of_done (turn.trans (State.agendaTurn_hart_base ha hr fetch exec (by rw [lo_toNat]; exact decodeHart_of_compressed hc)))
    · intro qa y part' z hc hpc hw' hx' ht' hp' word
      have high := State.hartParcel_of_ok hw' hx' ht' rfl hp'
      have hi_lt := State.parcel_lt z (z.locate qa)
      have fetch := State.hartFetch_of_long low (by rw [lo_toNat]; exact hc) (by rw [hpc]; exact high)
      rw [ofNat_or_shiftLeft lo_lt hi_lt] at fetch
      have word_toNat : (BitVec.ofNat 32 word).toNat = word := by
        rw [BitVec.toNat_ofNat, Nat.mod_eq_of_lt (by omega)]
      exact ⟨fun i hi => step_of_run (turn.trans (State.agendaTurn_hart_custom ha hr fetch exec (by rw [word_toNat]; exact hi))),
        fun hn => step_of_done (turn.trans (State.agendaTurn_hart_base ha hr fetch exec (by rw [word_toNat]; exact hn)))⟩
  case pick =>
    exact fun t => ⟨fun _ hi hf => State.pick_waited hi hf, State.pick_self⟩
  case request =>
    exact fun r ha hl hh hq => step_of_run (turn.trans (State.agendaTurn_rpc ha hl hh hq))
  case event =>
    exact fun i ha => step_of_run (turn.trans (State.agendaTurn_event ha))
  case elapse =>
    exact fun n ha => step_of_done (turn.trans (State.agendaTurn_elapse ha))

end Sys2Proof
end

section
/-! SUPPORT. Refutes O49: the translation of a write-back can itself take the copy away. Where the leaf entry that it reaches lies in the
sector written back, and that sector is a peer package's, the companion word is set by dropping every copy of the sector and not at the
home directory (R89, R324): the entry stays in M with no copy left, while the statement asks for state I. -/

namespace Sys2Proof.Machine

/-- A sector of which an L1 holds no copy has none to drop. -/
theorem State.l1Drop_of_absent {s : State} {core sec : Nat} (h : s.l1 core sec = 0) : s.l1Drop core sec = s := by
  simp only [State.l1Drop, h]

/-- An M or O copy is written back with its address translated (R85). -/
theorem State.l1WriteBack_of_dirty {s : State} {core sec : Nat} (h : 3 ≤ s.l1 core sec) :
    s.l1WriteBack core sec = (s.wbXlate sec none).l1Drop core sec := by
  simp only [State.l1WriteBack, h, if_true]

/-! ### The counterexample -/

/-- The first sector of package 1, as the page table that maps virtual address 0x100000 onto itself. -/
def tableSector : Nat := 2 ^ 49 / 64

/-- Packages 0 and 1 are present; core 0 of package 0 holds the sector in M, as the directory has it, and the package TLB the leaf by which
core 0 named the line, for which the cluster TLB has no entry. -/
def tableHeldDirty : State :=
  { State.reset with
    clock := { present := 3 },
    coh := { dir := [(tableSector, { state := 4, sharers := 1, owner := 0 })], l1 := [(l1Key 0 tableSector, 4)],
             tags := [(0, [{ part := 0, vline := 0x100000 / 256, pline := tableSector / 4 }])] },
    tlbs := [(pkgTlb 0x100000, [{ part := 0, lvl := 0, page := 0x100000 / 2 ^ 16, pte := leafOf (2 ^ 49) 15, leaf := 2 ^ 49, wr := true }])] }

/-- The translation sets the companion word of the leaf, so that the copy goes and the directory entry stays as it was (R324). -/
theorem tableHeldDirty_translated :
    let u := tableHeldDirty.wbXlate tableSector none
    u.l1 0 tableSector = 0 ∧ u.anyCopy tableSector = false ∧ (u.dirEnt tableSector).state = 4 := by decide +kernel

/-- So the write-back is over with the translation. -/
theorem tableHeldDirty_writeBack :
    exec (.directoryWriteBack 0 tableSector) tableHeldDirty = .next (tableHeldDirty.wbXlate tableSector none) := by
  have dirty : 3 ≤ tableHeldDirty.l1 0 tableSector := by decide +kernel
  rw [exec, execDirectoryWriteBack, State.l1WriteBack_of_dirty dirty, State.l1Drop_of_absent tableHeldDirty_translated.1]

end Sys2Proof.Machine

namespace Sys2Proof

open Machine

/-- Refutes O49: after the write-back of `tableSector` from `tableHeldDirty` the directory holds it in M, and no L1 has a copy. -/
theorem not_cachesAndNode : ¬ Obligations.CachesAndNode := by
  rintro ⟨⟨_, _, _, _, writeBack, _⟩, _⟩
  obtain ⟨u, hu, _, _, _, state⟩ := writeBack tableHeldDirty 0 tableSector
  obtain ⟨_, noCopy, owned⟩ := tableHeldDirty_translated
  have held : tableHeldDirty.l1 0 tableSector = 4 := by decide +kernel
  rw [tableHeldDirty_writeBack] at hu
  obtain rfl := Host.Outcome.next.inj hu
  have idle := state (Or.inr held)
  rw [owned, noCopy] at idle
  exact absurd idle (by decide)

end Sys2Proof
end

section
/-! SUPPORT. Refutes O50: a corrected error that a scrub finds within 1 ms of one recorded of the same unit adds to the count of that
record (R404). The record names the partition of the line in which the first error was found, and the statement asks for one that names
none. -/

namespace Sys2Proof.Machine

/-- A scrub that finds a corrected error notes it for the unit that holds the sector, and for no partition (R402). -/
theorem exec_memoryScrub_corrected {s : State} {sec : Nat} (hg : s.isGone (64 * sec) = false) (hp : s.isPeer (64 * sec) = false) :
    exec (.memoryScrub sec 1) s =
      .next (s.note 2 0 (s.unitOf (.glob (64 * sec))).1 (s.unitOf (.glob (64 * sec))).2 none (64 * sec) 1) := by
  simp only [exec, execMemoryScrub, hg, hp, Bool.or_false, Bool.false_eq_true, if_false]

/-- Where a record of the last millisecond takes an event up, none is added: the records name the partitions that they named (R404). -/
theorem State.record_parts_of_folds (s : State) {kind cls unit addr : Nat} (sev : Nat) (part : Option Nat) (n : Nat) (detail : BitVec 256)
    (h : s.porter.recs.any (fun r => r.folds s.clock.now kind cls unit addr) = true) :
    (s.record kind sev cls unit part addr n detail).porter.recs.map (·.part) = s.porter.recs.map (·.part) := by
  have counted : ∀ r : ErrRec, (if r.folds s.clock.now kind cls unit addr then { r with count := r.count + n } else r).part = r.part := fun r => by
    split <;> rfl
  simp only [State.record, apply_ite Porter.recs, ite_self, h, if_true, State.setPorter_porter, List.map_map, Function.comp_def, counted]

theorem State.note_parts_of_folds (s : State) {kind cls unit addr : Nat} (sev : Nat) (part : Option Nat) (n : Nat)
    (h : s.porter.recs.any (fun r => r.folds s.clock.now kind cls unit addr) = true) :
    (s.note kind sev cls unit part addr n).porter.recs.map (·.part) = s.porter.recs.map (·.part) :=
  State.record_parts_of_folds s.drawWide.2 sev part n s.drawWide.1 h

/-! ### The counterexample -/

/-- After reset, with the first line of the HBM4E in use by partition 0. -/
def lineInUse : State := { State.reset with mem := { tags := [(0, 0)] } }

/-- Then ECC has corrected an error in that line, and the record of it names partition 0. -/
def lineCorrected : State := lineInUse.note 2 0 3 0 (some 0) 0 1

/-- It is the machine that makes this record (R401, R403). -/
theorem exec_softErrorDetect_lineInUse : exec (.softErrorDetect (.dram 0) true) lineInUse = .next lineCorrected := by
  have unit : lineInUse.siteUnit (.dram 0) = (3, 0, some 0, 0) := by decide +kernel
  simp only [exec, execSoftErrorDetect, unit]
  rfl

theorem lineCorrected_parts : lineCorrected.porter.recs.map (·.part) = [some 0] := by decide +kernel

/-- A further corrected error of that memory stop folds into the record. -/
theorem lineCorrected_folds : lineCorrected.porter.recs.any (fun r => r.folds lineCorrected.clock.now 2
    (lineCorrected.unitOf (.glob (64 * 0))).1 (lineCorrected.unitOf (.glob (64 * 0))).2 (64 * 0)) = true := by decide +kernel

end Sys2Proof.Machine

namespace Sys2Proof

open Machine

/-- Refutes O50: a scrub of the line of `lineCorrected` finds a corrected error in the same millisecond, and every record that stands
after it still names partition 0. -/
theorem not_porterActions : ¬ Obligations.PorterActions := by
  rintro ⟨⟨_, _, _, _, _, _, _, _, _, scrub⟩, _⟩
  have here : lineCorrected.isGone (64 * 0) = false ∧ lineCorrected.isPeer (64 * 0) = false := by decide +kernel
  obtain ⟨⟨u, hu, _, r, hr, _, unnamed, _⟩, _⟩ := (scrub lineCorrected 0).2 here.1 here.2
  rw [exec_memoryScrub_corrected here.1 here.2] at hu
  have named : r.part ∈ lineCorrected.porter.recs.map (·.part) := by
    rw [← State.note_parts_of_folds lineCorrected 0 none 1 lineCorrected_folds, Host.Outcome.next.inj hu]
    exact List.mem_map_of_mem hr
  rw [lineCorrected_parts, unnamed] at named
  exact absurd named (by decide)

end Sys2Proof
end

section
/-! SUPPORT. Refutes O53: the write that clears the header of a new partition's fault ring can meet memory that has left the package. It is
then a consumption of poison by that partition (R404, R425), so that the partition does not stand exactly as the request described it. -/

namespace Sys2Proof.Machine

/-! ### What the service answers -/

/-- Outside recovery a request that no ground refuses is performed (R353, R446). -/
theorem State.judge_of_grounds {s : State} {l : List Ground} (r : Rpc) (run : State → State) (hr : s.porter.recovery = false)
    (hl : ∀ g ∈ l, g.1 = false) : s.judge r l run = run s := by
  have none_holds : l.filter (·.1) = [] := List.filter_eq_nil_iff.2 (fun g hg => by simp [hl g hg])
  simp only [State.judge, hr, Bool.false_and, Bool.false_eq_true, if_false, none_holds, List.map_nil, List.dedup_nil]

/-- A PART_CREATE acts on no partition of its header, so that no log counts its reply (R373). -/
theorem State.ok_parts {s : State} {r : Rpc} (ho : r.opcode = 0x0001) (res : List (BitVec 64)) : (s.ok r res).parts = s.parts := by
  unfold State.ok State.reply
  cases kget s.rpc.sessions r.session with
  | none => rfl
  | some ses => cases ses with | mk gid port err => cases err <;> simp [ho]

/-- Where no number is in use, the one that is drawn is taken. -/
theorem State.freshNum_of_unused (s : State) (n : Nat) :
    s.freshNum (n + 1) [] = (some (s.draw.1.toNat % (n + 1)), s.draw.2) := by
  simp [State.freshNum]

/-! ### PART_CREATE under a root of the host -/

theorem foldl_modHart_parts (l : List Nat) (f : Hart → Hart) (s : State) :
    (l.foldl (fun (s : State) h => s.modHart h f) s).parts = s.parts := by
  induction l generalizing s with
  | nil => rfl
  | cons h l ih => exact (ih _).trans rfl

/-- With a root of the host's and no service ring, the partition is entered under its tag, and the header of its fault ring is cleared
once the ring translates (R328, R355). -/
theorem exec_partCreate_parts {s x y : State} {r : Rpc} {p : Part} {tag : Nat} (hn : s.porter.recovery = false)
    (hc : ∀ g ∈ common r (fun n => n == 34), g.1 = false) (ha : s.isAdmin r = true) (hb : ∀ g ∈ s.createBad r, g.1 = false)
    (hf : s.freshNum 64 (s.parts.map (·.1)) = (some tag, x)) (hroot : r.num 16 ≠ 0) (hp : s.newPart r (r.num 16) = p) (hs : p.sring = none)
    (hreach : (x.setPart tag p).reach tag (ringSpan p.fring).1 (ringSpan p.fring).2 .innWrite = (true, y)) :
    ∃ v : State, exec (.partCreate r) s = .next (v.ok r [BitVec.ofNat 64 tag, BitVec.ofNat 64 (r.num 16)]) ∧
      v.parts = ((y.hwPut tag p.fring.base (toBytes 64 0)).getD y).parts := by
  have grounds : ∀ g ∈ common r (fun n => n == 34) ++ [(!s.isAdmin r && !s.porter.recovery, 5, none)] ++ s.createBad r, g.1 = false := by
    simp only [List.mem_append, List.mem_singleton]
    rintro g ((hg | rfl) | hg)
    · exact hc g hg
    · simp [ha]
    · exact hb g hg
  have given : (r.num 16 == 0) = false := by simpa using hroot
  have performed : exec (.partCreate r) s = execPartCreate r s := rfl
  refine ⟨_, ?_, foldl_modHart_parts (setBits p.apps) (fun k => { k with part := some tag }) _⟩
  rw [performed, execPartCreate, State.admin, State.judge_of_grounds r _ hn grounds, hf]
  simp only [if_neg hroot, hp]
  simp only [given, hs, hreach, Bool.false_eq_true, if_false, Bool.not_true]

/-! ### The counterexample -/

/-- Tables that map the first 512 MiB of virtual addresses onto the start of the capacity range (R319, R321). -/
def capacityTables : List (Nat × BitVec 64) :=
  [(0x400000, BitVec.ofNat 64 ((0x800000 / 512) * 2 ^ 14 + 1)), (0x800000, leafOf 0x10000000000 15)]

/-- A package whose capacity channel 0 has been removed (R405), with those tables and a session of the ADMIN class. -/
def channelLost : State :=
  capacityTables.foldl (fun (s : State) e => s.putBytes (.glob e.1) (toBytes 8 e.2.toNat))
    { State.reset with porter := { State.reset.porter with removed := [(4, 0)], admins := [7] }, rpc := { sessions := [(1, { gid := 7, port := 0 })] } }

/-- A PART_CREATE under that root for core 0, with its fault ring in the frame that is lost. -/
def createOnLost : Rpc :=
  { session := 1, hdr := pack 128 [(32, 4, 1), (36, 12, 272), (48, 16, 1)],
    body := [7, 0, 0, 0, 0, 0, 0, 0, 1, 0, 0, 0, 1, 0, 0, 0, 0x400000, 0, 0x100040, 6, 0, 0, 0, 1, 0, 1, 0, 0, 0, 0, 4096, 1000, 10000, 1] }

/-- The partition that it describes, and the tag that it gets: the spec does not say which (log 4). -/
def describedPart : Part := channelLost.newPart createOnLost 0x400000
def drawnTag : Nat := channelLost.draw.1.toNat % 64

/-- The package with the partition under a tag, and after the test that its fault ring translates. -/
def entered (tag : Nat) : State := channelLost.draw.2.setPart tag describedPart
def ringTested (tag : Nat) : Bool × State := (entered tag).reach tag (ringSpan describedPart.fring).1 (ringSpan describedPart.fring).2 .innWrite

/-- Under every tag the ring translates, and clearing its header counts a consumption of poison. -/
theorem ringTested_consumes : ∀ tag, tag < 64 → (ringTested tag).1 = true ∧
    ((((ringTested tag).2.hwPut tag describedPart.fring.base (toBytes 64 0)).getD (ringTested tag).2).part? tag).map (·.poisoned) = some 1 := by
  decide +kernel

/-- The request is one that the service performs, with that tag. -/
theorem createOnLost_performed : ∃ v : State, exec (.partCreate createOnLost) channelLost =
      .next (v.ok createOnLost [BitVec.ofNat 64 drawnTag, BitVec.ofNat 64 0x400000]) ∧ (v.part? drawnTag).map (·.poisoned) = some 1 := by
  obtain ⟨reached, consumed⟩ := ringTested_consumes drawnTag (Nat.mod_lt _ (by decide))
  obtain ⟨v, hv, parts⟩ := exec_partCreate_parts (s := channelLost) (r := createOnLost) (p := describedPart) (y := (ringTested drawnTag).2)
    (by decide +kernel) (by decide +kernel) (by decide +kernel) (by decide +kernel) (channelLost.freshNum_of_unused 63) (by decide +kernel)
    (by decide +kernel) (by decide +kernel) (Prod.ext reached rfl)
  refine ⟨v, hv, ?_⟩
  rw [State.part?, parts]
  exact consumed

theorem createOnLost_wellMade : Claims.WellMade channelLost createOnLost 34 := by
  constructor <;> decide +kernel

end Sys2Proof.Machine

namespace Sys2Proof

open Machine

/-- Refutes O53: `createOnLost` creates a partition in `channelLost` that has one poisoned access against it, which the request does not
describe. -/
theorem not_requests : ¬ Obligations.Requests := by
  rintro ⟨⟨create, _⟩, _⟩
  obtain ⟨reached, _⟩ := ringTested_consumes drawnTag (Nat.mod_lt _ (by decide))
  have noServiceRing : describedPart.sring = none := by decide +kernel
  obtain ⟨_, _, ⟨v, hv, stands, _⟩, _⟩ := create channelLost createOnLost drawnTag 0x400000 channelLost.draw.2 channelLost.draw.2 createOnLost_wellMade
    (by decide +kernel) (by decide +kernel) (channelLost.freshNum_of_unused 63) ⟨by decide +kernel, rfl⟩
    (fun _ => ⟨reached, fun g hg => absurd (noServiceRing.symm.trans hg) (by simp)⟩)
  obtain ⟨u, hu, consumed⟩ := createOnLost_performed
  have opcode : createOnLost.opcode = 0x0001 := by decide +kernel
  have same : v.parts = u.parts := by
    have answered := congrArg State.parts (Host.Outcome.next.inj (hv.symm.trans hu))
    rwa [State.ok_parts opcode, State.ok_parts opcode] at answered
  rw [State.part?, ← same, ← State.part?, stands] at consumed
  have none_yet : describedPart.poisoned = 0 := by decide +kernel
  exact absurd (none_yet.symm.trans (Option.some.inj consumed)) (by decide)

end Sys2Proof
end

section
/-! SUPPORT. What the path of a read and a translation can change: caches, directories, TLBs, signatures and the companion words of
leaf entries (R84 to R91, R301, R324). Everything else of the package stays, and of the groups all but the TRIG of a watch (R218). -/

namespace Sys2Proof

/-! ### Finite maps -/

theorem kget_mem {α : Type} {m : KMap α} {k : Nat} {x : α} (h : kget m k = some x) : (k, x) ∈ m := by
  induction m with
  | nil => simp [kget] at h
  | cons e r ih =>
    obtain ⟨a, y⟩ := e
    by_cases hk : a = k
    · simp only [kget, hk, if_true, Option.some.injEq] at h
      simp [hk, h]
    · simp only [kget, hk, if_false] at h
      exact List.mem_cons_of_mem _ (ih h)

/-- A map of the records that keeps their keys maps what is found. -/
theorem kget_map {α β : Type} (f : Nat × α → Nat × β) (hf : ∀ e, (f e).1 = e.1) (m : KMap α) (k : Nat) :
    kget (m.map f) k = (kget m k).map (fun x => (f (k, x)).2) := by
  induction m with
  | nil => rfl
  | cons e r ih =>
    obtain ⟨a, y⟩ := e
    have key : f (a, y) = (a, (f (a, y)).2) := Prod.ext (hf _) rfl
    rw [List.map_cons, key]
    by_cases hk : a = k
    · subst hk
      simp [kget]
    · simp only [kget, hk, if_false, ih]

theorem kset_mem {α : Type} {m : KMap α} {k : Nat} {x : α} {e : Nat × α} (h : e ∈ kset m k x) : e = (k, x) ∨ e ∈ m :=
  kset_vals m k x h

end Sys2Proof

namespace Sys2Proof.Machine

/-- A group that is found before is found after, where all but TRIG is kept. -/
theorem group_of_unrung {s t : State} {k : Nat} (h : (t.group? k).map Group.unrung = (s.group? k).map Group.unrung) {g : Group}
    (hg : s.group? k = some g) : ∃ g', t.group? k = some g' ∧ g'.unrung = g.unrung := by
  rwa [hg, Option.map_some, Option.map_eq_some_iff] at h

/-- What the path of a read can change. -/
structure CacheEffect (s t : State) : Prop where
  rest : { t with clock := s.clock, mem := s.mem, coh := s.coh, tlbs := s.tlbs, groups := s.groups, harts := s.harts, tix := s.tix } = s
  clock : { t.clock with free := s.clock.free } = s.clock
  win : t.coh.winLines = s.coh.winLines
  gone : t.mem.gone = s.mem.gone
  poison : ∀ x ∈ t.mem.poison, x ∈ s.mem.poison
  groups : ∀ k, (t.group? k).map Group.unrung = (s.group? k).map Group.unrung
  trig : ∀ k g, s.group? k = some g → g.watch.trig = true → ∃ g', t.group? k = some g' ∧ g'.watch.trig = true

namespace CacheEffect

variable {s t u : State}

theorem refl (s : State) : CacheEffect s s := ⟨rfl, rfl, rfl, rfl, fun _ h => h, fun _ => rfl, fun _ g hg h => ⟨g, hg, h⟩⟩

theorem trans (h : CacheEffect s t) (k : CacheEffect t u) : CacheEffect s u where
  rest := (congrArg (fun x : State => { x with
    clock := s.clock, mem := s.mem, coh := s.coh, tlbs := s.tlbs, groups := s.groups, harts := s.harts, tix := s.tix }) k.rest).trans h.rest
  clock := (congrArg (fun x : Clock => { x with free := s.clock.free }) k.clock).trans h.clock
  win := k.win.trans h.win
  gone := k.gone.trans h.gone
  poison := fun x hx => h.poison x (k.poison x hx)
  groups := fun j => (k.groups j).trans (h.groups j)
  trig := fun j g hg rung => by
    obtain ⟨g', hg', rung'⟩ := h.trig j g hg rung
    exact k.trig j g' hg' rung'

theorem foldl {α : Type} {f : State → α → State} (hf : ∀ s a, CacheEffect s (f s a)) (l : List α) (s : State) :
    CacheEffect s (l.foldl f s) := by
  induction l generalizing s with
  | nil => exact refl s
  | cons a r ih => exact (hf s a).trans (ih _)

theorem ite {c : Prop} [Decidable c] (ht : CacheEffect s t) (hu : CacheEffect s u) : CacheEffect s (if c then t else u) := by
  split
  · exact ht
  · exact hu

theorem teams (h : CacheEffect s t) : t.teams = s.teams := (congrArg State.teams h.rest :)
theorem cores (h : CacheEffect s t) : t.cores = s.cores := (congrArg State.cores h.rest :)
theorem clusters (h : CacheEffect s t) : t.clusters = s.clusters := (congrArg State.clusters h.rest :)
theorem parts (h : CacheEffect s t) : t.parts = s.parts := (congrArg State.parts h.rest :)
theorem inn (h : CacheEffect s t) : t.inn = s.inn := (congrArg State.inn h.rest :)
theorem porter (h : CacheEffect s t) : t.porter = s.porter := (congrArg State.porter h.rest :)
theorem node (h : CacheEffect s t) : t.node = s.node := (congrArg State.node h.rest :)
theorem now (h : CacheEffect s t) : t.clock.now = s.clock.now := (congrArg Clock.now h.clock :)
theorem pkgid (h : CacheEffect s t) : t.clock.pkgid = s.clock.pkgid := (congrArg Clock.pkgid h.clock :)
theorem present (h : CacheEffect s t) : t.clock.present = s.clock.present := (congrArg Clock.present h.clock :)

/-- A group stands after it as before, but for the TRIG of its watch. -/
theorem group (h : CacheEffect s t) {k : Nat} {g : Group} (hg : s.group? k = some g) : ∃ g', t.group? k = some g' ∧ g'.unrung = g.unrung :=
  group_of_unrung (h.groups k) hg

theorem isGone (h : CacheEffect s t) (pa : Nat) : t.isGone pa = s.isGone pa := by
  unfold State.isGone
  rw [h.gone, h.porter, h.node, h.pkgid, h.present]

theorem isPeer (h : CacheEffect s t) (pa : Nat) : t.isPeer pa = s.isPeer pa := by
  unfold State.isPeer
  rw [h.pkgid]

theorem locate (h : CacheEffect s t) (pa : Nat) : t.locate pa = s.locate pa := by
  unfold State.locate State.cluster
  rw [h.win, h.clusters]

end CacheEffect

/-! ### Parts of the package that the path of a read owns -/

theorem setCoh_cacheEffect (s : State) (c : Coh) (h : c.winLines = s.coh.winLines) : CacheEffect s (s.setCoh c) :=
  ⟨rfl, rfl, h, rfl, fun _ h => h, fun _ => rfl, fun _ g hg h => ⟨g, hg, h⟩⟩

theorem setTlb_cacheEffect (s : State) (d : Nat) (l : List TlbEnt) : CacheEffect s (s.setTlb d l) :=
  ⟨rfl, rfl, rfl, rfl, fun _ h => h, fun _ => rfl, fun _ g hg h => ⟨g, hg, h⟩⟩

theorem setTix_cacheEffect (s : State) (x : Tix) : CacheEffect s (s.setTix x) := ⟨rfl, rfl, rfl, rfl, fun _ h => h, fun _ => rfl, fun _ g hg h => ⟨g, hg, h⟩⟩

theorem setHarts_cacheEffect (s : State) (x : KMap Hart) : CacheEffect s { s with harts := x } :=
  ⟨rfl, rfl, rfl, rfl, fun _ h => h, fun _ => rfl, fun _ g hg h => ⟨g, hg, h⟩⟩

theorem setMem_cacheEffect (s : State) (m : Mem) (hg : m.gone = s.mem.gone) (hp : ∀ x ∈ m.poison, x ∈ s.mem.poison) :
    CacheEffect s (s.setMem m) :=
  ⟨rfl, rfl, rfl, hg, hp, fun _ => rfl, fun _ g hg h => ⟨g, hg, h⟩⟩

theorem draw_cacheEffect (s : State) : CacheEffect s s.draw.2 := ⟨rfl, rfl, rfl, rfl, fun _ h => h, fun _ => rfl, fun _ g hg h => ⟨g, hg, h⟩⟩

/-- A write notice sets TRIG and nothing else (R218). -/
theorem notice_cacheEffect (s : State) (p : Place) : CacheEffect s (s.notice p) where
  rest := rfl
  clock := rfl
  win := rfl
  gone := rfl
  poison := fun _ h => h
  groups := fun k => by
    simp only [State.notice, State.group?]
    rw [kget_map _ (fun e => by split <;> rfl), Option.map_map]
    congr 1
    funext g
    simp only [Function.comp]
    split <;> rfl
  trig := fun k g hg rung => by
    simp only [State.notice, State.group?]
    rw [kget_map _ (fun e => by split <;> rfl), show kget s.groups k = some g from hg]
    refine ⟨_, rfl, ?_⟩
    dsimp only
    split
    · rfl
    · exact rung

/-! ### Directories and L1 sector states (R87) -/

theorem setDir_cacheEffect (s : State) (sec : Nat) (d : DirEnt) : CacheEffect s (s.setDir sec d) := setCoh_cacheEffect s _ rfl
theorem setL1_cacheEffect (s : State) (core sec st : Nat) : CacheEffect s (s.setL1 core sec st) := setCoh_cacheEffect s _ rfl
theorem dropCopies_cacheEffect (s : State) (sec : Nat) (keep : Option Nat) : CacheEffect s (s.dropCopies sec keep) := setCoh_cacheEffect s _ rfl
theorem leaseDrop_cacheEffect (s : State) (sec : Nat) : CacheEffect s (s.leaseDrop sec) := setCoh_cacheEffect s _ rfl
theorem rowsDrop_cacheEffect (s : State) (sec : Nat) : CacheEffect s (s.rowsDrop sec) := setCoh_cacheEffect s _ rfl
theorem setTags_cacheEffect (s : State) (core : Nat) (l : List L1Line) : CacheEffect s (s.setTags core l) := setCoh_cacheEffect s _ rfl
theorem setLines_cacheEffect (s : State) (x : KMap Unit) : CacheEffect s (s.setCoh { s.coh with lines := x }) := setCoh_cacheEffect s _ rfl
theorem setLeases_cacheEffect (s : State) (x : KMap Lease) : CacheEffect s (s.setCoh { s.coh with leases := x }) := setCoh_cacheEffect s _ rfl
theorem leaseAcquire_cacheEffect (s : State) : CacheEffect s s.leaseAcquire := setCoh_cacheEffect s _ rfl

theorem downgrade_cacheEffect (s : State) (core sec st : Nat) : CacheEffect s (s.downgrade core sec st) :=
  .ite (.refl s) (setL1_cacheEffect ..)

theorem l1Drop_cacheEffect (s : State) (core sec : Nat) : CacheEffect s (s.l1Drop core sec) := by
  unfold State.l1Drop
  split
  · exact .refl s
  · exact setL1_cacheEffect ..
  · exact setL1_cacheEffect ..
  · exact (setL1_cacheEffect ..).trans (setDir_cacheEffect ..)

theorem dirShare_cacheEffect (s : State) (sec : Nat) : CacheEffect s (s.dirShare sec) := by
  unfold State.dirShare
  dsimp only
  split
  · exact (setDir_cacheEffect ..).trans (downgrade_cacheEffect ..)
  · exact (setDir_cacheEffect ..).trans (downgrade_cacheEffect ..)
  · exact .refl s

theorem homeTake_cacheEffect (s : State) (sec : Nat) : CacheEffect s (s.homeTake sec) :=
  .ite (.refl s) ((dropCopies_cacheEffect ..).trans (setDir_cacheEffect ..))

/-! ### Signatures (R301) -/

theorem abortHart_cacheEffect (s : State) (h cause code : Nat) : CacheEffect s (s.abortHart h cause code) := by
  unfold State.abortHart
  dsimp only
  split
  · exact .refl s
  · split
    · exact ((setTix_cacheEffect ..).trans (setTix_cacheEffect ..)).trans (setHarts_cacheEffect ..)
    · exact (setTix_cacheEffect ..).trans (setHarts_cacheEffect ..)

theorem conflict_cacheEffect (s : State) (own : Option Nat) (pa : Nat) (wr : Bool) : CacheEffect s (s.conflict own pa wr) :=
  .foldl (fun s (e : Nat × Nat) => abortHart_cacheEffect s e.2 13 0) _ s

theorem homeRead_cacheEffect (s : State) (own : Option Nat) (pa : Nat) : CacheEffect s (s.homeRead own pa) :=
  .ite (.refl s) ((conflict_cacheEffect ..).trans (dirShare_cacheEffect ..))

/-! ### The bytes of a write arrive at their home -/

theorem putByte_glob_cacheEffect (s : State) (pa : Nat) (b : Byte) : CacheEffect s (s.putByte (.glob pa) b) :=
  .ite (.refl s) (setMem_cacheEffect s _ rfl (fun _ h => h))

theorem putSector_glob_cacheEffect (s : State) (pa : Nat) (ws : List (Nat × Byte)) : CacheEffect s (s.putSector (.glob pa) ws) := by
  have put : CacheEffect s (ws.foldl (fun s e => s.putByte ((Place.glob pa).add e.1) e.2) s) :=
    .foldl (fun s (e : Nat × Byte) => putByte_glob_cacheEffect s (pa + e.1) e.2) ws s
  unfold State.putSector
  dsimp only
  split
  · exact put.trans (setMem_cacheEffect _ _ rfl (fun x h => List.mem_of_mem_filter h))
  · exact put

theorem landed_cacheEffect (s : State) (w : Writer) (sec : Nat) (ws : List (Nat × Byte)) : CacheEffect s (s.landed w sec ws) := by
  have put := ((setHarts_cacheEffect s (s.harts.map (fun (e : Nat × Hart) => if e.2.resv == some sec && !(w.hart && w.src == e.1) then
    (e.1, { e.2 with resv := none }) else e))).trans (rowsDrop_cacheEffect _ sec)).trans (putSector_glob_cacheEffect _ (sec * 64) ws)
  unfold State.landed
  dsimp only
  split
  · exact put.trans (notice_cacheEffect ..)
  · exact put

/-! ### Translation (R323, R324) -/

theorem walkReads_cacheEffect (s : State) (root va : Nat) : CacheEffect s (s.walkReads root va) :=
  .foldl (fun s a => homeRead_cacheEffect s none a) _ s

theorem tlbFill_cacheEffect (s : State) (d : Nat) (e : TlbEnt) : CacheEffect s (s.tlbFill d e) := by
  unfold State.tlbFill
  dsimp only
  split
  · exact setTlb_cacheEffect ..
  · split
    · exact (draw_cacheEffect s).trans (setTlb_cacheEffect ..)
    · exact draw_cacheEffect s

theorem setCompanion_cacheEffect (s : State) (die leaf : Nat) (w : Bool) : CacheEffect s (s.setCompanion die leaf w) := by
  unfold State.setCompanion
  dsimp only
  split
  · exact .refl s
  · refine CacheEffect.trans ?_ (landed_cacheEffect ..)
    exact .ite (leaseDrop_cacheEffect ..) ((conflict_cacheEffect ..).trans (homeTake_cacheEffect ..))

theorem fill_cacheEffect (s : State) (die part root : Nat) (acc : Access) (va core : Nat) : CacheEffect s (s.fill die part root acc va core).2 := by
  have walked := walkReads_cacheEffect s root va
  unfold State.fill
  dsimp only
  split
  · exact walked
  · split
    · exact walked
    · exact ((walked.trans (setCompanion_cacheEffect ..)).trans (tlbFill_cacheEffect ..)).trans (tlbFill_cacheEffect ..)

theorem translate_cacheEffect (s : State) (die part root : Nat) (acc : Access) (va core : Nat) :
    CacheEffect s (s.translate die part root acc va core).2 := by
  unfold State.translate
  dsimp only
  split
  · split
    · exact .refl s
    · exact fill_cacheEffect ..
  · split
    · split
      · split
        · exact (setCompanion_cacheEffect ..).trans (tlbFill_cacheEffect ..)
        · exact .refl s
      · exact fill_cacheEffect ..
    · exact fill_cacheEffect ..

theorem xlate_cacheEffect (s : State) (die part : Nat) (acc : Access) (va core : Nat) : CacheEffect s (s.xlate die part acc va core).2 :=
  translate_cacheEffect ..

theorem coreXlate_cacheEffect (s : State) (core part : Nat) (acc : Access) (va : Nat) : CacheEffect s (s.coreXlate core part acc va).2 := by
  unfold State.coreXlate
  split
  · exact .refl s
  · exact xlate_cacheEffect ..

/-! ### Lines of L1 and L2 (R84 to R86) -/

theorem wbXlate_cacheEffect (s : State) (sec : Nat) (keep : Option Nat) : CacheEffect s (s.wbXlate sec keep) := by
  unfold State.wbXlate
  dsimp only
  split
  · exact .refl s
  · split
    · exact xlate_cacheEffect ..
    · exact .refl s

theorem l1Evict_cacheEffect (s : State) (core : Nat) (x : L1Line) : CacheEffect s (s.l1Evict core x) := by
  unfold State.l1Evict
  extract_lets t u
  have translated : CacheEffect s t := .ite (xlate_cacheEffect ..) (.refl s)
  have dropped : CacheEffect t u := .foldl (fun v j => l1Drop_cacheEffect v core (4 * x.pline + j)) _ t
  exact (translated.trans dropped).trans (setTags_cacheEffect ..)

/-- One sector of a line that leaves L2. -/
theorem l2EvictSector_cacheEffect (s : State) (sec : Nat) : CacheEffect s
    (let d := s.dirEnt sec
     if d.state = 5 then s
     else
      let s := (s.wbXlate sec none).dropCopies sec none
      let s := s.setCoh { s.coh with dir := kdel s.coh.dir sec, leases := kdel s.coh.leases sec }
      if d.watch then s.notice (.glob (64 * sec)) else s) := by
  extract_lets d t c u
  have dropped : CacheEffect s t := (wbXlate_cacheEffect ..).trans (dropCopies_cacheEffect ..)
  have gone : CacheEffect s u := dropped.trans (setCoh_cacheEffect t _ rfl)
  exact .ite (.refl s) (.ite (gone.trans (notice_cacheEffect ..)) gone)

theorem l2Evict_cacheEffect (s : State) (line : Nat) : CacheEffect s (s.l2Evict line) :=
  (setCoh_cacheEffect s { s.coh with lines := kdel s.coh.lines line } rfl).trans
    (.foldl (fun t j => l2EvictSector_cacheEffect t (4 * line + j)) (List.range 4) _)

theorem l2Room_cacheEffect (sl n : Nat) (s : State) : CacheEffect s (s.l2Room sl n) := by
  induction n generalizing s with
  | zero => exact .refl s
  | succ n ih =>
    unfold State.l2Room
    dsimp only
    refine (draw_cacheEffect s).trans (CacheEffect.trans ?_ (ih _))
    split
    · exact l2Evict_cacheEffect ..
    · exact .refl _

theorem l2Fill_cacheEffect (s : State) (line : Nat) : CacheEffect s (s.l2Fill line) := by
  unfold State.l2Fill
  dsimp only
  exact .ite (.refl s) ((l2Room_cacheEffect ..).trans (setLines_cacheEffect ..))

theorem l1Alloc_cacheEffect (s : State) (core part va pa : Nat) : CacheEffect s (s.l1Alloc core part va pa) := by
  unfold State.l1Alloc
  extract_lets x t live set u
  have left : CacheEffect s t := .foldl (fun v k => .foldl (fun w y => l1Evict_cacheEffect w _ y) _ v) (List.range 32) s
  have named : CacheEffect s u := left.trans (setTags_cacheEffect ..)
  refine .ite left (.ite named ?_)
  exact (named.trans (draw_cacheEffect u)).trans (l1Evict_cacheEffect ..)

/-! ### Requests at the home directory (R87) -/

theorem dirRead_cacheEffect (s : State) (core sec : Nat) : CacheEffect s (s.dirRead core sec) := by
  unfold State.dirRead
  dsimp only
  refine (l2Fill_cacheEffect s (sec / 4)).trans ?_
  have entered := fun (t : State) (d : DirEnt) (st : Nat) => (setDir_cacheEffect t sec d).trans (setL1_cacheEffect _ core sec st)
  split
  · exact .ite (entered ..) (entered ..)
  · exact entered ..
  · exact .ite (setL1_cacheEffect ..) (((setDir_cacheEffect ..).trans (downgrade_cacheEffect ..)).trans (setL1_cacheEffect ..))
  · exact .ite (.refl _) (((setDir_cacheEffect ..).trans (setL1_cacheEffect ..)).trans (setL1_cacheEffect ..))
  · exact .ite (.refl _) (entered ..)
  · exact .refl _

theorem dirOwn_cacheEffect (s : State) (core sec : Nat) : CacheEffect s (s.dirOwn core sec) := by
  unfold State.dirOwn
  extract_lets t u d bit
  have filled : CacheEffect s t := (l2Fill_cacheEffect ..).trans (wbXlate_cacheEffect ..)
  have alone : CacheEffect s u := filled.trans (dropCopies_cacheEffect ..)
  have entered := fun (d : DirEnt) (st : Nat) => (setDir_cacheEffect u sec d).trans (setL1_cacheEffect _ core sec st)
  exact .ite alone (alone.trans (.ite (entered ..) (entered ..)))

theorem dirTake_cacheEffect (s : State) (sec : Nat) : CacheEffect s (s.dirTake sec) := (wbXlate_cacheEffect ..).trans (homeTake_cacheEffect ..)

theorem l1Store_cacheEffect (s : State) (core sec : Nat) : CacheEffect s (s.l1Store core sec) := by
  unfold State.l1Store
  split
  · exact .refl s
  · exact (setL1_cacheEffect ..).trans (setDir_cacheEffect ..)
  · exact dirOwn_cacheEffect ..

/-! ### Lease copies (R88 to R91) -/

theorem rebase_cacheEffect (s : State) (slice : Nat) : CacheEffect s (s.rebase slice) := .ite (.refl s) (setCoh_cacheEffect s _ rfl)

theorem leaseFill_cacheEffect (s : State) (sec : Nat) : CacheEffect s (s.leaseFill sec) := by
  unfold State.leaseFill
  dsimp only
  exact .ite (.refl s) ((rebase_cacheEffect ..).trans (setLeases_cacheEffect ..))

theorem leaseLine_cacheEffect (s : State) (line : Nat) : CacheEffect s (s.leaseLine line) :=
  (l2Fill_cacheEffect s line).trans (.foldl (fun _ _ => .ite (.refl _) ((leaseDrop_cacheEffect ..).trans (leaseFill_cacheEffect ..))) _ _)

theorem leaseStore_cacheEffect (s : State) (sec : Nat) (ws : List (Nat × Byte)) : CacheEffect s (s.leaseStore sec ws) := by
  unfold State.leaseStore
  split
  · exact setCoh_cacheEffect s _ rfl
  · exact .refl s

/-! ### Loads, and stores up to the bytes that they write -/

theorem touchTag_cacheEffect (s : State) (part pa : Nat) : CacheEffect s (s.touchTag part pa) :=
  .ite (.refl s) (setMem_cacheEffect s _ rfl (fun _ h => h))

theorem loadEffects_cacheEffect (s : State) (own core : Option Nat) (pa : Nat) : CacheEffect s (s.loadEffects own core pa) := by
  unfold State.loadEffects
  split
  · refine .ite (.refl s) (.ite ?_ ?_)
    · dsimp only
      have leased : CacheEffect s (if s.leaseLive (pa / 64) = true then s else s.leaseLine (pa / 256)) := .ite (.refl s) (leaseLine_cacheEffect ..)
      split
      · exact .ite (leased.trans (setL1_cacheEffect ..)) leased
      · exact leased
    · split
      · exact .ite ((conflict_cacheEffect ..).trans (dirRead_cacheEffect ..)) (.refl s)
      · exact homeRead_cacheEffect ..
  · exact .refl s

theorem coreLoad_cacheEffect (s : State) (core part va pa : Nat) (l2 : Bool) : CacheEffect s (s.coreLoad core part va pa l2) := by
  unfold State.coreLoad
  split
  · refine .ite (.refl s) (.ite ?_ ((l1Alloc_cacheEffect ..).trans (loadEffects_cacheEffect ..)))
    exact CacheEffect.trans (.ite (.refl s) (l2Fill_cacheEffect ..)) (loadEffects_cacheEffect ..)
  · exact .refl s

theorem coreOwn_cacheEffect (s : State) (core part va pa : Nat) (l2 : Bool) : CacheEffect s (s.coreOwn core part va pa l2) := by
  unfold State.coreOwn
  split
  · refine .ite (.refl s) (.ite (l2Fill_cacheEffect ..) ?_)
    exact (l1Alloc_cacheEffect ..).trans (CacheEffect.trans (.ite (.refl _) (conflict_cacheEffect ..)) (l1Store_cacheEffect ..))
  · exact .refl s

theorem watchSector_cacheEffect (s : State) (pa : Nat) : CacheEffect s (s.watchSector pa) := by
  unfold State.watchSector
  split
  · exact .ite (.refl s) (((l2Fill_cacheEffect ..).trans (dirShare_cacheEffect ..)).trans (setDir_cacheEffect ..))
  · exact .refl s

theorem read8_cacheEffect (s : State) (pa : Nat) : CacheEffect s (s.read8 pa) :=
  (loadEffects_cacheEffect s none none pa).trans (.ite (.refl _) (loadEffects_cacheEffect ..))

/-- The code word of a group is read, and touched, by the path of a read (R24, R142). -/
theorem codeWord_cacheEffect (s : State) (gk : Nat) (g : Group) (pc : Nat) : CacheEffect s (s.codeWord gk g pc).2 := by
  unfold State.codeWord
  split
  · rename_i im v _ _
    have translated := xlate_cacheEffect s (clusterOf (coreOf gk)) g.part .fetch ((im.base + v.code + pc) % 2 ^ 56) (coreOf gk)
    split
    · rename_i pa w hx
      rw [hx] at translated
      split
      · exact translated
      · dsimp only
        exact translated.trans (.ite (.refl _) ((touchTag_cacheEffect ..).trans (homeRead_cacheEffect ..)))
    · rename_i f w hx
      rwa [hx] at translated
  · exact .refl s

end Sys2Proof.Machine
end

section
/-! SUPPORT. What a write, a record, a fault post and a reply leave alone: the teams, the Innkeeper's waiting requests, the time, the work
queues of every partition, and of every group all but the TRIG of its watch (R218, R328, R354, R369, R403). -/

namespace Sys2Proof.Machine

/-- What the effects of one agent on memory, records and replies leave alone. -/
structure Undisturbed (s t : State) : Prop where
  groups : ∀ k, (t.group? k).map Group.unrung = (s.group? k).map Group.unrung
  teams : t.teams = s.teams
  inn : t.inn = s.inn
  now : t.clock.now = s.clock.now
  queues : ∀ k, (t.part? k).map (·.queues) = (s.part? k).map (·.queues)

namespace Undisturbed

variable {s t u : State}

theorem refl (s : State) : Undisturbed s s := ⟨fun _ => rfl, rfl, rfl, rfl, fun _ => rfl⟩

theorem trans (h : Undisturbed s t) (k : Undisturbed t u) : Undisturbed s u :=
  ⟨fun j => (k.groups j).trans (h.groups j), k.teams.trans h.teams, k.inn.trans h.inn, k.now.trans h.now,
    fun j => (k.queues j).trans (h.queues j)⟩

theorem foldl {α : Type} {f : State → α → State} (hf : ∀ s a, Undisturbed s (f s a)) (l : List α) (s : State) :
    Undisturbed s (l.foldl f s) := by
  induction l generalizing s with
  | nil => exact refl s
  | cons a r ih => exact (hf s a).trans (ih _)

theorem ite {c : Prop} [Decidable c] (ht : Undisturbed s t) (hu : Undisturbed s u) : Undisturbed s (if c then t else u) := by
  split
  · exact ht
  · exact hu

/-- What the path of a read changes is none of this. -/
theorem of_cacheEffect (h : CacheEffect s t) : Undisturbed s t :=
  ⟨h.groups, h.teams, h.inn, h.now, fun k => by rw [State.part?, h.parts]; rfl⟩

/-- A group stands after it as before, but for the TRIG of its watch. -/
theorem group (h : Undisturbed s t) {k : Nat} {g : Group} (hg : s.group? k = some g) : ∃ g', t.group? k = some g' ∧ g'.unrung = g.unrung :=
  group_of_unrung (h.groups k) hg

/-- A slot is empty after it exactly where it was before. -/
theorem group_none (h : Undisturbed s t) (k : Nat) : t.group? k = none ↔ s.group? k = none := by
  have e := h.groups k
  rw [← Option.map_eq_none_iff (f := Group.unrung), e, Option.map_eq_none_iff]

theorem queue (h : Undisturbed s t) (part n : Nat) : t.queue? part n = s.queue? part n := by
  have found : ∀ u : State, u.queue? part n = ((u.part? part).map (·.queues)).bind (fun q => kget q n) := fun u => by
    rw [State.queue?]
    cases u.part? part <;> rfl
  rw [found, found, h.queues]

end Undisturbed

/-! ### Updates of the parts that it does not speak of -/

theorem modCore_undisturbed (s : State) (c : Nat) (f : Core → Core) : Undisturbed s (s.modCore c f) := ⟨fun _ => rfl, rfl, rfl, rfl, fun _ => rfl⟩
theorem modCluster_undisturbed (s : State) (c : Nat) (f : Cluster → Cluster) : Undisturbed s (s.modCluster c f) :=
  ⟨fun _ => rfl, rfl, rfl, rfl, fun _ => rfl⟩
theorem setPorter_undisturbed (s : State) (x : Porter) : Undisturbed s (s.setPorter x) := ⟨fun _ => rfl, rfl, rfl, rfl, fun _ => rfl⟩
theorem setRpc_undisturbed (s : State) (x : RpcSt) : Undisturbed s (s.setRpc x) := ⟨fun _ => rfl, rfl, rfl, rfl, fun _ => rfl⟩
theorem setDbg_undisturbed (s : State) (x : Dbg) : Undisturbed s (s.setDbg x) := ⟨fun _ => rfl, rfl, rfl, rfl, fun _ => rfl⟩
theorem setTix_undisturbed (s : State) (x : Tix) : Undisturbed s (s.setTix x) := .of_cacheEffect (setTix_cacheEffect s x)
theorem notice_undisturbed (s : State) (p : Place) : Undisturbed s (s.notice p) := .of_cacheEffect (notice_cacheEffect s p)
theorem draw_undisturbed (s : State) : Undisturbed s s.draw.2 := .of_cacheEffect (draw_cacheEffect s)

/-- A change of a partition that is none of its queues. -/
theorem modPart_undisturbed (s : State) (k : Nat) (f : Part → Part) (hf : ∀ p, (f p).queues = p.queues) : Undisturbed s (s.modPart k f) where
  groups := fun _ => by rw [State.group_modPart]
  teams := State.modPart_teams ..
  inn := State.modPart_inn ..
  now := by rw [State.modPart_clock]
  queues := fun j => by
    rw [State.part_modPart]
    split
    · rename_i h
      subst h
      rw [Option.map_map]
      congr 1
      exact funext hf
    · rfl

/-! ### Records and consumption of poison (R400, R403) -/

theorem record_undisturbed (s : State) (kind sev cls unit : Nat) (part : Option Nat) (addr n : Nat) (detail : BitVec 256) :
    Undisturbed s (s.record kind sev cls unit part addr n detail) := .ite (setPorter_undisturbed ..) (setPorter_undisturbed ..)

theorem drawWide_undisturbed (s : State) : Undisturbed s s.drawWide.2 :=
  (((draw_undisturbed s).trans (draw_undisturbed _)).trans (draw_undisturbed _)).trans (draw_undisturbed _)

theorem note_undisturbed (s : State) (kind sev cls unit : Nat) (part : Option Nat) (addr n : Nat) :
    Undisturbed s (s.note kind sev cls unit part addr n) := (drawWide_undisturbed s).trans (record_undisturbed ..)

theorem consume_undisturbed (s : State) (part : Nat) (p : Place) : Undisturbed s (s.consume part p) :=
  (modPart_undisturbed s part (fun x => { x with poisoned := min (2 ^ 32 - 1) (x.poisoned + 1) }) (fun _ => rfl)).trans (note_undisturbed ..)

/-! ### Writes of hardware and the undo log (R366 to R374) -/

theorem putByte_undisturbed (s : State) (p : Place) (b : Byte) : Undisturbed s (s.putByte p b) := by
  cases p with
  | glob pa => exact .of_cacheEffect (putByte_glob_cacheEffect ..)
  | aspc c o => exact ⟨fun _ => rfl, rfl, rfl, rfl, fun _ => rfl⟩
  | wspc c o => exact ⟨fun _ => rfl, rfl, rfl, rfl, fun _ => rfl⟩

theorem setPoison_undisturbed (s : State) (p : Place) (on : Bool) : Undisturbed s (s.setPoison p on) := by
  cases p <;> exact ⟨fun _ => rfl, rfl, rfl, rfl, fun _ => rfl⟩

theorem putSector_undisturbed (s : State) (p : Place) (ws : List (Nat × Byte)) : Undisturbed s (s.putSector p ws) := by
  have put : Undisturbed s (ws.foldl (fun s e => s.putByte (p.add e.1) e.2) s) := .foldl (fun s (e : Nat × Byte) => putByte_undisturbed s (p.add e.1) e.2) ws s
  exact .ite (put.trans (setPoison_undisturbed ..)) put

theorem commitSector_undisturbed (s : State) (w : Writer) (core : Option Nat) (pa : Nat) (ws : List (Nat × Byte)) :
    Undisturbed s (s.commitSector w core pa ws) := by
  refine .of_cacheEffect ?_
  unfold State.commitSector
  dsimp only
  refine CacheEffect.trans ?_ (landed_cacheEffect ..)
  refine .ite (leaseStore_cacheEffect ..) ?_
  split
  · exact .ite (l1Store_cacheEffect ..) ((conflict_cacheEffect ..).trans (l1Store_cacheEffect ..))
  · exact (conflict_cacheEffect ..).trans (dirTake_cacheEffect ..)

/-- A write to a local space, with the notices that it sends. -/
theorem putNoticed_undisturbed (s : State) (q p : Place) (ws : List (Nat × Byte)) : Undisturbed s (((s.putSector q ws).notice q).notice p) :=
  ((putSector_undisturbed ..).trans (notice_undisturbed ..)).trans (notice_undisturbed ..)

theorem hwSector_undisturbed (s : State) (part : Nat) (p : Place) (ws : List (Nat × Byte)) : Undisturbed s (s.hwSector part p ws) := by
  unfold State.hwSector
  split
  · split
    · exact .ite (consume_undisturbed ..) ((Undisturbed.of_cacheEffect (touchTag_cacheEffect ..)).trans (commitSector_undisturbed ..))
    · exact putNoticed_undisturbed ..
  · exact (putSector_undisturbed ..).trans (notice_undisturbed ..)

theorem vaOf_undisturbed (s : State) (part va : Nat) (acc : Access) : Undisturbed s (s.vaOf part va acc).2 := by
  have translated := Undisturbed.of_cacheEffect (xlate_cacheEffect s 8 part acc va 0)
  unfold State.vaOf
  split
  · rename_i h
    rwa [h] at translated
  · rename_i h
    rwa [h] at translated

theorem hwPut_undisturbed {s t : State} {part va : Nat} {bs : List Byte} (h : s.hwPut part va bs = some t) : Undisturbed s t := by
  have reached := vaOf_undisturbed s part va .innWrite
  unfold State.hwPut at h
  split at h
  · rename_i hv
    rw [hv] at reached
    split at h
    · cases h
    · cases h
      exact reached.trans (.foldl (fun s (e : Place × List (Nat × Byte)) => hwSector_undisturbed s part e.1 e.2) _ _)
  · cases h

theorem hwPut_getD_undisturbed (s : State) (part va : Nat) (bs : List Byte) : Undisturbed s ((s.hwPut part va bs).getD s) := by
  cases h : s.hwPut part va bs with
  | none => exact .refl s
  | some t => exact hwPut_undisturbed h

theorem hwPuts_undisturbed {s t : State} {part : Nat} {l : List (Nat × List Byte)} (h : s.hwPuts part l = some t) : Undisturbed s t := by
  induction l generalizing s with
  | nil =>
    cases h
    exact .refl _
  | cons e r ih =>
    unfold State.hwPuts at h
    split at h
    · rename_i hp
      exact (hwPut_undisturbed hp).trans (ih h)
    · cases h

theorem setLog_undisturbed (s : State) (part : Nat) (l : UndoLog) : Undisturbed s (s.setLog part l) := modPart_undisturbed s part _ (fun _ => rfl)

theorem logHeader_undisturbed (s : State) (part : Nat) : Undisturbed s (s.logHeader part) := by
  unfold State.logHeader
  split
  · exact .refl s
  · dsimp only
    split
    · exact (hwPut_getD_undisturbed ..).trans (hwPut_getD_undisturbed ..)
    · exact hwPut_getD_undisturbed ..

theorem dropDirs_undisturbed (s : State) (part : Nat) (old new : UndoLog) : Undisturbed s (s.dropDirs part old new) :=
  .foldl (fun t (w : LogWindow) => hwPut_getD_undisturbed t part (old.base + 0x1000 + w.num.toNat % 4096 * 32) (toBytes 32 0)) _ _

theorem sealWindow_undisturbed (s : State) (part : Nat) (f : LogWindow → LogWindow) : Undisturbed s (s.sealWindow part f) := by
  unfold State.sealWindow
  split
  · exact .ite ((setLog_undisturbed ..).trans (logHeader_undisturbed ..)) (.refl s)
  · exact .refl s

/-- The state that the test of the undo log leaves, whether the write goes on or is held. -/
def UndoRes.left : UndoRes → State
  | .go s | .full s => s

theorem Undisturbed.go {s t : State} (h : Undisturbed s t) : Undisturbed s (UndoRes.go t).left := h
theorem Undisturbed.full {s t : State} (h : Undisturbed s t) : Undisturbed s (UndoRes.full t).left := h

theorem undo_undisturbed (s : State) (w : Writer) (pa : Nat) (mask : BitVec 16) : Undisturbed s (s.undo w pa mask).left := by
  unfold State.undo
  split
  · exact (Undisturbed.refl s).go
  · split
    · exact (Undisturbed.refl s).go
    · split
      · exact (Undisturbed.refl s).go
      · extract_lets -underBinder inside l' t l
        have dropped : Undisturbed s t := dropDirs_undisturbed ..
        split
        · exact (sealWindow_undisturbed ..).go
        · split
          · exact (Undisturbed.refl s).full
          · split
            · extract_lets -underBinder old bs
              split
              · rename_i h
                exact ((dropped.trans (hwPuts_undisturbed h)).trans ((setLog_undisturbed ..).trans (logHeader_undisturbed ..))).go
              · exact (((dropped.trans (setLog_undisturbed ..)).trans (logHeader_undisturbed ..)).trans (record_undisturbed ..)).full
            · exact ((dropped.trans (setLog_undisturbed ..)).trans (logHeader_undisturbed ..)).full

/-! ### Writes of groups and of the Innkeeper -/

theorem writeSector_undisturbed (s : State) (w : Writer) (core : Option Nat) (p : Place) (ws : List (Nat × Byte)) :
    Undisturbed s (s.writeSector w core p ws) := by
  unfold State.writeSector
  split
  · rename_i pa
    split
    · split
      · exact consume_undisturbed ..
      · have made := undo_undisturbed s w pa (wordMask ws)
        split
        · rename_i h
          rw [h] at made
          exact made.trans ((Undisturbed.of_cacheEffect (touchTag_cacheEffect ..)).trans (commitSector_undisturbed ..))
        · rename_i h
          rw [h] at made
          exact made.trans (modPart_undisturbed _ _ _ (fun _ => rfl))
    · exact putNoticed_undisturbed ..
  · exact (putSector_undisturbed ..).trans (notice_undisturbed ..)

theorem write_undisturbed (s : State) (w : Writer) (core : Option Nat) (p : Place) (bs : List Byte) : Undisturbed s (s.write w core p bs) :=
  .foldl (fun t (e : Place × List (Nat × Byte)) => writeSector_undisturbed t w core e.1 e.2) _ s

theorem storeSector_undisturbed (s : State) (gk : Nat) (g : Group) (o : MemOp) (p : Place) (ws : List (Nat × Byte)) :
    Undisturbed s (s.storeSector gk g o p ws) := by
  unfold State.storeSector
  dsimp only
  split
  · exact (Undisturbed.of_cacheEffect (coreOwn_cacheEffect ..)).trans (writeSector_undisturbed ..)
  · exact writeSector_undisturbed ..

theorem fireReach_undisturbed (s : State) (gk : Nat) (g : Group) (o : MemOp) (home : Bool) : Undisturbed s (s.fireReach gk g o home) :=
  .ite (.refl s) (modCore_undisturbed s _ _)

theorem performStore_undisturbed (s : State) (gk : Nat) (g : Group) (o : MemOp) : Undisturbed s (s.performStore gk g o) :=
  (fireReach_undisturbed ..).trans (.foldl (fun t (e : Place × List (Nat × Byte)) => storeSector_undisturbed t gk g o e.1 e.2) _ _)

/-! ### Replies and events of debug sessions (R352 to R354, R379) -/

theorem reply_undisturbed (s : State) (r : Rpc) (code : Nat) (detail : BitVec 64) (res : List (BitVec 64)) :
    Undisturbed s (s.reply r code detail res) := by
  unfold State.reply
  split
  · exact .refl s
  · split
    · exact .refl s
    · exact .ite (setRpc_undisturbed ..) ((setRpc_undisturbed ..).trans (sealWindow_undisturbed ..))

theorem ok_undisturbed (s : State) (r : Rpc) (res : List (BitVec 64)) : Undisturbed s (s.ok r res) := reply_undisturbed ..

/-- One reply to each of the calls that wait. -/
theorem oks_undisturbed (l : List Waiting) (res : List (BitVec 64)) (s : State) : Undisturbed s (l.foldl (fun t w => t.ok w.req res) s) :=
  .foldl (fun t (w : Waiting) => ok_undisturbed t w.req res) l s

theorem sessionEvent_undisturbed (s : State) (ses code core slot ord : Nat) : Undisturbed s (s.sessionEvent ses code core slot ord) := by
  unfold State.sessionEvent
  split
  · exact .refl s
  · dsimp only
    refine .ite (.ite (setDbg_undisturbed ..) (setDbg_undisturbed ..)) (Undisturbed.trans ?_ (oks_undisturbed ..))
    exact (setRpc_undisturbed ..).trans (setDbg_undisturbed ..)

theorem partEvent_undisturbed (s : State) (part code core slot ord : Nat) : Undisturbed s (s.partEvent part code core slot ord) := by
  unfold State.partEvent
  split
  · exact sessionEvent_undisturbed ..
  · exact .refl s

theorem plainEvent_undisturbed (s : State) (ses code : Nat) : Undisturbed s (s.plainEvent ses code) :=
  (draw_undisturbed s).trans (sessionEvent_undisturbed ..)

theorem haltDone_undisturbed (s : State) (part : Nat) : Undisturbed s (s.haltDone part) := by
  unfold State.haltDone
  split
  · exact .refl s
  · split
    · exact .refl s
    · dsimp only
      split
      · exact .refl s
      · exact (((setDbg_undisturbed ..).trans (setRpc_undisturbed ..)).trans (oks_undisturbed ..)).trans
          (plainEvent_undisturbed ..)

theorem queueEvent_undisturbed (s : State) (core slot event : Nat) : Undisturbed s (s.queueEvent core slot event) := modCore_undisturbed s core _

theorem unask_undisturbed (s : State) (gk : Nat) : Undisturbed s (s.unask gk) := setTix_undisturbed ..

theorem tokenBack_undisturbed (s : State) (gk : Nat) : Undisturbed s (s.tokenBack gk) := by
  unfold State.tokenBack
  split
  · exact .ite (setTix_undisturbed ..) (.refl s)
  · exact .ite (setTix_undisturbed ..) (.refl s)

/-! ### Rings in memory (R225, R328, R329) -/

/-- The state that a posting leaves. -/
def PostRes.left : PostRes → State
  | .posted s | .full s | .unmapped s => s

theorem hwWord_undisturbed {s t : State} {part va x : Nat} (h : s.hwWord part va = some (x, t)) : Undisturbed s t := by
  have reached := vaOf_undisturbed s part va .innRead
  unfold State.hwWord at h
  split at h
  · rename_i hv
    rw [hv] at reached
    simp only [Option.some.injEq, Prod.mk.injEq] at h
    exact h.2 ▸ reached
  · cases h

theorem Undisturbed.posted {s t : State} (h : Undisturbed s t) : Undisturbed s (PostRes.posted t).left := h
theorem Undisturbed.ringFull {s t : State} (h : Undisturbed s t) : Undisturbed s (PostRes.full t).left := h
theorem Undisturbed.unmapped (s : State) : Undisturbed s (PostRes.unmapped s).left := .refl s

theorem ringPost_undisturbed (s : State) (part : Nat) (r : Ring) (headOff : Nat) (resv : Bool) (rec : Nat → BitVec 512) :
    Undisturbed s (s.ringPost part r headOff resv rec).left := by
  unfold State.ringPost
  split
  · exact .unmapped s
  · rename_i head s₁ hh
    split
    · exact .unmapped s
    · rename_i tail s₂ ht
      have found := (hwWord_undisturbed hh).trans (hwWord_undisturbed ht)
      by_cases full : 2 ^ r.n ≤ (tail + 2 ^ 64 - head) % 2 ^ 64
      · rw [if_pos full]
        exact found.ringFull
      · rw [if_neg full]
        extract_lets -underBinder hdr
        cases hp : s₂.hwPuts part [(r.base + 64 + tail % 2 ^ r.n * 64, toBytes 64 (rec tail).toNat), (r.base, hdr)] with
        | some t => exact (found.trans (hwPuts_undisturbed hp)).posted
        | none => exact .unmapped s

theorem overflow_undisturbed (s : State) (part : Nat) : Undisturbed s (s.overflow part) := by
  unfold State.overflow
  split
  · exact .refl s
  · dsimp only
    split
    · exact .refl s
    · split
      · exact .refl s
      · rename_i hw
        split
        · rename_i hp
          exact ((hwWord_undisturbed hw).trans (hwPuts_undisturbed hp)).trans (modPart_undisturbed _ _ _ (fun _ => rfl))
        · exact .refl s

theorem faultPost_undisturbed (s : State) (part : Nat) (rec : BitVec 512) : Undisturbed s (s.faultPost part rec).2 := by
  unfold State.faultPost
  split
  · exact .refl s
  · rename_i p _
    have posted := ringPost_undisturbed s part p.fring 8 true (fun _ => withSeq rec p.fseq)
    split <;> rename_i h <;> rw [h] at posted
    · exact posted.trans (modPart_undisturbed _ _ _ (fun _ => rfl))
    · exact posted
    · exact posted

/-- A posting that is not tried where the ring is known to be full. -/
theorem tried_undisturbed (s : State) (c : Bool) (part : Nat) (rec : BitVec 512) :
    Undisturbed s (if c then (false, s) else s.faultPost part rec).2 := by
  split
  · exact .refl s
  · exact faultPost_undisturbed ..

theorem drainHold_undisturbed (die : Nat) (l : List (Nat × BitVec 512)) (stuck : List Nat) (s : State) :
    Undisturbed s (drainHold die l stuck s) := by
  induction l generalizing stuck s with
  | nil => exact .refl s
  | cons e r ih =>
    obtain ⟨part, rec⟩ := e
    have posted := tried_undisturbed s (stuck.contains part) part rec
    unfold drainHold
    generalize (if stuck.contains part then (false, s) else s.faultPost part rec) = x at posted
    obtain ⟨ok, t⟩ := x
    dsimp only
    split
    · exact posted.trans (ih ..)
    · exact (posted.trans (modCluster_undisturbed ..)).trans (ih ..)

theorem drainFaults_undisturbed (s : State) (die : Nat) : Undisturbed s (s.drainFaults die) := by
  unfold State.drainFaults
  dsimp only
  refine Undisturbed.trans ?_ (.foldl (fun t (p : Nat) => overflow_undisturbed t p) _ _)
  refine Undisturbed.trans ?_ (.foldl (fun t (e : Nat × BitVec 512) => modPart_undisturbed t e.1 (fun p => { p with ovfPend := p.ovfPend + 1 }) (fun _ => rfl)) _ _)
  exact ((modCluster_undisturbed ..).trans (drainHold_undisturbed ..)).trans (drainHold_undisturbed ..)

theorem postFault_undisturbed (s : State) (die part : Nat) (rec : BitVec 512) : Undisturbed s (s.postFault die part rec) := by
  unfold State.postFault
  extract_lets -underBinder s₁ s₂ held
  have drained : Undisturbed s s₂ := (modPart_undisturbed s part _ (fun p => by split <;> rfl)).trans (drainFaults_undisturbed ..)
  have posted := drained.trans (tried_undisturbed s₂ (held.any (fun e => e.1 == part)) part rec)
  generalize (if held.any (fun e => e.1 == part) then (false, s₂) else s₂.faultPost part rec) = x at posted
  obtain ⟨ok, t⟩ := x
  dsimp only
  have kept := posted.trans (modCluster_undisturbed t die (fun c => { c with hold := c.hold ++ [(part, rec)] }))
  exact .ite posted (.ite ((kept.trans (modPart_undisturbed _ part (fun p => { p with ovfPend := p.ovfPend + 1 }) (fun _ => rfl))).trans
    (overflow_undisturbed ..)) kept)

/-! ### The Innkeeper's accesses (R326) -/

theorem innAt_undisturbed (s : State) (part va : Nat) (acc : Access) : Undisturbed s (s.innAt part va acc).2 := by
  have translated := Undisturbed.of_cacheEffect (xlate_cacheEffect s 8 part acc (va % 2 ^ 56) 0)
  unfold State.innAt
  split
  · rename_i h
    rw [h] at translated
    exact translated
  · rename_i h
    rw [h] at translated
    exact translated.trans (postFault_undisturbed ..)

theorem innRead_undisturbed (s : State) (part va n : Nat) : Undisturbed s (s.innRead part va n).2 := by
  have reached := innAt_undisturbed s part va .innRead
  unfold State.innRead
  split
  · rename_i pa t h
    rw [h] at reached
    extract_lets u v
    have first : Undisturbed s u := reached.trans (.of_cacheEffect (loadEffects_cacheEffect ..))
    have second : Undisturbed s v := .ite first (first.trans (.of_cacheEffect (loadEffects_cacheEffect ..)))
    exact .ite (second.trans (consume_undisturbed ..)) second
  · rename_i h
    rwa [h] at reached

theorem depsHold_undisturbed (part : Nat) (l : List (Nat × Nat)) (s : State) : Undisturbed s (s.depsHold part l).2 := by
  induction l generalizing s with
  | nil => exact .refl s
  | cons d r ih =>
    have reading := innRead_undisturbed s part d.1 8
    unfold State.depsHold
    split
    · rename_i h
      rw [h] at reading
      split
      · exact reading.trans (ih _)
      · exact reading
    · rename_i h
      rwa [h] at reading

end Sys2Proof.Machine
end

section
/-! SUPPORT. Which lanes an issue takes (R24, R144): `pcMin` is the least counter of a set of lanes, and `lanesAt` are the lanes that stand
there. -/

namespace Sys2Proof.Machine

theorem minOf_cons (a : Nat) {r : List Nat} (h : r ≠ []) : minOf (a :: r) = min a (minOf r) := by
  cases r with
  | nil => exact absurd rfl h
  | cons b q => rfl

theorem minOf_le {l : List Nat} {x : Nat} (h : x ∈ l) : minOf l ≤ x := by
  induction l with
  | nil => cases h
  | cons a r ih =>
    by_cases hr : r = []
    · subst hr
      simp only [List.mem_singleton] at h
      exact h ▸ Nat.le_refl _
    · rw [minOf_cons a hr]
      rcases List.mem_cons.mp h with rfl | hx
      · exact Nat.min_le_left ..
      · exact Nat.le_trans (Nat.min_le_right ..) (ih hx)

theorem minOf_mem {l : List Nat} (h : l ≠ []) : minOf l ∈ l := by
  induction l with
  | nil => exact absurd rfl h
  | cons a r ih =>
    by_cases hr : r = []
    · subst hr
      exact List.mem_singleton_self a
    · rw [minOf_cons a hr]
      rcases Nat.le_total a (minOf r) with hle | hle
      · rw [Nat.min_eq_left hle]
        exact List.mem_cons_self
      · rw [Nat.min_eq_right hle]
        exact List.mem_cons_of_mem _ (ih hr)

theorem lanesOf_ne_nil {m : LaneMask} (h : m ≠ 0) : lanesOf m ≠ [] := by
  intro hn
  apply h
  apply BitVec.eq_of_getLsbD_eq
  intro l hl
  have none_set : l ∉ lanesOf m := by simp [hn]
  rw [mem_lanesOf] at none_set
  simpa [hl] using none_set

/-- No lane of a set stands below its least counter. -/
theorem Group.pcMin_le (g : Group) {m : LaneMask} {l : Nat} (hl : m.getLsbD l = true) : g.pcMin m ≤ (sget g.pcv l).toNat :=
  minOf_le (List.mem_map.mpr ⟨l, mem_lanesOf.mpr ⟨maskOf_and_lane l hl, hl⟩, rfl⟩)

/-- A lane of a set that has one stands at its least counter. -/
theorem Group.exists_pcMin (g : Group) {m : LaneMask} (h : m ≠ 0) : ∃ l, m.getLsbD l = true ∧ (sget g.pcv l).toNat = g.pcMin m := by
  have some_lane : (lanesOf m).map (fun l => (sget g.pcv l).toNat) ≠ [] := by
    simpa using lanesOf_ne_nil h
  obtain ⟨l, hl, at_min⟩ := List.mem_map.mp (minOf_mem some_lane)
  exact ⟨l, (mem_lanesOf.mp hl).2, at_min⟩

theorem Group.lanesAt_getLsbD (g : Group) (m : LaneMask) (pc l : Nat) :
    (g.lanesAt m pc).getLsbD l = true ↔ l < 32 ∧ m.getLsbD l = true ∧ (sget g.pcv l).toNat = pc := by
  unfold Group.lanesAt
  rw [maskOf_getLsbD]
  simp only [Bool.and_eq_true, decide_eq_true_eq, List.mem_filter, mem_lanesOf, beq_iff_eq]
  exact ⟨fun ⟨hl, hm, hp⟩ => ⟨hl, hm.2, hp⟩, fun ⟨hl, hm, hp⟩ => ⟨hl, ⟨hl, hm⟩, hp⟩⟩

/-- The guard of a lane: the predicate, or its negation under GN (R144). -/
theorem guard_getLsbD (p : LaneMask) (gn : Bool) {l : Nat} (hl : l < 32) : (if gn then ~~~p else p).getLsbD l = (p.getLsbD l != gn) := by
  cases gn <;> simp [hl]

end Sys2Proof.Machine

namespace Sys2Proof

open Machine

/-- Settles O10: the lanes of an issue, read from what `issue?` computes. -/
theorem issueChoosesLanes : Obligations.IssueChoosesLanes := by
  unfold Obligations.IssueChoosesLanes
  intro s h i hi
  obtain ⟨-, -, hel, hpc, hact, hexe⟩ := issue?_some hi
  refine ⟨fun l => ?_, fun l hl => ?_, ?_, fun l hl => ?_⟩
  · rw [hact, Group.lanesAt_getLsbD]
  · rw [hpc]
    exact i.g.pcMin_le hl
  · obtain ⟨l, hl, at_min⟩ := i.g.exists_pcMin hel
    refine ⟨l, ?_⟩
    rw [hact, Group.lanesAt_getLsbD]
    exact ⟨maskOf_and_lane l hl, hl, at_min.trans hpc.symm⟩
  · rw [hexe, BitVec.getLsbD_and, guard_getLsbD _ _ hl]

end Sys2Proof
end

section
/-! SUPPORT. The advance of an issue and the tests that follow its effect (R24, R25, R27). -/

namespace Sys2Proof.Machine

theorem State.modGroup_some {s : State} {gk : Nat} {g : Group} (hg : s.group? gk = some g) (f : Group → Group) :
    s.modGroup gk f = s.setGroup gk (f g) := by
  unfold State.modGroup
  rw [hg]

theorem Group.ended_iff (g : Group) : g.ended = true ↔ g.exited = 0xFFFFFFFF ∧ g.lc = 0 ∧ g.sc = 0 ∧ g.cc = 0 ∧ g.tc = 0 := by
  simp only [Group.ended, Bool.and_eq_true, decide_eq_true_eq, and_assoc]

theorem Group.releaseAll_ended (g : Group) : g.releaseAll.ended = g.ended := by
  rw [Group.releaseAll_eq]
  rfl

/-! ### What the advance leaves -/

theorem issued_frame (s : State) (i : Issue) (h : Hdr) (len opc : Nat) : IssueFrame s (issued s i h len opc) i.gk := by
  have rest : { issued s i h len opc with groups := s.groups, cores := s.cores } = s := by
    simp only [issued, State.setGroup, State.fireIssue, State.modCore, State.setCore]
  have cores : ∀ c, ((issued s i h len opc).core c).withCounts (s.core c) = s.core c :=
    fireIssue_core (s.setGroup i.gk (s.advance i h len opc)) i opc
  refine ⟨rest, fun k hk => ?_, cores, readByte_of_rest rest cores⟩
  simp [issued, State.group?, kget_kset_ne _ _ hk, State.fireIssue, State.modCore]

theorem issued_advanced (s : State) (i : Issue) (h : Hdr) (len opc : Nat) : (issued s i h len opc).group? i.gk = some (s.advance i h len opc) :=
  issued_group ..

/-- The counters after the advance, before any barrier is tested. -/
theorem advance_advanced {s : State} {h : Hdr} {i : Issue} (hi : s.issue? h = some i) (len opc : Nat) :
    Advanced i h len (s.advance i h len opc) := by
  refine ⟨fun l hl => ?_, fun l _ hl _ => ?_, fun hw => advance_epcv s i h len opc hw⟩
  · rw [advance_pcv, sget_setLanes, if_pos ⟨(issue?_act hi l hl).1, hl⟩]
  · rw [advance_pcv, sget_setLanes, if_neg (by simp [hl])]

/-! ### The tests after the effect -/

/-- A group that neither ends nor takes a stop goes on (R25). -/
theorem maybeEnd_goes_on {s : State} {gk : Nat} {g : Group} (hg : s.group? gk = some g) (he : g.ended = false) (hs : g.stopEv = none) :
    s.maybeEnd gk = s := by
  unfold State.maybeEnd
  simp only [hg, he, hs, Bool.false_eq_true, if_false]

theorem finish_goes_on {s : State} {gk : Nat} {g : Group} (hg : s.group? gk = some g) (he : g.ended = false) (hs : g.stopEv = none) :
    s.finish gk = s.setGroup gk g.releaseAll := by
  unfold State.finish
  rw [State.modGroup_some hg]
  exact maybeEnd_goes_on (g := g.releaseAll) (by simp) (by rw [Group.releaseAll_ended, he]) (by simp [hs])

/-- A group that ends leaves its slot empty (R25). -/
theorem endGroup_group {s : State} (gk : Nat) : (s.endGroup gk).group? gk = none := by
  unfold State.endGroup
  split
  · assumption
  · dsimp only
    rw [((haltDone_undisturbed ..).group_none gk), ((tokenBack_undisturbed ..).group_none gk), ((unask_undisturbed ..).group_none gk)]
    simp

theorem maybeEnd_ended {s : State} {gk : Nat} {g : Group} (hg : s.group? gk = some g) (he : g.ended = true) :
    (s.maybeEnd gk).group? gk = none := by
  unfold State.maybeEnd
  simp only [hg, he, if_true]
  exact endGroup_group gk

theorem finish_ended {s : State} {gk : Nat} {g : Group} (hg : s.group? gk = some g) (he : g.ended = true) :
    (s.finish gk).group? gk = none := by
  unfold State.finish
  rw [State.modGroup_some hg]
  exact maybeEnd_ended (g := g.releaseAll) (by simp) (by rw [Group.releaseAll_ended, he])

end Sys2Proof.Machine

namespace Sys2Proof

open Machine

/-- Settles O11: the advance changes the group and the counts of its core, and the tests after the effect release its barriers or end it. -/
theorem issueAdvances : Obligations.IssueAdvances := by
  unfold Obligations.IssueAdvances
  refine ⟨fun s h i len opc hi => ?_, fun s gk g hg hs hn => ?_, fun s gk g hg he => ?_⟩
  · exact ⟨issued_frame .., _, issued_advanced .., advance_moved .., advance_advanced hi len opc⟩
  · rw [← Group.ended_iff, Bool.not_eq_true] at hn
    exact finish_goes_on hg hn hs
  · exact finish_ended hg ((Group.ended_iff g).mpr he)

end Sys2Proof
end

section
/-! SUPPORT. The release test of the barriers, barrier by barrier (R26, R27): what stands in each mask after it, and which waiting lanes
it moves on. -/

namespace Sys2Proof.Machine

/-- Every live lane that is enrolled at the barrier waits there: the test releases it (R27). -/
def Group.allWait (g : Group) (b : Nat) : Bool := sget g.rmask b &&& g.live &&& ~~~sget g.rwait b == 0

theorem Group.release1_rmask (g : Group) (b c : Nat) :
    sget (g.release1 b).rmask c = if c = b then (if g.allWait b then 0 else sget g.rmask b &&& g.live) else sget g.rmask c := by
  simp only [Group.release1, Group.allWait, beq_iff_eq]
  split <;> simp only [sget_sset]

theorem Group.release1_rwait (g : Group) (b c : Nat) :
    sget (g.release1 b).rwait c = if c = b ∧ g.allWait b then 0 else sget g.rwait c := by
  simp only [Group.release1, Group.allWait, beq_iff_eq]
  split
  · rename_i h
    simp only [sget_sset, h, and_true]
  · rename_i h
    simp only [h, and_false, if_false]

theorem Group.release1_pcv (g : Group) (b l : Nat) :
    sget (g.release1 b).pcv l = if (sget g.rwait b).getLsbD l = true ∧ g.allWait b then sget g.pcv l + 8 else sget g.pcv l := by
  simp only [Group.release1, Group.allWait, beq_iff_eq]
  split
  · rename_i h
    simp only [sget_setLanes, h, and_true]
    exact if_congr (and_iff_right_of_imp (maskOf_and_lane l)) rfl rfl
  · rename_i h
    simp only [h, and_false, if_false]

theorem Group.release1_live (g : Group) (b : Nat) : (g.release1 b).live = g.live := by
  rw [Group.release1_eq]
  rfl

/-- The test of one barrier says nothing of another. -/
theorem Group.release1_allWait (g : Group) {b c : Nat} (h : c ≠ b) : (g.release1 b).allWait c = g.allWait c := by
  unfold Group.allWait
  rw [Group.release1_rmask, Group.release1_rwait, Group.release1_live, if_neg h, if_neg (fun e => h e.1)]

section
variable {l : List Nat} (g : Group) {b : Nat}

theorem Group.release_fold_rmask (hd : l.Nodup) : sget (l.foldl (fun g b => g.release1 b) g).rmask b =
    if b ∈ l then (if g.allWait b then 0 else sget g.rmask b &&& g.live) else sget g.rmask b := by
  induction l generalizing g with
  | nil => rfl
  | cons c r ih =>
    obtain ⟨hc, hr⟩ := List.nodup_cons.mp hd
    rw [List.foldl_cons, ih _ hr]
    by_cases h : b = c
    · subst h
      simp only [hc, if_false, List.mem_cons_self, if_true, Group.release1_rmask]
    · simp only [List.mem_cons, h, false_or, Group.release1_rmask, Group.release1_live, Group.release1_allWait g h, if_false]

theorem Group.release_fold_rwait (hd : l.Nodup) : sget (l.foldl (fun g b => g.release1 b) g).rwait b =
    if b ∈ l ∧ g.allWait b then 0 else sget g.rwait b := by
  induction l generalizing g with
  | nil => simp
  | cons c r ih =>
    obtain ⟨hc, hr⟩ := List.nodup_cons.mp hd
    rw [List.foldl_cons, ih _ hr]
    by_cases h : b = c
    · subst h
      simp only [hc, false_and, if_false, List.mem_cons_self, true_and, Group.release1_rwait]
    · simp only [List.mem_cons, h, false_or, Group.release1_rwait, Group.release1_allWait g h, false_and, if_false]

/-- A lane that waits at no other barrier moves on with the release of the one where it waits. -/
theorem Group.release_fold_pcv {lane : Nat} (hd : l.Nodup) (ho : ∀ c, c ≠ b → (sget g.rwait c).getLsbD lane = false) :
    sget (l.foldl (fun g b => g.release1 b) g).pcv lane =
      if b ∈ l ∧ (sget g.rwait b).getLsbD lane = true ∧ g.allWait b then sget g.pcv lane + 8 else sget g.pcv lane := by
  induction l generalizing g with
  | nil => simp
  | cons c r ih =>
    obtain ⟨hc, hr⟩ := List.nodup_cons.mp hd
    rw [List.foldl_cons, ih _ hr]
    · by_cases h : b = c
      · subst h
        simp only [hc, false_and, if_false, List.mem_cons_self, true_and, Group.release1_pcv]
      · simp only [List.mem_cons, h, false_or, Group.release1_rwait, Group.release1_pcv, Group.release1_allWait g h, false_and, if_false,
          ho c (Ne.symm h), Bool.false_eq_true]
    · intro d hd
      rw [Group.release1_rwait]
      split
      · simp
      · exact ho d hd

theorem Group.releaseAll_rmask : sget g.releaseAll.rmask b =
    if b < 8 then (if g.allWait b then 0 else sget g.rmask b &&& g.live) else sget g.rmask b := by
  unfold Group.releaseAll
  rw [Group.release_fold_rmask g List.nodup_range]
  simp only [List.mem_range]

theorem Group.releaseAll_rwait : sget g.releaseAll.rwait b = if b < 8 ∧ g.allWait b then 0 else sget g.rwait b := by
  unfold Group.releaseAll
  rw [Group.release_fold_rwait g List.nodup_range]
  simp only [List.mem_range]

theorem Group.releaseAll_pcv_of_waiting {lane : Nat} (ho : ∀ c, c ≠ b → (sget g.rwait c).getLsbD lane = false) :
    sget g.releaseAll.pcv lane =
      if b < 8 ∧ (sget g.rwait b).getLsbD lane = true ∧ g.allWait b then sget g.pcv lane + 8 else sget g.pcv lane := by
  unfold Group.releaseAll
  rw [Group.release_fold_pcv g List.nodup_range ho]
  simp only [List.mem_range]

/-- The test enrols nobody. -/
theorem Group.releaseAll_rmask_le {lane : Nat} (h : (sget g.releaseAll.rmask b).getLsbD lane = true) : (sget g.rmask b).getLsbD lane = true := by
  rw [Group.releaseAll_rmask] at h
  split at h
  · split at h
    · simp at h
    · rw [BitVec.getLsbD_and, Bool.and_eq_true] at h
      exact h.1
  · exact h

/-- The test makes nobody wait. -/
theorem Group.releaseAll_rwait_le {lane : Nat} (h : (sget g.releaseAll.rwait b).getLsbD lane = true) : (sget g.rwait b).getLsbD lane = true := by
  rw [Group.releaseAll_rwait] at h
  split at h
  · simp at h
  · exact h

/-- A live lane that is enrolled at a barrier and does not wait there stays enrolled. -/
theorem Group.releaseAll_rmask_of_not_waiting {lane : Nat} (hm : (sget g.rmask b).getLsbD lane = true) (he : g.exited.getLsbD lane = false)
    (hw : (sget g.rwait b).getLsbD lane = false) : (sget g.releaseAll.rmask b).getLsbD lane = true := by
  have in_range := maskOf_and_lane lane hm
  have live : g.live.getLsbD lane = true := by
    rw [Group.live, BitVec.getLsbD_not, he]
    simpa using in_range
  have awaited : g.allWait b = false := by
    refine Bool.eq_false_iff.mpr fun h => ?_
    have e := congrArg (fun m => BitVec.getLsbD m lane) (eq_of_beq h)
    simp only [BitVec.getLsbD_and, BitVec.getLsbD_not, hm, live, hw, in_range] at e
    simp at e
  rw [Group.releaseAll_rmask, awaited]
  split
  · rw [if_neg Bool.false_ne_true, BitVec.getLsbD_and, hm, live, Bool.and_self]
  · exact hm

end

end Sys2Proof.Machine
end

section
/-! SUPPORT. What an issue leaves where its group can end with it, where it faults, and where something holds it (R24, R205, R416). -/

namespace Sys2Proof.Machine

theorem IssueFrame.setGroup {s t : State} {gk : Nat} (h : IssueFrame s t gk) (g : Group) : IssueFrame s (t.setGroup gk g) gk := by
  have rest : { t.setGroup gk g with groups := s.groups, cores := s.cores } = s := h.rest
  have cores : ∀ c, ((t.setGroup gk g).core c).withCounts (s.core c) = s.core c := h.cores
  exact ⟨rest, fun k hk => by rw [State.group_setGroup, if_neg hk, h.groups k hk], cores, readByte_of_rest rest cores⟩

/-- An instruction that names no register can use those that it names. -/
theorem Issue.free_nil (i : Issue) (always : Bool) : i.Free always [] [] :=
  ⟨fun _ r hr => absurd hr (List.not_mem_nil), fun o _ _ _ => by
    split
    · exact List.not_mem_nil
    · exact ⟨List.not_mem_nil, fun _ => List.not_mem_nil⟩⟩

section
variable {s : State} {h : Hdr} {i : Issue} (sp : Spec) {faults : State → Issue → List Flt} {hold : State → Issue → Option State}

/-- An effect on the group alone after which the group goes on. -/
theorem perform_goes_on (f : Issue → Group → Group) (hi : s.issue? h = some i) (hx : sp.noTx = true → i.exe &&& i.g.intx = 0)
    (hf : i.common sp ++ faults s i = []) (hw : ((i.exe != 0 || sp.always) && i.waitsReg sp) = false)
    (ha : sp.access = true → i.exe ≠ 0 → i.g.acquiring = false) (hh : hold s i = none)
    (he : (f i (s.advance i h sp.len sp.opc)).ended = false) (hs : (f i (s.advance i h sp.len sp.opc)).stopEv = none) :
    Completes s i (perform s h sp faults hold (onGroup f)) (fun g => g = (f i (s.advance i h sp.len sp.opc)).releaseAll) := by
  have moved := State.modGroup_some (issued_advanced s i h sp.len sp.opc) (f i)
  refine ⟨_, _, perform_next sp faults hold (onGroup f) hi hx hf hw ha hh, ?_, ?_, rfl⟩
  all_goals
    rw [← issued, onGroup, moved, finish_goes_on (g := f i (s.advance i h sp.len sp.opc)) (by simp) he hs]
  · exact ((issued_frame ..).setGroup _).setGroup _
  · simp

/-- An effect on the group alone after which it has ended. -/
theorem perform_ends (f : Issue → Group → Group) (hi : s.issue? h = some i) (hx : sp.noTx = true → i.exe &&& i.g.intx = 0)
    (hf : i.common sp ++ faults s i = []) (hw : ((i.exe != 0 || sp.always) && i.waitsReg sp) = false)
    (ha : sp.access = true → i.exe ≠ 0 → i.g.acquiring = false) (hh : hold s i = none)
    (he : (f i (s.advance i h sp.len sp.opc)).ended = true) :
    ∃ t, perform s h sp faults hold (onGroup f) = .next t ∧ t.group? i.gk = none := by
  have moved := State.modGroup_some (issued_advanced s i h sp.len sp.opc) (f i)
  refine ⟨_, perform_next sp faults hold (onGroup f) hi hx hf hw ha hh, ?_⟩
  rw [← issued, onGroup, moved]
  exact finish_ended (g := f i (s.advance i h sp.len sp.opc)) (by simp) he

/-- One illegal use parks the group (R411, R416). -/
theorem perform_fault (effect : State → Issue → State) {f : Flt} (hi : s.issue? h = some i) (hx : sp.noTx = true → i.exe &&& i.g.intx = 0)
    (hf : i.common sp ++ faults s i = [f]) (hw : ((i.exe != 0 || sp.always) && i.waitsReg sp) = false) :
    perform s h sp faults hold effect = .next (s.freeze i.gk f.event f.subc sp.opc f.lanes i.pc) := by
  unfold perform
  rw [hi]
  simp only [illegal_none i sp hx, hw, hf, State.pickFault, Bool.false_eq_true, if_false]

/-- An instruction that something holds stalls at issue (R205). -/
theorem perform_held (effect : State → Issue → State) {u : State} (hi : s.issue? h = some i) (hx : sp.noTx = true → i.exe &&& i.g.intx = 0)
    (hf : i.common sp ++ faults s i = []) (hw : ((i.exe != 0 || sp.always) && i.waitsReg sp) = false)
    (ha : sp.access = true → i.exe ≠ 0 → i.g.acquiring = false) (hh : hold s i = some u) : perform s h sp faults hold effect = .next u := by
  have acc : (sp.access && i.exe != 0 && i.g.acquiring) = false := by
    cases h1 : sp.access
    · rfl
    · by_cases h2 : i.exe = 0
      · simp [h2]
      · simp [ha h1 h2]
  unfold perform
  rw [hi]
  simp only [illegal_none i sp hx, hw, hf, State.pickFault, hh, acc, Bool.or_false, Bool.false_eq_true, if_false]

end

end Sys2Proof.Machine
end

section
/-! SUPPORT. What the advance of an issue leaves of the fields that ENROL, REJOIN, YIELD, EXIT and WAIT speak of (R25 to R28). -/

namespace Sys2Proof.Machine

section
variable (s : State) (i : Issue) (h : Hdr) (len opc : Nat)

theorem advance_rmask : (s.advance i h len opc).rmask = i.g.rmask := by
  unfold State.advance Group.enterRegion
  dsimp only
  split
  · split <;> rfl
  · rfl
theorem advance_lc : (s.advance i h len opc).lc = i.g.lc := (congrArg Group.lc (advance_moved s i h len opc) :)
theorem advance_sc : (s.advance i h len opc).sc = i.g.sc := (congrArg Group.sc (advance_moved s i h len opc) :)
theorem advance_cc : (s.advance i h len opc).cc = i.g.cc := (congrArg Group.cc (advance_moved s i h len opc) :)
theorem advance_tc : (s.advance i h len opc).tc = i.g.tc := (congrArg Group.tc (advance_moved s i h len opc) :)

end

/-- A group with a lane that has not exited goes on (R25). -/
theorem Group.ended_of_alive {g : Group} (h : g.exited ≠ 0xFFFFFFFF) : g.ended = false :=
  Bool.eq_false_iff.mpr fun e => h ((Group.ended_iff g).mp e).1

/-- An issuing lane waits at no barrier. -/
theorem issue?_not_waiting {s : State} {h : Hdr} {i : Issue} (hi : s.issue? h = some i) {l : Nat} (ha : i.act.getLsbD l = true) (b : Nat) :
    (sget i.g.rwait b).getLsbD l = false :=
  Group.rejoining_getLsbD _ b l (eligible_lane (issue?_act hi l ha).2.1).2.1

theorem Completes.imp {s : State} {i : Issue} {out : Host.Outcome State Fault Refusal} {P Q : Group → Prop} (hc : Completes s i out P)
    (hpq : ∀ g, P g → Q g) : Completes s i out Q := by
  obtain ⟨t, g, ht, frame, hg, hp⟩ := hc
  exact ⟨t, g, ht, frame, hg, hpq g hp⟩

/-- An instruction that every role may issue, that names no register, and that no transaction and no acquire keeps back. -/
structure Spec.Plain (sp : Spec) : Prop where
  roles : sp.roles = [.copy, .matrix, .general, .lodge]
  v : sp.v = []
  s : sp.s = []
  noTx : sp.noTx = false
  access : sp.access = false

/-- Such an instruction, without a fault or a stall of its own, where its effect on the group makes no lane exit and asks for no stop. -/
theorem performPlain_goes_on {s : State} {h : Hdr} {i : Issue} (sp : Spec) (f : Issue → Group → Group) (hi : s.issue? h = some i)
    (plain : sp.Plain) (he : ∀ g, (f i g).exited = g.exited) (hs : ∀ g, (f i g).stopEv = g.stopEv) :
    Completes s i (perform s h sp noFaults noHold (onGroup f)) (fun g => g = (f i (s.advance i h sp.len sp.opc)).releaseAll) := by
  have free : i.Free sp.always sp.v sp.s := by
    rw [plain.v, plain.s]
    exact i.free_nil sp.always
  have alive : (f i (s.advance i h sp.len sp.opc)).exited ≠ 0xFFFFFFFF := by
    rw [he, advance_exited]
    exact issue?_alive hi
  exact perform_goes_on sp f hi (fun e => absurd (plain.noTx.symm.trans e) Bool.false_ne_true)
    (by rw [free.common (allRoles _ _ plain.roles)]; rfl) free.waits (fun e => absurd (plain.access.symm.trans e) Bool.false_ne_true) rfl
    (Group.ended_of_alive alive) (by rw [hs, advance_stopEv, issue?_stopEv hi])

/-- An instruction without an effect moves its group past it. -/
theorem performKeeps_movesPast {s : State} {h : Hdr} {i : Issue} (sp : Spec) {faults : State → Issue → List Flt}
    {hold : State → Issue → Option State} (hi : s.issue? h = some i) (hx : sp.noTx = true → i.exe &&& i.g.intx = 0)
    (hf : i.common sp ++ faults s i = []) (hw : ((i.exe != 0 || sp.always) && i.waitsReg sp) = false)
    (ha : sp.access = true → i.exe ≠ 0 → i.g.acquiring = false) (hh : hold s i = none) :
    Claims.MovesPast (perform s h sp faults hold (fun t _ => t)) s i h sp.len := by
  have alive : (s.advance i h sp.len sp.opc).ended = false := Group.ended_of_alive (by
    rw [advance_exited]
    exact issue?_alive hi)
  have stop : (s.advance i h sp.len sp.opc).stopEv = none := (advance_stopEv ..).trans (issue?_stopEv hi)
  refine ⟨_, (s.advance i h sp.len sp.opc).releaseAll, perform_next sp faults hold (fun t _ => t) hi hx hf hw ha hh, ?_, ?_, ?_⟩
  · rw [← issued, finish_goes_on (issued_advanced ..) alive stop]
    exact (issued_frame ..).setGroup _
  · rw [← issued, finish_goes_on (issued_advanced ..) alive stop]
    simp
  · exact ⟨(withMoved_releaseAll ..).trans (advance_moved ..), advanced_of hi _ _ _ rfl rfl (advance_rwait ..)⟩

/-! ### EXIT (R25) -/

theorem exit_exited (g : Group) (m : LaneMask) : (g.exit m).exited = g.exited ||| m := by
  rw [Group.exit, Group.releaseAll_exited]

theorem exit_stopEv (g : Group) (m : LaneMask) : (g.exit m).stopEv = g.stopEv := by
  rw [Group.exit, Group.releaseAll_stopEv]

theorem exit_ended (g : Group) (m : LaneMask) :
    (g.exit m).ended = true ↔ g.exited ||| m = 0xFFFFFFFF ∧ g.lc = 0 ∧ g.sc = 0 ∧ g.cc = 0 ∧ g.tc = 0 := by
  rw [Group.exit, Group.releaseAll_ended, Group.ended_iff]

/-- EXIT changes the lanes that have exited, those of a handler and those that wait in MWAIT, and what every issue moves. -/
theorem exit_moved {g r : Group} {m : LaneMask} (h : g.withMoved r = r) :
    { (g.exit m).withMoved r with exited := r.exited, hmask := r.hmask, mwait := r.mwait } = r := by
  rw [Group.exit, withMoved_releaseAll]
  exact congrArg (fun x : Group => { x with exited := r.exited, hmask := r.hmask, mwait := r.mwait }) h

/-! ### The effects -/

/-- What ENROL makes of the group that has advanced (R26). -/
def Group.enrolled (i : Issue) (g : Group) (b p : Nat) : Group := { g with rmask := sset g.rmask b (sget g.rmask b ||| (i.exe &&& i.g.pr p)) }

/-- What REJOIN makes of the group that has advanced, before the test of its barrier (R26). -/
def Group.rejoined (i : Issue) (g : Group) (b : Nat) : Group :=
  { g with rwait := sset g.rwait b (sget g.rwait b ||| (i.exe &&& sget g.rmask b)),
           pcv := setLanes g.pcv (i.exe &&& sget g.rmask b) (fun _ => BitVec.ofNat 32 i.pc) }

theorem Group.enrolled_rmask (i : Issue) (g : Group) (b p c : Nat) :
    sget (g.enrolled i b p).rmask c = if c = b then sget g.rmask b ||| (i.exe &&& i.g.pr p) else sget g.rmask c := sget_sset ..

theorem Group.rejoined_rwait (i : Issue) (g : Group) (b c : Nat) :
    sget (g.rejoined i b).rwait c = if c = b then sget g.rwait b ||| (i.exe &&& sget g.rmask b) else sget g.rwait c := sget_sset ..

theorem Group.rejoined_pcv (i : Issue) (g : Group) (b l : Nat) :
    sget (g.rejoined i b).pcv l = if (i.exe &&& sget g.rmask b).getLsbD l = true then BitVec.ofNat 32 i.pc else sget g.pcv l :=
  (sget_setLanes ..).trans (if_congr (and_iff_right_of_imp (maskOf_and_lane l)) rfl rfl)

section
variable {s : State} {h : Hdr} {i : Issue} (hi : s.issue? h = some i) {len opc b : Nat}
include hi

/-- The lanes that ENROL names are enrolled, and the release test leaves them so. -/
theorem enrolled_stay {p l : Nat} (he : i.exe.getLsbD l = true) (hp : (i.g.pr p).getLsbD l = true) :
    (sget ((s.advance i h len opc).enrolled i b p).releaseAll.rmask b).getLsbD l = true := by
  have ha := issue?_exe hi l he
  refine Group.releaseAll_rmask_of_not_waiting _ ?_ ?_ ?_
  · rw [Group.enrolled_rmask, if_pos rfl, BitVec.getLsbD_or, BitVec.getLsbD_and, he, hp, Bool.and_self, Bool.or_true]
  · exact (congrArg (BitVec.getLsbD · l) (advance_exited s i h len opc)).trans (eligible_lane (issue?_act hi l ha).2.1).1
  · exact (congrArg (fun m => BitVec.getLsbD (sget m b) l) (advance_rwait s i h len opc)).trans (issue?_not_waiting hi ha b)

omit hi in
/-- The test of the barrier of a REJOIN asks for the lanes that waited and those that the REJOIN adds. -/
theorem rejoined_allWait : ((s.advance i h len opc).rejoined i b).allWait b = true ↔
    sget i.g.rmask b &&& ~~~i.g.exited &&& ~~~(sget i.g.rwait b ||| (i.exe &&& sget i.g.rmask b)) = 0 := by
  have live : ((s.advance i h len opc).rejoined i b).live = ~~~i.g.exited := congrArg (~~~·) (advance_exited s i h len opc)
  have mask : ((s.advance i h len opc).rejoined i b).rmask = i.g.rmask := advance_rmask s i h len opc
  rw [Group.allWait, beq_iff_eq, Group.rejoined_rwait, if_pos rfl, live, mask, advance_rwait, advance_rmask]

/-- A lane that issues waits, after a REJOIN, at the barrier of that REJOIN alone. -/
theorem rejoined_waits_once {l : Nat} (ha : i.act.getLsbD l = true) (c : Nat) (hc : c ≠ b) :
    (sget ((s.advance i h len opc).rejoined i b).rwait c).getLsbD l = false := by
  rw [Group.rejoined_rwait, if_neg hc, advance_rwait]
  exact issue?_not_waiting hi ha c

/-- Where an issuing lane stands after a REJOIN and the release test. -/
theorem rejoined_released_pcv {l : Nat} (ha : i.act.getLsbD l = true) (hb : b < 8) :
    sget ((s.advance i h len opc).rejoined i b).releaseAll.pcv l =
      if (i.exe &&& sget i.g.rmask b).getLsbD l = true
      then if ((s.advance i h len opc).rejoined i b).allWait b then BitVec.ofNat 32 i.pc + 8 else BitVec.ofNat 32 i.pc
      else BitVec.ofNat 32 (i.pc + len) := by
  have stands : sget (s.advance i h len opc).pcv l = BitVec.ofNat 32 (i.pc + len) := (advance_advanced hi len opc).act l ha
  rw [Group.releaseAll_pcv_of_waiting (b := b) _ (rejoined_waits_once hi ha), Group.rejoined_rwait, if_pos rfl, Group.rejoined_pcv, stands,
    advance_rmask, advance_rwait, BitVec.getLsbD_or, issue?_not_waiting hi ha b, Bool.false_or]
  by_cases hw : (i.exe &&& sget i.g.rmask b).getLsbD l = true
  · simp only [hw, hb, true_and, if_true]
  · rw [Bool.not_eq_true] at hw
    simp only [hw, Bool.false_eq_true, false_and, and_false, if_false]

end

end Sys2Proof.Machine

namespace Sys2Proof

open Machine

/-- ENROL (R26). -/
theorem enrol_completes {s : State} {h : Hdr} {i : Issue} (o : JOps) (hi : s.issue? h = some i) :
    Completes s i (exec (.enrol h o) s) (fun g => g.withMoved i.g = i.g ∧ Advanced i h 8 g ∧
      (∀ l, i.exe.getLsbD l = true → (i.g.pr (fld o.d 2 0)).getLsbD l = true → (sget g.rmask o.bar.toNat).getLsbD l = true) ∧
      (∀ b l, (sget g.rmask b).getLsbD l = true → (sget i.g.rmask b).getLsbD l = true ∨
        (b = o.bar.toNat ∧ i.exe.getLsbD l = true ∧ (i.g.pr (fld o.d 2 0)).getLsbD l = true)) ∧
      ∀ b l, (sget g.rwait b).getLsbD l = true → (sget i.g.rwait b).getLsbD l = true) := by
  have enrols := performPlain_goes_on { len := 8, opc := 0x06 } (fun i g => g.enrolled i o.bar.toNat (fld o.d 2 0)) hi ⟨rfl, rfl, rfl, rfl, rfl⟩
    (fun _ => rfl) (fun _ => rfl)
  refine Completes.imp enrols ?_
  rintro g rfl
  refine ⟨?_, advanced_of hi 8 0x06 _ rfl rfl (advance_rwait s i h 8 0x06), fun l => enrolled_stay hi, fun b l hm => ?_, fun b l hw => ?_⟩
  · rw [withMoved_releaseAll]
    exact advance_moved s i h 8 0x06
  · have before := Group.releaseAll_rmask_le _ hm
    rw [Group.enrolled_rmask, advance_rmask] at before
    split at before
    · rename_i hb
      subst hb
      rw [BitVec.getLsbD_or, BitVec.getLsbD_and, Bool.or_eq_true, Bool.and_eq_true] at before
      exact before.imp_right (fun e => ⟨rfl, e⟩)
    · exact .inl before
  · have before := Group.releaseAll_rwait_le _ hw
    exact advance_rwait s i h 8 0x06 ▸ before

/-- REJOIN (R26, R27). -/
theorem rejoin_completes {s : State} {h : Hdr} {i : Issue} (o : JOps) (hi : s.issue? h = some i) :
    let b := o.bar.toNat
    let enrolled := sget i.g.rmask b
    let waiting := sget i.g.rwait b ||| (i.exe &&& enrolled)
    Completes s i (exec (.rejoin h o) s) (fun g => g.withMoved i.g = i.g ∧
      (∀ l, i.act.getLsbD l = true → (i.exe &&& enrolled).getLsbD l = false → sget g.pcv l = BitVec.ofNat 32 (i.pc + 8)) ∧
      (enrolled &&& ~~~i.g.exited &&& ~~~waiting = 0 → sget g.rmask b = 0 ∧ sget g.rwait b = 0 ∧
        ∀ l, (i.exe &&& enrolled).getLsbD l = true → sget g.pcv l = BitVec.ofNat 32 i.pc + 8) ∧
      (enrolled &&& ~~~i.g.exited &&& ~~~waiting ≠ 0 → sget g.rwait b = waiting ∧
        ∀ l, (i.exe &&& enrolled).getLsbD l = true → sget g.pcv l = BitVec.ofNat 32 i.pc) ∧
      (∀ c l, (sget g.rmask c).getLsbD l = true → (sget i.g.rmask c).getLsbD l = true) ∧
      ∀ c l, c ≠ b → (sget g.rwait c).getLsbD l = true → (sget i.g.rwait c).getLsbD l = true) := by
  intro b enrolled waiting
  have hb : b < 8 := o.bar.isLt
  have rejoins := performPlain_goes_on { len := 8, opc := 0x07 } (fun i g => g.rejoined i b) hi ⟨rfl, rfl, rfl, rfl, rfl⟩
    (fun _ => rfl) (fun _ => rfl)
  have in_act : ∀ l, (i.exe &&& enrolled).getLsbD l = true → i.act.getLsbD l = true := fun l hl => by
    rw [BitVec.getLsbD_and, Bool.and_eq_true] at hl
    exact issue?_exe hi l hl.1
  refine Completes.imp rejoins ?_
  rintro g rfl
  have all := rejoined_allWait (s := s) (h := h) (i := i) (len := 8) (opc := 0x07) (b := b)
  refine ⟨?_, fun l ha hl => ?_, fun hz => ?_, fun hz => ?_, fun c l hm => ?_, fun c l hc hw => ?_⟩
  · rw [withMoved_releaseAll]
    exact advance_moved s i h 8 0x07
  · rw [rejoined_released_pcv hi ha hb, if_neg (by rw [hl]; exact Bool.false_ne_true)]
  · have released := all.mpr hz
    refine ⟨?_, ?_, fun l hl => ?_⟩
    · rw [Group.releaseAll_rmask, if_pos hb, if_pos released]
    · rw [Group.releaseAll_rwait, if_pos ⟨hb, released⟩]
    · rw [rejoined_released_pcv hi (in_act l hl) hb, if_pos hl, if_pos released]
  · have kept := mt all.mp hz
    refine ⟨?_, fun l hl => ?_⟩
    · rw [Group.releaseAll_rwait, if_neg (fun e => kept e.2), Group.rejoined_rwait, if_pos rfl, advance_rwait, advance_rmask]
    · rw [rejoined_released_pcv hi (in_act l hl) hb, if_pos hl, if_neg kept]
  · have before := Group.releaseAll_rmask_le _ hm
    exact advance_rmask s i h 8 0x07 ▸ before
  · have before := Group.releaseAll_rwait_le _ hw
    rwa [Group.rejoined_rwait, if_neg hc, advance_rwait] at before

/-- YIELD (R28). -/
theorem yield_completes {s : State} {h : Hdr} {i : Issue} (o : JOps) (hi : s.issue? h = some i) :
    Completes s i (exec (.yield h o) s) (fun g => g.withMoved i.g = i.g ∧ Advanced i h 8 g ∧ g.yielded = i.exe) := by
  have yields := performPlain_goes_on { len := 8, opc := 0x08 } (fun i g => { g with yielded := i.exe }) hi ⟨rfl, rfl, rfl, rfl, rfl⟩
    (fun _ => rfl) (fun _ => rfl)
  refine Completes.imp yields ?_
  rintro g rfl
  refine ⟨?_, advanced_of hi 8 0x08 _ rfl rfl (advance_rwait s i h 8 0x08), ?_⟩
  · rw [withMoved_releaseAll]
    exact advance_moved s i h 8 0x08
  · rw [Group.releaseAll_eq]

/-- EXIT of a group that goes on (R25, R209). -/
theorem exit_completes {s : State} {h : Hdr} {i : Issue} (o : JOps) (hi : s.issue? h = some i) (hx : i.exe &&& i.g.intx = 0)
    (hn : ¬(i.g.exited ||| i.exe = 0xFFFFFFFF ∧ i.g.lc = 0 ∧ i.g.sc = 0 ∧ i.g.cc = 0 ∧ i.g.tc = 0)) :
    Completes s i (exec (.exit h o) s) (fun g => g.exited = i.g.exited ||| i.exe ∧
      { g.withMoved i.g with exited := i.g.exited, hmask := i.g.hmask, mwait := i.g.mwait } = i.g) := by
  have free := i.free_nil false
  have goes_on : ((s.advance i h 8 0x09).exit i.exe).ended = false := by
    rw [← Bool.not_eq_true, exit_ended, advance_exited, advance_lc, advance_sc, advance_cc, advance_tc]
    exact hn
  have exits := perform_goes_on { len := 8, opc := 0x09, noTx := true } (faults := noFaults) (hold := noHold) (fun i g => g.exit i.exe) hi
    (fun _ => hx) (by rw [free.common (allRoles _ _ rfl)]; rfl) free.waits (fun e => absurd e Bool.false_ne_true) rfl goes_on
    ((exit_stopEv ..).trans ((advance_stopEv s i h 8 0x09).trans (issue?_stopEv hi)))
  refine Completes.imp exits ?_
  rintro g rfl
  refine ⟨?_, ?_⟩
  · rw [Group.releaseAll_exited, exit_exited, advance_exited]
  · rw [withMoved_releaseAll]
    exact exit_moved (advance_moved s i h 8 0x09)

/-- EXIT of the last lanes of a group with its counters at zero (R25). -/
theorem exit_ends {s : State} {h : Hdr} {i : Issue} (o : JOps) (hi : s.issue? h = some i) (hx : i.exe &&& i.g.intx = 0)
    (he : i.g.exited ||| i.exe = 0xFFFFFFFF ∧ i.g.lc = 0 ∧ i.g.sc = 0 ∧ i.g.cc = 0 ∧ i.g.tc = 0) :
    ∃ t, exec (.exit h o) s = .next t ∧ t.group? i.gk = none := by
  have free := i.free_nil false
  have ends : ((s.advance i h 8 0x09).exit i.exe).ended = true := by
    rw [exit_ended, advance_exited, advance_lc, advance_sc, advance_cc, advance_tc]
    exact he
  exact perform_ends { len := 8, opc := 0x09, noTx := true } (faults := noFaults) (hold := noHold) (fun i g => g.exit i.exe) hi
    (fun _ => hx) (by rw [free.common (allRoles _ _ rfl)]; rfl) free.waits (fun e => absurd e Bool.false_ne_true) rfl ends

/-- The four limits of WAIT (R149, R210). -/
theorem waitMet_iff (g : Group) (d : BitVec 32) :
    waitMet g d = true ↔ g.lc ≤ fld d 5 0 ∧ g.sc ≤ fld d 11 6 ∧ g.cc ≤ fld d 17 12 ∧ g.tc ≤ fld d 23 18 := by
  simp only [waitMet, Bool.and_eq_true, decide_eq_true_eq, and_assoc]

/-- WAIT (R210). -/
theorem wait_completes {s : State} {h : Hdr} {i : Issue} (o : JOps) (hi : s.issue? h = some i) :
    (waitMet i.g o.disp = true → Claims.MovesPast (exec (.wait h o) s) s i h 8) ∧ (waitMet i.g o.disp = false → exec (.wait h o) s = .next s) := by
  have free := i.free_nil true
  have none_common := free.common (sp := { len := 8, opc := 0x0a, always := true }) (allRoles _ _ rfl)
  have run : exec (.wait h o) s = perform s h { len := 8, opc := 0x0a, always := true } noFaults
      (fun t j => if waitMet j.g o.disp then none else some t) (fun t _ => t) := rfl
  rw [run]
  refine ⟨fun met => ?_, fun unmet => ?_⟩
  · refine performKeeps_movesPast _ hi (fun e => absurd e Bool.false_ne_true) ?_ free.waits (fun e => absurd e Bool.false_ne_true) (if_pos met)
    rw [none_common]
    rfl
  · refine perform_held _ _ hi (fun e => absurd e Bool.false_ne_true) ?_ free.waits (fun e => absurd e Bool.false_ne_true)
      (if_neg (ne_true_of_eq_false unmet))
    rw [none_common]
    rfl

/-- Settles O13: each of the five instructions, its effect on the group followed by the release test of the barriers. -/
theorem lanesWaitAndLeave : Obligations.LanesWaitAndLeave := by
  unfold Obligations.LanesWaitAndLeave
  refine ⟨fun s h o i hi => enrol_completes o hi, fun s h o i hi => rejoin_completes o hi, fun s h o i hi => yield_completes o hi,
    fun s h o i hi hx => ⟨exit_completes o hi hx, exit_ends o hi hx⟩, fun s h o i hi => ?_⟩
  rw [← waitMet_iff, Bool.not_eq_true]
  exact wait_completes o hi

end Sys2Proof
end

section
/-! SUPPORT. What an effect on the group and its team leaves (R24, R63, R222), the words of a cleared block (R30), and whether a team
runs whole (R63). -/

namespace Sys2Proof

/-- A filter that asks for the key alone keeps what stands under the keys that it takes. -/
theorem sget_filter {w : Nat} (f : Nat → Bool) (m : SMap w) (k : Nat) : sget (m.filter (fun e => f e.1)) k = if f k then sget m k else 0 := by
  induction m with
  | nil => simp [sget]
  | cons e r ih =>
    obtain ⟨a, x⟩ := e
    by_cases ha : f a
    · rw [List.filter_cons_of_pos (p := fun e : Nat × BitVec w => f e.1) ha]
      by_cases hk : a = k
      · subst hk
        simp [sget, ha]
      · simp only [sget, hk, if_false, ih]
    · rw [List.filter_cons_of_neg (p := fun e : Nat × BitVec w => f e.1) ha, ih]
      by_cases hk : a = k
      · subst hk
        simp [ha]
      · simp only [sget, hk, if_false]

/-- A record that fails a test, in the place of one that fails it, leaves whether any passes. -/
theorem any_kset {α : Type} {m : KMap α} {k : Nat} {x y : α} (p : Nat × α → Bool) (hy : kget m k = some y) (py : p (k, y) = false)
    (px : p (k, x) = false) : (kset m k x).any p = m.any p := by
  induction m with
  | nil => simp [kget] at hy
  | cons e r ih =>
    obtain ⟨a, z⟩ := e
    rw [kset]
    split
    · rename_i ha
      rw [kget, if_neg (by omega)] at hy
      rw [List.any_cons, List.any_cons, ih hy]
    · split
      · rename_i ha
        rw [kget, if_pos ha, Option.some.injEq] at hy
        subst ha hy
        rw [List.any_cons, List.any_cons, px, py]
      · rw [List.any_cons, px, Bool.false_or]

end Sys2Proof

namespace Sys2Proof.Machine

/-- Bytes read as before where groups, teams and counts of issues alone change. -/
theorem readByte_of_teams {s t : State} (hr : { t with groups := s.groups, cores := s.cores, teams := s.teams } = s)
    (hcores : ∀ c, (t.core c).withCounts (s.core c) = s.core c) (p : Place) : t.readByte p = s.readByte p := by
  have rest : { t with groups := s.groups, cores := s.cores } = { s with teams := t.teams } :=
    congrArg (fun x : State => { x with teams := t.teams }) hr
  rw [readByte_of_rest (s := { s with teams := t.teams }) rest hcores]
  cases p <;> rfl

section
variable (s : State) (i : Issue) (h : Hdr) (len opc : Nat)

theorem issued_team (k : Nat) : (issued s i h len opc).team? k = s.team? k := rfl

end

/-- The running group that issues says nothing of whether its team runs whole. -/
theorem issued_teamWhole {s : State} {h : Hdr} {i : Issue} (hi : s.issue? h = some i) (len opc tk : Nat) :
    (issued s i h len opc).teamWhole tk = s.teamWhole tk := by
  obtain ⟨-, ⟨g, hg, running, -, -, -, hig⟩, -⟩ := issue?_some hi
  have issues : (s.advance i h len opc).st = .running := by
    refine (congrArg Group.st (advance_moved s i h len opc) :).trans ?_
    rw [hig]
    split <;> exact running
  unfold State.teamWhole
  rw [issued_team]
  congr 2
  exact any_kset _ hg (by simp [running]) (by simp [issues])

/-- An effect after which the group stands as after the advance moves it past the instruction. -/
theorem issued_finish_movesPast {s : State} {h : Hdr} {i : Issue} (hi : s.issue? h = some i) (len opc : Nat) :
    Claims.MovesPast (.next ((issued s i h len opc).finish i.gk)) s i h len := by
  have alive : (s.advance i h len opc).ended = false := Group.ended_of_alive (by
    rw [advance_exited]
    exact issue?_alive hi)
  have stop : (s.advance i h len opc).stopEv = none := (advance_stopEv ..).trans (issue?_stopEv hi)
  rw [finish_goes_on (issued_advanced ..) alive stop]
  exact ⟨_, (s.advance i h len opc).releaseAll, rfl, (issued_frame ..).setGroup _, by simp,
    (withMoved_releaseAll ..).trans (advance_moved ..), advanced_of hi _ _ _ rfl rfl (advance_rwait ..)⟩

/-- The frame of an effect on the group and the teams: other groups, and the cores but for their counts of issues. -/
structure TeamFrame (s t : State) (gk : Nat) : Prop where
  rest : { t with groups := s.groups, cores := s.cores, teams := s.teams } = s
  groups : ∀ k, k ≠ gk → t.group? k = s.group? k
  cores : ∀ c, (t.core c).withCounts (s.core c) = s.core c

theorem IssueFrame.team? {s t : State} {gk : Nat} (h : IssueFrame s t gk) (k : Nat) : t.team? k = s.team? k :=
  congrArg (kget · k) (congrArg State.teams h.rest :)

section
variable {s t : State} {gk : Nat}

theorem IssueFrame.teams (h : IssueFrame s t gk) : TeamFrame s t gk :=
  ⟨congrArg (fun x : State => { x with teams := s.teams }) h.rest, h.groups, h.cores⟩

namespace TeamFrame

variable (h : TeamFrame s t gk)
include h

/-- Every byte of memory and of the local spaces reads as before. -/
theorem bytes (p : Place) : t.readByte p = s.readByte p := readByte_of_teams h.rest h.cores p

theorem modTeam (tk : Nat) (f : Team → Team) : TeamFrame s (t.modTeam tk f) gk := by
  have rest : { t.modTeam tk f with groups := s.groups, cores := s.cores, teams := s.teams } = s := by
    unfold State.modTeam
    split
    · exact h.rest
    · exact h.rest
  exact ⟨rest, fun k hk => by rw [State.group_modTeam, h.groups k hk], fun c => by rw [State.core_modTeam, h.cores c]⟩

theorem setGroup (g : Group) : TeamFrame s (t.setGroup gk g) gk :=
  ⟨h.rest, fun k hk => by rw [State.group_setGroup, if_neg hk, h.groups k hk], h.cores⟩

theorem modGroup {g : Group} (hg : t.group? gk = some g) (f : Group → Group) :
    TeamFrame s (t.modGroup gk f) gk ∧ (t.modGroup gk f).group? gk = some (f g) := by
  rw [State.modGroup_some hg]
  exact ⟨h.setGroup _, by simp⟩

/-- The tests after an effect on the group and the teams, of a group that goes on. -/
theorem finish {g : Group} (hg : t.group? gk = some g) (he : g.ended = false) (hs : g.stopEv = none) :
    TeamFrame s (t.finish gk) gk ∧ (t.finish gk).group? gk = some g.releaseAll ∧ ∀ k, (t.finish gk).team? k = t.team? k := by
  rw [finish_goes_on hg he hs]
  exact ⟨h.setGroup _, by simp, fun _ => rfl⟩

end TeamFrame

end

/-- The words of a block are cleared, and those of the others stay (R30). -/
theorem clearBlock_vr (g : Group) (n r : Nat) {l : Nat} (hl : l < 32) : (g.clearBlock n).vr r l = if r / 64 = n then 0 else g.vr r l := by
  have block : (32 * r + l) / 2048 = r / 64 := by omega
  unfold Group.clearBlock Group.vr
  rw [sget_filter (fun k => k / 2048 != n), block]
  by_cases hn : r / 64 = n
  · simp [hn]
  · simp [hn]

/-- A block that is held stays so with its own bit (R31). -/
theorem held_or_of_mem {x : BitVec 4} {n : Nat} (h : x.getLsbD n = true) : x ||| BitVec.ofNat 4 (2 ^ n) = x := by
  apply BitVec.eq_of_getLsbD_eq
  intro j hj
  rw [BitVec.getLsbD_or, BitVec.getLsbD_ofNat, Nat.testBit_two_pow]
  by_cases e : n = j
  · subst e
    simp [h]
  · simp [e]

theorem held_and_of_not_mem {x : BitVec 4} {n : Nat} (h : x.getLsbD n = false) : x &&& ~~~BitVec.ofNat 4 (2 ^ n) = x := by
  apply BitVec.eq_of_getLsbD_eq
  intro j hj
  rw [BitVec.getLsbD_and, BitVec.getLsbD_not, BitVec.getLsbD_ofNat, Nat.testBit_two_pow]
  by_cases e : n = j
  · subst e
    simp [h]
  · simp [e, hj]

end Sys2Proof.Machine
end

section
/-! SUPPORT. Settles O16: FETCHW, SWITCHV, XACQ and XREL (R31, R39, R40, R45, R59, R63, R69, R220 to R222). -/

namespace Sys2Proof.Machine

/-- The stated effect where nothing stops the instruction. -/
theorem perform_effect {s : State} {h : Hdr} {i : Issue} (sp : Spec) {faults : State → Issue → List Flt} {hold : State → Issue → Option State}
    {effect : State → Issue → State} (hi : s.issue? h = some i) (hx : sp.noTx = true → i.exe &&& i.g.intx = 0)
    (free : i.Free sp.always sp.v sp.s) (hr : sp.roles.contains i.g.kind = true) (ha : sp.access = false)
    (hf : faults s i = []) (hh : hold s i = none) :
    perform s h sp faults hold effect = .next ((effect (issued s i h sp.len sp.opc) i).finish i.gk) :=
  perform_next sp faults hold effect hi hx (by rw [free.common hr, hf, List.append_nil]) free.waits
    (fun e => absurd (ha.symm.trans e) Bool.false_ne_true) hh

/-- The tests after an effect on the group alone, of a group that goes on. -/
theorem IssueFrame.finish {s u : State} {i : Issue} {g : Group} (frame : IssueFrame s u i.gk) (hg : u.group? i.gk = some g) (he : g.ended = false)
    (hs : g.stopEv = none) : Completes s i (.next (u.finish i.gk)) (fun x => x = g.releaseAll) := by
  rw [finish_goes_on hg he hs]
  exact ⟨_, g.releaseAll, rfl, frame.setGroup _, by simp, rfl⟩

theorem IssueFrame.modGroup {s t : State} {gk : Nat} {g : Group} (frame : IssueFrame s t gk) (hg : t.group? gk = some g) (f : Group → Group) :
    IssueFrame s (t.modGroup gk f) gk ∧ (t.modGroup gk f).group? gk = some (f g) := by
  rw [State.modGroup_some hg]
  exact ⟨frame.setGroup _, by simp⟩

theorem rejoining_of_rwait {g r : Group} (h : g.rwait = r.rwait) : g.rejoining = r.rejoining := by
  unfold Group.rejoining
  rw [h]

/-! ### FETCHW -/

/-- What the completion of a FETCHW makes of its group (R40, R220). -/
def Group.fetched (i : Issue) (g : Group) : Group := { g with fetchw := none }.setEntry i.exe (fun _ => BitVec.ofNat 32 (i.pc + 8))

section
variable {s : State} {h : Hdr} {i : Issue} (o : YOps) (hi : s.issue? h = some i)
include hi

theorem fetchw_effect (hk : i.g.kind = .lodge) (hx : i.exe &&& i.g.intx = 0) (hf : i.g.fetchw.isSome = true) :
    EffectIs (.fetchw h o) s i h 8 0x15 (fun u => (u.modGroup i.gk (fun g => { g with fetchw := none })).modGroup i.gk (fun g =>
      g.setEntry i.exe (fun _ => BitVec.ofNat 32 (i.pc + 8)))) := by
  show execFetchw h o s = _
  unfold execFetchw
  exact perform_effect _ hi (fun _ => hx) (i.free_nil true) (by rw [hk]; rfl) rfl rfl (if_pos hf)

theorem fetchw_held (hk : i.g.kind = .lodge) (hx : i.exe &&& i.g.intx = 0) (hf : i.g.fetchw = none) :
    exec (.fetchw h o) s = .next (if s.inn.fetch.any (fun f => f.gk == i.gk) then s
      else ((s.stamped i.gk 18).modGroup i.gk (fun g => { g with fetchAt := some (i.exe, BitVec.ofNat 32 (i.pc + 8)) })).setInn
        { s.inn with fetch := s.inn.fetch ++ [{ gk := i.gk, at_ := 2 * s.clock.now }] }) := by
  have free := i.free_nil true
  show execFetchw h o s = _
  unfold execFetchw
  refine perform_held _ _ hi (fun _ => hx) ?_ free.waits (fun e => absurd e Bool.false_ne_true) ?_
  · rw [free.common (by rw [hk]; rfl)]
    rfl
  · rw [hf]
    exact (apply_ite some ..).symm

theorem fetchw_completes (hk : i.g.kind = .lodge) (hx : i.exe &&& i.g.intx = 0) (hf : i.g.fetchw.isSome = true) :
    Completes s i (exec (.fetchw h o) s) (fun g => g.fetchw = none ∧
      { g.withMoved i.g with fetchw := i.g.fetchw } = i.g ∧
      (∀ l, i.act.getLsbD l = true → sget g.pcv l = BitVec.ofNat 32 (i.pc + 8)) ∧
      (∀ l, i.exe.getLsbD l = true → sget g.epcv l = BitVec.ofNat 32 (i.pc + 8)) ∧
      (h.w = false → ∀ l, l < 32 → i.exe.getLsbD l = false → sget g.epcv l = sget i.g.epcv l)) := by
  obtain ⟨frame₁, group₁⟩ := (issued_frame s i h 8 0x15).modGroup (issued_advanced ..) (fun g => { g with fetchw := none })
  obtain ⟨frame₂, group₂⟩ := frame₁.modGroup group₁ (fun g => g.setEntry i.exe (fun _ => BitVec.ofNat 32 (i.pc + 8)))
  have alive : ((s.advance i h 8 0x15).fetched i).exited ≠ 0xFFFFFFFF := (advance_exited s i h 8 0x15).trans_ne (issue?_alive hi)
  have stop : ((s.advance i h 8 0x15).fetched i).stopEv = none := (advance_stopEv s i h 8 0x15).trans (issue?_stopEv hi)
  have entry : ((s.advance i h 8 0x15).fetched i).releaseAll.epcv =
      setLanes (s.advance i h 8 0x15).epcv i.exe (fun _ => BitVec.ofNat 32 (i.pc + 8)) := by
    rw [Group.releaseAll_eq]
    rfl
  have done := frame₂.finish (g := (s.advance i h 8 0x15).fetched i) group₂ (Group.ended_of_alive alive) stop
  rw [fetchw_effect o hi hk hx hf]
  refine Completes.imp done ?_
  rintro g rfl
  refine ⟨?_, ?_, fun l hl => ?_, fun l hl => ?_, fun hw l h32 hl => ?_⟩
  · rw [Group.releaseAll_eq]
    rfl
  · rw [withMoved_releaseAll]
    exact congrArg (fun x : Group => { x with fetchw := i.g.fetchw }) (advance_moved s i h 8 0x15)
  · have waits : ((s.advance i h 8 0x15).fetched i).rejoining = i.g.rejoining := rejoining_of_rwait (advance_rwait s i h 8 0x15)
    rw [Group.releaseAll_pcv _ _ (by rw [waits]; exact (eligible_lane (issue?_act hi l hl).2.1).2.1)]
    exact (advance_advanced hi 8 0x15).act l hl
  · rw [entry, sget_setLanes, if_pos ⟨maskOf_and_lane l hl, hl⟩]
  · rw [entry, sget_setLanes, if_neg (by simp [hl]), advance_epcv _ _ _ _ _ hw]

end

/-- The delivery of a grant (R40, R59). -/
theorem deliver_leaves {s : State} {gk : Nat} {g : Group} {m : LaneMask} {off : BitVec 32} (hg : s.group? gk = some g)
    (ha : g.fetchAt = some (m, off)) :
    s.deliver gk = s.setGroup gk ({ g with fetchw := some (m, off), fetchAt := none }.setEntry m (fun _ => off)) := by
  unfold State.deliver
  rw [State.modGroup_some hg, ha]

end Sys2Proof.Machine
end

section
/-! SUPPORT. SWITCHV (R63, R69, R221). -/

namespace Sys2Proof.Machine

/-- A switch is requested of the team of the group, and the request takes effect: it is not one that waits for a whole team, or the team
is whole (R63). -/
def State.switchAsked (s : State) (i : Issue) : Prop :=
  ∃ t, s.team? (i.g.tk i.gk) = some t ∧ t.request.isSome = true ∧ (t.later = false ∨ s.teamWhole (i.g.tk i.gk) = true)

theorem wholeAgain_team (s : State) (tk k : Nat) : (s.wholeAgain tk).team? k =
    if k = tk ∧ s.teamWhole tk = true then (s.team? tk).map (fun t => { t with later := false }) else s.team? k := by
  unfold State.wholeAgain
  by_cases hw : s.teamWhole tk = true
  · rw [if_pos hw, State.team_modTeam]
    simp only [hw, and_true]
  · rw [if_neg hw, if_neg (fun e => hw e.2)]

/-- What SWITCHV tests, once a request that waited for the whole team has taken effect. -/
theorem switchAsked_iff {s u : State} (i : Issue) (ht : u.team? (i.g.tk i.gk) = s.team? (i.g.tk i.gk))
    (hw : u.teamWhole (i.g.tk i.gk) = s.teamWhole (i.g.tk i.gk)) :
    (((u.wholeAgain (i.g.tk i.gk)).team? (i.g.tk i.gk)).map (fun t => t.request.isSome && !t.later)).getD false = true ↔ s.switchAsked i := by
  rw [wholeAgain_team, ht, hw]
  unfold State.switchAsked
  cases hteam : s.team? (i.g.tk i.gk) with
  | none => simp
  | some t => by_cases whole : s.teamWhole (i.g.tk i.gk) = true <;> simp [whole]

/-- A request that takes effect leaves all but its team. -/
theorem TeamFrame.wholeAgain {s t : State} {gk : Nat} (frame : TeamFrame s t gk) (tk : Nat) : TeamFrame s (t.wholeAgain tk) gk := by
  unfold State.wholeAgain
  split
  · exact frame.modTeam ..
  · exact frame

theorem wholeAgain_group (s : State) (tk k : Nat) : (s.wholeAgain tk).group? k = s.group? k := by
  unfold State.wholeAgain
  split
  · exact State.group_modTeam ..
  · rfl

section
variable {s : State} {h : Hdr} {i : Issue} (o : YOps) (hi : s.issue? h = some i) (hk : i.g.kind ≠ .lodge)
include hi hk

/-- The effect of SWITCHV: the group arrives where a switch is asked for of a converged group, and passes otherwise (R221). -/
theorem switchv_effect [Decidable (s.switchAsked i ∧ i.g.handler = false ∧ i.act = ~~~i.g.exited)] : exec (.switchv h o) s = .next ((if s.switchAsked i ∧ i.g.handler = false ∧ i.act = ~~~i.g.exited
    then ((issued s i h 8 0x16).wholeAgain (i.g.tk i.gk)).modGroup i.gk (fun g =>
      { g with arrived := some o.imm.toNat, pcv := setLanes g.pcv i.act (fun _ => BitVec.ofNat 32 i.pc) })
    else (issued s i h 8 0x16).wholeAgain (i.g.tk i.gk)).finish i.gk) := by
  have role : [RoleKind.copy, .matrix, .general].contains i.g.kind = true := by
    cases hkind : i.g.kind with
    | lodge => exact absurd hkind hk
    | copy => rfl
    | matrix => rfl
    | general => rfl
  have asked := switchAsked_iff i (issued_team s i h 8 0x16 _) (issued_teamWhole hi 8 0x16 _)
  show execSwitchv h o s = _
  unfold execSwitchv
  rw [perform_effect _ hi (fun e => absurd e Bool.false_ne_true) (i.free_nil true) role rfl rfl rfl]
  refine congrArg (fun u : State => Host.Outcome.next (u.finish i.gk)) (if_congr ?_ rfl rfl)
  rw [Bool.and_eq_true, Bool.and_eq_true, asked, Bool.not_eq_true', decide_eq_true_eq, and_assoc]
  exact Iff.rfl

/-- A group at which no switch is due passes; one where it is waits for it, with its lanes at the instruction. -/
theorem switchv_completes :
    let wait := s.switchAsked i ∧ i.g.handler = false ∧ i.act = ~~~i.g.exited
    ∃ t g, exec (.switchv h o) s = .next t ∧ t.group? i.gk = some g ∧
      (¬wait → g.withMoved i.g = i.g ∧ Advanced i h 8 g) ∧
      (wait → g.arrived = some o.imm.toNat ∧ { g.withMoved i.g with arrived := i.g.arrived } = i.g ∧
        ∀ l, i.act.getLsbD l = true → sget g.pcv l = BitVec.ofNat 32 i.pc) ∧
      (∀ k, k ≠ i.gk → t.group? k = s.group? k) ∧ (∀ p, t.readByte p = s.readByte p) ∧
      (∀ c, (t.core c).withCounts (s.core c) = s.core c) ∧
      ∀ tk, (t.team? tk).map (fun x => { x with later := false }) = (s.team? tk).map (fun x => { x with later := false }) := by
  intro wait
  classical
  have alive : (s.advance i h 8 0x16).exited ≠ 0xFFFFFFFF := (advance_exited s i h 8 0x16).trans_ne (issue?_alive hi)
  have stop : (s.advance i h 8 0x16).stopEv = none := (advance_stopEv s i h 8 0x16).trans (issue?_stopEv hi)
  have asked := (issued_frame s i h 8 0x16).teams.wholeAgain (i.g.tk i.gk)
  have stands : ((issued s i h 8 0x16).wholeAgain (i.g.tk i.gk)).group? i.gk = some (s.advance i h 8 0x16) :=
    (wholeAgain_group ..).trans (issued_advanced ..)
  have later : ∀ tk, (((issued s i h 8 0x16).wholeAgain (i.g.tk i.gk)).team? tk).map (fun x => { x with later := false }) =
      (s.team? tk).map (fun x => { x with later := false }) := fun tk => by
    rw [wholeAgain_team, issued_team, issued_team]
    split
    · rename_i e
      rw [e.1, Option.map_map]
      rfl
    · rfl
  rw [switchv_effect o hi hk]
  by_cases hw : wait
  · rw [if_pos hw]
    obtain ⟨frame, group⟩ := asked.modGroup stands
      (fun g => { g with arrived := some o.imm.toNat, pcv := setLanes g.pcv i.act (fun _ => BitVec.ofNat 32 i.pc) })
    obtain ⟨done, group, teams⟩ := frame.finish group (Group.ended_of_alive alive) stop
    refine ⟨_, _, rfl, group, fun e => absurd hw e, fun _ => ⟨?_, ?_, fun l hl => ?_⟩, done.groups, done.bytes, done.cores, fun tk => ?_⟩
    · rw [Group.releaseAll_eq]
    · rw [withMoved_releaseAll]
      exact congrArg (fun x : Group => { x with arrived := i.g.arrived }) (advance_moved s i h 8 0x16)
    · rw [Group.releaseAll_pcv]
      · exact (sget_setLanes ..).trans (if_pos ⟨maskOf_and_lane l hl, hl⟩)
      · exact (congrArg (BitVec.getLsbD · l) (rejoining_of_rwait (advance_rwait s i h 8 0x16))).trans (eligible_lane (issue?_act hi l hl).2.1).2.1
    · rw [teams, State.team_modGroup, later]
  · rw [if_neg hw]
    obtain ⟨done, group, teams⟩ := asked.finish stands (Group.ended_of_alive alive) stop
    refine ⟨_, _, rfl, group, fun _ => ⟨?_, ?_⟩, fun e => absurd e hw, done.groups, done.bytes, done.cores, fun tk => ?_⟩
    · rw [withMoved_releaseAll]
      exact advance_moved s i h 8 0x16
    · exact advanced_of hi 8 0x16 _ rfl rfl (advance_rwait s i h 8 0x16)
    · rw [teams, later]

/-- In a team that is not whole no request takes effect anew, and a group at which none is due moves past (R69). -/
theorem switchv_movesPast (part : s.teamWhole (i.g.tk i.gk) = false)
    (hn : ¬(s.switchAsked i ∧ i.g.handler = false ∧ i.act = ~~~i.g.exited)) : Claims.MovesPast (exec (.switchv h o) s) s i h 8 := by
  classical
  have unchanged : (issued s i h 8 0x16).wholeAgain (i.g.tk i.gk) = issued s i h 8 0x16 :=
    if_neg (by rw [issued_teamWhole hi, part]; exact Bool.false_ne_true)
  rw [switchv_effect o hi hk, if_neg hn, unchanged]
  exact issued_finish_movesPast hi 8 0x16

end

end Sys2Proof.Machine
end

section
/-! SUPPORT. XACQ and XREL (R31, R45, R222). -/

namespace Sys2Proof.Machine

/-- The effect of XACQ and XREL on the pool of the team, and on the blocks that the group holds (R31, R222). -/
def Group.blocked (g : Group) (held : BitVec 4) (n : Nat) : Group := { g with held := held }.clearBlock n

/-- The frame of XACQ and XREL: the group and its team alone change, the group in the blocks that it holds and in their words. -/
structure BlockFrame (s t : State) (i : Issue) (h : Hdr) (g : Group) : Prop where
  group : t.group? i.gk = some g
  counters : Advanced i h 8 g
  rest : { g.withMoved i.g with held := i.g.held, v := i.g.v } = i.g
  groups : ∀ k, k ≠ i.gk → t.group? k = s.group? k
  bytes : ∀ p, t.readByte p = s.readByte p
  cores : ∀ c, (t.core c).withCounts (s.core c) = s.core c
  teams : ∀ tk, tk ≠ i.g.tk i.gk → t.team? tk = s.team? tk

section
variable {s : State} {h : Hdr} {i : Issue} (hi : s.issue? h = some i)
include hi

/-- Where a block is taken or given back. -/
theorem block_moves (opc n : Nat) (held : BitVec 4 → BitVec 4) (f : Team → Team) {x : Team} (hx : s.team? (i.g.tk i.gk) = some x) :
    let t := ((((issued s i h 8 opc).modTeam (i.g.tk i.gk) f).modGroup i.gk (fun g => g.blocked (held g.held) n)).finish i.gk)
    ∃ g, BlockFrame s t i h g ∧ g.held = held i.g.held ∧ (∀ r l, l < 32 → g.vr r l = if r / 64 = n then 0 else i.g.vr r l) ∧
      t.team? (i.g.tk i.gk) = some (f x) := by
  intro t
  have alive : (s.advance i h 8 opc).exited ≠ 0xFFFFFFFF := (advance_exited s i h 8 opc).trans_ne (issue?_alive hi)
  have stop : (s.advance i h 8 opc).stopEv = none := (advance_stopEv s i h 8 opc).trans (issue?_stopEv hi)
  have holds : (s.advance i h 8 opc).held = i.g.held := (congrArg Group.held (advance_moved s i h 8 opc) :)
  have stands : ((issued s i h 8 opc).modTeam (i.g.tk i.gk) f).group? i.gk = some (s.advance i h 8 opc) :=
    (State.group_modTeam ..).trans (issued_advanced ..)
  obtain ⟨frame, group⟩ := ((issued_frame s i h 8 opc).teams.modTeam (i.g.tk i.gk) f).modGroup stands (fun g => g.blocked (held g.held) n)
  obtain ⟨done, group, teams⟩ := frame.finish group (Group.ended_of_alive alive) stop
  have team : ∀ k, t.team? k = if k = i.g.tk i.gk then (s.team? (i.g.tk i.gk)).map f else s.team? k := fun k => by
    rw [teams, State.team_modGroup, State.team_modTeam, issued_team, issued_team]
  refine ⟨_, ⟨group, advanced_of hi 8 opc _ rfl rfl (advance_rwait s i h 8 opc), ?_, done.groups, done.bytes, done.cores,
    fun tk ne => by rw [team, if_neg ne]⟩, ?_, fun r l hl => ?_, by rw [team, if_pos rfl, hx]; rfl⟩
  · rw [withMoved_releaseAll]
    exact congrArg (fun x : Group => { x with held := i.g.held, v := i.g.v }) (advance_moved s i h 8 opc)
  · rw [Group.releaseAll_eq]
    exact congrArg held holds
  · have words : ((s.advance i h 8 opc).blocked (held (s.advance i h 8 opc).held) n).releaseAll.vr r l =
        ((s.advance i h 8 opc).blocked (held (s.advance i h 8 opc).held) n).vr r l := by
      rw [Group.vr, Group.releaseAll_v, Group.vr]
    rw [words, Group.blocked, clearBlock_vr _ _ _ hl]
    exact if_congr Iff.rfl rfl (congrArg (fun v => sget v (32 * r + l)) (advance_v s i h 8 opc))

omit hi in
/-- Where an instruction of the pool passes. -/
theorem block_passes {out : Host.Outcome State Fault Refusal} (hm : Claims.MovesPast out s i h 8) :
    ∃ t g, out = .next t ∧ BlockFrame s t i h g ∧ g.held = i.g.held ∧ g.v = i.g.v ∧ ∀ k, t.team? k = s.team? k := by
  obtain ⟨t, g, ht, frame, group, moved, counters⟩ := hm
  have rest := congrArg (fun x : Group => { x with held := i.g.held, v := i.g.v }) moved
  exact ⟨t, g, ht, ⟨group, counters, rest, frame.groups, frame.bytes, frame.cores, fun k _ => frame.team? k⟩,
    (congrArg Group.held moved :), (congrArg Group.v moved :), frame.team?⟩

variable (o : YOps) (hx : i.exe &&& i.g.intx = 0)
include hx

theorem xacq_movesPast (hn : i.g.held.getLsbD o.spec.toNat = true) : Claims.MovesPast (exec (.xacq h o) s) s i h 8 := by
  have run : exec (.xacq h o) s = .next ((issued s i h 8 0x17).finish i.gk) := by
    show execXacq h o s = _
    unfold execXacq
    rw [perform_effect _ hi (fun _ => hx) (i.free_nil true) (allRoles _ _ rfl) rfl (by simp [hn]) (if_pos hn)]
    simp only [hn, if_true]
  rw [run]
  exact issued_finish_movesPast hi 8 0x17

omit hi hx in
/-- The next block in order may be asked for (R31). -/
theorem xacq_in_order (hn : i.g.held.getLsbD o.spec.toNat = false) (hp : i.g.held.getLsbD (o.spec.toNat - 1) = true)
    (hb : o.spec.toNat < i.g.budget) :
    (if !i.g.held.getLsbD o.spec.toNat && (!i.g.held.getLsbD (o.spec.toNat - 1) || i.g.budget ≤ o.spec.toNat)
      then [({ subc := 4, lanes := i.lanes } : Flt)] else []) = [] := by
  have within : ¬i.g.budget ≤ o.spec.toNat := by omega
  simp [hn, hp, within]

theorem xacq_takes {t : Team} (ht : s.team? (i.g.tk i.gk) = some t) (hn : i.g.held.getLsbD o.spec.toNat = false)
    (hp : i.g.held.getLsbD (o.spec.toNat - 1) = true) (hb : o.spec.toNat < i.g.budget) (hf : 0 < t.poolFree) (hw : s.behind i 16 = false) :
    EffectIs (.xacq h o) s i h 8 0x17 (fun u => (u.modTeam (i.g.tk i.gk) (fun t => { t with poolFree := t.poolFree - 1 })).modGroup i.gk
      (fun g => g.blocked (g.held ||| BitVec.ofNat 4 (2 ^ o.spec.toNat)) o.spec.toNat)) := by
  have goes_on : ¬(((s.team? (i.g.tk i.gk)).map (·.poolFree)).getD 0 = 0 ∨ s.behind i 16 = true) := by
    rw [ht, hw]
    simp only [Option.map_some, Option.getD_some, Bool.false_eq_true, or_false]
    omega
  show execXacq h o s = _
  unfold execXacq
  rw [perform_effect _ hi (fun _ => hx) (i.free_nil true) (allRoles _ _ rfl) rfl (xacq_in_order o hn hp hb)]
  · simp only [hn, Bool.false_eq_true, if_false]
    rfl
  · rw [if_neg (ne_true_of_eq_false hn), if_neg]
    simpa using goes_on

theorem xacq_waits {t : Team} (ht : s.team? (i.g.tk i.gk) = some t) (hn : i.g.held.getLsbD o.spec.toNat = false)
    (hp : i.g.held.getLsbD (o.spec.toNat - 1) = true) (hb : o.spec.toNat < i.g.budget) (hf : t.poolFree = 0) :
    exec (.xacq h o) s = .next (s.stamped i.gk 16) := by
  have free := i.free_nil true
  show execXacq h o s = _
  unfold execXacq
  refine perform_held _ _ hi (fun _ => hx) ?_ free.waits (fun e => absurd e Bool.false_ne_true) ?_
  · rw [free.common (allRoles _ _ rfl)]
    exact xacq_in_order o hn hp hb
  · rw [if_neg (ne_true_of_eq_false hn), if_pos]
    simp [ht, hf]

theorem xacq_refused (hn : i.g.held.getLsbD o.spec.toNat = false)
    (hp : i.g.held.getLsbD (o.spec.toNat - 1) = false ∨ i.g.budget ≤ o.spec.toNat) :
    exec (.xacq h o) s = .next (s.freeze i.gk 12 4 0x17 i.lanes i.pc) := by
  have free := i.free_nil true
  show execXacq h o s = _
  unfold execXacq
  refine perform_fault (f := { subc := 4, lanes := i.lanes }) _ _ hi (fun _ => hx) ?_ free.waits
  rw [free.common (allRoles _ _ rfl)]
  rcases hp with hp | hp
  · simp [hn, hp]
  · simp [hn, hp]

theorem xrel_refused (hn : o.spec.toNat < 3) (hp : i.g.held.getLsbD (o.spec.toNat + 1) = true) :
    exec (.xrel h o) s = .next (s.freeze i.gk 12 4 0x18 i.lanes i.pc) := by
  have free := i.free_nil true
  show execXrel h o s = _
  unfold execXrel
  refine perform_fault (f := { subc := 4, lanes := i.lanes }) _ _ hi (fun _ => hx) ?_ free.waits
  rw [free.common (allRoles _ _ rfl)]
  simp [hn, hp]

omit hi hx in
/-- The highest block held may be given back (R31). -/
theorem xrel_in_order (hp : o.spec.toNat < 3 → i.g.held.getLsbD (o.spec.toNat + 1) = false) :
    (if o.spec.toNat < 3 && i.g.held.getLsbD (o.spec.toNat + 1) then [({ subc := 4, lanes := i.lanes } : Flt)] else []) = [] := by
  by_cases hn : o.spec.toNat < 3
  · simp [hp hn]
  · simp [hn]

theorem xrel_movesPast (hn : i.g.held.getLsbD o.spec.toNat = false) (hp : o.spec.toNat < 3 → i.g.held.getLsbD (o.spec.toNat + 1) = false) :
    Claims.MovesPast (exec (.xrel h o) s) s i h 8 := by
  have run : exec (.xrel h o) s = .next ((issued s i h 8 0x18).finish i.gk) := by
    show execXrel h o s = _
    unfold execXrel
    rw [perform_effect _ hi (fun _ => hx) (i.free_nil true) (allRoles _ _ rfl) rfl (xrel_in_order o hp) (if_neg (by simp [hn]))]
    simp only [hn, Bool.not_false, if_true]
  rw [run]
  exact issued_finish_movesPast hi 8 0x18

theorem xrel_returns (hn : i.g.held.getLsbD o.spec.toNat = true) (hp : o.spec.toNat < 3 → i.g.held.getLsbD (o.spec.toNat + 1) = false)
    (hm : (s.core (coreOf i.gk)).mq.any (fun m => s.matOf i.gk m && m.blocks.getLsbD o.spec.toNat) = false) :
    EffectIs (.xrel h o) s i h 8 0x18 (fun u => (u.modTeam (i.g.tk i.gk) (fun t => { t with poolFree := t.poolFree + 1 })).modGroup i.gk
      (fun g => g.blocked (g.held &&& ~~~BitVec.ofNat 4 (2 ^ o.spec.toNat)) o.spec.toNat)) := by
  show execXrel h o s = _
  unfold execXrel
  rw [perform_effect _ hi (fun _ => hx) (i.free_nil true) (allRoles _ _ rfl) rfl (xrel_in_order o hp) (if_neg (by rw [hm]; simp))]
  simp only [hn, Bool.not_true, Bool.false_eq_true, if_false]
  rfl

theorem xrel_waits (hn : i.g.held.getLsbD o.spec.toNat = true) (hp : o.spec.toNat < 3 → i.g.held.getLsbD (o.spec.toNat + 1) = false)
    (hm : (s.core (coreOf i.gk)).mq.any (fun m => s.matOf i.gk m && m.blocks.getLsbD o.spec.toNat) = true) :
    exec (.xrel h o) s = .next s := by
  have free := i.free_nil true
  show execXrel h o s = _
  unfold execXrel
  refine perform_held _ _ hi (fun _ => hx) ?_ free.waits (fun e => absurd e Bool.false_ne_true) (if_pos (by rw [hn, hm]; rfl))
  rw [free.common (allRoles _ _ rfl)]
  exact xrel_in_order o hp

end

end Sys2Proof.Machine

namespace Sys2Proof

open Machine

/-- Where each of the four completes, and what it leaves. -/
theorem schedulingCompletes : Claims.SchedulingCompletes := by
  unfold Claims.SchedulingCompletes
  refine ⟨fun s h o i hi hk hx hf => fetchw_completes o hi hk hx hf, fun s h o i hi hk => switchv_completes o hi hk,
    fun s h o i x hi hx ht => ⟨fun hn hc => ?_, fun hn hp hm => ?_⟩⟩
  · cases holds : i.g.held.getLsbD o.spec.toNat with
    | true =>
      obtain ⟨t, g, run, f, same, words, teams⟩ := block_passes (xacq_movesPast hi o hx holds)
      exact ⟨t, g, run, ⟨f.group, f.counters, f.rest, f.groups, f.bytes, f.cores, f.teams⟩, same.trans (held_or_of_mem holds).symm,
        fun _ => ⟨words, (teams _).trans ht⟩, fun e => absurd e.symm Bool.false_ne_true⟩
    | false =>
      obtain ⟨hb, hl, hf, hw⟩ := hc.resolve_left (by rw [holds]; exact Bool.false_ne_true)
      obtain ⟨g, f, same, words, team⟩ := block_moves hi 0x17 o.spec.toNat (· ||| BitVec.ofNat 4 (2 ^ o.spec.toNat))
        (fun t => { t with poolFree := t.poolFree - 1 }) ht
      exact ⟨_, g, xacq_takes hi o hx ht holds hb hl hf hw, ⟨f.group, f.counters, f.rest, f.groups, f.bytes, f.cores, f.teams⟩, same,
        fun e => absurd e Bool.false_ne_true, fun _ => ⟨words, team⟩⟩
  · cases holds : i.g.held.getLsbD o.spec.toNat with
    | true =>
      obtain ⟨g, f, same, words, team⟩ := block_moves hi 0x18 o.spec.toNat (· &&& ~~~BitVec.ofNat 4 (2 ^ o.spec.toNat))
        (fun t => { t with poolFree := t.poolFree + 1 }) ht
      exact ⟨_, g, xrel_returns hi o hx holds hp (hm holds), ⟨f.group, f.counters, f.rest, f.groups, f.bytes, f.cores, f.teams⟩, same,
        fun e => absurd e.symm Bool.false_ne_true, fun _ => ⟨words, team⟩⟩
    | false =>
      obtain ⟨t, g, run, f, same, words, teams⟩ := block_passes (xrel_movesPast hi o hx holds hp)
      exact ⟨t, g, run, ⟨f.group, f.counters, f.rest, f.groups, f.bytes, f.cores, f.teams⟩, same.trans (held_and_of_not_mem holds).symm,
        fun _ => ⟨words, (teams _).trans ht⟩, fun e => absurd e Bool.false_ne_true⟩

/-- Settles O16: each of the four, where it completes, where it waits and where it is refused. -/
theorem schedulingInstructions : Obligations.SchedulingInstructions := by
  unfold Obligations.SchedulingInstructions
  refine ⟨schedulingCompletes, fun s h o i hi hk hx => ⟨fetchw_effect o hi hk hx, fun hf ha => ?_, fun hf ha => ?_⟩,
    fun s gk g m off hg ha => ?_, fun s h o i hi hk => ⟨fun ha hh hc => ?_, fun hn => ?_, fun hw hn => switchv_movesPast o hi hk hw hn⟩,
    fun s h o i t hi hx ht => ⟨xacq_movesPast hi o hx, xacq_takes hi o hx ht, xacq_waits hi o hx ht, xacq_refused hi o hx, xrel_refused hi o hx,
      xrel_movesPast hi o hx, xrel_returns hi o hx, xrel_waits hi o hx⟩⟩
  · rw [fetchw_held o hi hk hx hf, if_pos ha]
  · rw [fetchw_held o hi hk hx hf, if_neg (ne_true_of_eq_false ha)]
  · rw [deliver_leaves hg ha]
    exact ⟨by simp, fun k hne => by simp [hne], rfl, rfl⟩
  · classical
    exact (switchv_effect o hi hk).trans (congrArg (fun u : State => Host.Outcome.next (u.finish i.gk)) (if_pos ⟨ha, hh, hc⟩))
  · classical
    exact (switchv_effect o hi hk).trans (congrArg (fun u : State => Host.Outcome.next (u.finish i.gk)) (if_neg hn))

end Sys2Proof
end

section
/-! SUPPORT. The fields of a packed word (R2). -/

namespace Sys2Proof

theorem fld_testBit {w : Nat} (x : BitVec w) (hi lo i : Nat) : (fld x hi lo).testBit i = (decide (i < hi + 1 - lo) && x.getLsbD (lo + i)) := by
  rw [fld, bits, Nat.testBit_mod_two_pow, Nat.testBit_shiftRight]
  rfl

theorem foldl_or_any {α : Type} {w : Nat} (f : α → BitVec w) (l : List α) (m : BitVec w) (j : Nat) :
    (l.foldl (fun m a => m ||| f a) m).getLsbD j = (m.getLsbD j || l.any (fun a => (f a).getLsbD j)) := by
  induction l generalizing m with
  | nil => simp
  | cons a r ih => rw [List.foldl_cons, ih, BitVec.getLsbD_or, List.any_cons, Bool.or_assoc]

/-- A bit of a packed word is one of the field that covers it. -/
theorem pack_getLsbD (w : Nat) (l : List (Nat × Nat × Nat)) (j : Nat) :
    (pack w l).getLsbD j = (decide (j < w) && l.any (fun e => decide (e.1 ≤ j) && (decide (j - e.1 < e.2.1) && e.2.2.testBit (j - e.1)))) := by
  unfold pack
  rw [foldl_or_any, show BitVec.getLsbD (0 : BitVec w) j = false from BitVec.getLsbD_zero, Bool.false_or]
  by_cases hj : j < w
  · simp only [BitVec.getLsbD_ofNat, Nat.testBit_shiftLeft, Nat.testBit_mod_two_pow, hj, decide_true, Bool.true_and, ge_iff_le]
  · simp [BitVec.getLsbD_ofNat, hj]

/-- Two fields share no bit. -/
def Apart (e : Nat × Nat × Nat) (lo n : Nat) : Prop := e.1 + e.2.1 ≤ lo ∨ lo + n ≤ e.1

/-- A field of a packed word that no other field touches holds its value. -/
theorem fld_pack {w lo n v : Nat} {before after : List (Nat × Nat × Nat)} (hw : lo + n ≤ w) (hn : 0 < n) (hb : ∀ e ∈ before, Apart e lo n)
    (ha : ∀ e ∈ after, Apart e lo n) : fld (pack w (before ++ (lo, n, v) :: after)) (lo + n - 1) lo = v % 2 ^ n := by
  apply Nat.eq_of_testBit_eq
  intro i
  have width : lo + n - 1 + 1 - lo = n := by omega
  rw [fld_testBit, pack_getLsbD, width, Nat.testBit_mod_two_pow]
  by_cases hi : i < n
  · have apart : ∀ l : List (Nat × Nat × Nat), (∀ e ∈ l, Apart e lo n) →
        l.any (fun e => decide (e.1 ≤ lo + i) && (decide (lo + i - e.1 < e.2.1) && e.2.2.testBit (lo + i - e.1))) = false := fun l hl => by
      rw [List.any_eq_false]
      intro e he
      have gap := hl e he
      unfold Apart at gap
      simp only [Bool.and_eq_true, decide_eq_true_eq]
      omega
    have inside : lo + i < w := by omega
    simp [hi, inside, apart before hb, apart after ha]
  · simp [hi]

/-- Bits of a packed word that no field touches are zero. -/
theorem fld_pack_gap {w hi lo : Nat} {l : List (Nat × Nat × Nat)} (h : ∀ e ∈ l, Apart e lo (hi + 1 - lo)) : fld (pack w l) hi lo = 0 := by
  apply Nat.eq_of_testBit_eq
  intro i
  rw [fld_testBit, pack_getLsbD, Nat.zero_testBit]
  by_cases hlt : i < hi + 1 - lo
  · have none_covers : l.any (fun e => decide (e.1 ≤ lo + i) && (decide (lo + i - e.1 < e.2.1) && e.2.2.testBit (lo + i - e.1))) = false := by
      rw [List.any_eq_false]
      intro e he
      have gap := h e he
      unfold Apart at gap
      simp only [Bool.and_eq_true, decide_eq_true_eq]
      omega
    simp [none_covers]
  · simp [hlt]

end Sys2Proof

namespace Sys2Proof.Machine

/-- The fields of XFAULT (R407). -/
theorem xfaultWord_fields (lanes : LaneMask) {subc op event offs : Nat} (he : event < 256) (hs : subc < 256) (ho : op < 256) (hf : offs < 2 ^ 32) :
    let x := xfaultWord lanes subc op event offs
    fld x 31 0 = offs ∧ fld x 39 32 = event ∧ fld x 47 40 = op ∧ fld x 55 48 = subc ∧ fld x 95 64 = lanes.toNat ∧ fld x 127 96 = 0 := by
  intro x
  have field : ∀ (before after : List (Nat × Nat × Nat)) (lo n v : Nat),
      x = pack 128 (before ++ (lo, n, v) :: after) → lo + n ≤ 128 → 0 < n → v < 2 ^ n → (∀ e ∈ before ++ after, Apart e lo n) →
        fld x (lo + n - 1) lo = v := fun before after lo n v hx hw hn hv apart => by
    rw [hx, fld_pack hw hn (fun e h => apart e (List.mem_append_left _ h)) (fun e h => apart e (List.mem_append_right _ h)), Nat.mod_eq_of_lt hv]
  refine ⟨?_, ?_, ?_, ?_, ?_, ?_⟩
  · exact field [] _ 0 32 offs rfl (by omega) (by omega) hf (by simp [Apart])
  · exact field [(0, 32, offs)] _ 32 8 event rfl (by omega) (by omega) he (by simp [Apart])
  · exact field [(0, 32, offs), (32, 8, event)] _ 40 8 op rfl (by omega) (by omega) ho (by simp [Apart])
  · exact field [(0, 32, offs), (32, 8, event), (40, 8, op)] _ 48 8 subc rfl (by omega) (by omega) hs (by simp [Apart])
  · exact field [(0, 32, offs), (32, 8, event), (40, 8, op), (48, 8, subc)] _ 64 32 lanes.toNat rfl (by omega) (by omega) lanes.isLt (by simp [Apart])
  · exact fld_pack_gap (by simp [Apart])

end Sys2Proof.Machine
end

section
/-! SUPPORT. The region-entry stop, the park and the fault of a group (R40, R41, R344, R406, R407). -/

namespace Sys2Proof.Machine

theorem stopOps_undisturbed (s : State) (gk : Nat) : Undisturbed s (s.stopOps gk) := ⟨fun _ => rfl, rfl, rfl, rfl, fun _ => rfl⟩

/-- An access that a region-entry stop can leave in flight (R40, R116). -/
def MemOp.Lasting (o : MemOp) : Prop := o.kind = .store ∨ (o.kind = .release ∧ o.sent.isSome = true)

theorem settleOps_left (gk : Nat) (g : Group) (l : List MemOp) (left : List MemOp) (s : State) :
    Undisturbed s (s.settleOps gk g l left).2 ∧ ∀ o ∈ (s.settleOps gk g l left).1, o ∈ left ∨ (o ∈ l ∧ o.Lasting) := by
  induction l generalizing left s with
  | nil => exact ⟨.refl s, fun o h => .inl h⟩
  | cons a r ih =>
    have drop : ∀ (u : State), Undisturbed s u →
        Undisturbed s (u.settleOps gk g r left).2 ∧ ∀ o ∈ (u.settleOps gk g r left).1, o ∈ left ∨ (o ∈ a :: r ∧ o.Lasting) := fun u hu =>
      ⟨hu.trans (ih left u).1, fun o ho => ((ih left u).2 o ho).imp_right fun ⟨hm, hl⟩ => ⟨List.mem_cons_of_mem _ hm, hl⟩⟩
    have keep : a.Lasting → Undisturbed s (s.settleOps gk g r (left ++ [a])).2 ∧
        ∀ o ∈ (s.settleOps gk g r (left ++ [a])).1, o ∈ left ∨ (o ∈ a :: r ∧ o.Lasting) := fun ha =>
      ⟨(ih _ s).1, fun o ho => by
        rcases (ih _ s).2 o ho with hm | ⟨hm, hl⟩
        · rcases List.mem_append.mp hm with hm | hm
          · exact .inl hm
          · exact .inr ⟨by simp_all, (List.mem_singleton.mp hm).symm ▸ ha⟩
        · exact .inr ⟨List.mem_cons_of_mem _ hm, hl⟩⟩
    unfold State.settleOps
    split
    · rename_i hk
      split
      · exact drop s (.refl s)
      · split
        · exact keep (.inl hk)
        · exact drop _ (performStore_undisturbed ..)
    · rename_i t hk hs
      exact keep (.inr ⟨hk, by rw [hs]; rfl⟩)
    · exact drop s (.refl s)

/-- A group once its accesses in flight are settled but for those that are left. -/
def Group.settled (g : Group) (left : List MemOp) : Group := { g with ops := left, lc := 0, sc := left.length }

/-- A settled group at its region entries (R41). -/
def Group.returned (g : Group) : Group :=
  { g with pcv := setLanes g.pcv g.live (fun l => sget g.epcv l), rwait := [], mwait := 0, mwaitEnd := none, yielded := 0, arrived := none,
           fenceWin := none, watch := { g.watch with lanes := 0, keep := if g.watch.armed && g.watch.bound then g.watch.keep ||| g.watch.lanes else 0 },
           stamp := none, fetchw := none, fetchAt := none }

/-- Fields of a group that agree with those of another but for TRIG. -/
theorem unrung_set {a b : Group} (h : a.unrung = b.unrung) (f : Group → Group) (hf : ∀ g, (f g).unrung = (f g.unrung).unrung) :
    (f a).unrung = (f b).unrung := by rw [hf, h, ← hf]

theorem settle_group {s : State} {gk : Nat} {g : Group} (hg : s.group? gk = some g) :
    ∃ left g', (s.settle gk g).group? gk = some g' ∧ g'.unrung = (g.settled left).unrung ∧ ∀ o ∈ left, o ∈ g.ops ∧ o.Lasting := by
  obtain ⟨undisturbed, lasting⟩ := settleOps_left gk g g.ops [] s
  unfold State.settle
  generalize s.settleOps gk g g.ops [] = x at undisturbed lasting
  obtain ⟨left, t⟩ := x
  dsimp only at undisturbed lasting ⊢
  obtain ⟨g₁, hg₁, same⟩ := undisturbed.group hg
  refine ⟨left, g₁.settled left, ?_, unrung_set same (·.settled left) (fun _ => rfl), fun o ho => (lasting o ho).resolve_left List.not_mem_nil⟩
  rw [State.modGroup_some (g := g₁) (by rw [State.group_modCore, hg₁])]
  simp [Group.settled]

/-- The last steps of a region-entry stop change the group in nothing but TRIG, and then it ends, parks, or goes on to wait. -/
theorem stop_clears {t : State} {gk : Nat} {g : Group} (hg : t.group? gk = some g) (c : Bool) :
    let v := if c then t.stopOps gk else t
    let w := ((v.setInn { v.inn with fetch := v.inn.fetch.filter (fun f => f.gk != gk) }).unask gk).tokenBack gk
    ∃ g', w.group? gk = some g' ∧ g'.unrung = g.unrung := by
  intro v w
  obtain ⟨g₁, hg₁, same₁⟩ := (Undisturbed.ite (stopOps_undisturbed t gk) (.refl t) : Undisturbed t v).group hg
  have cleared := (unask_undisturbed (v.setInn { v.inn with fetch := v.inn.fetch.filter (fun f => f.gk != gk) }) gk).trans (tokenBack_undisturbed _ gk)
  obtain ⟨g₂, hg₂, same₂⟩ := cleared.group (g := g₁) hg₁
  exact ⟨g₂, hg₂, same₂.trans same₁⟩

/-- A region-entry stop outside transactions returns the group, and then it ends, parks, or goes on to wait. -/
theorem regionStop_group {s : State} {gk : Nat} {g : Group} (hg : s.group? gk = some g) (hx : g.intx = 0) :
    ∃ (u : State) (left : List MemOp) (g' : Group), s.regionStop gk = u.maybeEnd gk ∧ u.group? gk = some g' ∧ g'.unrung = (g.settled left).returned.unrung ∧
      ∀ o ∈ left, o ∈ g.ops ∧ o.Lasting := by
  obtain ⟨left, g₁, hg₁, same, lasting⟩ := settle_group hg
  unfold State.regionStop
  simp only [hg, hx, lanesOf_zero, List.map_nil, State.abortLanes]
  rw [State.modGroup_some hg₁]
  obtain ⟨g₃, hg₃, same₃⟩ := stop_clears (t := (s.settle gk g).setGroup gk { g₁.returned with
    watch := { g₁.watch with lanes := 0, keep := if g.watch.armed && g.watch.bound then g.watch.keep ||| g.watch.lanes else 0 } }) (gk := gk)
    ((State.group_setGroup ..).trans (if_pos rfl)) _
  refine ⟨_, left, g₃, rfl, hg₃, ?_, lasting⟩
  rw [same₃]
  have keeps : g₁.watch.armed = g.watch.armed ∧ g₁.watch.bound = g.watch.bound ∧ g₁.watch.keep = g.watch.keep ∧ g₁.watch.lanes = g.watch.lanes :=
    ⟨(congrArg (fun x : Group => x.watch.armed) same :), (congrArg (fun x : Group => x.watch.bound) same :),
      (congrArg (fun x : Group => x.watch.keep) same :), (congrArg (fun x : Group => x.watch.lanes) same :)⟩
  obtain ⟨armed, bound, keep, lanes⟩ := keeps
  rw [← armed, ← bound, ← keep, ← lanes]
  exact unrung_set same (·.returned) (fun _ => rfl)

/-! ### The park -/

/-- A group parked with an EVENT (R343, R344). -/
def Group.parked (g : Group) (event : Nat) : Group :=
  { g with st := if event = 7 then .halted else .parked, event := event, stamp := none, stopEv := none,
           stepReq := g.stepReq && !atWaypoint event, haltReq := if atWaypoint event then none else g.haltReq }

/-- What the group that stops becomes once its state is exact: it parks, or after a wake that came first it goes on at once (R327, R344). -/
def Group.stopTaken (g : Group) : Group :=
  match g.stopEv with
  | some 0 => if g.txend.isNone && g.ops.isEmpty then
      { g.parked 1 with st := .running, fault := [], quiet := true, since := 0, pendAge := 0 } else g
  | some e => if g.txend.isNone && g.ops.isEmpty then g.parked e else g
  | none => g

/-- What a park does but to the group. -/
theorem parkNotes_undisturbed (s : State) (gk event part code ord : Nat) :
    let t := (s.unask gk).queueEvent (coreOf gk) (slotOf gk) event
    Undisturbed s ((if code = 0 then t else t.partEvent part code (coreOf gk) (slotOf gk) ord).haltDone part) :=
  ((unask_undisturbed s gk).trans (queueEvent_undisturbed ..)).trans
    ((Undisturbed.ite (.refl _) (partEvent_undisturbed ..)).trans (haltDone_undisturbed ..))

theorem park_group {s : State} {gk : Nat} {g : Group} (hg : s.group? gk = some g) (event : Nat) :
    ∃ g', (s.park gk event).group? gk = some g' ∧ g'.unrung = (g.parked event).unrung := by
  unfold State.park
  rw [hg]
  exact (parkNotes_undisturbed (s.setGroup gk (g.parked event)) ..).group ((State.group_setGroup ..).trans (if_pos rfl))

theorem parkWoken_group {s : State} {gk : Nat} {g : Group} (hg : s.group? gk = some g) : ∃ g', (s.parkWoken gk).group? gk = some g' ∧
    g'.unrung = ({ g.parked 1 with st := .running, fault := [], quiet := true, since := 0, pendAge := 0 } : Group).unrung := by
  obtain ⟨g', hg', same⟩ := park_group hg 1
  refine ⟨_, ?_, unrung_set same (fun g => { g with st := .running, fault := [], quiet := true, since := 0, pendAge := 0 }) (fun _ => rfl)⟩
  unfold State.parkWoken
  rw [State.modGroup_some hg']
  exact (State.group_setGroup ..).trans (if_pos rfl)

theorem Group.stopTaken_of_none {g : Group} (h : g.stopEv = none) : g.stopTaken = g := by
  unfold Group.stopTaken
  rw [h]

theorem Group.stopTaken_of_some {g : Group} {e : Nat} (h : g.stopEv = some e) : g.stopTaken =
    if g.txend.isNone && g.ops.isEmpty then
      if e = 0 then { g.parked 1 with st := .running, fault := [], quiet := true, since := 0, pendAge := 0 } else g.parked e
    else g := by
  unfold Group.stopTaken
  rw [h]
  cases e with
  | zero => rfl
  | succ e => rfl

theorem maybeEnd_group {s : State} {gk : Nat} {g : Group} (hg : s.group? gk = some g) (he : g.ended = false) :
    ∃ g', (s.maybeEnd gk).group? gk = some g' ∧ g'.unrung = g.stopTaken.unrung := by
  unfold State.maybeEnd
  simp only [hg, he, Bool.false_eq_true, if_false]
  split
  · next h =>
    rw [Group.stopTaken_of_some h]
    split
    · exact parkWoken_group hg
    · exact ⟨g, hg, rfl⟩
  · next e pos h =>
    have ne : e ≠ 0 := pos
    rw [Group.stopTaken_of_some h, if_neg ne]
    split
    · exact park_group hg _
    · exact ⟨g, hg, rfl⟩
  · next h => exact ⟨g, hg, congrArg Group.unrung (Group.stopTaken_of_none h).symm⟩

theorem stopTaken_unrung (g : Group) : g.stopTaken.unrung = g.unrung.stopTaken.unrung := by
  cases h : g.stopEv with
  | none => rw [Group.stopTaken_of_none h, Group.stopTaken_of_none (g := g.unrung) h]; rfl
  | some e =>
    rw [Group.stopTaken_of_some h, Group.stopTaken_of_some (g := g.unrung) h]
    show _ = Group.unrung (if g.txend.isNone && g.ops.isEmpty then _ else _)
    by_cases free : (g.txend.isNone && g.ops.isEmpty) = true
    · rw [if_pos free, if_pos free]
      by_cases z : e = 0
      · rw [if_pos z, if_pos z]; rfl
      · rw [if_neg z, if_neg z]; rfl
    · rw [if_neg free, if_neg free]; rfl

/-! ### What a region-entry stop leaves -/

theorem returned_stopped (g : Group) {left : List MemOp} (h : ∀ o ∈ left, o ∈ g.ops ∧ o.Lasting) : Claims.Stopped g (g.settled left).returned where
  pcv := fun l hl => by
    rw [Group.returned, sget_setLanes]
    show (if l < 32 ∧ (~~~g.exited).getLsbD l = true then sget g.epcv l else sget g.pcv l) = _
    rw [BitVec.getLsbD_not]
    cases g.exited.getLsbD l with
    | true => simp [hl]
    | false => simp [hl]
  epcv := rfl
  counts := ⟨rfl, rfl, h⟩
  waits := ⟨rfl, rfl, rfl, rfl⟩
  watch := ⟨rfl, rfl⟩
  regs := ⟨rfl, rfl, rfl, rfl, rfl, rfl, rfl, rfl⟩

/-- It says nothing of TRIG. -/
theorem stopped_unrung {g a b : Group} (h : Claims.Stopped g a) (e : b.unrung = a.unrung) : Claims.Stopped g b := by
  have of_a : Claims.Stopped g a.unrung := ⟨h.pcv, h.epcv, h.counts, h.waits, h.watch, h.regs⟩
  have of_b : Claims.Stopped g b.unrung := e ▸ of_a
  exact ⟨of_b.pcv, of_b.epcv, of_b.counts, of_b.waits, of_b.watch, of_b.regs⟩

/-- The park itself changes none of it. -/
theorem stopped_stopTaken {g a : Group} (h : Claims.Stopped g a) : Claims.Stopped g a.stopTaken := by
  cases hs : a.stopEv with
  | none => rwa [Group.stopTaken_of_none hs]
  | some e =>
    rw [Group.stopTaken_of_some hs]
    split
    · split
      · exact ⟨h.pcv, h.epcv, h.counts, h.waits, h.watch, h.regs⟩
      · exact ⟨h.pcv, h.epcv, h.counts, h.waits, h.watch, h.regs⟩
    · exact h

theorem regionStop_leaves {s : State} {gk : Nat} {g : Group} (hg : s.group? gk = some g) (hx : g.intx = 0) (he : g.exited ≠ 0xFFFFFFFF) :
    ∃ left g', (s.regionStop gk).group? gk = some g' ∧ g'.unrung = (g.settled left).returned.stopTaken.unrung ∧
      ∀ o ∈ left, o ∈ g.ops ∧ o.Lasting := by
  obtain ⟨u, left, g₁, run, hg₁, same, lasting⟩ := regionStop_group hg hx
  have exited : g₁.exited = g.exited := (congrArg Group.exited same :)
  obtain ⟨g', hg', taken⟩ := maybeEnd_group hg₁ (Group.ended_of_alive (exited.trans_ne he))
  refine ⟨left, g', run ▸ hg', ?_, lasting⟩
  rw [taken, stopTaken_unrung, same, ← stopTaken_unrung]

/-- A group whose lanes have all exited ends with the stop, where nothing is left in flight (R25, R41). -/
theorem regionStop_ends {s : State} {gk : Nat} {g : Group} (hg : s.group? gk = some g) (hx : g.intx = 0) (he : g.exited = 0xFFFFFFFF)
    (hc : g.cc = 0) (ht : g.tc = 0) (ho : ∀ o ∈ g.ops, ¬o.Lasting) : (s.regionStop gk).group? gk = none := by
  obtain ⟨u, left, g₁, run, hg₁, same, lasting⟩ := regionStop_group hg hx
  have nothing : left = [] := List.eq_nil_iff_forall_not_mem.mpr fun o h => ho o (lasting o h).1 (lasting o h).2
  subst nothing
  have ends : g₁.ended = true := (Group.ended_iff g₁).mpr
    ⟨(congrArg Group.exited same :).trans he, (congrArg Group.lc same :), (congrArg Group.sc same :), (congrArg Group.cc same :).trans hc,
      (congrArg Group.tc same :).trans ht⟩
  rw [run]
  exact maybeEnd_ended hg₁ ends

/-! ### The fault -/

/-- A record of a fault of a group is always a new one (R403, R404). -/
theorem record_fault_recs (s : State) (sev cls unit : Nat) (part : Option Nat) (addr n : Nat) (detail : BitVec 256) :
    ∃ r ∈ (s.record 16 sev cls unit part addr n detail).porter.recs, r.kind = 16 ∧ r.part = part ∧ r.detail = detail := by
  have fresh : s.porter.recs.any (fun r => r.folds s.clock.now 16 cls unit addr) = false := by
    rw [List.any_eq_false]
    intro r _
    simp [ErrRec.folds]
  unfold State.record
  simp only [Nat.reduceBEq, Bool.or_self, Bool.false_eq_true, if_false, fresh]
  exact ⟨_, List.mem_cons_self, rfl, rfl, rfl⟩

/-- The record of a fault holds its XFAULT. -/
theorem setWidth_fault_detail (x : BitVec 128) (n : Nat) : (x.zeroExtend 256 ||| BitVec.ofNat 256 (n * 2 ^ 128)).setWidth 128 = x := by
  apply BitVec.eq_of_getLsbD_eq
  intro j hj
  have above : (n * 2 ^ 128).testBit j = false := by
    rw [Nat.testBit_mul_two_pow]
    simp only [Bool.and_eq_false_imp, decide_eq_true_eq]
    omega
  rw [BitVec.getLsbD_setWidth, BitVec.getLsbD_or, BitVec.getLsbD_ofNat, above]
  have low : j < 256 := by omega
  simp [hj, low]

/-- What a fault leaves of a group outside transactions. -/
theorem freeze_group {s : State} {gk : Nat} {g : Group} (event subc op : Nat) (lanes : LaneMask) (offs : Nat) (hg : s.group? gk = some g)
    (hx : g.intx = 0) (he : g.exited ≠ 0xFFFFFFFF) :
    let x := xfaultWord lanes subc op event offs
    let u := s.freeze gk event subc op lanes offs
    (∃ left g', u.group? gk = some g' ∧ g'.unrung = ({ g with xfault := x, stopEv := some event }.settled left).returned.stopTaken.unrung ∧
      ∀ o ∈ left, o ∈ g.ops ∧ o.Lasting) ∧
    ∃ r ∈ u.porter.recs, r.kind = 16 ∧ r.part = some g.part ∧ r.detail.setWidth 128 = x := by
  intro x u
  obtain ⟨left, g₁, hg₁, same, lasting⟩ := regionStop_leaves (s := s.setGroup gk { g with xfault := x, stopEv := some event }) (gk := gk)
    ((State.group_setGroup ..).trans (if_pos rfl)) hx he
  have made : u = ((s.setGroup gk { g with xfault := x, stopEv := some event }).regionStop gk).record 16 2 0
      (((s.setGroup gk { g with xfault := x, stopEv := some event }).regionStop gk).coreUnit (coreOf gk)) (some g.part) 0 1
      (x.zeroExtend 256 ||| BitVec.ofNat 256 (parkId gk * 2 ^ 128)) := by
    show s.freeze gk event subc op lanes offs = _
    unfold State.freeze
    rw [hg]
  rw [made]
  obtain ⟨g', hg', same'⟩ := (record_undisturbed ..).group hg₁
  obtain ⟨r, hr, kind, part, detail⟩ := record_fault_recs ((s.setGroup gk { g with xfault := x, stopEv := some event }).regionStop gk) 2 0
    (((s.setGroup gk { g with xfault := x, stopEv := some event }).regionStop gk).coreUnit (coreOf gk)) (some g.part) 0 1
    (x.zeroExtend 256 ||| BitVec.ofNat 256 (parkId gk * 2 ^ 128))
  refine ⟨⟨left, g', hg', same'.trans same, lasting⟩, r, hr, kind, part, ?_⟩
  rw [detail]
  exact setWidth_fault_detail x (parkId gk)

end Sys2Proof.Machine
end

section
/-! SUPPORT. What a fault leaves while accesses are in flight, and once none is (R344, R406, R407). -/

namespace Sys2Proof.Machine

theorem Group.stopTaken_xfault (g : Group) : g.stopTaken.xfault = g.xfault := by
  cases h : g.stopEv with
  | none => rw [Group.stopTaken_of_none h]
  | some e =>
    rw [Group.stopTaken_of_some h]
    split
    · split <;> rfl
    · rfl

theorem Group.stopTaken_ops (g : Group) : g.stopTaken.ops = g.ops := by
  cases h : g.stopEv with
  | none => rw [Group.stopTaken_of_none h]
  | some e =>
    rw [Group.stopTaken_of_some h]
    split
    · split <;> rfl
    · rfl

/-- A group that faulted parks with its EVENT where nothing is in flight. -/
theorem Group.stopTaken_of_free {g : Group} {e : Nat} (h : g.stopEv = some e) (ne : e ≠ 0) (ho : g.ops = []) (ht : g.txend = none) :
    g.stopTaken = g.parked e := by
  rw [Group.stopTaken_of_some h, if_pos (by rw [ho, ht]; rfl), if_neg ne]

theorem Group.stopTaken_of_busy {g : Group} (ho : g.ops ≠ []) : g.stopTaken = g := by
  cases h : g.stopEv with
  | none => exact Group.stopTaken_of_none h
  | some e => rw [Group.stopTaken_of_some h, if_neg (by simp [ho])]

end Sys2Proof.Machine

namespace Sys2Proof
open Machine

/-- Settles O44: a region-entry stop settles the accesses in flight and returns the lanes, what follows it changes nothing of the group but
TRIG, and the stop is taken with the EVENT of the fault. -/
theorem faultParks : Obligations.FaultParks := by
  refine ⟨fun s gk g hg hx => ⟨fun he => ?_, fun he hc ht ho => ?_⟩, fun s gk event subc op offs lanes g hg hx he bev ne bsub bop boff => ?_⟩
  · obtain ⟨left, g', hg', same, lasting⟩ := regionStop_leaves hg hx he
    exact ⟨g', hg', stopped_unrung (stopped_stopTaken (returned_stopped g lasting)) same⟩
  · exact regionStop_ends hg hx he hc ht (fun o hm l => l.elim (ho o hm).1 (ho o hm).2)
  · obtain ⟨⟨left, g', hg', same, lasting⟩, r, hr, kind, part, detail⟩ := freeze_group event subc op lanes offs hg hx he
    have stopped : Claims.Stopped { g with xfault := xfaultWord lanes subc op event offs, stopEv := some event } g' :=
      stopped_unrung (stopped_stopTaken (returned_stopped _ lasting)) same
    have fault : g'.xfault = xfaultWord lanes subc op event offs := (congrArg Group.xfault same :).trans (Group.stopTaken_xfault _)
    have ops : g'.ops = left := (congrArg Group.ops same :).trans (Group.stopTaken_ops _)
    obtain ⟨foffs, fevent, fop, fsubc, flanes, frest⟩ := xfaultWord_fields lanes bev bsub bop boff
    refine ⟨g', hg', ⟨stopped.pcv, stopped.epcv, stopped.counts, stopped.waits, stopped.watch, stopped.regs⟩, fun none free => ?_, fun busy => ?_, ?_⟩
    · have same := same.trans (congrArg Group.unrung (Group.stopTaken_of_free rfl ne (ops.symm.trans none) free))
      exact ⟨(congrArg Group.event same :), (congrArg Group.st same :)⟩
    · have same := same.trans (congrArg Group.unrung (Group.stopTaken_of_busy (fun e => busy (ops.trans e))))
      exact ⟨(congrArg Group.stopEv same :), (congrArg Group.st same :), (congrArg Group.event same :)⟩
    · rw [fault]
      exact ⟨foffs, fevent, fop, fsubc, flanes, frest, r, hr, kind, part, detail⟩

end Sys2Proof
end

section
/-! SUPPORT. What is taken at pc_min before a group issues (R344, R376, R378), and the resumption of a group (R345). -/

namespace Sys2Proof.Machine

/-! ### Where a group stands -/

/-- A group that stands somewhere runs; the fetch of the word there leaves it as it was but for TRIG (R24). -/
theorem stand_group {s u : State} {gk : Nat} {t : Stand} (h : s.stand? gk = some (t, u)) :
    ∃ g, u.group? gk = some g ∧ g.st = .running ∧ g.breakReq = t.g.breakReq := by
  unfold State.stand? at h
  split at h
  · exact absurd h nofun
  · next g hg =>
    split at h
    · exact absurd h nofun
    · next runs =>
      have running : g.st = .running := by
        by_contra ne
        exact runs (by simp [ne])
      dsimp only at h
      have breakReq : (if g.eligible = 0 then { g with yielded := 0 } else g).breakReq = g.breakReq := by split <;> rfl
      generalize (if g.eligible = 0 then { g with yielded := 0 } else g) = w at breakReq h
      split at h
      · exact absurd h nofun
      · split at h
        · obtain ⟨rfl, rfl⟩ := Prod.mk.inj (Option.some.inj h)
          exact ⟨g, hg, running, breakReq.symm⟩
        · obtain ⟨rfl, rfl⟩ := Prod.mk.inj (Option.some.inj h)
          obtain ⟨g', hg', same⟩ := (codeWord_cacheEffect s gk w (w.pcMin w.eligible)).group hg
          exact ⟨g', hg', (congrArg Group.st same :).trans running, (congrArg Group.breakReq same :).trans breakReq.symm⟩

/-! ### Breakpoints -/

theorem meetBreaks_group (s : State) (t : Stand) (gk : Nat) : (s.meetBreaks t).group? gk = s.group? gk := by
  unfold State.meetBreaks
  generalize s.breaksAt t = l
  induction l generalizing s with
  | nil => rfl
  | cons e r ih => exact (ih _).trans (State.group_modPart ..)

/-- Breakpoints stop where one that is met has counted its SKIP down (R378). -/
theorem breakHit_isSome (s : State) (t : Stand) : (s.breakHit t).isSome = true ↔ ∃ e ∈ s.breaksAt t, e.2.skip = 0 := by
  unfold State.breakHit
  generalize s.breaksAt t = l
  by_cases nothing : (l.filter (fun e => e.2.skip == 0)).isEmpty = true
  · rw [if_pos nothing]
    rw [List.isEmpty_iff, List.filter_eq_nil_iff] at nothing
    refine ⟨fun h => absurd h nofun, fun ⟨e, he, skip⟩ => ?_⟩
    exact absurd (beq_iff_eq.mpr skip) (nothing e he)
  · rw [if_neg nothing]
    rw [List.isEmpty_iff, List.filter_eq_nil_iff] at nothing
    push Not at nothing
    obtain ⟨e, he, skip⟩ := nothing
    exact ⟨fun _ => ⟨e, he, eq_of_beq skip⟩, fun _ => rfl⟩

theorem breakHit_not_all {s : State} {t : Stand} (h : (s.breaksAt t).any (fun e => e.2.skip == 0 && e.2.allstop) = false) :
    (s.breakHit t == some true) = false := by
  unfold State.breakHit
  have nothing : ((s.breaksAt t).filter (fun e => e.2.skip == 0)).any (fun e => e.2.allstop) = false := by rw [List.any_filter]; exact h
  dsimp only
  rw [nothing]
  split <;> rfl

/-- Where no stop is due, no breakpoint stops and none is held. -/
theorem breaks_of_stopsAt_nil {s : State} {t : Stand} (h : s.stopsAt t = []) : s.breakHit t = none ∧ t.g.breakReq = none := by
  unfold State.stopsAt at h
  obtain ⟨-, h⟩ := List.append_eq_nil_iff.mp h
  have clear : ¬((s.breaksAt t).any (fun e => e.2.skip == 0) || t.g.breakReq.isSome) = true := fun c => by
    rw [if_pos c] at h
    exact List.cons_ne_nil _ _ h
  rw [Bool.or_eq_true, not_or] at clear
  obtain ⟨met, held⟩ := clear
  refine ⟨?_, by simpa using held⟩
  rw [← Option.not_isSome_iff_eq_none, breakHit_isSome]
  rintro ⟨e, he, skip⟩
  exact met (List.any_eq_true.mpr ⟨e, he, by simp [skip]⟩)

/-! ### PRECISE_STOP -/

section
variable {s u : State} {gk : Nat} {t : Stand} (h : s.stand? gk = some (t, u)) (due : u.stopDue t = true)
include h due

theorem preciseStop_parks {e : Nat} (one : u.stopsAt t = [e]) (hx : t.g.intx = 0) (hl : t.g.lc = 0) (hs : t.g.sc = 0) (held : t.g.breakReq ≠ some true)
    (all : (u.breaksAt t).any (fun e => e.2.skip == 0 && e.2.allstop) = false) :
    exec (.preciseStop gk) s = .next ((((u.meetBreaks t).modGroup gk (fun g =>
      { g with arrived := none, lastWp := u.wpHere t, since := 0, breakReq := none })).park gk e).tokenBack gk) := by
  show execPreciseStop gk s = _
  unfold execPreciseStop
  have alone : (t.g.breakReq == some true || u.breakHit t == some true) = false := by
    rw [breakHit_not_all all, Bool.or_false]
    exact beq_eq_false_iff_ne.mpr held
  simp only [h, due, one, hx, hl, hs, alone, State.oneOf, Bool.not_true, Bool.false_eq_true, if_false, List.isEmpty_cons, bne_self_eq_false, Bool.or_self]

theorem preciseStop_waits (wanted : u.stopsAt t ≠ []) (hx : t.g.intx = 0) (busy : t.g.lc ≠ 0 ∨ t.g.sc ≠ 0) : exec (.preciseStop gk) s = .next u := by
  show execPreciseStop gk s = _
  unfold execPreciseStop
  have goes : ((u.stopsAt t).isEmpty || t.g.intx != 0) = false := by simp [wanted, hx]
  have waits : (t.g.lc != 0 || t.g.sc != 0) = true := by simpa using busy
  simp only [h, due, goes, waits, Bool.not_true, Bool.false_eq_true, if_false, if_true]

theorem preciseStop_passes (nothing : u.stopsAt t = []) :
    exec (.preciseStop gk) s = .next ((u.meetBreaks t).modGroup gk (fun g => { g with quiet := true, breakReq := none })) := by
  obtain ⟨g, hg, -, breakReq⟩ := stand_group h
  obtain ⟨hit, held⟩ := breaks_of_stopsAt_nil nothing
  have here : (u.meetBreaks t).group? gk = some g := (meetBreaks_group ..).trans hg
  show execPreciseStop gk s = _
  unfold execPreciseStop
  simp only [h, due, nothing, hit, Bool.not_true, Bool.false_eq_true, if_false, List.isEmpty_nil, Bool.true_or, if_true]
  rw [State.modGroup_some here, State.modGroup_some here]
  simp [breakReq, held]

/-- A breakpoint met while a lane is in a transaction is held (R255). -/
theorem preciseStop_holds (hx : t.g.intx ≠ 0) : ∃ v g', exec (.preciseStop gk) s = .next v ∧ v.group? gk = some g' ∧ g'.st = .running ∧ g'.quiet = true ∧
    (g'.breakReq.isSome = true ↔ t.g.breakReq.isSome = true ∨ ∃ e ∈ u.breaksAt t, e.2.skip = 0) := by
  obtain ⟨g, hg, running, breakReq⟩ := stand_group h
  have here : (u.meetBreaks t).group? gk = some g := (meetBreaks_group ..).trans hg
  have stays : ((u.stopsAt t).isEmpty || t.g.intx != 0) = true := by
    rw [Bool.or_eq_true, bne_iff_ne]
    exact .inr hx
  have run : exec (.preciseStop gk) s = .next ((u.meetBreaks t).setGroup gk { g with
      quiet := true, breakReq := if (u.breakHit t).isSome || g.breakReq.isSome then some (t.g.breakReq == some true || u.breakHit t == some true) else none }) := by
    show execPreciseStop gk s = _
    unfold execPreciseStop
    simp only [h, due, stays, Bool.not_true, Bool.false_eq_true, if_false, if_true]
    rw [State.modGroup_some here]
  refine ⟨_, _, run, (State.group_setGroup ..).trans (if_pos rfl), running, rfl, ?_⟩
  rw [← breakHit_isSome, ← breakReq]
  dsimp only
  split
  · next c => simpa [or_comm] using c
  · next c => simpa [or_comm] using c

end

/-! ### Faults of the word, and the watchdog -/

theorem executionFreeze_freezes {s u : State} {gk : Nat} {t : Stand} (h : s.stand? gk = some (t, u)) {e n op : Nat} (fault : t.wordFault = some (e, n, op)) :
    exec (.executionFreeze gk e n op t.act) s = .next (u.freeze gk e n op t.act t.pc) := by
  show execExecutionFreeze gk e n op t.act s = _
  unfold execExecutionFreeze
  simp only [h, fault, decide_true, Bool.and_self, if_true]

theorem dog_freezes {s u : State} {gk : Nat} {t : Stand} (h : s.stand? gk = some (t, u)) (subc : Nat) {due : Group → Bool} (hd : due t.g = true) :
    s.dog gk subc due = u.freeze gk 13 subc (fieldAt t.word 3 8) t.act t.pc := by
  unfold State.dog
  simp only [h, hd, if_true]

/-! ### Resumption -/

/-- The group set running again (R327, R345). -/
def Group.again (g : Group) (step : Bool) : Group :=
  { g with st := .running, quiet := true, since := 0, pendAge := 0, stepReq := g.stepReq || step,
           stepped := if step then false else g.stepped || !g.stepReq, fault := [] }

theorem setAgain_group {s : State} {gk : Nat} {g : Group} (hg : s.group? gk = some g) (step : Bool) :
    ((s.modGroup gk (·.again step)).resumeOps gk).group? gk = some (g.again step) := by
  unfold State.resumeOps
  rw [State.group_modCore, State.group_modGroup, if_pos rfl, hg]
  rfl

theorem runAgain_group_eq (s : State) (gk k : Nat) (step : Bool) :
    (s.runAgain gk step).group? k = (((s.modGroup gk (·.again step)).resumeOps gk).rewait gk).group? k := by
  unfold State.runAgain
  show State.group? (match (((s.modGroup gk (·.again step)).resumeOps gk).rewait gk).group? gk with | some g => _ | none => _) k = _
  split
  · exact wholeAgain_group ..
  · rfl

/-- Where no lane waits in MWAIT, the group only runs again. -/
theorem runAgain_group {s : State} {gk : Nat} {g : Group} (hg : s.group? gk = some g) (step : Bool) (hm : g.mwait = 0) :
    (s.runAgain gk step).group? gk = some (g.again step) := by
  have here := setAgain_group hg step
  rw [runAgain_group_eq]
  unfold State.rewait
  rw [here]
  dsimp only
  rw [if_pos (show (g.again step).mwait = 0 from hm)]
  exact here

/-- The comparison of a resume leaves a group as it was but for its watch, which stays unarmed, or set (R216, R219). -/
theorem rewatch_group {s : State} {gk : Nat} {g : Group} (hg : s.group? gk = some g) (hw : g.watch.armed = false ∨ g.watch.trig = true) :
    ∃ g', (s.rewatch gk).group? gk = some g' ∧ { g' with watch := g.watch } = g ∧ (g'.watch.armed = false ∨ g'.watch.trig = true) := by
  rcases hw with off | rung
  · refine ⟨g, ?_, rfl, .inl off⟩
    unfold State.rewatch
    rw [hg]
    dsimp only
    rw [if_pos (by rw [off]; rfl)]
    exact hg
  · unfold State.rewatch
    rw [hg]
    dsimp only
    split
    · exact ⟨g, hg, rfl, .inr rung⟩
    · have moved := coreXlate_cacheEffect s (coreOf gk) g.part .load (64 * g.watch.line.toNat)
      generalize s.coreXlate (coreOf gk) g.part .load (64 * g.watch.line.toNat) = x at moved
      obtain ⟨x, v⟩ := x
      dsimp only at moved
      obtain ⟨g₁, hg₁, same₁⟩ := moved.group hg
      obtain ⟨g₁', hg₁', rung₁⟩ := moved.trig gk g hg rung
      obtain rfl := Option.some.inj (hg₁.symm.trans hg₁')
      have but : { g₁ with watch := g.watch } = g := congrArg (fun x : Group => { x with watch := g.watch }) same₁
      cases x with
      | bad f => exact ⟨g₁, hg₁, but, .inr rung₁⟩
      | ok pa =>
        dsimp only
        split
        · exact ⟨g₁, hg₁, but, .inr rung₁⟩
        · have here : (v.modGroup gk (fun g => { g with watch := { g.watch with home := .glob pa } })).group? gk =
              some { g₁ with watch := { g₁.watch with home := .glob pa } } := by
            rw [State.group_modGroup, if_pos rfl, hg₁]
            rfl
          have watched := watchSector_cacheEffect (v.modGroup gk (fun g => { g with watch := { g.watch with home := .glob pa } })) pa
          obtain ⟨g₂, hg₂, same₂⟩ := watched.group here
          obtain ⟨g₂', hg₂', rung₂⟩ := watched.trig gk _ here rung₁
          obtain rfl := Option.some.inj (hg₂.symm.trans hg₂')
          exact ⟨g₂, hg₂, (congrArg (fun x : Group => { x with watch := g.watch }) same₂ :).trans but, .inr rung₂⟩

/-- Lanes in MWAIT go on with the resume where the watch is not armed, or TRIG is set (R219). -/
theorem runAgain_wakes {s : State} {gk : Nat} {g : Group} (hg : s.group? gk = some g) (step : Bool) (hw : g.watch.armed = false ∨ g.watch.trig = true) :
    ∃ g', (s.runAgain gk step).group? gk = some g' ∧ g'.st = .running ∧ g'.mwait = 0 ∧
      ∀ l, l < 32 → sget g'.pcv l = if g.mwait.getLsbD l = true then sget g.pcv l + 8 else sget g.pcv l := by
  by_cases hm : g.mwait = 0
  · exact ⟨_, runAgain_group hg step hm, rfl, hm, fun l _ => by rw [hm]; simp [Group.again]⟩
  · have here := setAgain_group hg step
    obtain ⟨g', hg', same, woken⟩ := rewatch_group here hw
    refine ⟨g'.wake, ?_, (congrArg Group.st same :), rfl, fun l hl => ?_⟩
    · rw [runAgain_group_eq]
      unfold State.rewait
      rw [here]
      dsimp only
      rw [if_neg (show ¬(g.again step).mwait = 0 from hm), State.group_modGroup, if_pos rfl, hg', Option.map_some]
      have due : ∀ t : State, t.watchDue g'.watch = true := fun t => by
        unfold State.watchDue
        rcases woken with h | h <;> simp [h]
      rw [due, if_pos rfl]
    · have mwait : g'.mwait = g.mwait := (congrArg Group.mwait same :)
      have pcv : g'.pcv = g.pcv := (congrArg Group.pcv same :)
      show sget (setLanes g'.pcv g'.mwait _) l = _
      rw [sget_setLanes, mwait, pcv]
      simp [hl]

/-- RESUME and STEP where the group stands (R345). -/
theorem resume_here {s : State} {gk : Nat} {g : Group} (hg : s.group? gk = some g) (hs : g.st ≠ .running) (he : g.event ≠ 1) (hf : s.featOk g = true)
    (lanes : LaneMask) (step : Bool) : s.resume gk 0xFFFF lanes step = (s.setGroup gk { g with ord := 0xFFFF, lmask := lanes }).runAgain gk step := by
  unfold State.resume
  have stopped : ¬(g.st == .running || g.event = 1) = true := by simp [hs, he]
  simp only [hg, stopped, if_false, hf, bne_self_eq_false, Bool.false_and, Bool.not_true, Bool.false_eq_true]
  split <;> rfl

/-- Lanes set on a waypoint (R345). -/
def Group.onWaypoint (g : Group) (ord : BitVec 16) (lanes : LaneMask) (w : Waypoint) : Group :=
  let m := lanes &&& g.live
  { { g with ord := ord, lmask := lanes }.enterRegion w.kind m w.offs with
    pcv := setLanes g.pcv m (fun _ => BitVec.ofNat 32 w.offs),
    mwait := g.mwait &&& ~~~m, mwaitEnd := if g.mwait &&& ~~~m = 0 then none else g.mwaitEnd,
    yielded := g.yielded &&& ~~~m, rwait := ssets [] (g.rwait.map (fun (e : Nat × BitVec 32) => (e.1, e.2 &&& ~~~m))) }

/-- RESUME and STEP at a waypoint (R345). -/
theorem resume_at {s : State} {gk : Nat} {g : Group} (hg : s.group? gk = some g) (hs : g.st ≠ .running) (he : g.event ≠ 1) (hf : s.featOk g = true)
    (lanes : LaneMask) (step : Bool) {v : Variant} {ord : BitVec 16} {w : Waypoint} (hv : s.gvar? g = some v) (ho : ord ≠ 0xFFFF)
    (hw : v.wps[ord.toNat]? = some w) : s.resume gk ord lanes step = (s.setGroup gk (g.onWaypoint ord lanes w)).runAgain gk step := by
  unfold State.resume
  have stopped : ¬(g.st == .running || g.event = 1) = true := by simp [hs, he]
  simp only [hg, stopped, if_false, hf, hv, hw, Option.bind_some, Option.isNone_some, Bool.and_false, Bool.not_true, Bool.false_eq_true, ho]
  rfl

theorem enterRegion_rest (g : Group) (kind : Nat) (m : LaneMask) (off : Nat) :
    { g.enterRegion kind m off with epcv := g.epcv, watch := g.watch } = g := by
  unfold Group.enterRegion
  split <;> rfl

theorem enterRegion_epcv (g : Group) (kind : Nat) (m : LaneMask) (off : Nat) {l : Nat} (hl : l < 32) :
    sget (g.enterRegion kind m off).epcv l = if kind ≤ 1 ∧ m.getLsbD l = true then BitVec.ofNat 32 off else sget g.epcv l := by
  unfold Group.enterRegion
  by_cases entry : kind ≤ 1
  · rw [if_pos entry]
    show sget (setLanes g.epcv m _) l = _
    rw [sget_setLanes]
    simp only [hl, entry, true_and]
  · rw [if_neg entry, if_neg (fun h => entry h.1)]

theorem onWaypoint_leaves (g : Group) (ord : BitVec 16) (lanes : LaneMask) (w : Waypoint) :
    let a := g.onWaypoint ord lanes w
    a.v = g.v ∧ a.s = g.s ∧ a.p = g.p ∧ a.exited = g.exited ∧
      (∀ l, l < 32 → sget a.pcv l = if (lanes &&& ~~~g.exited).getLsbD l = true then BitVec.ofNat 32 w.offs else sget g.pcv l) ∧
      (∀ l, l < 32 → sget a.epcv l = if w.kind ≤ 1 ∧ (lanes &&& ~~~g.exited).getLsbD l = true then BitVec.ofNat 32 w.offs else sget g.epcv l) := by
  intro a
  have rest := enterRegion_rest { g with ord := ord, lmask := lanes } w.kind (lanes &&& g.live) w.offs
  refine ⟨(congrArg Group.v rest :), (congrArg Group.s rest :), (congrArg Group.p rest :), (congrArg Group.exited rest :), fun l hl => ?_,
    fun l hl => enterRegion_epcv { g with ord := ord, lmask := lanes } w.kind (lanes &&& g.live) w.offs hl⟩
  show sget (setLanes g.pcv (lanes &&& ~~~g.exited) _) l = _
  rw [sget_setLanes]
  simp only [hl, true_and]

end Sys2Proof.Machine

namespace Sys2Proof
open Machine

/-- Settles O45: each stop is read off where the group stands, and a resume off what it sets before the group runs again. -/
theorem stopsAndResumes : Obligations.StopsAndResumes := by
  refine ⟨fun s u gk t h => ⟨fun e due one hx hl hs held all => preciseStop_parks h due one hx hl hs held all, fun due wanted hx busy => preciseStop_waits h due wanted hx busy,
    fun due nothing => preciseStop_passes h due nothing, fun due hx => preciseStop_holds h due hx, fun e n op fault => executionFreeze_freezes h fault,
    fun pending age => ?_, fun since => ?_⟩, fun s gk g hg runs => ?_, fun s gk g lanes hg hs he hf => ?_, fun s core slot event r pend room => ?_⟩
  · exact congrArg Host.Outcome.next (dog_freezes h 1 (due := Group.dogPending) (Bool.and_eq_true_iff.mpr ⟨pending, decide_eq_true age⟩))
  · exact congrArg Host.Outcome.next (dog_freezes h 2 (due := Group.dogWaypoint) (decide_eq_true since))
  · refine ⟨_, rfl, ?_, fun k ne => ?_⟩
    · rw [State.group_modGroup, if_pos rfl, hg, Option.map_some, runs]
      rfl
    · rw [State.group_modGroup, if_neg ne]
  · intro back
    have set : (s.setGroup gk { g with ord := 0xFFFF, lmask := lanes }).group? gk = some { g with ord := 0xFFFF, lmask := lanes } :=
      (State.group_setGroup ..).trans (if_pos rfl)
    refine ⟨fun hm => ⟨_, congrArg Host.Outcome.next (resume_here hg hs he hf lanes false), ?_⟩,
      fun hm => ⟨_, congrArg Host.Outcome.next (resume_here hg hs he hf lanes true), ?_⟩, fun hw => ?_, fun hm v ord w hv ho hw => ?_⟩
    · rw [runAgain_group set false hm]
      simp [Group.again, back]
    · rw [runAgain_group set true hm]
      simp [Group.again, back]
    · obtain ⟨g', hg', runs, mwait, pcv⟩ := runAgain_wakes set false hw
      exact ⟨_, g', congrArg Host.Outcome.next (resume_here hg hs he hf lanes false), hg', runs, mwait, pcv⟩
    · refine ⟨_, _, congrArg Host.Outcome.next (resume_at hg hs he hf lanes false hv ho hw),
        runAgain_group ((State.group_setGroup ..).trans (if_pos rfl)) false ?_, rfl, ?_⟩
      · show g.mwait &&& _ = 0
        rw [hm]; simp
      · obtain ⟨hv, hs, hp, hx, pcv, epcv⟩ := onWaypoint_leaves g ord lanes w
        exact ⟨hv, hs, hp, hx, pcv, epcv⟩
  · refine ⟨_, rfl, ?_⟩
    rw [State.core_modCore, if_pos rfl, pend]
    dsimp only
    rw [if_pos room]
    exact ⟨rfl, rfl, sget_sset_same .., rfl⟩

end Sys2Proof
end

section
/-! SUPPORT. While no L1 holds a modified copy, the path of a read changes no byte of memory: nothing is written back, and so no
write-back is translated and no companion word is set (R84 to R89, R323). -/

namespace Sys2Proof.Machine

/-- No L1 holds a sector in M or O, and no directory entry names an owner with one (R87). -/
def State.Unmodified (s : State) : Prop := (∀ e ∈ s.coh.l1, e.2 < 3) ∧ (∀ e ∈ s.coh.dir, e.2.state ≠ 3 ∧ e.2.state ≠ 4)

theorem State.Unmodified.l1 {s : State} (h : s.Unmodified) (core sec : Nat) : s.l1 core sec < 3 := by
  unfold State.l1
  cases hk : kget s.coh.l1 (l1Key core sec) with
  | none => exact Nat.zero_lt_succ 2
  | some x => exact h.1 _ (kget_mem hk)

theorem State.Unmodified.dirEnt {s : State} (h : s.Unmodified) (sec : Nat) : (s.dirEnt sec).state ≠ 3 ∧ (s.dirEnt sec).state ≠ 4 := by
  unfold State.dirEnt
  cases hk : kget s.coh.dir sec with
  | none => exact ⟨nofun, nofun⟩
  | some x => exact h.2 _ (kget_mem hk)

/-- From a state without modified copies, one without them and with the same bytes of memory. -/
structure ReadOnly (s t : State) : Prop where
  keeps : s.Unmodified → t.Unmodified ∧ t.mem.bytes = s.mem.bytes ∧ t.mem.poison = s.mem.poison

/-- A copy in S and one in E are not modified (R87). -/
theorem shared_unmodified : (1 : Nat) ≠ 3 ∧ (1 : Nat) ≠ 4 := ⟨by decide, by decide⟩
theorem exclusive_unmodified : (2 : Nat) ≠ 3 ∧ (2 : Nat) ≠ 4 := ⟨by decide, by decide⟩

namespace ReadOnly

variable {s t u : State}

theorem refl (s : State) : ReadOnly s s := ⟨fun h => ⟨h, rfl, rfl⟩⟩

theorem trans (h : ReadOnly s t) (k : ReadOnly t u) : ReadOnly s u where
  keeps hs := by
    obtain ⟨ht, bytes, poison⟩ := h.keeps hs
    obtain ⟨hu, bytes', poison'⟩ := k.keeps ht
    exact ⟨hu, bytes'.trans bytes, poison'.trans poison⟩

theorem foldl {α : Type} {f : State → α → State} (hf : ∀ s a, ReadOnly s (f s a)) (l : List α) (s : State) : ReadOnly s (l.foldl f s) := by
  induction l generalizing s with
  | nil => exact refl s
  | cons a r ih => exact (hf s a).trans (ih _)

theorem ite {c : Prop} [Decidable c] (ht : ReadOnly s t) (hu : ReadOnly s u) : ReadOnly s (if c then t else u) := by
  split
  · exact ht
  · exact hu

/-- A step that holds only where no copy is modified. -/
theorem of_unmodified (h : s.Unmodified → ReadOnly s t) : ReadOnly s t := ⟨fun hs => (h hs).keeps hs⟩

theorem of_eq (h : s.Unmodified → t = s) : ReadOnly s t := of_unmodified fun hs => h hs ▸ refl s

/-- A step that touches neither the sector states nor the memory. -/
theorem of_same (hc : t.coh.l1 = s.coh.l1) (hd : t.coh.dir = s.coh.dir) (hb : t.mem.bytes = s.mem.bytes) (hp : t.mem.poison = s.mem.poison) :
    ReadOnly s t := ⟨fun hs => ⟨⟨hc ▸ hs.1, hd ▸ hs.2⟩, hb, hp⟩⟩

/-- A step of the sector states alone. -/
theorem of_coh {c : Coh} (hl : ∀ e ∈ c.l1, e ∈ s.coh.l1 ∨ e.2 < 3) (hd : ∀ e ∈ c.dir, e ∈ s.coh.dir ∨ (e.2.state ≠ 3 ∧ e.2.state ≠ 4)) :
    ReadOnly s (s.setCoh c) where
  keeps hs := ⟨⟨fun e he => (hl e he).elim (hs.1 e) id, fun e he => (hd e he).elim (hs.2 e) id⟩, rfl, rfl⟩

end ReadOnly

/-! ### Sector states and directories -/

theorem setL1_readOnly (s : State) (core sec : Nat) {st : Nat} (h : st < 3) : ReadOnly s (s.setL1 core sec st) := by
  refine .of_coh (fun e he => ?_) (fun e he => .inl he)
  dsimp only at he
  split at he
  · exact .inl (List.mem_of_mem_filter he)
  · exact (kset_mem he).elim (fun eq => .inr (eq ▸ h)) .inl

theorem setDir_readOnly (s : State) (sec : Nat) {d : DirEnt} (h : d.state ≠ 3 ∧ d.state ≠ 4) : ReadOnly s (s.setDir sec d) :=
  .of_coh (fun _ he => .inl he) (fun _ he => (kset_mem he).elim (fun eq => .inr (eq ▸ h)) .inl)

theorem dropCopies_readOnly (s : State) (sec : Nat) (keep : Option Nat) : ReadOnly s (s.dropCopies sec keep) :=
  .of_coh (fun _ he => .inl (List.mem_of_mem_filter he)) (fun _ he => .inl he)

theorem leaseDrop_readOnly (s : State) (sec : Nat) : ReadOnly s (s.leaseDrop sec) :=
  .of_coh (fun _ he => .inl (List.mem_of_mem_filter he)) (fun _ he => .inl he)

theorem leaseAcquire_readOnly (s : State) : ReadOnly s s.leaseAcquire :=
  .of_coh (fun _ he => .inl (List.mem_of_mem_filter he)) (fun _ he => .inl he)

theorem rebase_readOnly (s : State) (slice : Nat) : ReadOnly s (s.rebase slice) :=
  .ite (.refl s) (.of_coh (fun _ he => .inl (List.mem_of_mem_filter he)) (fun _ he => .inl he))

theorem setTags_readOnly (s : State) (core : Nat) (l : List L1Line) : ReadOnly s (s.setTags core l) := .of_same rfl rfl rfl rfl

theorem setLines_readOnly (s : State) (x : KMap Unit) : ReadOnly s (s.setCoh { s.coh with lines := x }) := .of_same rfl rfl rfl rfl

theorem setLeases_readOnly (s : State) (x : KMap Lease) : ReadOnly s (s.setCoh { s.coh with leases := x }) := .of_same rfl rfl rfl rfl

theorem draw_readOnly (s : State) : ReadOnly s s.draw.2 := .of_same rfl rfl rfl rfl

theorem notice_readOnly (s : State) (p : Place) : ReadOnly s (s.notice p) := .of_same rfl rfl rfl rfl

theorem downgrade_readOnly (s : State) (core sec : Nat) : ReadOnly s (s.downgrade core sec) := .ite (.refl s) (setL1_readOnly s core sec (by decide))

theorem abortHart_readOnly (s : State) (h cause code : Nat) : ReadOnly s (s.abortHart h cause code) := by
  unfold State.abortHart
  dsimp only
  split
  · exact .refl s
  · split
    · exact .of_same rfl rfl rfl rfl
    · exact .of_same rfl rfl rfl rfl

theorem conflict_readOnly (s : State) (own : Option Nat) (pa : Nat) (wr : Bool) : ReadOnly s (s.conflict own pa wr) :=
  .foldl (fun s (e : Nat × Nat) => abortHart_readOnly s e.2 13 0) _ s

theorem l1Drop_readOnly (s : State) (core sec : Nat) : ReadOnly s (s.l1Drop core sec) := .of_unmodified fun hs => by
  have low := hs.l1 core sec
  have few : s.l1 core sec = 0 ∨ s.l1 core sec = 1 ∨ s.l1 core sec = 2 := by omega
  unfold State.l1Drop
  rcases few with h | h | h <;> rw [h]
  · exact .refl s
  · exact setL1_readOnly s core sec (by decide)
  · exact setL1_readOnly s core sec (by decide)

theorem dirShare_readOnly (s : State) (sec : Nat) : ReadOnly s (s.dirShare sec) := .of_unmodified fun hs => by
  unfold State.dirShare
  dsimp only
  split
  · exact (setDir_readOnly s sec (by exact shared_unmodified)).trans (downgrade_readOnly ..)
  · next h => exact absurd h (hs.dirEnt sec).2
  · exact .refl s

theorem homeRead_readOnly (s : State) (own : Option Nat) (pa : Nat) : ReadOnly s (s.homeRead own pa) :=
  .ite (.refl s) ((conflict_readOnly ..).trans (dirShare_readOnly ..))

/-! ### Lines of L1 and L2 -/

/-- No write-back is translated, for there is none. -/
theorem wbXlate_readOnly (s : State) (sec : Nat) (keep : Option Nat) : ReadOnly s (s.wbXlate sec keep) := .of_eq fun hs => by
  obtain ⟨h3, h4⟩ := hs.dirEnt sec
  unfold State.wbXlate
  dsimp only
  rw [if_pos]
  rw [Bool.or_eq_true, Bool.or_eq_true, decide_eq_true_iff, decide_eq_true_iff]
  omega

theorem l1Evict_readOnly (s : State) (core : Nat) (x : L1Line) : ReadOnly s (s.l1Evict core x) := .of_unmodified fun hs => by
  have clean : ¬(List.range 4).any (fun j => 3 ≤ s.l1 core (4 * x.pline + j)) = true := by
    rw [List.any_eq_true]
    rintro ⟨j, -, h⟩
    exact absurd (of_decide_eq_true h) (Nat.not_le.mpr (hs.l1 ..))
  unfold State.l1Evict
  rw [if_neg clean]
  exact (ReadOnly.foldl (fun v j => l1Drop_readOnly v core (4 * x.pline + j)) _ s).trans (setTags_readOnly ..)

/-- One sector of a line that leaves L2. -/
theorem l2EvictSector_readOnly (s : State) (sec : Nat) : ReadOnly s
    (let d := s.dirEnt sec
     if d.state = 5 then s
     else
      let s := (s.wbXlate sec none).dropCopies sec none
      let s := s.setCoh { s.coh with dir := kdel s.coh.dir sec, leases := kdel s.coh.leases sec }
      if d.watch then s.notice (.glob (64 * sec)) else s) := by
  extract_lets d t c u
  have dropped : ReadOnly s t := (wbXlate_readOnly ..).trans (dropCopies_readOnly ..)
  have gone : ReadOnly s u := dropped.trans (.of_coh (fun _ he => .inl he) (fun _ he => .inl (List.mem_of_mem_filter he)))
  exact .ite (.refl s) (.ite (gone.trans (notice_readOnly ..)) gone)

theorem l2Evict_readOnly (s : State) (line : Nat) : ReadOnly s (s.l2Evict line) :=
  (setLines_readOnly s (kdel s.coh.lines line)).trans
    (.foldl (fun t j => l2EvictSector_readOnly t (4 * line + j)) (List.range 4) _)

theorem l2Room_readOnly (sl n : Nat) (s : State) : ReadOnly s (s.l2Room sl n) := by
  induction n generalizing s with
  | zero => exact .refl s
  | succ n ih =>
    unfold State.l2Room
    dsimp only
    refine (draw_readOnly s).trans (ReadOnly.trans ?_ (ih _))
    split
    · exact l2Evict_readOnly ..
    · exact .refl _

theorem l2Fill_readOnly (s : State) (line : Nat) : ReadOnly s (s.l2Fill line) := by
  unfold State.l2Fill
  dsimp only
  exact .ite (.refl s) ((l2Room_readOnly ..).trans (setLines_readOnly ..))

theorem l1Alloc_readOnly (s : State) (core part va pa : Nat) : ReadOnly s (s.l1Alloc core part va pa) := by
  unfold State.l1Alloc
  extract_lets x t live set u
  have left : ReadOnly s t := .foldl (fun v k => .foldl (fun w y => l1Evict_readOnly w _ y) _ v) (List.range 32) s
  have named : ReadOnly s u := left.trans (setTags_readOnly ..)
  refine .ite left (.ite named ?_)
  exact (named.trans (draw_readOnly u)).trans (l1Evict_readOnly ..)

/-! ### Loads -/

theorem dirRead_readOnly (s : State) (core sec : Nat) : ReadOnly s (s.dirRead core sec) := by
  unfold State.dirRead
  dsimp only
  refine (l2Fill_readOnly s (sec / 4)).trans ?_
  generalize s.l2Fill (sec / 4) = t
  refine .of_unmodified fun ht => ?_
  have own := ht.dirEnt sec
  have entered : ∀ (d : DirEnt) (st : Nat), (d.state ≠ 3 ∧ d.state ≠ 4) → st < 3 → ReadOnly t ((t.setDir sec d).setL1 core sec st) :=
    fun d st hd hst => (setDir_readOnly _ sec hd).trans (setL1_readOnly _ core sec hst)
  split
  · exact .ite (entered _ 1 shared_unmodified (by decide)) (entered _ 2 exclusive_unmodified (by decide))
  · next h => exact entered _ 1 own (by decide)
  · exact .ite (setL1_readOnly _ core sec (by decide))
      (((setDir_readOnly _ sec (by exact shared_unmodified)).trans (downgrade_readOnly ..)).trans (setL1_readOnly _ core sec (by decide)))
  · next h => exact absurd h own.2
  · next h => exact absurd h own.1
  · exact .refl _

theorem leaseFill_readOnly (s : State) (sec : Nat) : ReadOnly s (s.leaseFill sec) := by
  unfold State.leaseFill
  dsimp only
  exact .ite (.refl s) ((rebase_readOnly ..).trans (setLeases_readOnly ..))

theorem leaseLine_readOnly (s : State) (line : Nat) : ReadOnly s (s.leaseLine line) :=
  (l2Fill_readOnly s line).trans (.foldl (fun _ _ => .ite (.refl _) ((leaseDrop_readOnly ..).trans (leaseFill_readOnly ..))) _ _)

theorem loadEffects_readOnly (s : State) (own core : Option Nat) (pa : Nat) : ReadOnly s (s.loadEffects own core pa) := by
  unfold State.loadEffects
  split
  · refine .ite (.refl s) (.ite ?_ ?_)
    · dsimp only
      have leased : ReadOnly s (if s.leaseLive (pa / 64) = true then s else s.leaseLine (pa / 256)) := .ite (.refl s) (leaseLine_readOnly ..)
      split
      · exact .ite (leased.trans (setL1_readOnly _ _ _ (by decide))) leased
      · exact leased
    · split
      · exact .ite ((conflict_readOnly ..).trans (dirRead_readOnly ..)) (.refl s)
      · exact homeRead_readOnly ..
  · exact .refl s

theorem coreLoad_readOnly (s : State) (core part va pa : Nat) (l2 : Bool) : ReadOnly s (s.coreLoad core part va pa l2) := by
  unfold State.coreLoad
  split
  · refine .ite (.refl s) (.ite ?_ ((l1Alloc_readOnly ..).trans (loadEffects_readOnly ..)))
    exact ReadOnly.trans (.ite (.refl s) (l2Fill_readOnly ..)) (loadEffects_readOnly ..)
  · exact .refl s

theorem touchTag_readOnly (s : State) (part pa : Nat) : ReadOnly s (s.touchTag part pa) := .ite (.refl s) (.of_same rfl rfl rfl rfl)

end Sys2Proof.Machine
end

section
/-! SUPPORT. What the performance of an access does to the package but for its result: caches, the tags of Firefly, and no byte that
an Unmodified package holds (R84 to R89, R381). -/

namespace Sys2Proof.Machine

/-! ### Firefly notes what an access reached (R381) -/

theorem fireReach_rest (s : State) (gk : Nat) (g : Group) (o : MemOp) (home : Bool) : { s.fireReach gk g o home with cores := s.cores } = s := by
  unfold State.fireReach
  split
  · rfl
  · rfl

theorem fireReach_core (s : State) (gk : Nat) (g : Group) (o : MemOp) (home : Bool) (c : Nat) :
    ((s.fireReach gk g o home).core c).withCounts (s.core c) = s.core c := by
  unfold State.fireReach State.fireLevel
  split
  · rfl
  · rw [State.core_modCore]
    split
    · next h => subst h; rfl
    · rfl

theorem fireReach_isGone (s : State) (gk : Nat) (g : Group) (o : MemOp) (home : Bool) (pa : Nat) :
    (s.fireReach gk g o home).isGone pa = s.isGone pa := by
  unfold State.fireReach
  split <;> rfl

theorem fireReach_locate (s : State) (gk : Nat) (g : Group) (o : MemOp) (home : Bool) (pa : Nat) :
    (s.fireReach gk g o home).locate pa = s.locate pa := by
  unfold State.fireReach
  split <;> rfl

theorem fireReach_heldCount (s : State) (gk : Nat) (g : Group) (o : MemOp) (home : Bool) : (s.fireReach gk g o home).heldCount = s.heldCount := by
  unfold State.heldCount
  rw [(congrArg State.parts (fireReach_rest s gk g o home) :)]

theorem fireReach_readOnly (s : State) (gk : Nat) (g : Group) (o : MemOp) (home : Bool) : ReadOnly s (s.fireReach gk g o home) := by
  have rest := fireReach_rest s gk g o home
  exact .of_same (congrArg (fun x : State => x.coh.l1) rest :) (congrArg (fun x : State => x.coh.dir) rest :)
    (congrArg (fun x : State => x.mem.bytes) rest :) (congrArg (fun x : State => x.mem.poison) rest :)

/-! ### The package around an access that is performed -/

/-- What a load leaves of the package as it was. -/
structure LoadFrame (s t : State) : Prop where
  teams : t.teams = s.teams
  cores : ∀ c, (t.core c).withCounts (s.core c) = s.core c
  groups : ∀ k, (t.group? k).map Group.unrung = (s.group? k).map Group.unrung
  locate : ∀ pa, t.locate pa = s.locate pa
  isGone : ∀ pa, t.isGone pa = s.isGone pa
  poison : ∀ x ∈ t.mem.poison, x ∈ s.mem.poison

namespace LoadFrame

variable {s t u : State}

theorem trans (h : LoadFrame s t) (k : LoadFrame t u) : LoadFrame s u where
  teams := k.teams.trans h.teams
  cores c := (congrArg (·.withCounts (s.core c)) (k.cores c)).trans (h.cores c)
  groups j := (k.groups j).trans (h.groups j)
  locate pa := (k.locate pa).trans (h.locate pa)
  isGone pa := (k.isGone pa).trans (h.isGone pa)
  poison x hx := h.poison x (k.poison x hx)

theorem of_cacheEffect (h : CacheEffect s t) : LoadFrame s t where
  teams := h.teams
  cores c := by
    unfold State.core
    rw [h.cores]
    rfl
  groups := h.groups
  locate := h.locate
  isGone := h.isGone
  poison := h.poison

theorem of_fireReach (s : State) (gk : Nat) (g : Group) (o : MemOp) (home : Bool) : LoadFrame s (s.fireReach gk g o home) where
  teams := (congrArg State.teams (fireReach_rest s gk g o home) :)
  cores := fireReach_core s gk g o home
  groups k := (congrArg (fun x : State => (x.group? k).map Group.unrung) (fireReach_rest s gk g o home) :)
  locate := fireReach_locate s gk g o home
  isGone := fireReach_isGone s gk g o home
  poison _ hx := (congrArg (fun x : State => x.mem.poison) (fireReach_rest s gk g o home) :) ▸ hx

theorem group (h : LoadFrame s t) {k : Nat} {g : Group} (hg : s.group? k = some g) : ∃ g', t.group? k = some g' ∧ g'.unrung = g.unrung :=
  group_of_unrung (h.groups k) hg

theorem norm (h : LoadFrame s t) (p : Place) : t.norm p = s.norm p := by
  cases p with
  | glob pa => exact h.locate pa
  | _ => rfl

/-- A load clears poison, and sets none. -/
theorem isPoison (h : LoadFrame s t) {p : Place} (hp : s.isPoison p = false) : t.isPoison p = false := by
  cases p with
  | glob pa =>
    unfold State.isPoison at hp ⊢
    rw [Bool.or_eq_false_iff] at hp ⊢
    obtain ⟨here, clean⟩ := hp
    refine ⟨(h.isGone pa).trans here, ?_⟩
    rw [List.contains_eq_mem, decide_eq_false_iff_not] at clean ⊢
    exact fun hx => clean (h.poison _ hx)
  | aspc c o => exact (congrArg (fun k : Core => k.apoison.contains (o / 64)) (h.cores c)).trans hp
  | wspc c o => exact (congrArg (fun k : Core => k.wpoison.contains (o / 64)) (h.cores c)).trans hp

theorem anyPoison (h : LoadFrame s t) {p : Place} {n : Nat} (hp : s.anyPoison p n = false) : t.anyPoison p n = false := by
  unfold State.anyPoison at hp ⊢
  rw [List.any_eq_false] at hp ⊢
  intro i hi
  rw [Bool.not_eq_true]
  exact h.isPoison (Bool.eq_false_of_not_eq_true (hp i hi))

/-- Bytes are read as before where no copy was modified. -/
theorem readByte (h : LoadFrame s t) (r : ReadOnly s t) (hs : s.Unmodified) (p : Place) : t.readByte p = s.readByte p := by
  obtain ⟨-, bytes, poison⟩ := r.keeps hs
  have clean : t.isPoison p = s.isPoison p := by
    cases p with
    | glob pa => exact congrArg₂ (fun b l => b || List.contains l (pa / 64)) (h.isGone pa) poison
    | aspc c o => exact (congrArg (fun k : Core => k.apoison.contains (o / 64)) (h.cores c) :)
    | wspc c o => exact (congrArg (fun k : Core => k.wpoison.contains (o / 64)) (h.cores c) :)
  have raw : t.rawByte p = s.rawByte p := by
    cases p with
    | glob pa => exact congrArg₂ (fun b m => if b = true then 0 else sget m pa) (h.isGone pa) bytes
    | aspc c o => exact (congrArg (fun k : Core => sget k.a o) (h.cores c) :)
    | wspc c o => exact (congrArg (fun k : Core => sget k.w o) (h.cores c) :)
  unfold State.readByte
  rw [clean, raw]

end LoadFrame

/-! ### Poison that a load meets (R400) -/

theorem locate_glob {s : State} {pa q : Nat} (h : s.locate pa = .glob q) : q = pa := by
  unfold State.locate at h
  split at h
  · dsimp only at h
    split at h <;> exact absurd h nofun
  · exact (Place.glob.inj h).symm

/-- A load whose bytes are free of poison meets none. -/
theorem loadPoison_of_anyPoison {s : State} {p : Place} {n : Nat} (h : s.anyPoison (s.norm p) n = false) : s.loadPoison p n = false := by
  unfold State.loadPoison
  cases p with
  | glob pa =>
    dsimp only [State.norm] at h ⊢
    split
    · next q hq =>
      rw [hq, locate_glob hq] at h
      rw [h, ite_self]
    · exact h
  | _ => exact h

theorem poisoned_nil {s : State} {l : List Acc} (h : ∀ a ∈ l, s.anyPoison (s.norm a.place) a.size = false) : s.poisoned l = [] := by
  have none : l.filter (fun a => !a.done && s.loadPoison a.place a.size) = [] := by
    rw [List.filter_eq_nil_iff]
    intro a ha
    rw [loadPoison_of_anyPoison (h a ha), Bool.and_false]
    exact Bool.false_ne_true
  unfold State.poisoned
  rw [none]
  rfl

/-! ### LOAD_RETIRE -/

/-- The accesses of a load to global memory: virtual and physical address (R236). -/
def MemOp.globs (o : MemOp) : List (Nat × Nat) := o.accs.filterMap (fun a => match a.place with
  | .glob pa => if a.done then none else some (a.va.toNat, pa)
  | _ => none)

/-- The state in which a load is performed: a NODE-scope acquire drops lease copies (R91). -/
def State.acquired (s : State) (o : MemOp) : State := if o.ord = .acq ∧ o.scope = .node then s.leaseAcquire else s

/-- The state that the reads of a load leave. -/
def State.loaded (s : State) (gk : Nat) (g : Group) (o : MemOp) : State :=
  o.globs.foldl (fun (u : State) e => (u.touchTag g.part e.2).coreLoad (coreOf gk) g.part e.1 e.2 o.l2) ((s.acquired o).fireReach gk g o false)

/-- The values that a load binds (R102, R237). -/
def State.loadResult (u : State) (g : Group) (o : MemOp) : List (Nat × Nat) := o.accs.map (fun a => (a.lane,
  if a.done then a.data.toNat else match u.forwarded g o a with
    | some x => x.toNat
    | none => ofBytes (u.loadValue a.place a.size)))

/-- What is forwarded to a load is read off the accesses in flight. -/
theorem loadResult_ops {u : State} {g g' : Group} {o : MemOp} (h : g.ops = g'.ops) : u.loadResult g o = u.loadResult g' o := by
  have alike : ∀ a, u.forwarded g o a = u.forwarded g' o a := fun a => by
    unfold State.forwarded State.clash
    rw [h]
  unfold State.loadResult
  simp only [alike]

theorem op_group {s : State} {gk id : Nat} {g : Group} {o : MemOp} (h : s.op? gk id = some (g, o)) : s.group? gk = some g := by
  unfold State.op? at h
  obtain ⟨g', hg', h⟩ := Option.bind_eq_some_iff.mp h
  obtain ⟨p, -, e⟩ := Option.map_eq_some_iff.mp h
  rw [hg', (Prod.mk.inj e).1]

theorem acquired_cacheEffect (s : State) (o : MemOp) : CacheEffect s (s.acquired o) := .ite (leaseAcquire_cacheEffect s) (.refl s)

theorem loaded_frame (s : State) (gk : Nat) (g : Group) (o : MemOp) : LoadFrame s (s.loaded gk g o) :=
  ((LoadFrame.of_cacheEffect (acquired_cacheEffect s o)).trans (.of_fireReach ..)).trans
    (.of_cacheEffect (.foldl (fun _ _ => (touchTag_cacheEffect ..).trans (coreLoad_cacheEffect ..)) _ _))

theorem loaded_readOnly (s : State) (gk : Nat) (g : Group) (o : MemOp) : ReadOnly s (s.loaded gk g o) :=
  ((ReadOnly.ite (leaseAcquire_readOnly s) (.refl s) : ReadOnly s (s.acquired o)).trans (fireReach_readOnly ..)).trans
    (.foldl (fun _ _ => (touchTag_readOnly ..).trans (coreLoad_readOnly ..)) _ _)

theorem loadRetire_retires {s : State} {gk id : Nat} {g : Group} {o : MemOp} (hop : s.op? gk id = some (g, o)) (hk : o.kind = .load)
    (ready : s.opReady gk g o = true) (ours : s.opBad g o = false) (clean : ∀ a ∈ o.accs, s.anyPoison (s.norm a.place) a.size = false) :
    let u := s.loaded gk g o
    exec (.loadRetire gk id) s = .next ((u.modGroup gk (fun g => ((g.retire o).result o (u.loadResult g o)).addFlags 0)).maybeEnd gk) := by
  intro u
  have frame := loaded_frame s gk g o
  have none : u.poisoned o.accs = [] := poisoned_nil fun a ha => by
    rw [frame.norm]
    exact frame.anyPoison (clean a ha)
  show execLoadRetire gk id s = _
  unfold execLoadRetire
  have goes : ¬(!(o.kind == .load || o.kind == .snapshot) || !s.opReady gk g o) = true := by simp [hk, ready]
  have plain : ¬o.kind = .snapshot := by rw [hk]; nofun
  have acquires : (if (o.ord = .acq && o.scope = .node) = true then s.leaseAcquire else s) = s.acquired o := by
    unfold State.acquired
    simp only [Bool.and_eq_true, decide_eq_true_eq]
  simp -zeta only [hop, goes, ours, plain, if_false, Bool.false_eq_true]
  extract_lets -underBinder t globs reached read bad left val fl
  have same : read = u := by
    show List.foldl _ (State.fireReach t gk g o false) globs = _
    rw [show t = s.acquired o from acquires]
    rfl
  have clear : bad = [] := (congrArg (·.poisoned o.accs) same).trans none
  have after : left = u := by
    show List.foldl _ read bad = u
    rw [clear, same]
    rfl
  have flags : fl = 0 := by
    show flagIf (!bad.isEmpty) fPOISON = 0
    rw [clear]
    rfl
  have vals : o.accs.map (fun a => (a.lane, val a)) = u.loadResult g o := by
    show o.accs.map (fun a => (a.lane, if a.done = true then a.data.toNat else match left.forwarded g o a with
      | some x => x.toNat
      | Option.none => ofBytes (left.loadValue a.place a.size))) = _
    rw [after]
    rfl
  obtain ⟨g', hg', same⟩ := frame.group (op_group hop)
  have ops : g.ops = g'.ops := (congrArg Group.ops same).symm
  rw [after, flags, vals, loadResult_ops ops, State.modGroup_some hg', State.modGroup_some hg']

/-! ### Stores, releases and atomics -/

section
variable {s : State} {gk id : Nat} {g : Group} {o : MemOp} (hop : s.op? gk id = some (g, o))
include hop

section
variable (ready : s.opReady gk g o = true) (ours : s.opBad g o = false)
include ready ours

/-- STORE_RETIRE of a store (R107, R236). -/
theorem storeRetire_stores (hk : o.kind = .store) :
    exec (.storeRetire gk id) s = .next (((s.performStore gk g o).modGroup gk (fun g => g.retire o)).maybeEnd gk) := by
  show execStoreRetire gk id s = _
  unfold execStoreRetire
  simp [hop, hk, ready, ours]

/-- STORE_RETIRE of a release (R40, R116). -/
theorem storeRetire_releases (hk : o.kind = .release) : exec (.storeRetire gk id) s = .next ((s.release gk g o).maybeEnd gk) := by
  show execStoreRetire gk id s = _
  unfold execStoreRetire
  simp [hop, hk, ready, ours]

omit hop ready ours in
theorem release_performs (away : o.scope ≠ .node ∨ s.clock.unsync = true) :
    s.release gk g o = ((s.performStore gk g o).modGroup gk (fun g => g.retire o)).commitTo gk o.exe o.next.toNat := by
  unfold State.release
  rw [if_neg]
  rcases away with h | h <;> simp [h]

omit hop ready ours in
theorem release_leaves (hs : o.scope = .node) (synced : s.clock.unsync = false) (first : o.sent = none) :
    s.release gk g o = (s.modGroup gk (fun g =>
      { g with ops := g.ops.map (fun p => if p.id == o.id then { p with sent := some s.window } else p) })).commitTo gk o.exe o.next.toNat := by
  unfold State.release
  rw [if_pos (by simp [hs, synced]), first]
  rfl

/-- ATOMIC_PERFORM, but for a release at NODE scope (R92, R243). -/
theorem atomicPerform_finishes (hk : o.kind = .atomic) (now : ¬(o.scope = .node ∧ (o.ord = .rel ∨ o.ord = .acqrel) ∧ s.clock.unsync = false)) :
    exec (.atomicPerform gk id) s = .next (s.finishAtomic gk g o) := by
  show execAtomicPerform gk id s = _
  unfold execAtomicPerform
  have goes : ¬(o.scope = .node && (o.ord = .rel || o.ord = .acqrel) && !s.clock.unsync) = true := by
    simpa only [Bool.and_eq_true, Bool.or_eq_true, decide_eq_true_eq, Bool.not_eq_true', and_assoc] using now
  simp only [hop, hk, ready, ours, goes, bne_self_eq_false, Bool.not_true, Bool.or_self, Bool.false_eq_true, if_false]

omit ready in
/-- NODE_RELEASE_PERFORM of a release of this package (R116). -/
theorem nodeReleasePerform_performs {n : Nat} (hk : o.kind = .release) (sent : o.sent = some n) (past : s.holdOver n = true)
    (mine : s.node.held.find? (fun x => x.gk == gk && x.id == id) = none) (free : s.heldBack gk o = false) :
    exec (.nodeReleasePerform gk id) s = .next (((s.performStore gk g o).modGroup gk (fun g => g.retire o)).maybeEnd gk) := by
  show execNodeReleasePerform gk id s = _
  unfold execNodeReleasePerform
  simp [mine, hop, sent, past, free, ours, hk]

end

/-- PARTITION_VIOLATION (R422). -/
theorem partitionViolation_parks (bad : s.opBad g o = true) : exec (.partitionViolation gk id) s = .next (s.freeze gk 15 6 o.opc o.exe o.at_) := by
  show execPartitionViolation gk id s = _
  unfold execPartitionViolation
  rw [hop]
  dsimp only
  rw [if_pos bad]
  rfl

end

/-- The state in which an atomic is performed (R91, R381). -/
def State.beforeAtomic (s : State) (gk : Nat) (g : Group) (o : MemOp) : State :=
  (if o.scope = .node ∧ (o.ord = .acq ∨ o.ord = .acqrel) then s.leaseAcquire else s).fireReach gk g o true

theorem beforeAtomic_norm (s : State) (gk : Nat) (g : Group) (o : MemOp) (p : Place) : (s.beforeAtomic gk g o).norm p = s.norm p :=
  ((LoadFrame.of_cacheEffect (.ite (leaseAcquire_cacheEffect s) (.refl s))).trans (.of_fireReach ..)).norm p

theorem beforeAtomic_heldCount (s : State) (gk : Nat) (g : Group) (o : MemOp) : (s.beforeAtomic gk g o).heldCount = s.heldCount := by
  unfold State.beforeAtomic
  rw [fireReach_heldCount]
  split <;> rfl

/-- An atomic that finds room in the logs is performed, commits, and its result is written (R40, R243). -/
theorem finishAtomic_finishes {s : State} {gk : Nat} {g : Group} {o : MemOp} :
    let r := (s.beforeAtomic gk g o).atomics gk g o
    r.2.2.heldCount = s.heldCount →
    s.finishAtomic gk g o = (((r.2.2.matRenew gk (g.tk gk) o.id (o.accs.map (fun a => (s.norm a.place, a.size)))).modGroup gk (fun g =>
      ((g.retire o).result o r.1).addFlags r.2.1)).commitTo gk o.exe o.next.toNat).maybeEnd gk := by
  intro r room
  have before : (if (o.scope = .node && (o.ord = .acq || o.ord = .acqrel)) = true then s.leaseAcquire else s).fireReach gk g o true =
      s.beforeAtomic gk g o := by
    unfold State.beforeAtomic
    simp only [Bool.and_eq_true, Bool.or_eq_true, decide_eq_true_eq]
  unfold State.finishAtomic
  simp only [before, beforeAtomic_norm, beforeAtomic_heldCount]
  rw [if_neg (by simpa using room)]

end Sys2Proof.Machine

namespace Sys2Proof
open Machine

/-- Settles O24: a load through the frame of its reads, the others by the rule of their action. -/
theorem accessesPerformed : Obligations.AccessesPerformed := by
  refine ⟨fun s gk id g o hop hk ready ours clean => ?_, fun s gk id g o hop ready ours => ?_, fun s gk id g o hop bad => partitionViolation_parks hop bad⟩
  · intro a u
    have frame := loaded_frame s gk g o
    exact ⟨loadRetire_retires hop hk ready ours clean, frame.teams, frame.cores, frame.groups,
      fun low dir p => frame.readByte (loaded_readOnly s gk g o) ⟨low, dir⟩ p⟩
  · intro write commit
    refine ⟨fun hk => storeRetire_stores hop ready ours hk, fun hk away => ?_, fun hk hs synced first => ?_, fun hk now => ?_,
      fun n hk sent past mine free => ?_⟩
    · rw [storeRetire_releases hop ready ours hk, release_performs away]
      rfl
    · rw [storeRetire_releases hop ready ours hk, release_leaves hs synced first]
      rfl
    · intro a r room
      rw [atomicPerform_finishes hop ready ours hk now, finishAtomic_finishes room]
      rfl
    · exact nodeReleasePerform_performs hop ours hk sent (Bool.or_eq_true_iff.mpr (.inr (decide_eq_true past))) mine free

end Sys2Proof
end

section
/-! SUPPORT. The work queues of a partition, and what the Innkeeper's upkeep of a queue leaves of one item that a grant has placed
workgroups of (R47 to R54, R326). -/

namespace Sys2Proof.Machine

/-! ### Items of a queue -/

theorem Queue.item_idx {q : Queue} {k : Nat} {y : Item} (h : q.item? k = some y) : y.idx = k := eq_of_beq (List.find?_some h :)

theorem Queue.putItem_item_same (q : Queue) (x : Item) : (q.putItem x).item? x.idx = some x := by
  unfold Queue.putItem
  split
  · next h =>
    unfold Queue.item? at h ⊢
    dsimp only
    generalize q.items = l at h
    induction l with
    | nil => exact absurd h Bool.false_ne_true
    | cons a r ih =>
      rw [List.map_cons, List.find?_cons]
      rw [List.find?_cons] at h
      cases e : a.idx == x.idx with
      | true => simp
      | false =>
        rw [e] at h
        simp only [Bool.false_eq_true, if_false, e]
        exact ih h
  · next h =>
    unfold Queue.item? at h ⊢
    rw [Option.not_isSome_iff_eq_none] at h
    simp [List.find?_append, h]

theorem Queue.putItem_item_other (q : Queue) (x : Item) {k : Nat} (ne : k ≠ x.idx) : (q.putItem x).item? k = q.item? k := by
  unfold Queue.putItem
  split
  · unfold Queue.item?
    dsimp only
    induction q.items with
    | nil => rfl
    | cons a r ih =>
      have key : ((if a.idx == x.idx then x else a).idx == k) = (a.idx == k) := by
        split
        · next e => rw [eq_of_beq e]
        · rfl
      rw [List.map_cons, List.find?_cons, List.find?_cons, key, ih]
      split
      · next e =>
        have other : (a.idx == x.idx) = false := beq_eq_false_iff_ne.mpr (fun h => ne ((eq_of_beq e).symm.trans h))
        rw [other]
        rfl
      · rfl
  · unfold Queue.item?
    have away : (x.idx == k) = false := beq_eq_false_iff_ne.mpr (Ne.symm ne)
    simp [List.find?_append, away]

/-- An item put where its queue has it already. -/
theorem Queue.putItem_item_again {q : Queue} {x : Item} (h : q.item? x.idx = some x) (k : Nat) : (q.putItem x).item? k = q.item? k := by
  by_cases e : k = x.idx
  · rw [e, Queue.putItem_item_same, h]
  · exact Queue.putItem_item_other q x e

/-- Head passes no item that is not over (R54). -/
theorem advanceHead_item {q : Queue} {k : Nat} {y : Item} (h : q.item? k = some y) (open_ : y.over_ = false) (f : Nat) : (advanceHead f q).item? k = some y := by
  induction f generalizing q with
  | zero => exact h
  | succ f ih =>
    unfold advanceHead
    split
    · next x hx =>
      split
      · next past =>
        refine ih ?_
        have ne : k ≠ q.head := fun e => by
          rw [← e, h] at hx
          obtain rfl := Option.some.inj hx
          rw [open_, Bool.and_false, Bool.false_and] at past
          exact absurd past Bool.false_ne_true
        unfold Queue.item? at h ⊢
        rw [List.find?_filter]
        refine Eq.trans (congrArg (List.find? · q.items) ?_) h
        funext a
        by_cases e : a.idx = k
        · simp [e, ne]
        · simp [e]
      · exact h
    · exact h

/-! ### A queue in the package -/

theorem part_of_queue {s : State} {part n : Nat} {q : Queue} (h : s.queue? part n = some q) : ∃ p, s.part? part = some p ∧ kget p.queues n = some q :=
  Option.bind_eq_some_iff.mp h

theorem queue_setQueue {s : State} {part n : Nat} {q : Queue} (h : s.queue? part n = some q) (q' : Queue) : (s.setQueue part n q').queue? part n = some q' := by
  obtain ⟨p, hp, -⟩ := part_of_queue h
  unfold State.queue? State.setQueue
  rw [State.part_modPart, if_pos rfl, hp]
  exact (kget_kset ..).trans (if_pos rfl)

/-- What the upkeep of queues leaves alone. -/
structure Upkeep (s t : State) : Prop where
  groups : ∀ k, (t.group? k).map Group.unrung = (s.group? k).map Group.unrung
  teams : t.teams = s.teams
  inn : t.inn = s.inn
  now : t.clock.now = s.clock.now

/-- A ready item of a queue of which some workgroups have been placed. -/
def State.Serving (s : State) (part n k placed : Nat) : Prop :=
  ∃ q y, s.queue? part n = some q ∧ q.item? k = some y ∧ y.placed = placed ∧ y.ready = true ∧ y.over_ = false

namespace Upkeep

variable {s t u : State}

theorem refl (s : State) : Upkeep s s := ⟨fun _ => rfl, rfl, rfl, rfl⟩

theorem trans (h : Upkeep s t) (k : Upkeep t u) : Upkeep s u :=
  ⟨fun j => (k.groups j).trans (h.groups j), k.teams.trans h.teams, k.inn.trans h.inn, k.now.trans h.now⟩

theorem of_undisturbed (h : Undisturbed s t) : Upkeep s t := ⟨h.groups, h.teams, h.inn, h.now⟩

theorem group (h : Upkeep s t) {k : Nat} {g : Group} (hg : s.group? k = some g) : ∃ g', t.group? k = some g' ∧ g'.unrung = g.unrung :=
  group_of_unrung (h.groups k) hg

end Upkeep

theorem setQueue_upkeep (s : State) (part n : Nat) (q : Queue) : Upkeep s (s.setQueue part n q) :=
  ⟨fun _ => by rw [State.setQueue, State.group_modPart], State.modPart_teams .., State.modPart_inn .., by rw [State.setQueue, State.modPart_clock]⟩

/-- Upkeep that keeps an item served. -/
structure Keeps (part n k placed : Nat) (s t : State) : Prop where
  upkeep : Upkeep s t
  serving : s.Serving part n k placed → t.Serving part n k placed

namespace Keeps

variable {part n k placed : Nat} {s t u : State}

theorem refl (s : State) : Keeps part n k placed s s := ⟨.refl s, id⟩

theorem trans (h : Keeps part n k placed s t) (j : Keeps part n k placed t u) : Keeps part n k placed s u :=
  ⟨h.upkeep.trans j.upkeep, j.serving ∘ h.serving⟩

theorem ite {c : Prop} [Decidable c] (ht : Keeps part n k placed s t) (hu : Keeps part n k placed s u) : Keeps part n k placed s (if c then t else u) := by
  split
  · exact ht
  · exact hu

theorem of_undisturbed (h : Undisturbed s t) : Keeps part n k placed s t :=
  ⟨.of_undisturbed h, fun ⟨q, y, hq, hy⟩ => ⟨q, y, (h.queue part n).trans hq, hy⟩⟩

/-- A queue is replaced by one with the item served. -/
theorem of_setQueue {q : Queue} (hq : s.queue? part n = some q) (q' : Queue)
    (h : ∀ y, q.item? k = some y → y.ready = true → y.over_ = false → q'.item? k = some y) : Keeps part n k placed s (s.setQueue part n q') where
  upkeep := setQueue_upkeep s part n q'
  serving := fun ⟨q₁, y, hq₁, hy, hp, hr, ho⟩ => by
    obtain rfl := Option.some.inj (hq.symm.trans hq₁)
    exact ⟨q', y, queue_setQueue hq q', h y hy hr ho, hp, hr, ho⟩

end Keeps

section
variable {part n k placed : Nat}

theorem headLine_keeps (s : State) : Keeps part n k placed s (s.headLine part n) := by
  unfold State.headLine
  split
  · exact .refl s
  · next q hq =>
    have reached := innAt_undisturbed s part q.headLine .innWrite
    split
    · next h =>
      rw [h] at reached
      have marked : Keeps part n k placed _ _ := .of_setQueue ((reached.queue part n).trans hq) { q with stale := false } (fun _ h _ _ => h)
      exact ((Keeps.of_undisturbed reached).trans marked).trans (.of_undisturbed (write_undisturbed ..))
    · next h =>
      rw [h] at reached
      exact (Keeps.of_undisturbed reached).trans (.of_setQueue ((reached.queue part n).trans hq) _ (fun _ h _ _ => h))

theorem advanceQueue_keeps (s : State) (changed : Bool) : Keeps part n k placed s (s.advanceQueue part n changed) := by
  unfold State.advanceQueue
  split
  · exact .refl s
  · next q hq =>
    have moved : Keeps part n k placed s (s.setQueue part n (advanceHead (q.place - q.head) q)) :=
      .of_setQueue hq _ (fun _ h _ ho => advanceHead_item h ho _)
    exact .ite (moved.trans (headLine_keeps _)) moved

theorem queueFault_keeps (s : State) (b : Bool) : Keeps part n k placed s (s.queueFault part n b) := by
  unfold State.queueFault
  split
  · next q hq => exact .of_setQueue hq _ (fun _ h _ _ => h)
  · exact .refl s

/-- The item at `place`, as the Innkeeper finds it (R50). -/
def State.placeItem (s : State) (part : Nat) (q : Queue) : Option Item × State := match q.item? q.place with
  | some x => (some x, s)
  | none => match s.innRead part (q.ring + q.place % 2 ^ q.log2 * 128) 128 with
    | (some bs, s) => (some { idx := q.place, raw := BitVec.ofNat 1024 (ofBytes bs) }, s)
    | (none, s) => (none, s)

/-- It is an item of the queue, or one that the queue does not have yet. -/
theorem placeItem_keeps (s : State) (part : Nat) (q : Queue) : Undisturbed s (s.placeItem part q).2 ∧
    ∀ x, (s.placeItem part q).1 = some x → x.idx = q.place ∧ (q.item? q.place = some x ∨ q.item? q.place = none) := by
  unfold State.placeItem
  split
  · next x h => exact ⟨.refl s, fun y e => by obtain rfl := Option.some.inj e; exact ⟨Queue.item_idx h, .inl h⟩⟩
  · next h =>
    have reading := innRead_undisturbed s part (q.ring + q.place % 2 ^ q.log2 * 128) 128
    split
    · next e =>
      rw [e] at reading
      exact ⟨reading, fun y e => by obtain rfl := Option.some.inj e; exact ⟨rfl, .inr h⟩⟩
    · next e =>
      rw [e] at reading
      exact ⟨reading, fun y e => absurd e nofun⟩

/-- An item that is put at `place` leaves one that is ready as it is, unless it is that one. -/
theorem putPlace_item {q : Queue} {x y z : Item} (hz : z.idx = q.place) (hx : q.item? q.place = some x ∨ q.item? q.place = none) (hr : x.ready ≠ true)
    (h : q.item? k = some y) (ready : y.ready = true) : (q.putItem z).item? k = some y := by
  have ne : k ≠ z.idx := fun e => by
    rw [e, hz] at h
    rcases hx with hx | hx
    · obtain rfl := Option.some.inj (hx.symm.trans h)
      exact hr ready
    · rw [hx] at h
      exact absurd h nofun
  rw [Queue.putItem_item_other q z ne, h]

theorem Queue.putItem_place (q : Queue) (x : Item) : (q.putItem x).place = q.place := by
  unfold Queue.putItem
  split <;> rfl

theorem readyLoop_keeps (f : Nat) (s : State) : Keeps part n k placed s (State.readyLoop f part n s) := by
  induction f generalizing s with
  | zero => exact .refl s
  | succ f ih =>
    unfold State.readyLoop
    split
    · exact .refl s
    · next q hq =>
      split
      · exact .refl s
      · extract_lets -underBinder r
        obtain ⟨found, entry⟩ := placeItem_keeps s part q
        have here : s.placeItem part q = r := rfl
        rw [here] at found entry
        clear_value r
        obtain ⟨r, t⟩ := r
        dsimp only at found entry ⊢
        have hq : t.queue? part n = some q := (found.queue part n).trans hq
        refine (Keeps.of_undisturbed found).trans ?_
        cases r with
        | none => exact queueFault_keeps t true
        | some x =>
          obtain ⟨idx, here⟩ := entry x rfl
          dsimp only
          have put : Keeps part n k placed t (t.setQueue part n (q.putItem x)) := .of_setQueue hq _ fun y h ready _ => by
            rcases here with here | here
            · rw [← idx] at here
              rw [Queue.putItem_item_again here, h]
            · refine (Queue.putItem_item_other q x fun e => ?_).trans h
              rw [e, idx, here] at h
              exact absurd h nofun
          have hput := queue_setQueue hq (q.putItem x)
          generalize t.setQueue part n (q.putItem x) = v at put hput
          refine put.trans ?_
          by_cases ready : x.ready = true
          · rw [if_pos ready]
            exact .refl v
          rw [if_neg ready]
          refine .ite (.refl v) ?_
          have held := depsHold_undisturbed part x.deps v
          generalize v.depsHold part x.deps = d at held
          obtain ⟨d, w⟩ := d
          dsimp only at held ⊢
          have hw : w.queue? part n = some (q.putItem x) := (held.queue part n).trans hput
          have place : x.idx = (q.putItem x).place := idx.trans (Queue.putItem_place q x).symm
          have again : (q.putItem x).item? (q.putItem x).place = some x := place ▸ Queue.putItem_item_same q x
          have changed : ∀ (z : Item) (q' : Queue), z.idx = x.idx → q'.items = ((q.putItem x).putItem z).items → Keeps part n k placed w (w.setQueue part n q') :=
            fun z q' hz items => .of_setQueue hw q' fun y h ry _ => by
              have same := putPlace_item (q := q.putItem x) (z := z) (hz.trans place) (.inl again) ready h ry
              unfold Queue.item? at same ⊢
              rwa [items]
          refine (Keeps.of_undisturbed held).trans (.ite (queueFault_keeps w true) (.ite (.refl w) (.ite ?_ ?_)))
          · have passed := changed { x with rejected := true } { (q.putItem x).putItem { x with rejected := true } with place := (q.putItem x).place + 1 } rfl rfl
            exact ((passed.trans (.of_undisturbed (record_undisturbed ..))).trans (advanceQueue_keeps _ true)).trans (ih _)
          · exact changed { x with ready := true } _ rfl rfl

theorem readyQueue_keeps (s : State) : Keeps part n k placed s (s.readyQueue part n) := by
  unfold State.readyQueue
  split
  · exact .ite (.refl s) (readyLoop_keeps ..)
  · exact .refl s

end

end Sys2Proof.Machine
end

section
/-! SUPPORT. The steps of a grant: the bindings, groups and mailbox of the team it makes, and the delivery to the lodge group (R59, R60, R77, R220). -/

namespace Sys2Proof.Machine

/-! ### Bindings (R77) -/

/-- Entries of the bindings of other teams change nothing but the binding tables. -/
theorem modBind_team (s : State) (k j : Nat) (f : Team → SMap 64) :
    ((s.modTeam k (fun u => { u with bind := f u })).team? j).map (fun t => { t with bind := [] }) = (s.team? j).map (fun t => { t with bind := [] }) := by
  rw [State.team_modTeam]
  split
  · next h =>
    subst h
    rw [Option.map_map]
    rfl
  · rfl

/-- What the making of a team's bindings changes: binding tables. -/
structure BindFrame (s t : State) : Prop where
  rest : { t with teams := s.teams } = s
  team : ∀ k, (t.team? k).map (fun x => { x with bind := [] }) = (s.team? k).map (fun x => { x with bind := [] })

theorem BindFrame.refl (s : State) : BindFrame s s := ⟨rfl, fun _ => rfl⟩

theorem BindFrame.trans {s t u : State} (h : BindFrame s t) (k : BindFrame t u) : BindFrame s u where
  rest := (congrArg (fun x : State => { x with teams := s.teams }) k.rest :).trans h.rest
  team j := (k.team j).trans (h.team j)

theorem BindFrame.foldl {α : Type} {f : State → α → State} (hf : ∀ s a, BindFrame s (f s a)) (l : List α) (s : State) : BindFrame s (l.foldl f s) := by
  induction l generalizing s with
  | nil => exact .refl s
  | cons a r ih => exact (hf s a).trans (ih _)

theorem BindFrame.modTeam (s : State) (k : Nat) (f : Team → SMap 64) : BindFrame s (s.modTeam k (fun u => { u with bind := f u })) where
  rest := by
    unfold State.modTeam
    split <;> rfl
  team j := modBind_team s k j f

theorem bindTeam_frame (s : State) (tk : Nat) (x : Item) (placed : Nat) : BindFrame s (s.bindTeam tk x placed) := by
  unfold State.bindTeam
  split
  · exact .refl s
  · next t ht =>
    extract_lets -underBinder l mates entry tab u
    have own : BindFrame s u := ⟨rfl, fun k => by
      rw [State.team_setTeam]
      split
      · next h =>
        subst h
        rw [ht]
        rfl
      · rfl⟩
    refine own.trans (.foldl (fun w e => ?_) mates u)
    dsimp only
    split
    · exact .refl w
    · exact .modTeam ..

/-! ### Groups (R58, R59) -/

/-- A slot that is chosen is empty. -/
theorem freeSlot_none {s : State} {core slot : Nat} (h : s.freeSlot? core = some slot) : s.group? (core * 64 + slot) = none := by
  have found := List.mem_of_mem_head? (Option.mem_def.mpr h)
  exact Option.isNone_iff_eq_none.mp (List.mem_filter.mp found).2

/-- Groups are made in empty slots. -/
theorem makeGroups_frame (s : State) (tk : Nat) (t : Team) (v : Variant) (off : Nat) :
    { s.makeGroups tk t v off with groups := s.groups } = s ∧ ∀ k g, s.group? k = some g → (s.makeGroups tk t v off).group? k = some g := by
  unfold State.makeGroups
  generalize (groupRoles v).zipIdx = l
  induction l generalizing s with
  | nil => exact ⟨rfl, fun _ _ h => h⟩
  | cons e r ih =>
    rw [List.foldl_cons]
    split
    · next slot free =>
      obtain ⟨rest, kept⟩ := ih (s.setGroup (tk / 16 * 64 + slot) (newGroup t.part t.image t.var e.1.1 e.1.2 e.2 (tk % 16) off))
      refine ⟨(congrArg (fun x : State => { x with groups := s.groups }) rest :), fun k g hg => kept k g ?_⟩
      rw [State.group_setGroup, if_neg]
      · exact hg
      · rintro rfl
        rw [freeSlot_none free] at hg
        exact absurd hg nofun
    · exact ih s

/-! ### Mailbox, delivery, and what follows -/

theorem writeMailbox_undisturbed (s : State) (tk : Nat) (t : Team) : Undisturbed s (s.writeMailbox tk t) :=
  (write_undisturbed ..).trans (write_undisturbed ..)

theorem deliver_group {s : State} {gk : Nat} {g : Group} {m : LaneMask} {off : BitVec 32} (hg : s.group? gk = some g) (h : g.fetchAt = some (m, off)) :
    (s.deliver gk).group? gk = some ({ g with fetchw := some (m, off), fetchAt := none }.setEntry m (fun _ => off)) := by
  unfold State.deliver
  rw [State.group_modGroup, if_pos rfl, hg, Option.map_some, h]

/-- The times since which resources have been free are all that is looked at again (R65). -/
theorem trackFree_frame (s : State) (core : Nat) : { s.trackFree core with teams := s.teams } = s ∧
    ∀ k, ((s.trackFree core).team? k).map (fun t => { t with freeSince := [] }) = (s.team? k).map (fun t => { t with freeSince := [] }) := by
  refine ⟨rfl, fun k => ?_⟩
  unfold State.trackFree State.team?
  rw [kget_map _ (fun e => by split <;> rfl), Option.map_map]
  congr 1
  funext t
  simp only [Function.comp]
  split <;> rfl

theorem captureItem_none {s : State} {part : Nat} {p : Part} (hp : s.part? part = some p) (hc : p.capture = none) (queue : Nat) (x : Item) (im : Image) :
    s.captureItem part queue x im = (true, s) := by
  unfold State.captureItem
  rw [hp, Option.bind_some, hc]
  rfl

/-! ### The grant (R46, R59) -/

/-- The team that a grant makes (R30, R57, R59). -/
def grantedTeam (s : State) (hs : List Hold) (part queue : Nat) (x : Item) (var : Nat) (v : Variant) (prio : Nat) : Team :=
  ({ part := part, image := x.image, var := var, wiid := wiidOf queue x.idx,
     wgx := x.placed % x.gx, wgy := x.placed / x.gx % x.gy, wgz := x.placed / (x.gx * x.gy), argp := x.argp, queue := queue, item := x.idx,
     vmask := BitVec.ofNat 4 x.vmask, grantSeq := s.clock.seqno, basePrio := prio } : Team).allot hs var v none

/-- The workgroup is withdrawn from its queue (R50, R51). -/
def State.withdraw (s : State) (part queue : Nat) (x : Item) : State :=
  let s := s.modPart part (fun p => { p with rr := (queue + 1) % 64 })
  let s := match s.queue? part queue with
    | some q =>
      let q := q.putItem { x with placed := x.placed + 1 }
      s.setQueue part queue (if x.placed + 1 == x.total then { q with place := q.place + 1, readyAt := none } else q)
    | none => s
  if x.placed + 1 == x.total then s.headLine part queue else s

/-- The team is made: bindings, groups, mailbox (R59, R60, R77). -/
def State.makeTeam (s : State) (core tk : Nat) (t : Team) (x : Item) (v : Variant) : State :=
  let s := (s.setClock { s.clock with seqno := s.clock.seqno + 1 }).modCore core (fun k => k.clearTeam t.tiles t.mbase)
  (((s.setTeam tk t).bindTeam tk x (x.placed + 1)).makeGroups tk t v ((v.wps.head?.map (·.offs)).getD 0)).writeMailbox tk t

/-- The lodge group gets it, and its request is served (R46, R59, R220). -/
def State.handOver (s : State) (lodge : Nat) : State := (s.deliver lodge).setInn
  { s.inn with fetch := s.inn.fetch.filter (fun f => f.gk != lodge), grants := max s.inn.grants s.meshNow + 1 }

/-- A grant outside capture and logging, step by step. -/
theorem grant_steps {s : State} {lodge part queue : Nat} {x : Item} {im : Image} {var : Nat} {p : Part} {lg : Group} {v : Variant}
    (hp : s.part? part = some p) (hl : s.group? lodge = some lg) (hv : im.vars[var]? = some v) (hc : p.capture = none) (hu : x.und = false) :
    let core := coreOf lodge
    let w := s.withdraw part queue x
    let t := grantedTeam w (w.holds core []) part queue x var v (((kget p.queues queue).map (·.prio)).getD 0)
    s.grant lodge part queue x im var = (((w.makeTeam core (core * 16 + lg.tslot) t x v).handOver lodge).readyQueue part queue).trackFree core := by
  unfold State.grant
  simp -zeta only [hp, hl, hv, captureItem_none hp hc]
  unfold State.undItem
  simp -zeta only [hu, Bool.not_false, Bool.true_or, if_true]
  rfl

theorem withdraw_keeps {s : State} {part queue : Nat} {p : Part} {q : Queue} {x : Item} (hp : s.part? part = some p) (hq : kget p.queues queue = some q)
    (open_ : x.over_ = false) (ready : x.ready = true) :
    Upkeep s (s.withdraw part queue x) ∧ (s.withdraw part queue x).Serving part queue x.idx (x.placed + 1) := by
  have turned := modPart_undisturbed s part (fun p => { p with rr := (queue + 1) % 64 }) (fun _ => rfl)
  have hq : (s.modPart part (fun p => { p with rr := (queue + 1) % 64 })).queue? part queue = some q :=
    (turned.queue part queue).trans (Option.bind_eq_some_iff.mpr ⟨p, hp, hq⟩)
  unfold State.withdraw
  generalize s.modPart part (fun p => { p with rr := (queue + 1) % 64 }) = u at turned hq
  dsimp only
  rw [hq]
  dsimp only
  generalize hq' : (if (x.placed + 1 == x.total) = true then
    { q.putItem { x with placed := x.placed + 1 } with place := (q.putItem { x with placed := x.placed + 1 }).place + 1, readyAt := none }
    else q.putItem { x with placed := x.placed + 1 }) = q'
  have item : q'.item? x.idx = some { x with placed := x.placed + 1 } := by
    rw [← hq']
    split
    · exact Queue.putItem_item_same q { x with placed := x.placed + 1 }
    · exact Queue.putItem_item_same q { x with placed := x.placed + 1 }
  have put : Upkeep s (u.setQueue part queue q') := (Upkeep.of_undisturbed turned).trans (setQueue_upkeep ..)
  have serving : (u.setQueue part queue q').Serving part queue x.idx (x.placed + 1) := ⟨q', _, queue_setQueue hq q', item, rfl, ready, open_⟩
  split
  · have line := headLine_keeps (part := part) (n := queue) (k := x.idx) (placed := x.placed + 1) (u.setQueue part queue q')
    exact ⟨put.trans line.upkeep, line.serving serving⟩
  · exact ⟨put, serving⟩

/-- What the making of a team leaves, and the team (R59). -/
theorem makeTeam_makes (s : State) (core tk : Nat) (t : Team) (x : Item) (v : Variant) :
    let z := s.makeTeam core tk t x v
    (∃ t', z.team? tk = some t' ∧ { t' with bind := [] } = { t with bind := [] }) ∧ z.inn = s.inn ∧ z.clock.now = s.clock.now ∧
    (∀ part n k placed, s.Serving part n k placed → z.Serving part n k placed) ∧
    ∀ k g, s.group? k = some g → ∃ g', z.group? k = some g' ∧ g'.unrung = g.unrung := by
  let a := ((s.setClock { s.clock with seqno := s.clock.seqno + 1 }).modCore core (fun k => k.clearTeam t.tiles t.mbase)).setTeam tk t
  have team : a.team? tk = some t := (State.team_setTeam ..).trans (if_pos rfl)
  have start : a.inn = s.inn ∧ a.clock.now = s.clock.now ∧ a.groups = s.groups ∧ a.parts = s.parts := ⟨rfl, rfl, rfl, rfl⟩
  have steps : s.makeTeam core tk t x v =
      ((a.bindTeam tk x (x.placed + 1)).makeGroups tk t v ((v.wps.head?.map (·.offs)).getD 0)).writeMailbox tk t := rfl
  rw [steps]
  clear steps
  clear_value a
  obtain ⟨inn, now, groups, parts⟩ := start
  obtain ⟨rest, bound⟩ := bindTeam_frame a tk x (x.placed + 1)
  generalize a.bindTeam tk x (x.placed + 1) = b at rest bound
  obtain ⟨made, kept⟩ := makeGroups_frame b tk t v ((v.wps.head?.map (·.offs)).getD 0)
  generalize b.makeGroups tk t v ((v.wps.head?.map (·.offs)).getD 0) = c at made kept
  have mail := writeMailbox_undisturbed c tk t
  refine ⟨?_, mail.inn.trans (((congrArg State.inn made :).trans (congrArg State.inn rest :)).trans inn),
    mail.now.trans (((congrArg (fun u : State => u.clock.now) made :).trans (congrArg (fun u : State => u.clock.now) rest :)).trans now),
    fun part n k placed ⟨q, y, hq, hy⟩ => ⟨q, y, ?_, hy⟩, fun k g hg => mail.group (kept k g ?_)⟩
  · have same := bound tk
    rw [team, Option.map_some, Option.map_eq_some_iff] at same
    obtain ⟨t', ht', same⟩ := same
    have teams : (c.writeMailbox tk t).teams = b.teams := mail.teams.trans (congrArg State.teams made :)
    exact ⟨t', (congrArg (kget · tk) teams).trans ht', same⟩
  · have parts : c.parts = s.parts := ((congrArg State.parts made :).trans (congrArg State.parts rest :)).trans parts
    refine (mail.queue part n).trans (Eq.trans ?_ hq)
    unfold State.queue? State.part?
    rw [parts]
  · have groups : b.groups = s.groups := (congrArg State.groups rest :).trans groups
    exact (congrArg (kget · k) groups).trans hg

theorem handOver_gives {s : State} {lodge : Nat} {g : Group} {m : LaneMask} {off : BitVec 32} (hg : s.group? lodge = some g)
    (asked : g.fetchAt = some (m, off)) :
    (s.handOver lodge).group? lodge = some ({ g with fetchw := some (m, off), fetchAt := none }.setEntry m (fun _ => off)) ∧
    (s.handOver lodge).teams = s.teams ∧
    (s.handOver lodge).inn = { s.inn with fetch := s.inn.fetch.filter (fun f => f.gk != lodge), grants := max s.inn.grants s.meshNow + 1 } ∧
    ∀ part n k placed, s.Serving part n k placed → (s.handOver lodge).Serving part n k placed := by
  refine ⟨deliver_group hg asked, State.modGroup_teams .., rfl, fun part n k placed ⟨q, y, hq, hy⟩ => ⟨q, y, ?_, hy⟩⟩
  have parts : (s.handOver lodge).parts = s.parts := State.modGroup_parts ..
  unfold State.queue? State.part? at hq ⊢
  rw [parts]
  exact hq

/-- What a grant leaves: the team, the lodge group, the requests and the item (R46, R59, R220). -/
theorem grant_leaves {s : State} {lodge part queue : Nat} {x : Item} {im : Image} {var : Nat} {p : Part} {lg : Group} {v : Variant} {q : Queue}
    (hp : s.part? part = some p) (hl : s.group? lodge = some lg) (hv : im.vars[var]? = some v) (hc : p.capture = none) (hu : x.und = false)
    (hq : kget p.queues queue = some q) (open_ : x.over_ = false) (ready : x.ready = true) {m : LaneMask} {off : BitVec 32} (asked : lg.fetchAt = some (m, off)) :
    let u := s.grant lodge part queue x im var
    (∃ w hs prio t, u.team? (coreOf lodge * 16 + lg.tslot) = some t ∧
      { t with bind := [], freeSince := [] } = { grantedTeam w hs part queue x var v prio with bind := [], freeSince := [] }) ∧
    (∃ lg' g : Group, u.group? lodge = some g ∧ lg'.unrung = lg.unrung ∧
      g.unrung = ({ lg' with fetchw := some (m, off), fetchAt := none }.setEntry m (fun _ => off)).unrung) ∧
    u.inn = { s.inn with fetch := s.inn.fetch.filter (fun f => f.gk != lodge), grants := max s.inn.grants s.meshNow + 1 } ∧
    u.Serving part queue x.idx (x.placed + 1) := by
  intro u
  have steps : u = _ := grant_steps hp hl hv hc hu
  rw [steps]
  clear_value u
  clear steps
  dsimp only
  obtain ⟨upkeep, serving⟩ := withdraw_keeps hp hq open_ ready
  generalize s.withdraw part queue x = w at upkeep serving
  generalize ht : grantedTeam w (w.holds (coreOf lodge) []) part queue x var v (((kget p.queues queue).map (·.prio)).getD 0) = t
  obtain ⟨⟨t', ht', same⟩, inn, now, keeps, groups⟩ := makeTeam_makes w (coreOf lodge) (coreOf lodge * 16 + lg.tslot) t x v
  generalize w.makeTeam (coreOf lodge) (coreOf lodge * 16 + lg.tslot) t x v = z at ht' inn now keeps groups
  obtain ⟨lw, hlw, same_w⟩ := upkeep.group hl
  obtain ⟨lz, hlz, same_z⟩ := groups lodge lw hlw
  have unrung : lz.unrung = lg.unrung := same_z.trans same_w
  obtain ⟨given, teams, asks, served⟩ := handOver_gives hlz ((congrArg Group.fetchAt unrung :).trans asked)
  generalize z.handOver lodge = h at given teams asks served
  have later := readyQueue_keeps (part := part) (n := queue) (k := x.idx) (placed := x.placed + 1) h
  generalize h.readyQueue part queue = r at later
  obtain ⟨rest, free⟩ := trackFree_frame r (coreOf lodge)
  generalize r.trackFree (coreOf lodge) = u at rest free
  refine ⟨?_, ?_, ?_, ?_⟩
  · have found := free (coreOf lodge * 16 + lg.tslot)
    have team : r.team? (coreOf lodge * 16 + lg.tslot) = some t' := (congrArg (kget · _) (later.upkeep.teams.trans teams)).trans ht'
    rw [team, Option.map_some, Option.map_eq_some_iff] at found
    obtain ⟨t'', ht'', free⟩ := found
    refine ⟨w, w.holds (coreOf lodge) [], ((kget p.queues queue).map (·.prio)).getD 0, t'', ht'', ?_⟩
    rw [ht]
    exact (congrArg (fun y : Team => { y with bind := [] }) free :).trans (congrArg (fun y : Team => { y with freeSince := [] }) same :)
  · obtain ⟨g, hg, same⟩ := later.upkeep.group given
    exact ⟨lz, g, (congrArg (fun y : State => y.group? lodge) rest :).trans hg, unrung, same⟩
  · have kept : u.inn = r.inn := (congrArg State.inn rest :)
    rw [kept, later.upkeep.inn, asks, inn, upkeep.inn]
    unfold State.meshNow
    rw [now, upkeep.now]
  · obtain ⟨q', y, hq', hy⟩ := later.serving (served _ _ _ _ (keeps _ _ _ _ serving))
    exact ⟨q', y, (congrArg (fun y : State => y.queue? part queue) rest :).trans hq', hy⟩

end Sys2Proof.Machine
end

section
/-! SUPPORT. The order of service of the Innkeeper (R46), and the tail of a queue (R48, R49). -/

namespace Sys2Proof.Machine

/-! ### What the Innkeeper looks at before it grants -/

theorem featItem_inn (s : State) (core part queue idx wiid : Nat) : (s.featItem core part queue idx wiid).inn = s.inn := by
  unfold State.featItem
  split
  · rfl
  · split
    · rfl
    · exact (record_undisturbed ..).inn.trans (State.modPart_inn ..)

/-- A fold of steps that keep the Innkeeper's state. -/
theorem foldl_inn {α : Type} {f : State → α → State} (hf : ∀ s a, (f s a).inn = s.inn) (l : List α) (s : State) : (l.foldl f s).inn = s.inn := by
  induction l generalizing s with
  | nil => rfl
  | cons a r ih => exact (ih _).trans (hf s a)

theorem featRecords_inn (s : State) : s.featRecords.inn = s.inn :=
  foldl_inn (fun u e => by
    split
    · rfl
    · exact featItem_inn ..) _ s

theorem looked_inn (s : State) : s.looked.inn = s.inn := (foldl_inn (f := fun (u : State) c => u.trackFree c) (fun _ _ => rfl) _ _).trans (featRecords_inn s)

theorem innkeeperGrant_run (s : State) : exec .innkeeperGrant s =
    .next (if s.looked.meshNow + 1 < s.looked.inn.grants then s.looked.pressAll else (State.grantLoop (s.inn.fetch.length + 1) s.looked).pressAll) := by
  have length : s.looked.inn.fetch.length = s.inn.fetch.length := by rw [looked_inn]
  rw [← length]
  rfl

/-! ### Which request is served (R46) -/

theorem servedBefore_irrefl (s : State) (a : Fetch) : s.servedBefore a a = false := by simp [State.servedBefore]

/-- The choice between the candidate so far and the next one (R46). -/
def chooseFirst {α : Type} (before : α → α → Bool) (b : Option α) (x : α) : Option α :=
  match b with
  | none => some x
  | some y => if before x y then some x else b

/-- An element that comes before every other is chosen. -/
theorem foldl_chooseFirst {α : Type} {before : α → α → Bool} {c : α} (irrefl : before c c = false) {l : List α}
    (first : ∀ x ∈ l, x ≠ c → before c x = true ∧ before x c = false) {b : Option α} (so_far : ∀ x, b = some x → x ≠ c → before c x = true)
    (here : b = some c ∨ c ∈ l) : l.foldl (chooseFirst before) b = some c := by
  induction l generalizing b with
  | nil => exact here.resolve_right List.not_mem_nil
  | cons a r ih =>
    have others : ∀ x ∈ r, x ≠ c → before c x = true ∧ before x c = false := fun x hx => first x (List.mem_cons_of_mem _ hx)
    rw [List.foldl_cons]
    by_cases chosen : chooseFirst before b a = some c
    · exact ih others (fun x hx ne => absurd (Option.some.inj (hx.symm.trans chosen)) ne) (.inl chosen)
    · have ne : a ≠ c := fun e => chosen <| by
        subst e
        cases b with
        | none => rfl
        | some y =>
          by_cases ey : y = a
          · rw [ey, chooseFirst, irrefl]
            rfl
          · exact if_pos (so_far y rfl ey)
      have not_yet : b ≠ some c := fun e => chosen <| by
        rw [e]
        exact if_neg (by rw [(first a List.mem_cons_self ne).2]; exact Bool.false_ne_true)
      refine ih others (fun x hx nx => ?_) (.inr ((List.mem_cons.mp (here.resolve_left not_yet)).resolve_left (Ne.symm ne)))
      cases b with
      | none =>
        obtain rfl := Option.some.inj hx
        exact (first a List.mem_cons_self nx).1
      | some y =>
        by_cases earlier : before a y = true
        · obtain rfl := Option.some.inj ((if_pos earlier).symm.trans hx)
          exact (first a List.mem_cons_self nx).1
        · exact so_far x ((if_neg earlier).symm.trans hx) nx

/-- The candidate that comes before every other is served. -/
theorem firstGrant_of_first {s : State} {c : Fetch × Nat × Nat × Item × Image × Nat} (hc : c ∈ s.grantable)
    (first : ∀ b ∈ s.grantable, b ≠ c → s.servedBefore c.1 b.1 = true ∧ s.servedBefore b.1 c.1 = false) : s.firstGrant = some c := by
  have choice : s.firstGrant = s.grantable.foldl (chooseFirst (fun x y => s.servedBefore x.1 y.1)) none := by
    unfold State.firstGrant
    congr 1
    funext b x
    cases b with
    | none => rfl
    | some y => rfl
  rw [choice]
  exact foldl_chooseFirst (before := fun x y => s.servedBefore x.1 y.1) (servedBefore_irrefl s c.1) first (fun x h => absurd h (Option.some_ne_none x).symm) (.inr hc)

theorem grantLoop_first {s : State} {c : Fetch × Nat × Nat × Item × Image × Nat} (first : s.firstGrant = some c) (n : Nat) :
    let u := s.grant c.1.gk c.2.1 c.2.2.1 c.2.2.2.1 c.2.2.2.2.1 c.2.2.2.2.2
    State.grantLoop (n + 1) s = if ((u.queue? c.2.1 c.2.2.1).map (·.faulted)).getD false && u.inn.fetch.any (· == c.1) then State.grantLoop n u else u := by
  intro u
  conv_lhs => rw [State.grantLoop, first]

theorem grantLoop_none {s : State} (h : s.grantable = []) (n : Nat) : State.grantLoop n s = s := by
  have nobody : s.firstGrant = none := by
    unfold State.firstGrant
    rw [h]
    rfl
  cases n with
  | zero => rfl
  | succ n =>
    unfold State.grantLoop
    rw [nobody]

/-! ### The tail of a queue -/

theorem conflict_mem (s : State) (own : Option Nat) (pa : Nat) (wr : Bool) : (s.conflict own pa wr).mem = s.mem := by
  unfold State.conflict
  generalize s.sigHits own pa wr = l
  induction l generalizing s with
  | nil => rfl
  | cons e r ih =>
    refine (ih _).trans ?_
    unfold State.abortHart
    dsimp only
    split
    · rfl
    · split <;> rfl

theorem dirShare_mem (s : State) (sec : Nat) : (s.dirShare sec).mem = s.mem := by
  have lower : ∀ (u : State) (core sec st : Nat), (u.downgrade core sec st).mem = u.mem := fun u core sec st => by
    unfold State.downgrade
    split <;> rfl
  unfold State.dirShare
  dsimp only
  split
  · exact lower ..
  · exact lower ..
  · rfl

/-- A read of an agent without an L1 at a home of this package writes no memory. -/
theorem loadEffects_home_mem {s : State} {pa : Nat} (h : s.isPeer pa = false) : (s.loadEffects none none pa).mem = s.mem := by
  unfold State.loadEffects
  split
  · split
    · rfl
    · rw [if_neg (by rw [h]; exact Bool.false_ne_true)]
      dsimp only
      unfold State.homeRead
      split
      · rfl
      · exact (dirShare_mem ..).trans (conflict_mem ..)
  · rfl

theorem read8_mem {s : State} {pa : Nat} (h : s.isPeer pa = false) (h' : s.isPeer (pa + 7) = false) : (s.read8 pa).mem = s.mem := by
  unfold State.read8
  dsimp only
  split
  · exact loadEffects_home_mem h
  · refine (loadEffects_home_mem ?_).trans (loadEffects_home_mem h)
    rw [(loadEffects_cacheEffect ..).isPeer, h']

theorem innRead8_reads {s w : State} {part va pa : Nat} (hx : s.xlate 8 part .innRead (va % 2 ^ 56) = (.ok pa, w)) (ours : w.tagBad part pa = false)
    (clean : (w.read8 pa).anyPoison ((w.read8 pa).locate pa) 8 = false) :
    s.innRead part va 8 = (some ((w.read8 pa).readBytes ((w.read8 pa).locate pa) 8), w.read8 pa) := by
  have at_ : s.innAt part va .innRead = (some pa, w) := by
    unfold State.innAt
    rw [hx]
    dsimp only
    rw [ours]
    rfl
  unfold State.innRead
  rw [at_]
  show (some ((w.read8 pa).readBytes ((w.read8 pa).locate pa) 8),
    if (w.read8 pa).anyPoison ((w.read8 pa).locate pa) 8 = true then (w.read8 pa).consume part ((w.read8 pa).locate pa) else w.read8 pa) = _
  rw [clean]
  rfl

theorem readTail_reads {s w : State} {part queue pa : Nat} {q : Queue} (hq : s.queue? part queue = some q)
    (hx : s.xlate 8 part .innRead (q.tailLine % 2 ^ 56) = (.ok pa, w)) (ours : w.tagBad part pa = false)
    (clean : (w.read8 pa).anyPoison ((w.read8 pa).locate pa) 8 = false) :
    s.readTail part queue = (w.read8 pa).setQueue part queue
      { q with tail := max q.tail (ofBytes ((w.read8 pa).readBytes ((w.read8 pa).locate pa) 8)), faulted := false } := by
  unfold State.readTail
  rw [hq]
  dsimp only
  rw [innRead8_reads hx ours clean]

end Sys2Proof.Machine

namespace Sys2Proof
open Machine

/-- Settles O41: the request served is the least in the order of service, and a grant is followed step by step. -/
theorem grantPlacesTeam : Obligations.GrantPlacesTeam := by
  refine ⟨fun s c => ?_, fun s nobody => ?_, fun s lodge part queue x im var p lg v q hp hl hv hc hu hq open_ ready m off asked => ?_,
    fun s part queue q pa w hq hx ours => ?_⟩
  · intro w u hc first now
    have late : ¬s.looked.meshNow + 1 < s.looked.inn.grants := Nat.not_lt.mpr now
    have loop := grantLoop_first (firstGrant_of_first hc first) s.inn.fetch.length
    refine ⟨fun gone => ?_, fun waits fault => ?_⟩
    · have served : u.inn.fetch.any (· == c.1) = false := by
        rw [List.any_eq_false]
        exact fun f hf e => gone (eq_of_beq e ▸ hf)
      rw [innkeeperGrant_run, if_neg late, loop]
      show Host.Outcome.next (State.pressAll (if _ && u.inn.fetch.any (· == c.1) then _ else u)) = _
      rw [served, Bool.and_false]
      rfl
    · have again : u.inn.fetch.any (· == c.1) = true := List.any_eq_true.mpr ⟨c.1, waits, beq_self_eq_true _⟩
      rw [innkeeperGrant_run, if_neg late, loop]
      show Host.Outcome.next (State.pressAll (if ((u.queue? c.2.1 c.2.2.1).map (·.faulted)).getD false && u.inn.fetch.any (· == c.1) then _ else u)) = _
      rw [fault, again]
      rfl
  · rw [innkeeperGrant_run, grantLoop_none nobody, ite_self]
  · intro u
    obtain ⟨⟨w, hs, prio, t, ht, same⟩, ⟨lz, g, hg, from_, kept⟩, inn, q', y, hq', hy, placed, -⟩ := grant_leaves hp hl hv hc hu hq open_ ready asked
    refine ⟨t, g, y, ht, (congrArg Team.part same :), (congrArg Team.image same :), (congrArg Team.var same :), (congrArg Team.wiid same :), (congrArg Team.wgx same :),
      (congrArg Team.wgy same :), (congrArg Team.wgz same :), (congrArg Team.argp same :), (congrArg Team.ngrp same :), (congrArg Team.asize same :),
      (congrArg Team.wsize same :), (congrArg Team.pool same :), (congrArg Team.rv same :), hg, (congrArg Group.fetchw kept :),
      (congrArg Group.pcv kept :).trans (congrArg Group.pcv from_ :), fun l hl => ?_, fun f hf => ?_, (congrArg Inn.grants inn :), ?_, placed⟩
    · have epcv : g.epcv = setLanes lg.epcv m (fun _ => off) :=
        (congrArg Group.epcv kept :).trans (congrArg (setLanes · m (fun _ => off)) (congrArg Group.epcv from_ :))
      rw [epcv, sget_setLanes]
      simp only [hl, true_and]
    · rw [inn] at hf
      exact bne_iff_ne.mp (List.mem_filter.mp hf).2
    · show Option.bind (u.queue? part queue) _ = _
      rw [hq']
      exact hy
  · intro u clean
    refine ⟨?_, (read8_cacheEffect w pa).parts, fun home home' => read8_mem home home'⟩
    show execTailLineWrite part queue s = _
    unfold execTailLineWrite
    rw [readTail_reads hq hx ours clean]

end Sys2Proof
end

section
/-! SUPPORT. While no line of memory is a window onto a local space, what the hardware writes to memory, records and posts leaves every
core as it is (R80, R328, R369, R403). -/

namespace Sys2Proof.Machine

/-- Opens no window and, where none is open, leaves every core as it is. -/
structure CoresKept (s t : State) : Prop where
  keeps : s.coh.winLines = [] → t.coh.winLines = [] ∧ t.cores = s.cores

namespace CoresKept

variable {s t u : State}

theorem refl (s : State) : CoresKept s s := ⟨fun h => ⟨h, rfl⟩⟩

theorem trans (h : CoresKept s t) (k : CoresKept t u) : CoresKept s u where
  keeps none_open := by
    obtain ⟨none_then, same⟩ := h.keeps none_open
    obtain ⟨none_after, still⟩ := k.keeps none_then
    exact ⟨none_after, still.trans same⟩

theorem foldl {α : Type} {f : State → α → State} {l : List α} (hf : ∀ s, ∀ a ∈ l, CoresKept s (f s a)) (s : State) : CoresKept s (l.foldl f s) := by
  induction l generalizing s with
  | nil => exact refl s
  | cons a r ih => exact (hf s a List.mem_cons_self).trans (ih (fun t b hb => hf t b (List.mem_cons_of_mem _ hb)) _)

theorem ite {c : Prop} [Decidable c] (ht : CoresKept s t) (hu : CoresKept s u) : CoresKept s (if c then t else u) := by
  split
  · exact ht
  · exact hu

theorem of_eq (coh : t.coh = s.coh) (cores : t.cores = s.cores) : CoresKept s t := ⟨fun h => ⟨by rw [coh, h], cores⟩⟩

theorem of_cacheEffect (h : CacheEffect s t) : CoresKept s t := ⟨fun none_open => ⟨h.win.trans none_open, h.cores⟩⟩

/-- It is enough to look at a package without windows. -/
theorem of_no_window (h : s.coh.winLines = [] → CoresKept s t) : CoresKept s t := ⟨fun none_open => (h none_open).keeps none_open⟩

end CoresKept

/-- Where no window is open, every byte of memory is held in memory. -/
theorem locate_of_no_window {s : State} (h : s.coh.winLines = []) (pa : Nat) : s.locate pa = .glob pa := by
  unfold State.locate
  rw [h]
  rfl

theorem modPart_coresKept (s : State) (k : Nat) (f : Part → Part) : CoresKept s (s.modPart k f) := .of_eq (State.modPart_coh ..) (State.modPart_cores ..)
theorem modCluster_coresKept (s : State) (k : Nat) (f : Cluster → Cluster) : CoresKept s (s.modCluster k f) := .of_eq rfl rfl
theorem setPorter_coresKept (s : State) (x : Porter) : CoresKept s (s.setPorter x) := .of_eq rfl rfl

theorem record_coresKept (s : State) (kind sev cls unit : Nat) (part : Option Nat) (addr n : Nat) (detail : BitVec 256) :
    CoresKept s (s.record kind sev cls unit part addr n detail) := .ite (setPorter_coresKept ..) (setPorter_coresKept ..)

theorem drawWide_coresKept (s : State) : CoresKept s s.drawWide.2 := .of_eq rfl rfl

theorem note_coresKept (s : State) (kind sev cls unit : Nat) (part : Option Nat) (addr n : Nat) : CoresKept s (s.note kind sev cls unit part addr n) :=
  (drawWide_coresKept s).trans (record_coresKept ..)

theorem consume_coresKept (s : State) (part : Nat) (p : Place) : CoresKept s (s.consume part p) :=
  (modPart_coresKept s part (fun x => { x with poisoned := min (2 ^ 32 - 1) (x.poisoned + 1) })).trans (note_coresKept ..)

/-! ### Writes of hardware and the undo log -/

theorem mem_of_mem_dedupPlaces {p : Place} {l : List Place} (h : p ∈ dedupPlaces l) : p ∈ l := by
  induction l with
  | nil => exact h
  | cons a r ih =>
    rcases List.mem_cons.mp h with rfl | h
    · exact List.mem_cons_self
    · exact List.mem_cons_of_mem _ (ih (List.mem_of_mem_filter h))

/-- The sectors of a write to memory are sectors of memory. -/
theorem sectorsOf_glob {pa : Nat} {bs : List Byte} {e : Place × List (Nat × Byte)} (h : e ∈ sectorsOf [(.glob pa, bs)]) : ∃ q, e.1 = .glob q := by
  obtain ⟨sec, hs, rfl⟩ := List.mem_map.mp h
  obtain ⟨c, hc, rfl⟩ := List.mem_map.mp (mem_of_mem_dedupPlaces hs)
  simp only [List.flatMap_cons, List.flatMap_nil, List.append_nil, List.mem_map] at hc
  obtain ⟨i, -, rfl⟩ := hc
  exact ⟨_, rfl⟩

theorem commitSector_cacheEffect (s : State) (w : Writer) (pa : Nat) (ws : List (Nat × Byte)) : CacheEffect s (s.commitSector w none pa ws) := by
  unfold State.commitSector
  dsimp only
  exact CacheEffect.trans (.ite (leaseStore_cacheEffect ..) ((conflict_cacheEffect ..).trans (dirTake_cacheEffect ..))) (landed_cacheEffect ..)

theorem hwSector_coresKept (s : State) (part pa : Nat) (ws : List (Nat × Byte)) : CoresKept s (s.hwSector part (.glob pa) ws) := .of_no_window fun none_open => by
  unfold State.hwSector
  simp only [locate_of_no_window none_open]
  exact .ite (consume_coresKept ..) (.of_cacheEffect ((touchTag_cacheEffect ..).trans (commitSector_cacheEffect ..)))

theorem vaOf_coresKept (s : State) (part va : Nat) (acc : Access) : CoresKept s (s.vaOf part va acc).2 := by
  have translated := CoresKept.of_cacheEffect (xlate_cacheEffect s 8 part acc va 0)
  unfold State.vaOf
  split
  · next h => rwa [h] at translated
  · next h => rwa [h] at translated

theorem hwPut_coresKept {s t : State} {part va : Nat} {bs : List Byte} (h : s.hwPut part va bs = some t) : CoresKept s t := by
  have reached := vaOf_coresKept s part va .innWrite
  unfold State.hwPut at h
  split at h
  · next hv =>
    rw [hv] at reached
    split at h
    · cases h
    · cases h
      refine reached.trans (.foldl (fun u e he => ?_) _)
      obtain ⟨q, hq⟩ := sectorsOf_glob he
      rw [hq]
      exact hwSector_coresKept ..
  · cases h

theorem hwPut_getD_coresKept (s : State) (part va : Nat) (bs : List Byte) : CoresKept s ((s.hwPut part va bs).getD s) := by
  cases h : s.hwPut part va bs with
  | none => exact .refl s
  | some t => exact hwPut_coresKept h

theorem hwPuts_coresKept {s t : State} {part : Nat} {l : List (Nat × List Byte)} (h : s.hwPuts part l = some t) : CoresKept s t := by
  induction l generalizing s with
  | nil =>
    cases h
    exact .refl _
  | cons e r ih =>
    unfold State.hwPuts at h
    split at h
    · next hp => exact (hwPut_coresKept hp).trans (ih h)
    · cases h

theorem logHeader_coresKept (s : State) (part : Nat) : CoresKept s (s.logHeader part) := by
  unfold State.logHeader
  split
  · exact .refl s
  · dsimp only
    split
    · exact (hwPut_getD_coresKept ..).trans (hwPut_getD_coresKept ..)
    · exact hwPut_getD_coresKept ..

/-- A change of the log, and its header. -/
theorem setLogHeader_coresKept (s : State) (part : Nat) (l : UndoLog) : CoresKept s ((s.setLog part l).logHeader part) :=
  (modPart_coresKept ..).trans (logHeader_coresKept ..)

theorem dropDirs_coresKept (s : State) (part : Nat) (old new : UndoLog) : CoresKept s (s.dropDirs part old new) :=
  .foldl (fun t w _ => hwPut_getD_coresKept t part (old.base + 0x1000 + w.num.toNat % 4096 * 32) (toBytes 32 0)) _

theorem sealWindow_coresKept (s : State) (part : Nat) (f : LogWindow → LogWindow) : CoresKept s (s.sealWindow part f) := by
  unfold State.sealWindow
  split
  · exact .ite (setLogHeader_coresKept ..) (.refl s)
  · exact .refl s

theorem CoresKept.go {s t : State} (h : CoresKept s t) : CoresKept s (UndoRes.go t).left := h
theorem CoresKept.full {s t : State} (h : CoresKept s t) : CoresKept s (UndoRes.full t).left := h

theorem undo_coresKept (s : State) (w : Writer) (pa : Nat) (mask : BitVec 16) : CoresKept s (s.undo w pa mask).left := by
  unfold State.undo
  split
  · exact (CoresKept.refl s).go
  split
  · exact (CoresKept.refl s).go
  split
  · exact (CoresKept.refl s).go
  extract_lets -underBinder inside l' t l
  have dropped : CoresKept s t := dropDirs_coresKept ..
  split
  · exact (sealWindow_coresKept ..).go
  split
  · exact (CoresKept.refl s).full
  split
  · extract_lets -underBinder old bs
    split
    · next h => exact ((dropped.trans (hwPuts_coresKept h)).trans (setLogHeader_coresKept ..)).go
    · exact ((dropped.trans (setLogHeader_coresKept ..)).trans (record_coresKept ..)).full
  · exact (dropped.trans (setLogHeader_coresKept ..)).full

theorem writeSector_coresKept (s : State) (w : Writer) (pa : Nat) (ws : List (Nat × Byte)) : CoresKept s (s.writeSector w none (.glob pa) ws) := .of_no_window fun none_open => by
  unfold State.writeSector
  simp only [locate_of_no_window none_open]
  refine .ite (consume_coresKept ..) ?_
  have made := undo_coresKept s w pa (wordMask ws)
  split
  · next h =>
    rw [h] at made
    exact made.trans (.of_cacheEffect ((touchTag_cacheEffect ..).trans (commitSector_cacheEffect ..)))
  · next h =>
    rw [h] at made
    exact made.trans (modPart_coresKept ..)

theorem write_coresKept (s : State) (w : Writer) (pa : Nat) (bs : List Byte) : CoresKept s (s.write w none (.glob pa) bs) :=
  .foldl (fun t e he => by
    obtain ⟨q, hq⟩ := sectorsOf_glob he
    rw [hq]
    exact writeSector_coresKept ..) s

/-! ### Rings, and the posting of faults -/

theorem hwWord_coresKept {s t : State} {part va x : Nat} (h : s.hwWord part va = some (x, t)) : CoresKept s t := by
  have reached := vaOf_coresKept s part va .innRead
  unfold State.hwWord at h
  split at h
  · next hv =>
    rw [hv] at reached
    simp only [Option.some.injEq, Prod.mk.injEq] at h
    exact h.2 ▸ reached
  · cases h

theorem CoresKept.posted {s t : State} (h : CoresKept s t) : CoresKept s (PostRes.posted t).left := h
theorem CoresKept.ringFull {s t : State} (h : CoresKept s t) : CoresKept s (PostRes.full t).left := h
theorem CoresKept.unmapped (s : State) : CoresKept s (PostRes.unmapped s).left := .refl s

theorem ringPost_coresKept (s : State) (part : Nat) (r : Ring) (headOff : Nat) (resv : Bool) (rec : Nat → BitVec 512) :
    CoresKept s (s.ringPost part r headOff resv rec).left := by
  unfold State.ringPost
  split
  · exact .unmapped s
  next head s₁ hh =>
  split
  · exact .unmapped s
  next tail s₂ ht =>
  have found := (hwWord_coresKept hh).trans (hwWord_coresKept ht)
  by_cases full : 2 ^ r.n ≤ (tail + 2 ^ 64 - head) % 2 ^ 64
  · rw [if_pos full]
    exact found.ringFull
  · rw [if_neg full]
    extract_lets -underBinder hdr
    cases hp : s₂.hwPuts part [(r.base + 64 + tail % 2 ^ r.n * 64, toBytes 64 (rec tail).toNat), (r.base, hdr)] with
    | some t => exact (found.trans (hwPuts_coresKept hp)).posted
    | none => exact .unmapped s

theorem overflow_coresKept (s : State) (part : Nat) : CoresKept s (s.overflow part) := by
  unfold State.overflow
  split
  · exact .refl s
  dsimp only
  split
  · exact .refl s
  split
  · exact .refl s
  next hw =>
  split
  · next hp => exact ((hwWord_coresKept hw).trans (hwPuts_coresKept hp)).trans (modPart_coresKept ..)
  · exact .refl s

theorem faultPost_coresKept (s : State) (part : Nat) (rec : BitVec 512) : CoresKept s (s.faultPost part rec).2 := by
  unfold State.faultPost
  split
  · exact .refl s
  next p _ =>
  have posted := ringPost_coresKept s part p.fring 8 true (fun _ => withSeq rec p.fseq)
  split
  · next h =>
    rw [h] at posted
    exact posted.trans (modPart_coresKept ..)
  · next h => rwa [h] at posted
  · next h => rwa [h] at posted

theorem tried_coresKept (s : State) (c : Bool) (part : Nat) (rec : BitVec 512) : CoresKept s (if c then (false, s) else s.faultPost part rec).2 := by
  split
  · exact .refl s
  · exact faultPost_coresKept ..

theorem drainHold_coresKept (die : Nat) (l : List (Nat × BitVec 512)) (stuck : List Nat) (s : State) : CoresKept s (drainHold die l stuck s) := by
  induction l generalizing stuck s with
  | nil => exact .refl s
  | cons e r ih =>
    obtain ⟨part, rec⟩ := e
    have posted := tried_coresKept s (stuck.contains part) part rec
    unfold drainHold
    generalize (if stuck.contains part then (false, s) else s.faultPost part rec) = x at posted
    obtain ⟨ok, t⟩ := x
    exact .ite (posted.trans (ih ..)) ((posted.trans (modCluster_coresKept ..)).trans (ih ..))

theorem drainFaults_coresKept (s : State) (die : Nat) : CoresKept s (s.drainFaults die) := by
  unfold State.drainFaults
  dsimp only
  refine CoresKept.trans ?_ (.foldl (fun t p _ => overflow_coresKept t p) _)
  refine CoresKept.trans ?_ (.foldl (fun t e _ => modPart_coresKept t e.1 (fun p => { p with ovfPend := p.ovfPend + 1 })) _)
  exact ((modCluster_coresKept ..).trans (drainHold_coresKept ..)).trans (drainHold_coresKept ..)

theorem postFault_coresKept (s : State) (die part : Nat) (rec : BitVec 512) : CoresKept s (s.postFault die part rec) := by
  unfold State.postFault
  extract_lets -underBinder s₁ s₂ held
  have drained : CoresKept s s₂ := (modPart_coresKept ..).trans (drainFaults_coresKept ..)
  have posted := drained.trans (tried_coresKept s₂ (held.any (fun e => e.1 == part)) part rec)
  generalize (if held.any (fun e => e.1 == part) then (false, s₂) else s₂.faultPost part rec) = x at posted
  obtain ⟨ok, t⟩ := x
  have kept := posted.trans (modCluster_coresKept t die (fun c => { c with hold := c.hold ++ [(part, rec)] }))
  exact .ite posted (.ite ((kept.trans (modPart_coresKept ..)).trans (overflow_coresKept ..)) kept)

/-! ### The Innkeeper's accesses (R326), and atomics -/

theorem innAt_coresKept (s : State) (part va : Nat) (acc : Access) : CoresKept s (s.innAt part va acc).2 := by
  have translated := CoresKept.of_cacheEffect (xlate_cacheEffect s 8 part acc (va % 2 ^ 56) 0)
  unfold State.innAt
  split
  · next h =>
    rw [h] at translated
    exact translated
  · next h =>
    rw [h] at translated
    exact translated.trans (postFault_coresKept ..)

theorem innRead_coresKept (s : State) (part va n : Nat) : CoresKept s (s.innRead part va n).2 := by
  have reached := innAt_coresKept s part va .innRead
  unfold State.innRead
  split
  · next pa t h =>
    rw [h] at reached
    extract_lets u v
    have first : CoresKept s u := reached.trans (.of_cacheEffect (loadEffects_cacheEffect ..))
    have second : CoresKept s v := .ite first (first.trans (.of_cacheEffect (loadEffects_cacheEffect ..)))
    exact .ite (second.trans (consume_coresKept ..)) second
  · next h => rwa [h] at reached

theorem depsHold_coresKept (part : Nat) (l : List (Nat × Nat)) (s : State) : CoresKept s (s.depsHold part l).2 := by
  induction l generalizing s with
  | nil => exact .refl s
  | cons d r ih =>
    have reading := innRead_coresKept s part d.1 8
    unfold State.depsHold
    split
    · next h =>
      rw [h] at reading
      split
      · exact reading.trans (ih _)
      · exact reading
    · next h => rwa [h] at reading

theorem atHome_cacheEffect (s : State) (own : Option Nat) (p : Place) : CacheEffect s (s.atHome own p) := by
  unfold State.atHome
  split
  · exact .ite (.refl s) (.ite (leaseDrop_cacheEffect ..) (((conflict_cacheEffect ..).trans (rowsDrop_cacheEffect ..)).trans (dirTake_cacheEffect ..)))
  · exact .refl s

section
variable (s : State) (w : Writer) (pa : Nat) (op : Aop) (t : Typ) (b new : Nat)

theorem atomicAt_undisturbed (p : Place) : Undisturbed s (s.atomicAt w p op t b new).2.2.2 := by
  unfold State.atomicAt
  extract_lets -underBinder q u old r
  have home : Undisturbed s u := .of_cacheEffect (atHome_cacheEffect ..)
  split
  · exact home.trans (consume_undisturbed ..)
  · split
    · exact home.trans (write_undisturbed ..)
    · exact home

theorem atomicAt_coresKept : CoresKept s (s.atomicAt w (.glob pa) op t b new).2.2.2 := by
  unfold State.atomicAt
  extract_lets -underBinder q u old r
  have home : CoresKept s u := .of_cacheEffect (atHome_cacheEffect ..)
  split
  · exact home.trans (consume_coresKept ..)
  · split
    · exact home.trans (write_coresKept ..)
    · exact home

end

end Sys2Proof.Machine
end

section
/-! SUPPORT. What the Innkeeper's upkeep of a queue leaves of an item that is ready, owes nothing and is not over (R52 to R54, R326). -/

namespace Sys2Proof.Machine

/-! ### The item that a queue has under a number -/

/-- An item stands in a queue, and no other stands there under its number. -/
structure Queue.Holds (q : Queue) (y : Item) : Prop where
  mem : y ∈ q.items
  alone : ∀ z ∈ q.items, z.idx = y.idx → z = y

namespace Queue.Holds

variable {q q' : Queue} {x y : Item}

theorem of_items (h : q.Holds y) (same : q'.items = q.items) : q'.Holds y := ⟨same ▸ h.mem, same ▸ h.alone⟩

theorem item (h : q.Holds y) : q.item? y.idx = some y := by
  cases found : q.item? y.idx with
  | none => exact absurd (beq_self_eq_true y.idx) (List.find?_eq_none.mp found y h.mem)
  | some z => rw [h.alone z (List.mem_of_find?_eq_some found) (item_idx found)]

theorem self (q : Queue) (y : Item) : (q.putItem y).Holds y := by
  refine ⟨List.mem_of_find?_eq_some (putItem_item_same q y), fun z hz same => ?_⟩
  unfold putItem at hz
  split at hz
  · obtain ⟨a, -, rfl⟩ := List.mem_map.mp hz
    split
    · rfl
    · next ne => exact absurd (beq_iff_eq.mpr (by rwa [if_neg ne] at same)) ne
  · next absent =>
    rcases List.mem_append.mp hz with hz | hz
    · exact absurd (List.find?_isSome.mpr ⟨z, hz, by simpa using same⟩) absent
    · exact List.mem_singleton.mp hz

theorem put (h : q.Holds y) (ne : x.idx ≠ y.idx) : (q.putItem x).Holds y := by
  unfold putItem
  split
  · refine ⟨List.mem_map.mpr ⟨y, h.mem, if_neg (by simpa using ne.symm)⟩, fun z hz same => ?_⟩
    obtain ⟨a, ha, rfl⟩ := List.mem_map.mp hz
    split at same
    · exact absurd same ne
    · next other =>
      rw [if_neg other]
      exact h.alone a ha same
  · refine ⟨List.mem_append_left _ h.mem, fun z hz same => ?_⟩
    rcases List.mem_append.mp hz with hz | hz
    · exact h.alone z hz same
    · rw [List.mem_singleton.mp hz] at same
      exact absurd same ne

/-- The item that the queue has at `place`, or a new one there, is put back. -/
theorem putPlace (h : q.Holds y) (idx : x.idx = q.place) (here : q.item? q.place = some x ∨ q.item? q.place = none) : (q.putItem x).Holds y := by
  by_cases e : x.idx = y.idx
  · rcases here with here | here
    · rw [h.alone x (List.mem_of_find?_eq_some here) e]
      exact self q y
    · rw [← idx, e, h.item] at here
      exact absurd here nofun
  · exact h.put e

/-- Head passes no item that is not over (R54). -/
theorem advanceHead (h : q.Holds y) (open_ : y.over_ = false) (f : Nat) : (advanceHead f q).Holds y := by
  induction f generalizing q with
  | zero => exact h
  | succ f ih =>
    unfold Machine.advanceHead
    split
    · next x hx =>
      split
      · next past =>
        refine ih ⟨List.mem_filter.mpr ⟨h.mem, bne_iff_ne.mpr fun e => ?_⟩, fun z hz => h.alone z (List.mem_of_mem_filter hz)⟩
        rw [← e, h.item] at hx
        obtain rfl := Option.some.inj hx
        rw [open_, Bool.and_false, Bool.false_and] at past
        exact absurd past Bool.false_ne_true
      · exact h
    · exact h

end Queue.Holds

/-- The completion owed for longest is that of an item of the queue, and is owed. -/
theorem owed_mem {q : Queue} {x : Item} (h : q.owed? = some x) : x ∈ q.items ∧ x.unpaid = true := by
  have chosen : ∀ (l : List Item) (b : Option Item), (∀ z ∈ l, z ∈ q.items ∧ z.unpaid = true) → (∀ z, b = some z → z ∈ q.items ∧ z.unpaid = true) →
      ∀ z, l.foldl (fun b x => match b with | none => some x | some y => if x.order < y.order then some x else b) b = some z →
        z ∈ q.items ∧ z.unpaid = true := by
    intro l
    induction l with
    | nil => exact fun b _ hb => hb
    | cons a r ih =>
      intro b hl hb
      have rest : ∀ z ∈ r, z ∈ q.items ∧ z.unpaid = true := fun z hz => hl z (List.mem_cons_of_mem _ hz)
      have first : ∀ z, some a = some z → z ∈ q.items ∧ z.unpaid = true := fun z e => Option.some.inj e ▸ hl a List.mem_cons_self
      cases b with
      | none => exact ih (some a) rest first
      | some y =>
        rw [List.foldl_cons]
        dsimp only
        split
        · exact ih (some a) rest first
        · exact ih (some y) rest hb
  exact chosen _ none (fun z hz => List.mem_filter.mp hz) (fun z e => absurd e nofun) x h

/-! ### Upkeep of the queue -/

/-- A queue of the package has an item. -/
def State.Has (s : State) (part n : Nat) (y : Item) : Prop := ∃ q, s.queue? part n = some q ∧ q.Holds y

/-- A step that keeps an item which a queue has is upkeep, and leaves the cores as they are. -/
structure Tended (part n : Nat) (y : Item) (s t : State) : Prop where
  keeps : s.Has part n y → Upkeep s t ∧ CoresKept s t ∧ t.Has part n y

namespace Tended

variable {part n : Nat} {y : Item} {s t u : State}

theorem refl (s : State) : Tended part n y s s := ⟨fun h => ⟨.refl s, .refl s, h⟩⟩

theorem trans (h : Tended part n y s t) (k : Tended part n y t u) : Tended part n y s u where
  keeps has := by
    obtain ⟨upkeep, cores, there⟩ := h.keeps has
    obtain ⟨upkeep', cores', still⟩ := k.keeps there
    exact ⟨upkeep.trans upkeep', cores.trans cores', still⟩

theorem ite {c : Prop} [Decidable c] (ht : Tended part n y s t) (hu : Tended part n y s u) : Tended part n y s (if c then t else u) := by
  split
  · exact ht
  · exact hu

/-- It is enough to look at a package whose queue has the item. -/
theorem of_has (h : s.Has part n y → Tended part n y s t) : Tended part n y s t := ⟨fun has => (h has).keeps has⟩

theorem of_undisturbed (h : Undisturbed s t) (cores : CoresKept s t) : Tended part n y s t :=
  ⟨fun ⟨q, hq, holds⟩ => ⟨.of_undisturbed h, cores, q, (h.queue part n).trans hq, holds⟩⟩

theorem of_setQueue {q : Queue} (hq : s.queue? part n = some q) (q' : Queue) (h : q.Holds y → q'.Holds y) : Tended part n y s (s.setQueue part n q') where
  keeps := fun ⟨q₁, hq₁, holds⟩ => by
    obtain rfl := Option.some.inj (hq.symm.trans hq₁)
    exact ⟨setQueue_upkeep .., modPart_coresKept .., q', queue_setQueue hq q', h holds⟩

end Tended

theorem innAt_tended {part n : Nat} {y : Item} (s : State) (va : Nat) (acc : Access) : Tended part n y s (s.innAt part va acc).2 :=
  .of_undisturbed (innAt_undisturbed ..) (innAt_coresKept ..)

section
variable {part n : Nat} {y : Item}

theorem headLine_tended (s : State) : Tended part n y s (s.headLine part n) := by
  unfold State.headLine
  split
  · exact .refl s
  · next q hq =>
    have line := (innAt_undisturbed s part q.headLine .innWrite).queue part n
    have reached := innAt_tended (part := part) (n := n) (y := y) s q.headLine .innWrite
    split
    · next h =>
      rw [h] at line reached
      have marked : Tended part n y _ _ := .of_setQueue (line.trans hq) { q with stale := false } (fun holds => holds.of_items rfl)
      exact (reached.trans marked).trans (.of_undisturbed (write_undisturbed ..) (write_coresKept ..))
    · next h =>
      rw [h] at line reached
      exact reached.trans (.of_setQueue (line.trans hq) _ (fun holds => holds.of_items rfl))

theorem advanceQueue_tended (open_ : y.over_ = false) (s : State) (changed : Bool) : Tended part n y s (s.advanceQueue part n changed) := by
  unfold State.advanceQueue
  split
  · exact .refl s
  · next q hq =>
    have moved : Tended part n y s (s.setQueue part n (advanceHead (q.place - q.head) q)) := .of_setQueue hq _ (fun holds => holds.advanceHead open_ _)
    exact .ite (moved.trans (headLine_tended _)) moved

theorem queueFault_tended (s : State) (b : Bool) : Tended part n y s (s.queueFault part n b) := by
  unfold State.queueFault
  split
  · next q hq => exact .of_setQueue hq _ (fun holds => holds.of_items rfl)
  · exact .refl s

/-! ### Completions that are owed (R54) -/

/-- Another item of the queue is put back. -/
theorem putOther_tended {x : Item} (ne : x.idx ≠ y.idx) (s : State) :
    Tended part n y s (match s.queue? part n with | some q => s.setQueue part n (q.putItem x) | none => s) := by
  split
  · next q hq => exact .of_setQueue hq _ (fun holds => holds.put ne)
  · exact .refl s

theorem payItem_tended {x : Item} (ne : x.idx ≠ y.idx) (s : State) : Tended part n y s (s.payItem part n x) := by
  have reached := innAt_tended (part := part) (n := n) (y := y) s x.caddr .innWrite
  unfold State.payItem
  extract_lets put
  have other : ∀ (u : State) (z : Item), z.idx = x.idx → Tended part n y u (put u z) := fun u z hz => putOther_tended (hz ▸ ne) u
  split
  · exact other s _ rfl
  · split
    · next h =>
      rw [h] at reached
      exact reached.trans (other _ _ rfl)
    · next h =>
      rw [h] at reached
      refine reached.trans (.ite ?_ (other _ _ rfl))
      exact (other _ { x with unpaid := false } rfl).trans (.of_undisturbed (atomicAt_undisturbed ..) (atomicAt_coresKept ..))

theorem payLoop_tended (paid : y.unpaid = false) (f : Nat) (s : State) : Tended part n y s (State.payLoop f part n s) := by
  induction f generalizing s with
  | zero => exact .refl s
  | succ f ih =>
    refine .of_has fun ⟨q, hq, holds⟩ => ?_
    unfold State.payLoop
    split
    · exact .refl s
    · next x hx =>
      rw [hq, Option.bind_some] at hx
      obtain ⟨mem, owed⟩ := owed_mem hx
      have ne : x.idx ≠ y.idx := fun e => by
        rw [holds.alone x mem e, paid] at owed
        exact Bool.false_ne_true owed
      exact .ite (payItem_tended ne s) ((payItem_tended ne s).trans (ih _))

theorem payQueue_tended (open_ : y.over_ = false) (paid : y.unpaid = false) (s : State) : Tended part n y s (s.payQueue part n) := by
  unfold State.payQueue
  split
  · exact .refl s
  · exact (payLoop_tended paid ..).trans (advanceQueue_tended open_ ..)

/-! ### The item at `place` (R50, R52, R417) -/

theorem placeItem_coresKept (s : State) (part : Nat) (q : Queue) : CoresKept s (s.placeItem part q).2 := by
  unfold State.placeItem
  split
  · exact .refl s
  · have reading := innRead_coresKept s part (q.ring + q.place % 2 ^ q.log2 * 128) 128
    split
    · next e => rwa [e] at reading
    · next e => rwa [e] at reading

theorem readyLoop_tended (open_ : y.over_ = false) (ready : y.ready = true) (f : Nat) (s : State) : Tended part n y s (State.readyLoop f part n s) := by
  induction f generalizing s with
  | zero => exact .refl s
  | succ f ih =>
    unfold State.readyLoop
    split
    · exact .refl s
    next q hq =>
    split
    · exact .refl s
    extract_lets -underBinder r
    obtain ⟨found, entry⟩ := placeItem_keeps s part q
    have kept := placeItem_coresKept s part q
    have here : s.placeItem part q = r := rfl
    rw [here] at found entry kept
    clear_value r
    obtain ⟨r, t⟩ := r
    dsimp only at found entry kept ⊢
    have hq : t.queue? part n = some q := (found.queue part n).trans hq
    refine (Tended.of_undisturbed found kept).trans ?_
    cases r with
    | none => exact queueFault_tended t true
    | some x =>
      obtain ⟨idx, here⟩ := entry x rfl
      dsimp only
      have put : Tended part n y t (t.setQueue part n (q.putItem x)) := .of_setQueue hq _ (fun holds => holds.putPlace idx here)
      have hput := queue_setQueue hq (q.putItem x)
      generalize t.setQueue part n (q.putItem x) = v at put hput
      refine put.trans ?_
      by_cases settled : x.ready = true
      · rw [if_pos settled]
        exact .refl v
      rw [if_neg settled]
      refine .ite (.refl v) ?_
      have held := depsHold_undisturbed part x.deps v
      have quiet := depsHold_coresKept part x.deps v
      generalize v.depsHold part x.deps = d at held quiet
      obtain ⟨d, w⟩ := d
      dsimp only at held quiet ⊢
      have hw : w.queue? part n = some (q.putItem x) := (held.queue part n).trans hput
      have changed : ∀ (z : Item) (q' : Queue), z.idx = x.idx → q'.items = ((q.putItem x).putItem z).items → Tended part n y w (w.setQueue part n q') :=
        fun z q' hz items => .of_setQueue hw q' fun holds => by
          refine Queue.Holds.of_items (holds.put fun e => settled ?_) items
          rw [holds.alone x (Queue.Holds.self q x).mem (hz.symm.trans e)]
          exact ready
      refine (Tended.of_undisturbed held quiet).trans (.ite (queueFault_tended w true) (.ite (.refl w) (.ite ?_ ?_)))
      · have passed := changed { x with rejected := true } { (q.putItem x).putItem { x with rejected := true } with place := (q.putItem x).place + 1 } rfl rfl
        exact ((passed.trans (.of_undisturbed (record_undisturbed ..) (record_coresKept ..))).trans (advanceQueue_tended open_ _ true)).trans (ih _)
      · exact changed { x with ready := true } _ rfl rfl

theorem readyQueue_tended (open_ : y.over_ = false) (ready : y.ready = true) (s : State) : Tended part n y s (s.readyQueue part n) := by
  unfold State.readyQueue
  split
  · exact .ite (.refl s) (readyLoop_tended open_ ready ..)
  · exact .refl s

theorem refreshQueue_tended (open_ : y.over_ = false) (paid : y.unpaid = false) (ready : y.ready = true) (s : State) :
    Tended part n y s (s.refreshQueue part n) := (payQueue_tended open_ paid s).trans (readyQueue_tended open_ ready _)

end

end Sys2Proof.Machine
end

section
/-! SUPPORT. What the posting of switch requests changes (R63 to R66), and the steps of a retirement (R45, R54, R60, R77). -/

namespace Sys2Proof.Machine

/-! ### Switch requests (R63, R64, R66) -/

/-- What the posting of switch requests changes: teams that stand, causes of groups, and the Innkeeper's records. -/
structure Pressing (s t : State) : Prop where
  rest : { t with teams := s.teams, groups := s.groups, inn := s.inn } = s
  absent : ∀ k, s.team? k = none → t.team? k = none

namespace Pressing

variable {s t u : State}

theorem refl (s : State) : Pressing s s := ⟨rfl, fun _ => id⟩

theorem trans (h : Pressing s t) (k : Pressing t u) : Pressing s u where
  rest := (congrArg (fun x : State => { x with teams := s.teams, groups := s.groups, inn := s.inn }) k.rest :).trans h.rest
  absent j none_there := k.absent j (h.absent j none_there)

theorem foldl {α : Type} {f : State → α → State} (hf : ∀ s a, Pressing s (f s a)) (l : List α) (s : State) : Pressing s (l.foldl f s) := by
  induction l generalizing s with
  | nil => exact refl s
  | cons a r ih => exact (hf s a).trans (ih _)

theorem ite {c : Prop} [Decidable c] (ht : Pressing s t) (hu : Pressing s u) : Pressing s (if c then t else u) := by
  split
  · exact ht
  · exact hu

theorem setInn (s : State) (x : Inn) : Pressing s (s.setInn x) := ⟨rfl, fun _ => id⟩

end Pressing

theorem requestSwitch_pressing (s : State) (tk target : Nat) (up : Bool) : Pressing s (s.requestSwitch tk target up) := by
  unfold State.requestSwitch
  split
  · exact .refl s
  · next t ht =>
    refine ⟨rfl, fun k absent => (State.team_setTeam s tk k _).trans ((if_neg fun e => ?_).trans absent)⟩
    rw [e, ht] at absent
    exact absurd absent nofun

theorem pressItem_pressing (s : State) (core : Nat) (e : Wanting) : Pressing s (s.pressItem core e) := by
  obtain ⟨part, queue, x, im, rank⟩ := e
  exact .ite (.refl s) ((Pressing.setInn ..).trans (.foldl (fun u (e : Nat × Nat) => requestSwitch_pressing u e.1 e.2 false) _ _))

theorem pressCore_pressing (s : State) (core : Nat) : Pressing s (s.pressCore core) :=
  (Pressing.setInn ..).trans (.foldl (fun u (e : Wanting) => pressItem_pressing u core e) _ _)

theorem trackFree_pressing (s : State) (core : Nat) : Pressing s (s.trackFree core) where
  rest := rfl
  absent k absent := by
    have same := (trackFree_frame s core).2 k
    rw [absent] at same
    exact Option.map_eq_none_iff.mp same

theorem pressAll_pressing (s : State) : Pressing s s.pressAll :=
  .foldl (fun u core => (pressCore_pressing u core).trans (trackFree_pressing ..)) _ s

/-! ### Bindings of a switched and of a retired team (R77) -/

theorem BindFrame.modTeam_if (s : State) (k : Nat) (c : Team → Bool) (f : Team → SMap 64) :
    BindFrame s (s.modTeam k (fun u => if c u then { u with bind := f u } else u)) := by
  have only : (fun u : Team => if c u then { u with bind := f u } else u) = fun u => { u with bind := if c u then f u else u.bind } := by
    funext u
    split <;> rfl
  rw [only]
  exact .modTeam ..

theorem unbindTeam_frame (s : State) (tk : Nat) (t : Team) (x : Item) : BindFrame s (s.unbindTeam tk t x) :=
  .foldl (fun w e => by
    dsimp only
    split
    · exact .refl w
    · exact .modTeam_if w e.1 (fun u => bndBound (sget u.bind (linear x e.2 ^^^ linear x t))) _) _ s

/-! ### The ready flag (R60) -/

/-- The four bytes of a ready flag lie in one sector. -/
theorem sectorsOf_flag (c b : Nat) (x : Byte) : sectorsOf [(.aspc c (4096 * b), [x, x, x, x])] = [(.aspc c (4096 * b), [(0, x), (1, x), (2, x), (3, x)])] := by
  have sector : ∀ i < 4, (4096 * b + i) / 64 * 64 = 4096 * b ∧ (4096 * b + i) % 64 = i := by omega
  obtain ⟨s0, m0⟩ := sector 0 (by decide)
  obtain ⟨s1, m1⟩ := sector 1 (by decide)
  obtain ⟨s2, m2⟩ := sector 2 (by decide)
  obtain ⟨s3, m3⟩ := sector 3 (by decide)
  simp only [Nat.add_zero] at s0 m0
  simp [sectorsOf, List.range_succ, Place.add, Place.sector, Place.inSector, dedupPlaces, s0, s1, s2, s3, m0, m1, m2, m3]

theorem core_putByte_aspc (s : State) (c o : Nat) (b : Byte) (j : Nat) :
    sget ((s.putByte (.aspc c o) b).core c).a j = if j = o then b else sget (s.core c).a j := by
  simp only [State.putByte, State.core_modCore, if_true, sget_sset]

/-- The flag reads 0 after it is cleared: its sector is poisoned, where nothing else is read, or holds the zeros (R400). -/
theorem write_flag_clears (s : State) (w : Writer) (c b : Nat) : (s.write w none (.aspc c (4096 * b)) [0, 0, 0, 0]).coh = s.coh ∧
    ∀ n, n < 4 → (s.write w none (.aspc c (4096 * b)) [0, 0, 0, 0]).readByte (.aspc c (4096 * b + n)) = 0 := by
  have partly : covers [(0, (0 : Byte)), (1, 0), (2, 0), (3, 0)] = false := by decide
  have put : s.write w none (.aspc c (4096 * b)) [0, 0, 0, 0] =
      ((([(0, (0 : Byte)), (1, 0), (2, 0), (3, 0)]).foldl (fun s e => s.putByte ((Place.aspc c (4096 * b)).add e.1) e.2) s).notice (.aspc c (4096 * b))) := by
    unfold State.write State.writeAll
    rw [sectorsOf_flag]
    show (State.putSector s _ _).notice _ = _
    unfold State.putSector
    rw [partly]
    rfl
  rw [put]
  refine ⟨rfl, fun n hn => ?_⟩
  unfold State.readByte
  split
  · rfl
  · show sget (State.core _ c).a _ = 0
    simp only [State.notice, List.foldl_cons, List.foldl_nil, Place.add]
    show sget (State.core (State.putByte _ _ _) c).a _ = 0
    have which : n = 0 ∨ n = 1 ∨ n = 2 ∨ n = 3 := by omega
    rcases which with rfl | rfl | rfl | rfl <;> simp [core_putByte_aspc]

theorem readByte_of_cores {s t : State} (h : t.cores = s.cores) (c o : Nat) : t.readByte (.aspc c o) = s.readByte (.aspc c o) := by
  unfold State.readByte State.isPoison State.rawByte State.core
  rw [h]

/-! ### The retirement (R45, R54) -/

/-- What a retirement frees: the ready flag is cleared, the tokens of the tiles return, and the team goes (R45, R60). -/
def State.freeTeam (s : State) (tk : Nat) (t : Team) : State :=
  ((s.write (innWriter t.part 0) none (.aspc (tk / 16) (4096 * t.abase)) [0, 0, 0, 0]).modCore (tk / 16)
    (fun k => { k with token := k.token.filter (fun e => !t.tiles.getLsbD e.1) })).delTeam tk

/-- An item of which one more workgroup has retired (R54). -/
def Item.retire (x : Item) (order : Nat) : Item := { x with retired := x.retired + 1, unpaid := x.total == x.retired + 1, order := order }

/-- The queue counts the retirement. -/
def State.countRetired (s : State) (t : Team) (q : Queue) (x : Item) : State :=
  let s := s.setQueue t.part t.queue (q.putItem (x.retire s.clock.seqno))
  s.setClock { s.clock with seqno := s.clock.seqno + 1 }

theorem freeTeam_leaves (s : State) (tk : Nat) (t : Team) :
    (s.freeTeam tk t).coh = s.coh ∧ (s.freeTeam tk t).team? tk = none ∧ (∀ part n, (s.freeTeam tk t).queue? part n = s.queue? part n) ∧
    (∀ e ∈ ((s.freeTeam tk t).core (tk / 16)).token, t.tiles.getLsbD e.1 = false) ∧
    ∀ n, n < 4 → (s.freeTeam tk t).readByte (.aspc (tk / 16) (4096 * t.abase + n)) = 0 := by
  have written := write_undisturbed s (innWriter t.part 0) none (.aspc (tk / 16) (4096 * t.abase)) [0, 0, 0, 0]
  obtain ⟨coh, zeros⟩ := write_flag_clears s (innWriter t.part 0) (tk / 16) t.abase
  unfold State.freeTeam
  generalize s.write (innWriter t.part 0) none (.aspc (tk / 16) (4096 * t.abase)) [0, 0, 0, 0] = w at written coh zeros
  refine ⟨coh, (State.team_delTeam ..).trans (if_pos rfl), written.queue, fun e he => ?_, fun n hn => ?_⟩
  · rw [State.core_delTeam, State.core_modCore, if_pos rfl] at he
    simpa using (List.mem_filter.mp he).2
  · have same := zeros n hn
    simp only [State.readByte, State.isPoison, State.rawByte, State.core_delTeam, State.core_modCore, if_true] at same ⊢
    exact same

section
variable {s : State} {tk : Nat} {t : Team} {p : Part} {q : Queue} {x : Item}

/-- A retirement, step by step. -/
theorem workgroupRetire_run (ht : s.team? tk = some t) (placed : tk < 4096) (groups : s.teamGroups tk = []) (saved : s.teamSaved tk = [])
    (hp : s.part? t.part = some p) (inside : p.swapOut = none) (cores : p.outCores = []) (hf : t.frozen = none) (hq : s.queue? t.part t.queue = some q)
    (hx : q.item? t.item = some x) :
    let w := ((s.freeTeam tk t).unbindTeam tk t x).countRetired t q x
    exec (.workgroupRetire tk) s =
      .next (((if q.owed?.isSome then w.readyQueue t.part t.queue else w.refreshQueue t.part t.queue).pressAll).trackFree (tk / 16)) := by
  have queues := (freeTeam_leaves s tk t).2.2.1 t.part t.queue
  have unbound := unbindTeam_frame (s.freeTeam tk t) tk t x
  have hq' : ((s.freeTeam tk t).unbindTeam tk t x).queue? t.part t.queue = some q := by
    have parts : ((s.freeTeam tk t).unbindTeam tk t x).parts = (s.freeTeam tk t).parts := (congrArg State.parts unbound.rest :)
    rw [← hq, ← queues]
    unfold State.queue? State.part?
    rw [parts]
  intro w
  show execWorkgroupRetire tk s = _
  unfold execWorkgroupRetire
  have stays : ¬(decide (4096 ≤ tk) || !(s.teamGroups tk).isEmpty || !(s.teamSaved tk).isEmpty ||
      ((s.part? t.part).map (fun p => p.swapOut.isSome || !p.outCores.isEmpty)).getD false) = true := by
    simp [groups, saved, hp, inside, cores, Nat.not_le.mpr placed]
  simp only [ht, if_neg stays, hf, Option.isSome_none, Bool.false_eq_true, if_false, hq, Option.bind_some]
  have free : ((s.write (innWriter t.part 0) none (.aspc (tk / 16) (4096 * t.abase)) [0, 0, 0, 0]).modCore (tk / 16)
    (fun k => { k with token := k.token.filter (fun e => !t.tiles.getLsbD e.1) })).delTeam tk = s.freeTeam tk t := rfl
  simp only [free, queues, hq, Option.bind_some, hx, hq']
  rfl

/-- What stands once the retirement is counted: no team, its tokens and its flag gone, and the item with one workgroup more. -/
theorem countRetired_leaves (hq : s.queue? t.part t.queue = some q) :
    let w := ((s.freeTeam tk t).unbindTeam tk t x).countRetired t q x
    w.coh = s.coh ∧ w.team? tk = none ∧ (∀ e ∈ (w.core (tk / 16)).token, t.tiles.getLsbD e.1 = false) ∧
    (∀ n, n < 4 → w.readByte (.aspc (tk / 16) (4096 * t.abase + n)) = 0) ∧ ∃ order, w.Has t.part t.queue (x.retire order) := by
  intro w
  obtain ⟨coh, gone, queues, tokens, zeros⟩ := freeTeam_leaves s tk t
  have unbound := unbindTeam_frame (s.freeTeam tk t) tk t x
  have counted : w = ((s.freeTeam tk t).unbindTeam tk t x).countRetired t q x := rfl
  clear_value w
  generalize s.freeTeam tk t = v at *
  generalize v.unbindTeam tk t x = b at *
  have hb : b.queue? t.part t.queue = some q := by
    have parts : b.parts = v.parts := (congrArg State.parts unbound.rest :)
    rw [← hq, ← queues]
    unfold State.queue? State.part?
    rw [parts]
  have cores : w.cores = v.cores := by
    rw [counted]
    exact (State.modPart_cores ..).trans (congrArg State.cores unbound.rest :)
  refine ⟨?_, ?_, ?_, fun n hn => (readByte_of_cores cores ..).trans (zeros n hn), b.clock.seqno, ?_⟩
  · have same : b.coh = v.coh := (congrArg State.coh unbound.rest :)
    rw [counted]
    exact ((State.modPart_coh ..).trans same).trans coh
  · have same := unbound.team tk
    rw [gone, Option.map_none, Option.map_eq_none_iff] at same
    rw [counted]
    exact (congrArg (kget · tk) (State.modPart_teams ..) :).trans same
  · unfold State.core at tokens ⊢
    rwa [cores]
  · rw [counted]
    exact ⟨_, queue_setQueue hb _, Queue.Holds.self q _⟩

end

/-! ### Dependences and rejection (R52, R326, R417) -/

theorem depsHold_cons {s w : State} {part a n pa : Nat} {rest : List (Nat × Nat)} (hx : s.xlate 8 part .innRead (a % 2 ^ 56) = (.ok pa, w))
    (ours : w.tagBad part pa = false) (clean : (w.read8 pa).anyPoison ((w.read8 pa).locate pa) 8 = false) :
    s.depsHold part ((a, n) :: rest) =
      if n ≤ ofBytes ((w.read8 pa).readBytes ((w.read8 pa).locate pa) 8) then (w.read8 pa).depsHold part rest else (some false, w.read8 pa) := by
  conv_lhs => rw [State.depsHold]
  rw [innRead8_reads hx ours clean]

theorem depsHold_fault {s w : State} {part a n : Nat} {f : FaultInfo} {rest : List (Nat × Nat)} (hx : s.xlate 8 part .innRead (a % 2 ^ 56) = (.bad f, w)) :
    s.depsHold part ((a, n) :: rest) = (none, w.postFault 8 part (faultRecord f 0xFFFF 0 0 0 part 0 0)) := by
  have at_ : s.innAt part a .innRead = (none, w.postFault 8 part (faultRecord f 0xFFFF 0 0 0 part 0 0)) := by
    unfold State.innAt
    rw [hx]
  unfold State.depsHold State.innRead
  rw [at_]

/-- An item whose dependences hold, and that is not rejected, becomes ready (R52, R417). -/
theorem readyLoop_readies {s w : State} {part n : Nat} {q : Queue} {x : Item} (f : Nat) (hq : s.queue? part n = some q) (waiting : q.place < q.tail)
    (hx : q.item? q.place = some x) (unready : x.ready = false) (overlaps : x.ovl = true)
    (deps : (s.setQueue part n (q.putItem x)).depsHold part x.deps = (some true, w)) (kept : w.rejects part x = false) :
    State.readyLoop (f + 1) part n s = w.setQueue part n { (q.putItem x).putItem { x with ready := true } with readyAt := some w.meshNow } := by
  have below : ¬q.tail ≤ q.place := Nat.not_le.mpr waiting
  unfold State.readyLoop
  simp only [hq, if_neg below, hx, unready, overlaps, Bool.not_true, Bool.false_and, Bool.false_eq_true, if_false, deps, kept, Option.isNone_some,
    beq_iff_eq, Option.some.injEq, Bool.true_eq_false]

theorem rejects_iff (s : State) (part : Nat) (x : Item) : s.rejects part x = true ↔
    x.total = 0 ∨ x.reservedSet = true ∨ s.image? part x.image = none ∨ ∀ im, s.image? part x.image = some im → permitted im x.vmask = [] := by
  unfold State.rejects
  rw [Bool.or_eq_true, Bool.or_eq_true, decide_eq_true_eq, or_assoc]
  cases s.image? part x.image with
  | none => simp
  | some im => simp

end Sys2Proof.Machine

namespace Sys2Proof
open Machine

/-- Settles O42: a retirement is followed step by step, and the upkeep of the queue after it keeps the item that it counted. -/
theorem workItemsProgress : Obligations.WorkItemsProgress := by
  refine ⟨fun s part queue => rfl, fun s w part a n pa rest hx ours => depsHold_cons hx ours, fun s w part a n f rest hx => depsHold_fault hx,
    fun s w f part n q x hq waiting hx unready overlaps deps kept => readyLoop_readies f hq waiting hx unready overlaps deps kept, rejects_iff,
    fun s tk t p q x ht placed groups saved hp inside cores hf no_window hq hx ready accepted more => ?_⟩
  rw [workgroupRetire_run ht placed groups saved hp inside cores hf hq hx]
  obtain ⟨coh, gone, tokens, zeros, order, has⟩ := countRetired_leaves (tk := tk) (x := x) hq
  generalize ((s.freeTeam tk t).unbindTeam tk t x).countRetired t q x = w at *
  have open_ : (x.retire order).over_ = false := by
    show (x.rejected || decide (x.total ≤ x.retired + 1)) = false
    rw [accepted, Bool.false_or, decide_eq_false_iff_not]
    omega
  have paid : (x.retire order).unpaid = false := beq_eq_false_iff_ne.mpr (by omega)
  have tended : Tended t.part t.queue (x.retire order) w (if q.owed?.isSome then w.readyQueue t.part t.queue else w.refreshQueue t.part t.queue) :=
    .ite (readyQueue_tended open_ ready w) (refreshQueue_tended open_ paid ready w)
  obtain ⟨upkeep, local_, q', hq', holds⟩ := tended.keeps has
  generalize (if q.owed?.isSome then w.readyQueue t.part t.queue else w.refreshQueue t.part t.queue) = v at *
  have pressed := (pressAll_pressing v).trans (trackFree_pressing _ (tk / 16))
  generalize v.pressAll.trackFree (tk / 16) = u at *
  have same : u.cores = w.cores := (congrArg State.cores pressed.rest :).trans (local_.keeps (by rw [coh, no_window])).2
  have idx : x.idx = t.item := Queue.item_idx hx
  refine ⟨u, x.retire order, rfl, pressed.absent tk ?_, fun e he => tokens e ?_, fun n hn => (readByte_of_cores same ..).trans (zeros n hn), ?_, rfl⟩
  · exact (congrArg (kget · tk) upkeep.teams :).trans gone
  · unfold State.core at he ⊢
    rwa [same] at he
  · have found : u.queue? t.part t.queue = some q' := (congrArg (fun y : State => y.queue? t.part t.queue) pressed.rest :).trans hq'
    rw [found, Option.bind_some, ← idx]
    exact holds.item

end Sys2Proof
end

section
/-! SUPPORT. Variant switches and the requests for them (R63 to R65, R414). -/

namespace Sys2Proof.Machine

/-! ### The switch (R63) -/

/-- The blocks of an ended group return to its team; nothing else of a team changes (R25, R222). -/
theorem endGroup_team (s : State) (gk k : Nat) :
    ((s.endGroup gk).team? k).map (fun t => { t with poolFree := 0 }) = (s.team? k).map (fun t => { t with poolFree := 0 }) := by
  unfold State.endGroup
  split
  · rfl
  · next g hg =>
    have teams : ∀ u : State, ((((u.delGroup gk).unask gk).tokenBack gk).haltDone g.part).team? k = u.team? k := fun u =>
      congrArg (kget · k) ((haltDone_undisturbed ..).teams.trans ((tokenBack_undisturbed ..).teams.trans (unask_undisturbed ..).teams))
    refine (congrArg (Option.map _) (teams _)).trans ?_
    show ((s.modTeam (g.tk gk) _).team? k).map _ = _
    rw [State.team_modTeam]
    split
    · next e =>
      rw [e, Option.map_map]
      rfl
    · rfl

theorem endGroups_team (l : List (Nat × Group)) (s : State) (k : Nat) :
    ((l.foldl (fun s e => s.endGroup e.1) s).team? k).map (fun t => { t with poolFree := 0 }) = (s.team? k).map (fun t => { t with poolFree := 0 }) := by
  induction l generalizing s with
  | nil => rfl
  | cons e r ih => exact (ih _).trans (endGroup_team ..)

theorem rebindTeam_frame (s : State) (tk : Nat) : BindFrame s (s.rebindTeam tk) := by
  unfold State.rebindTeam
  split
  · exact .refl s
  · next t ht =>
    split
    · refine ⟨rfl, fun k => ?_⟩
      rw [State.team_setTeam]
      split
      · next e =>
        rw [e, ht]
        rfl
      · rfl
    · next x _ =>
      refine .foldl (fun w e => ?_) _ s
      dsimp only
      split
      · exact .refl w
      · have cond := BindFrame.modTeam_if w e.1
          (fun u => decide (linear x e.2 ^^^ linear x t = 0) || bndBound (sget u.bind (linear x e.2 ^^^ linear x t)))
          (fun u => sset u.bind (linear x e.2 ^^^ linear x t) (boundEntry tk t))
        exact cond

/-- The team of a switch: its allocations are taken anew, and its A-space base stays (R57, R63). -/
theorem doSwitch_team {s : State} {tk k target : Nat} {t : Team} {im : Image} {v : Variant} (gs : List (Nat × Group)) (ht : s.team? tk = some t)
    (him : s.image? t.part t.image = some im) (hv : im.vars[target]? = some v) :
    ∃ (hs : List Hold) (t₁ t' : Team), (s.doSwitch tk t gs k target).team? tk = some t' ∧ { t₁ with poolFree := 0 } = { t with poolFree := 0 } ∧
      { t' with bind := [], freeSince := [] } = { t₁.allot hs target v (some t₁.abase) with bind := [], freeSince := [] } := by
  have ended := endGroups_team gs s tk
  rw [ht, Option.map_some, Option.map_eq_some_iff] at ended
  obtain ⟨t₁, ht₁, same₁⟩ := ended
  unfold State.doSwitch
  simp -zeta only [him, hv]
  extract_lets keep off a hs
  have here : a.team? tk = some t₁ := ht₁
  simp -zeta only [here]
  extract_lets t₂ b c d e f
  have switched : (b.setTeam tk t₂).team? tk = some t₂ := (State.team_setTeam ..).trans (if_pos rfl)
  have bound := (rebindTeam_frame (b.setTeam tk t₂) tk).team tk
  rw [switched, Option.map_some, Option.map_eq_some_iff] at bound
  obtain ⟨t₃, ht₃, same₃⟩ := bound
  have teams : f.teams = c.teams := ((congrArg State.teams (makeGroups_frame d tk t₂ v off).1 :)).trans (writeMailbox_undisturbed c tk t₂).teams
  have later := (trackFree_frame f (tk / 16)).2 tk
  have standing : f.team? tk = some t₃ := (congrArg (kget · tk) teams).trans ht₃
  rw [standing, Option.map_some, Option.map_eq_some_iff] at later
  obtain ⟨t₄, ht₄, same₄⟩ := later
  exact ⟨hs, t₁, t₄, ht₄, same₁, (congrArg (fun y : Team => { y with bind := [] }) same₄ :).trans (congrArg (fun y : Team => { y with freeSince := [] }) same₃ :)⟩

section
variable {s : State} {tk target : Nat} {t : Team} (ht : s.team? tk = some t) (request : t.request = some target) (whole : t.partial_ = false)
  (arrived : switchArrived (s.teamGroups tk) = true)
include ht request whole arrived

/-- Groups that have all come to one switch, with nothing in flight, go on in a variant that fits (R63). -/
theorem variantSwitch_switches {im : Image} {v : Variant} {k : Nat}
    (here : ∀ e ∈ s.teamGroups tk, e.2.arrived = some k ∧ e.2.lc = 0 ∧ e.2.sc = 0 ∧ e.2.cc = 0 ∧ e.2.tc = 0)
    (clear : (s.core (tk / 16)).rsb.any (fun r => r.tk == tk && r.cmd.isSome) = false) (him : s.image? t.part t.image = some im)
    (hv : im.vars[target]? = some v) (fits : s.switchFits tk t v = true) :
    exec (.variantSwitch tk) s = .next (s.doSwitch tk t (s.teamGroups tk) k target) := by
  have some_group : s.teamGroups tk ≠ [] := fun none_there => by
    rw [none_there] at arrived
    exact absurd arrived Bool.false_ne_true
  have one : ((s.teamGroups tk).filterMap (fun e => e.2.arrived)).dedup = [k] := by
    rw [List.filterMap_congr (g := some ∘ fun _ => k) (fun e he => (here e he).1), List.filterMap_eq_map, List.map_const']
    exact List.replicate_dedup (by simpa using some_group)
  have idle : (s.teamGroups tk).any (fun e => e.2.lc != 0 || e.2.sc != 0 || e.2.cc != 0 || e.2.tc != 0) = false := by
    rw [List.any_eq_false]
    intro e he
    obtain ⟨-, lc, sc, cc, tc⟩ := here e he
    simp [lc, sc, cc, tc]
  have variant : s.variant? t.part t.image target = some v := by
    unfold State.variant?
    rw [him]
    exact hv
  show execVariantSwitch tk s = _
  unfold execVariantSwitch
  simp only [ht, request, whole, arrived, one, idle, clear, variant, fits, Option.map_some, Option.getD_some, Bool.not_true, Bool.or_self,
    Bool.false_eq_true, if_false]

/-- Groups that name different switches park with EVENT 14 (R414). -/
theorem variantSwitch_parks (apart : ((s.teamGroups tk).filterMap (fun e => e.2.arrived)).dedup.length ≠ 1) :
    exec (.variantSwitch tk) s = .next ((s.teamGroups tk).foldl (fun s e => s.freeze e.1 14 0 0x16 e.2.live (e.2.pcMin e.2.live))
      (s.setTeam tk { t with request := none, reserved := [] })) := by
  show execVariantSwitch tk s = _
  unfold execVariantSwitch
  simp only [ht, request, whole, arrived, Bool.not_true, Bool.or_self, Bool.false_eq_true, if_false]
  split
  · next one =>
    rw [one] at apart
    exact absurd rfl apart
  · rfl

end

/-! ### Upshifts (R65) -/

theorem requestSwitch_team {s : State} {tk : Nat} {t : Team} (ht : s.team? tk = some t) (target : Nat) (up : Bool) :
    ∃ later res, (s.requestSwitch tk target up).team? tk = some { t with request := some target, later := later, reserved := res, freeSince := [] } := by
  unfold State.requestSwitch
  rw [ht]
  exact ⟨_, _, (State.team_setTeam s tk tk _).trans (if_pos rfl)⟩

theorem upshiftQuantumExpiry_requests {s : State} {tk v since : Nat} {t : Team} (ht : (s.trackFree (tk / 16)).team? tk = some t)
    (due : t.freeSince.find? (fun e => e.2 + (((s.trackFree (tk / 16)).part? t.part).map (·.quantum)).getD 0 ≤ (s.trackFree (tk / 16)).clock.now) =
      some (v, since)) :
    exec (.upshiftQuantumExpiry tk) s = .next (((s.trackFree (tk / 16)).requestSwitch tk v true).trackFree (tk / 16)) := by
  have first : (s.trackFree (tk / 16)).upshiftDue t = some v := by
    unfold State.upshiftDue
    rw [due]
    rfl
  show execUpshiftQuantumExpiry tk s = _
  unfold execUpshiftQuantumExpiry
  simp only [ht, first]

/-- The times that are kept are those of the variants to which the team may be upshifted now (R65). -/
theorem trackFree_team {s : State} {tk : Nat} {t : Team} (ht : s.team? tk = some t) (placed : tk < 4096) : (s.trackFree (tk / 16)).team? tk =
    some { t with freeSince := (s.upshiftable tk t).map (fun v => (v, (kget t.freeSince v).getD s.clock.now)) } := by
  unfold State.team? at ht ⊢
  unfold State.trackFree
  dsimp only
  rw [kget_map _ (fun e => by split <;> rfl), ht, Option.map_some]
  simp [placed]

theorem mem_upshiftable {s : State} {tk v : Nat} {t : Team} (h : v ∈ s.upshiftable tk t) :
    v ∈ s.better tk t ∧ s.pressed (tk / 16) (s.teamRank t) = false ∧ t.request = none := by
  unfold State.upshiftable at h
  split at h
  · next may =>
    simp only [Bool.and_eq_true, Bool.not_eq_true', Option.isNone_iff_eq_none] at may
    obtain ⟨⟨⟨⟨-, request⟩, -⟩, -⟩, quiet⟩ := may
    exact ⟨h, quiet, request⟩
  · exact absurd h List.not_mem_nil

end Sys2Proof.Machine
end

section
/-! SUPPORT. Eviction, spill and restore (R66 to R69). -/

namespace Sys2Proof.Machine

/-! ### Eviction (R66, R67) -/

theorem switchGraceExpiry_evicts {s : State} {core : Nat} {e : Wanting} {before after : List Wanting} {l : List Nat}
    (short : (s.pressCore core).shortItems core = before ++ e :: after) (skipped : ∀ e ∈ before, (s.pressCore core).evictedFor core e = none)
    (chosen : (s.pressCore core).evictedFor core e = some l) :
    exec (.switchGraceExpiry core) s = .next ((l.foldl (fun s gk => s.evict gk) (s.pressCore core)).trackFree core) := by
  have first : ((s.pressCore core).shortItems core).findSome? (fun e => (s.pressCore core).evictedFor core e) = some l := by
    rw [short, List.findSome?_append, List.findSome?_eq_none_iff.mpr skipped, Option.none_or, List.findSome?_cons, chosen]
  show execSwitchGraceExpiry core s = _
  unfold execSwitchGraceExpiry
  simp only [first]

/-- What an eviction to the shadow storage does once the group has stopped (R67). -/
def State.saveEvicted (s : State) (gk : Nat) (g : Group) : State :=
  let s := s.setInn { s.inn with saved := s.inn.saved ++ [{ gk := gk, ord := s.clock.seqno, shadow := true, spill := none, grp := g }] }
  ((s.setClock { s.clock with seqno := s.clock.seqno + 1 }).takeOut gk).modTeam (g.tk gk) (fun t => { t with partial_ := true, freeSince := [] })

/-- An eviction for which the shadow storage has room. -/
theorem evict_saves {s w : State} {gk : Nat} {g₀ g : Group} (hg₀ : s.group? gk = some g₀) (undecided : g₀.txend = none) (hw : s.regionStop gk = w)
    (hg : w.group? gk = some g) (saveable : g.saveable = true) (room : w.shadowUsed (coreOf gk) + 8192 * popCount g.held ≤ Config.shadowBytes) :
    s.evict gk = w.saveEvicted gk g := by
  unfold State.evict
  simp only [hg₀, undecided, Option.isNone_none, if_true, hw, hg, saveable, room, decide_true, Bool.not_true, Bool.false_and, Bool.false_eq_true, if_false]
  rfl

theorem takeOut_core (s : State) (gk c : Nat) : ∃ tokens, (s.takeOut gk).core c = { s.core c with token := tokens } := by
  unfold State.takeOut
  rw [State.core_modCore, State.core_delGroup]
  split
  · next e => exact ⟨_, by rw [e]⟩
  · exact ⟨_, rfl⟩

theorem takeOut_readByte (s : State) (gk : Nat) (p : Place) : (s.takeOut gk).readByte p = s.readByte p := by
  cases p with
  | glob pa => rfl
  | aspc c o | wspc c o =>
    obtain ⟨tokens, same⟩ := takeOut_core s gk c
    simp only [State.readByte, State.isPoison, State.rawByte, same]
    rfl

theorem modTeam_readByte (s : State) (tk : Nat) (f : Team → Team) (p : Place) : (s.modTeam tk f).readByte p = s.readByte p := by
  unfold State.modTeam
  split
  · cases p <;> rfl
  · rfl

theorem saveEvicted_leaves {s : State} {gk : Nat} {g : Group} {t : Team} (ht : s.team? (g.tk gk) = some t) :
    (s.saveEvicted gk g).group? gk = none ∧ (∃ x ∈ (s.saveEvicted gk g).inn.saved, x.gk = gk ∧ x.grp = g ∧ x.shadow = true) ∧
    (s.saveEvicted gk g).team? (g.tk gk) = some { t with partial_ := true, freeSince := [] } ∧
    ∀ p, (s.saveEvicted gk g).readByte p = s.readByte p := by
  unfold State.saveEvicted
  refine ⟨?_, ?_, ?_, fun p => ?_⟩
  · rw [State.group_modTeam]
    exact (State.group_delGroup ..).trans (if_pos rfl)
  · rw [State.modTeam_inn]
    exact ⟨_, List.mem_append_right _ (List.mem_singleton_self _), rfl, rfl, rfl⟩
  · rw [State.team_modTeam, if_pos rfl]
    exact congrArg (Option.map _) ht
  · rw [modTeam_readByte, takeOut_readByte]
    cases p <;> rfl

/-! ### Spill (R68) -/

theorem spillTake_undisturbed {s w : State} {part n off : Nat} (h : s.spillTake part n = some (off, w)) : Undisturbed s w := by
  obtain ⟨⟨o, u⟩, taken, filled⟩ := Option.map_eq_some_iff.mp h
  obtain ⟨rfl, rfl⟩ := Prod.mk.inj filled
  have span : Undisturbed s u := by
    unfold State.spillSpan at taken
    split at taken
    · exact absurd taken nofun
    · next p hp =>
      obtain ⟨o', -, e⟩ := Option.map_eq_some_iff.mp taken
      obtain ⟨rfl, rfl⟩ := Prod.mk.inj e
      have same : s.modPart part (fun p => { p with spillUse := kset p.spillUse o' n }) = s.setPart part { p with spillUse := kset p.spillUse o' n } := by
        unfold State.modPart
        rw [hp]
      rw [← same]
      exact modPart_undisturbed s part _ (fun _ => rfl)
  refine span.trans (Undisturbed.trans ?_ (.foldl (fun t i => hwPut_getD_undisturbed t part _ _) _ _))
  exact ⟨fun _ => rfl, rfl, rfl, rfl, fun _ => rfl⟩

/-- Allocations that no command targets all go to the spill area (R68). -/
theorem allocationSpill_spills {s w : State} {tk off : Nat} {t : Team} (ht : s.team? tk = some t) (groups : s.teamGroups tk = [])
    (evicted : s.teamSaved tk ≠ []) (wanted : s.spillWanted (tk / 16) tk = true) (unspilled : kget s.inn.spilled tk = none)
    (taken : s.spillTake t.part t.allocBytes = some (off, w)) (idle : (w.core (tk / 16)).rsb = [])
    (loaded : (w.core (tk / 16)).mq.any (fun o => o.tk == tk && o.kind == .ldmeta) = false) (inside : t.out = 0) :
    ∃ u x, exec (.allocationSpill tk) s = .next u ∧ u.team? tk = some { t with out := 7 } ∧ kget u.inn.spilled tk = some x ∧ x.off = off := by
  have unspilled' : kget w.inn.spilled tk = none := by rw [(spillTake_undisturbed taken).inn, unspilled]
  have due : ¬(!(s.teamGroups tk).isEmpty || (s.teamSaved tk).isEmpty || !s.spillWanted (tk / 16) tk) = true := by simp [groups, evicted, wanted]
  have clear : ∀ sp base size, rsbClear (w.core (tk / 16)) sp base size = true := fun sp base size => by
    unfold rsbClear
    rw [idle]
    rfl
  have places : (t.out.getLsbD 0 = false ∧ t.out.getLsbD 1 = false) ∧ t.out.getLsbD 2 = false := by
    rw [inside]
    decide
  obtain ⟨⟨out_a, out_w⟩, out_m⟩ := places
  have all_out : t.out ||| BitVec.ofNat 3 (2 ^ 0) ||| BitVec.ofNat 3 (2 ^ 1) ||| BitVec.ofNat 3 (2 ^ 2) = 7 := by
    rw [inside]
    decide
  show ∃ u x, execAllocationSpill tk s = _ ∧ _
  unfold execAllocationSpill
  simp only [ht, if_neg due, unspilled, taken, unspilled', out_a, out_w, out_m, clear, loaded, Bool.not_false, Bool.true_and, if_true, all_out,
    Option.getD_none]
  exact ⟨_, _, rfl, (State.team_setTeam ..).trans (if_pos rfl), (kget_kset ..).trans (if_pos rfl), rfl⟩

/-! ### Restore (R69, R349) -/

/-- What the end of a wait in MWAIT may change of a group, taken from `r` (R216, R219). -/
def Group.unwoken (g r : Group) : Group := { g with watch := r.watch, pcv := r.pcv, mwait := r.mwait, mwaitEnd := r.mwaitEnd, stamp := r.stamp }

/-- And what the resumption changes besides: the counts (R415). -/
def Group.unresumed (g r : Group) : Group := { g.unwoken r with quiet := r.quiet, since := r.since, pendAge := r.pendAge }

/-- The line of a watch is translated anew: of the group nothing but its watch changes (R216). -/
theorem rewatch_leaves {s : State} {gk : Nat} {g : Group} (hg : s.group? gk = some g) :
    (s.rewatch gk).inn = s.inn ∧ ∃ g', (s.rewatch gk).group? gk = some g' ∧ { g' with watch := g.watch } = g := by
  unfold State.rewatch
  rw [hg]
  dsimp only
  split
  · exact ⟨rfl, g, hg, rfl⟩
  · have moved := coreXlate_cacheEffect s (coreOf gk) g.part .load (64 * g.watch.line.toNat)
    generalize s.coreXlate (coreOf gk) g.part .load (64 * g.watch.line.toNat) = x at moved
    obtain ⟨x, v⟩ := x
    dsimp only at moved
    obtain ⟨g₁, hg₁, same₁⟩ := moved.group hg
    have but : { g₁ with watch := g.watch } = g := congrArg (fun x : Group => { x with watch := g.watch }) same₁
    cases x with
    | bad f => exact ⟨moved.inn, g₁, hg₁, but⟩
    | ok pa =>
      dsimp only
      split
      · exact ⟨moved.inn, g₁, hg₁, but⟩
      · have here : (v.modGroup gk (fun g => { g with watch := { g.watch with home := .glob pa } })).group? gk =
            some { g₁ with watch := { g₁.watch with home := .glob pa } } := by
          rw [State.group_modGroup, if_pos rfl, hg₁]
          rfl
        have watched := watchSector_cacheEffect (v.modGroup gk (fun g => { g with watch := { g.watch with home := .glob pa } })) pa
        obtain ⟨g₂, hg₂, same₂⟩ := watched.group here
        exact ⟨watched.inn.trans ((State.modGroup_inn ..).trans moved.inn), g₂, hg₂, (congrArg (fun x : Group => { x with watch := g.watch }) same₂ :).trans but⟩

/-- Lanes in MWAIT compare their line again; where none waits, nothing changes (R349). -/
theorem rewait_leaves {s : State} {gk : Nat} {g : Group} (hg : s.group? gk = some g) :
    (s.rewait gk).inn = s.inn ∧ (∃ g', (s.rewait gk).group? gk = some g' ∧ g'.unwoken g = g) ∧ (g.mwait = 0 → s.rewait gk = s) := by
  unfold State.rewait
  rw [hg]
  dsimp only
  split
  · exact ⟨rfl, ⟨g, hg, rfl⟩, fun _ => rfl⟩
  · next waits =>
    obtain ⟨inn, g', hg', same⟩ := rewatch_leaves hg
    have kept : g'.unwoken g = g := (congrArg (Group.unwoken · g) same :)
    refine ⟨(State.modGroup_inn ..).trans inn, ?_, fun none_waits => absurd none_waits waits⟩
    rw [State.group_modGroup, if_pos rfl, hg', Option.map_some]
    split
    · exact ⟨g'.wake, rfl, kept⟩
    · exact ⟨g', rfl, kept⟩

/-- A group that has been put back into its slot: as it was saved where it does not run, else with its counts anew (R69, R415). -/
theorem putBack_leaves (s : State) (x : Saved) : (s.putBack x).inn = s.inn ∧ ∃ g, (s.putBack x).group? x.gk = some g ∧
    (x.grp.st ≠ .running → g = x.grp) ∧ (x.grp.st = .running → x.grp.mwait = 0 → g = { x.grp with quiet := true, since := 0, pendAge := 0 }) ∧
    g.unresumed x.grp = x.grp ∧ (x.grp.mwait = 0 → (s.putBack x).mem = s.mem) := by
  unfold State.putBack
  extract_lets tiles u
  have placed : u.group? x.gk = some x.grp := (State.group_setGroup ..).trans (if_pos rfl)
  split
  · next runs =>
    have started : ((u.modGroup x.gk (fun g => { g with quiet := true, since := 0, pendAge := 0 })).resumeOps x.gk).group? x.gk =
        some { x.grp with quiet := true, since := 0, pendAge := 0 } := by
      unfold State.resumeOps
      rw [State.group_modCore, State.group_modGroup, if_pos rfl, placed]
      rfl
    obtain ⟨inn, ⟨g, hg, kept⟩, still⟩ := rewait_leaves started
    have running : x.grp.st = .running := eq_of_beq runs
    refine ⟨inn.trans (State.modGroup_inn ..), g, hg, fun stopped => absurd running stopped, fun _ awake => ?_,
      (congrArg (fun y : Group => { y with quiet := x.grp.quiet, since := x.grp.since, pendAge := x.grp.pendAge }) kept :), fun awake => ?_⟩
    · rw [still awake, started] at hg
      exact (Option.some.inj hg).symm
    · rw [still awake]
      exact State.modGroup_mem ..
  · next stopped =>
    exact ⟨rfl, x.grp, placed, fun _ => rfl, fun running => absurd (beq_iff_eq.mpr running) stopped, rfl, fun _ => rfl⟩

/-- The steps of a restore whose group and allocations go back at once (R69, R350). -/
theorem groupRestore_run {s : State} {core : Nat} {x : Saved} {t : Team} (oldest : s.oldestSaved core = some x) (ht : s.team? (x.grp.tk x.gk) = some t)
    (feat : s.featOk x.grp = true) (empty : s.group? x.gk = none) (runs : s.coreRuns core = true) (first : s.outranked core (s.teamRank t) = false)
    (free : s.spillFree (x.grp.tk x.gk) t = true)
    (fit : slotsFit (s.lodges core) (s.holds core []) { grp := 1, blk := popCount x.grp.held, a := 0, w := 0, tiles := 0, metas := 0 } = true)
    (inside : kget s.inn.spilled (x.grp.tk x.gk) = none) (shadow : x.spill = none) :
    let u := (s.setInn { s.inn with saved := s.inn.saved.filter (fun y => y != x) }).putBack x
    exec (.groupRestore core) s = .next ((((u.modTeam (x.grp.tk x.gk) (fun t => { t with partial_ := !(u.teamSaved (x.grp.tk x.gk)).isEmpty })).wholeAgain
      (x.grp.tk x.gk)).maybeEnd x.gk).trackFree core) := by
  have local_ : s.unspill (x.grp.tk x.gk) t = s := by
    unfold State.unspill
    rw [inside]
  intro u
  show execGroupRestore core s = _
  unfold execGroupRestore
  simp only [oldest, ht, feat, empty, runs, first, free, fit, local_, shadow, Option.isSome_none, Bool.not_true, Bool.or_self, Bool.false_eq_true, if_false]
  rfl

theorem wholeAgain_inn (s : State) (tk : Nat) : (s.wholeAgain tk).inn = s.inn := by
  unfold State.wholeAgain
  split
  · exact State.modTeam_inn ..
  · rfl

theorem wholeAgain_mem (s : State) (tk : Nat) : (s.wholeAgain tk).mem = s.mem := by
  unfold State.wholeAgain
  split
  · exact State.modTeam_mem ..
  · rfl

end Sys2Proof.Machine

namespace Sys2Proof
open Machine

/-- Settles O43: each agent's steps are followed where its condition holds, and what the steps change is read off them. -/
theorem switchesAndEvictions : Obligations.SwitchesAndEvictions := by
  refine ⟨fun s tk target t im v k ht request whole arrived here clear him hv fits => ?_,
    fun s tk target t ht request whole arrived apart => variantSwitch_parks ht request whole arrived apart, fun s tk v since t => ?_,
    fun s tk v since t t' ht placed ht' kept => ?_, fun s core part queue p x im rank before after l => ?_,
    fun s w gk g₀ g t hg₀ undecided hw hg saveable ht room => ?_,
    fun s w tk off t ht groups evicted wanted unspilled taken idle loaded inside =>
      allocationSpill_spills ht groups evicted wanted unspilled taken idle loaded inside,
    fun s core x t oldest ht feat empty runs first free fit inside shadow alive settled => ?_⟩
  · rw [variantSwitch_switches ht request whole arrived here clear him hv fits]
    obtain ⟨hs, t₁, t', ht', same₁, same⟩ := doSwitch_team (k := k) (s.teamGroups tk) ht him hv
    have base : t₁.abase = t.abase := (congrArg Team.abase same₁ :)
    have wiid : t₁.wiid = t.wiid := (congrArg Team.wiid same₁ :)
    exact ⟨_, t', rfl, ht', (congrArg Team.var same :), (congrArg Team.request same :), (congrArg Team.reserved same :), (congrArg Team.abase same :).trans base,
      (congrArg Team.asize same :), (congrArg Team.pool same :), (congrArg Team.wiid same :).trans wiid, (congrArg Team.rv same :)⟩
  · intro w ht due
    obtain ⟨later, res, posted⟩ := requestSwitch_team ht v true
    have tracked := (trackFree_frame (w.requestSwitch tk v true) (tk / 16)).2 tk
    rw [posted, Option.map_some, Option.map_eq_some_iff] at tracked
    obtain ⟨t', ht', same⟩ := tracked
    exact ⟨_, t', upshiftQuantumExpiry_requests ht due, ht', (congrArg Team.request same :), (congrArg Team.var same :),
      (congrArg State.mem (requestSwitch_pressing w tk v true).rest :)⟩
  · rw [trackFree_team ht placed] at ht'
    obtain rfl := Option.some.inj ht'
    obtain ⟨v', may, e⟩ := List.mem_map.mp kept
    obtain ⟨rfl, rfl⟩ := Prod.mk.inj e
    obtain ⟨better, quiet, request⟩ := mem_upshiftable may
    refine ⟨better, quiet, request, ?_⟩
    cases kget t.freeSince v' with
    | none => exact .inl rfl
    | some since => exact .inr rfl
  · intro w short skipped recorded past chosen
    refine switchGraceExpiry_evicts short skipped ?_
    unfold State.evictedFor
    rw [recorded, Option.map_some, Option.getD_some, if_pos past]
    exact chosen
  · intro u
    have steps : u = w.saveEvicted gk g := evict_saves hg₀ undecided hw hg saveable room
    rw [steps]
    exact saveEvicted_leaves ht
  · have steps := groupRestore_run oldest ht feat empty runs first free fit inside shadow
    have back := putBack_leaves (s.setInn { s.inn with saved := s.inn.saved.filter (fun y => y != x) }) x
    generalize (s.setInn { s.inn with saved := s.inn.saved.filter (fun y => y != x) }).putBack x = b at *
    obtain ⟨inn, g, hg, stopped, running, kept, mem⟩ := back
    let c := (b.modTeam (x.grp.tk x.gk) (fun t => { t with partial_ := !(b.teamSaved (x.grp.tk x.gk)).isEmpty })).wholeAgain (x.grp.tk x.gk)
    have hc : c.group? x.gk = some g := (wholeAgain_group ..).trans ((State.group_modTeam ..).trans hg)
    have exited : g.exited = x.grp.exited := (congrArg Group.exited kept :)
    have goes_on : c.maybeEnd x.gk = c := maybeEnd_goes_on hc (Group.ended_of_alive (exited ▸ alive)) ((congrArg Group.stopEv kept :).trans settled)
    have saved : c.inn = b.inn := (wholeAgain_inn ..).trans (State.modTeam_inn ..)
    have bytes : c.mem = b.mem := (wholeAgain_mem ..).trans (State.modTeam_mem ..)
    refine ⟨c.trackFree core, g, steps.trans (by rw [← goes_on]), ?_, hc, stopped, running, (congrArg Group.v kept :), (congrArg Group.s kept :),
      (congrArg Group.p kept :), exited, (congrArg Group.epcv kept :), fun awake => bytes.trans (mem awake)⟩
    show x ∉ c.inn.saved
    rw [saved, inn]
    exact fun there => absurd rfl (bne_iff_ne.mp (List.mem_filter.mp there).2)

end Sys2Proof
end

section
/-! SUPPORT. Physical memory stays in canonical form (R71, log 1). Only `putByte`, what is built from it, and the clearing of a
new frame change the list of bytes; every other function keeps the form because its branches do. One lemma for each function of the model that
answers a state says so, in the order in which the functions call each other: `State.MemForm.f` for `State.f`, so that
`h.f.g : ((s.f).g).MemForm`, and `f_memForm` for the others. A lemma follows the branches of its function and cites the lemmas of what
they call. -/

namespace Sys2Proof.Machine

/-- The list of bytes of physical memory is in canonical form (log 1). -/
def State.MemForm (s : State) : Prop := Memory.wf s.mem.bytes = true

/-- So it is in the state answered, if one is. -/
def OptForm : Option State → Prop
  | some t => t.MemForm
  | none => True

/-- So it is in the state answered with a result, if one is. -/
def PairForm {α : Type} : Option (α × State) → Prop
  | some x => x.2.MemForm
  | none => True

/-- So it is in the next state, if the outcome is one. -/
def OutForm : Host.Outcome State Fault Refusal → Prop
  | .next t => t.MemForm
  | _ => True

/-- The state that a command leaves which gives up its count in a table entry. -/
def Uncounted.left : Uncounted → State
  | .done s | .page _ s | .viol s | .wait s => s

/-- The state after the fetch of a hart. -/
def HartFetch.left : HartFetch → State
  | .word _ s | .trap s => s

/-- The state in which the instruction of a group runs, or that its turn leaves. -/
def Turned.left : Turned → State
  | .run _ s | .done s => s

/-- The state in which the instruction of a turn runs, or that the turn leaves. -/
def TurnRes.left : TurnRes → State
  | .run _ s | .done s => s

/-- The list of bytes is in canonical form in a state that stands beside a result. -/
def SndForm {α : Type} (x : α × State) : Prop := x.2.MemForm

namespace State.MemForm

variable {s t : State} {α β γ : Type}

theorem either {c : Prop} [Decidable c] (hs : s.MemForm) (ht : t.MemForm) : (if c then s else t).MemForm := by
  split
  · exact hs
  · exact ht

theorem foldl {f : State → α → State} {l : List α} (h : s.MemForm) (hf : ∀ t a, t.MemForm → (f t a).MemForm) : (l.foldl f s).MemForm := by
  induction l generalizing s with
  | nil => exact h
  | cons a r ih => exact ih (hf s a h)

/-! What a match on a result names is the state of that result. -/

theorem of (h : s.MemForm) (e : s = t) : t.MemForm := e ▸ h
theorem snd {x y : α × State} (h : x.2.MemForm) (e : x = y) : y.2.MemForm := e ▸ h
theorem ssnd {x y : α × β × State} (h : x.2.2.MemForm) (e : x = y) : y.2.2.MemForm := e ▸ h
theorem sssnd {x y : α × β × γ × State} (h : x.2.2.2.MemForm) (e : x = y) : y.2.2.2.MemForm := e ▸ h
theorem ofUndoRes {x y : UndoRes} (h : x.left.MemForm) (e : x = y) : y.left.MemForm := e ▸ h
theorem ofPostRes {x y : PostRes} (h : x.left.MemForm) (e : x = y) : y.left.MemForm := e ▸ h
theorem ofUncounted {x y : Uncounted} (h : x.left.MemForm) (e : x = y) : y.left.MemForm := e ▸ h
theorem ofHartFetch {x y : HartFetch} (h : x.left.MemForm) (e : x = y) : y.left.MemForm := e ▸ h
theorem ofTurned {x y : Turned} (h : x.left.MemForm) (e : x = y) : y.left.MemForm := e ▸ h
theorem ofTurnRes {x y : TurnRes} (h : x.left.MemForm) (e : x = y) : y.left.MemForm := e ▸ h

end State.MemForm

theorem State.MemForm.foldlSnd {α β : Type} {f : α × State → β → α × State} {l : List β} {a : α} {s : State} (h : s.MemForm)
    (hf : ∀ x b, x.2.MemForm → (f x b).2.MemForm) : (l.foldl f (a, s)).2.MemForm := by
  induction l generalizing a s with
  | nil => exact h
  | cons b r ih => exact ih (hf (a, s) b h)

theorem State.MemForm.foldlSsnd {α β γ : Type} {f : α × β × State → γ → α × β × State} {l : List γ} {a : α} {b : β} {s : State} (h : s.MemForm)
    (hf : ∀ x c, x.2.2.MemForm → (f x c).2.2.MemForm) : (l.foldl f (a, b, s)).2.2.MemForm := by
  induction l generalizing a b s with
  | nil => exact h
  | cons c r ih => exact ih (hf (a, b, s) c h)

theorem SndForm.pair {α : Type} {a : α} {s : State} (h : s.MemForm) : SndForm (a, s) := h

theorem SndForm.either {α : Type} {c : Prop} [Decidable c] {x y : α × State} (hx : SndForm x) (hy : SndForm y) : SndForm (if c then x else y) := by
  split
  · exact hx
  · exact hy

theorem OptForm.foldlOpt {β : Type} {f : Option State → β → Option State} {l : List β} {o : Option State} (h : OptForm o)
    (hf : ∀ x b, OptForm x → OptForm (f x b)) : OptForm (l.foldl f o) := by
  induction l generalizing o with
  | nil => exact h
  | cons b r ih => exact ih (hf o b h)

theorem OptForm.either {c : Prop} [Decidable c] {o p : Option State} (ho : OptForm o) (hp : OptForm p) : OptForm (if c then o else p) := by
  split
  · exact ho
  · exact hp

theorem PairForm.either {α : Type} {c : Prop} [Decidable c] {o p : Option (α × State)} (ho : PairForm o) (hp : PairForm p) :
    PairForm (if c then o else p) := by
  split
  · exact ho
  · exact hp

theorem OutForm.either {c : Prop} [Decidable c] {o p : Host.Outcome State Fault Refusal} (ho : OutForm o) (hp : OutForm p) :
    OutForm (if c then o else p) := by
  split
  · exact ho
  · exact hp

theorem OptForm.some {o : Option State} {t : State} (h : OptForm o) (e : o = .some t) : t.MemForm := by
  subst e
  exact h
theorem OptForm.getD {o : Option State} {s : State} (h : OptForm o) (hs : s.MemForm) : (o.getD s).MemForm := by
  cases o with
  | none => exact hs
  | some t => exact h
theorem PairForm.pair {α : Type} {o : Option (α × State)} {x : α × State} (h : PairForm o) (e : o = some x) : x.2.MemForm := by
  subst e
  exact h

theorem OptForm.bind {o : Option State} {f : State → Option State} (h : OptForm o) (hf : ∀ t, t.MemForm → OptForm (f t)) : OptForm (o.bind f) := by
  cases o with
  | none => trivial
  | some t => exact hf t h

theorem OptForm.map {o : Option State} {f : State → State} (h : OptForm o) (hf : ∀ t, t.MemForm → (f t).MemForm) : OptForm (o.map f) := by
  cases o with
  | none => trivial
  | some t => exact hf t h

theorem PairForm.map {α : Type} {o : Option (α × State)} {f : α × State → State} (h : PairForm o) (hf : ∀ x, x.2.MemForm → (f x).MemForm) : OptForm (o.map f) := by
  cases o with
  | none => trivial
  | some x => exact hf x h

theorem State.MemForm.setPorter {s : State} {x : Porter} (h : s.MemForm) : (s.setPorter x).MemForm := h
theorem State.MemForm.setClock {s : State} {c : Clock} (h : s.MemForm) : (s.setClock c).MemForm := h
theorem State.MemForm.draw {s : State} (h : s.MemForm) : s.draw.2.MemForm := h

theorem State.MemForm.record {s : State} {kind sev cls unit : ℕ} {part : Option ℕ} {addr n : ℕ} {detail : BitVec 256}
    (h : s.MemForm) : (s.record kind sev cls unit part addr n detail).MemForm := by
  unfold State.record
  extract_lets -underBinder fold counted p p₁
  exact .either h.setPorter h.setPorter

theorem State.MemForm.drawWide {s : State} (h : s.MemForm) : s.drawWide.2.MemForm := h

theorem State.MemForm.note {s : State} {kind sev cls unit : ℕ} {part : Option ℕ} {addr n : ℕ} (h : s.MemForm) : (s.note kind sev cls unit part addr n).MemForm := by
  unfold State.note
  extract_lets -underBinder x
  exact h.drawWide.record

theorem State.MemForm.markRemoved {s : State} {cls unit : ℕ} (h : s.MemForm) : (s.markRemoved cls unit).MemForm := h.setPorter.note
theorem State.MemForm.reset : State.reset.MemForm := reset_memory_wf

theorem State.MemForm.packageReset {s : State} (_ : s.MemForm) : s.packageReset.MemForm := by
  unfold State.packageReset
  extract_lets -underBinder _ _ _ _ _ r r₁ r₂ _
  have hr : r.MemForm := .reset
  have hr₁ : r₁.MemForm := hr.foldl (fun _ _ hu => hu.markRemoved)
  have hr₂ : r₂.MemForm := hr₁
  exact .either hr₂.setPorter.record hr₂

theorem execPowerFailure_memForm {write : Option Rpc} {s : State} (h : s.MemForm) : OutForm (execPowerFailure write s) := by
  unfold execPowerFailure
  split
  · exact h.packageReset
  · extract_lets -underBinder all x n _
    split
    · exact h.packageReset
    · exact h.draw.setPorter.packageReset

theorem State.MemForm.setInn {s : State} {x : Inn} (h : s.MemForm) : (s.setInn x).MemForm := h
theorem State.MemForm.setGroup {s : State} {gk : ℕ} {g : Group} (h : s.MemForm) : (s.setGroup gk g).MemForm := h

theorem State.MemForm.modGroup {s : State} {gk : ℕ} {f : Group → Group} (h : s.MemForm) : (s.modGroup gk f).MemForm := by
  unfold State.modGroup
  split
  · exact h.setGroup
  · exact h

theorem State.MemForm.modAnyGroup {s : State} {gk tk : ℕ} {f : Group → Group} (h : s.MemForm) : (s.modAnyGroup gk tk f).MemForm := by
  unfold State.modAnyGroup
  refine .either h.modGroup ?_
  extract_lets -underBinder up _
  exact h.setInn

theorem State.MemForm.setPart {s : State} {p : ℕ} {x : Part} (h : s.MemForm) : (s.setPart p x).MemForm := h

theorem State.MemForm.modPart {s : State} {p : ℕ} {f : Part → Part} (h : s.MemForm) : (s.modPart p f).MemForm := by
  unfold State.modPart
  split
  · exact h.setPart
  · exact h

theorem State.MemForm.setLog {s : State} {part : ℕ} {l : UndoLog} (h : s.MemForm) : (s.setLog part l).MemForm := h.modPart
theorem State.MemForm.setCore {s : State} {c : ℕ} {x : Core} (h : s.MemForm) : (s.setCore c x).MemForm := h
theorem State.MemForm.modCore {s : State} {c : ℕ} {f : Core → Core} (h : s.MemForm) : (s.modCore c f).MemForm := h
theorem State.MemForm.setMem {s : State} {m : Mem} (h : Memory.wf m.bytes = true) : (s.setMem m).MemForm := h

theorem State.MemForm.setPoison {s : State} {p : Place} {on : Bool} (h : s.MemForm) : (s.setPoison p on).MemForm := by
  unfold State.MemForm
  rw [State.setPoison_bytes]
  exact h

theorem State.MemForm.putByte {s : State} {p : Place} {b : Byte} (h : s.MemForm) : (s.putByte p b).MemForm := s.putByte_wf p b h
theorem State.MemForm.putSector {s : State} {p : Place} {ws : List (ℕ × Byte)} (h : s.MemForm) : (s.putSector p ws).MemForm := s.putSector_wf p ws h
theorem State.MemForm.notice {s : State} {home : Place} (h : s.MemForm) : (s.notice home).MemForm := h
theorem State.MemForm.touchTag {s : State} {part pa : ℕ} (h : s.MemForm) : (s.touchTag part pa).MemForm := .either h h
theorem State.MemForm.setCoh {s : State} {c : Coh} (h : s.MemForm) : (s.setCoh c).MemForm := h
theorem State.MemForm.rowsDrop {s : State} {sec : ℕ} (h : s.MemForm) : (s.rowsDrop sec).MemForm := h

theorem State.MemForm.landed {s : State} {w : Writer} {sec : ℕ} {ws : List (ℕ × Byte)} (h : s.MemForm) : (s.landed w sec ws).MemForm := by
  unfold State.landed
  extract_lets -underBinder s₁ s₂
  have hs₁ : s₁.MemForm := h
  have hs₂ : s₂.MemForm := hs₁.rowsDrop.putSector
  exact .either hs₂.notice hs₂

theorem State.MemForm.setHart {s : State} {hart : ℕ} {x : Hart} (h : s.MemForm) : (s.setHart hart x).MemForm := h
theorem State.MemForm.setTix {s : State} {t : Tix} (h : s.MemForm) : (s.setTix t).MemForm := h
theorem State.MemForm.hartToken {s : State} {hart : ℕ} (h : s.MemForm) : (s.hartToken hart).MemForm := h
theorem State.MemForm.freeSlot {s : State} {slot : ℕ} (h : s.MemForm) : (s.freeSlot slot).MemForm := h

theorem State.MemForm.abortHart {s : State} {hart cause code : ℕ} (h : s.MemForm) : (s.abortHart hart cause code).MemForm := by
  unfold State.abortHart
  extract_lets -underBinder k
  split
  · exact h
  · extract_lets -underBinder n st s₁ s₂
    have hs₁ : s₁.MemForm := by
      unfold s₁
      split
      · exact h.freeSlot
      · exact h
    have hs₂ : s₂.MemForm := hs₁.hartToken
    exact hs₂.setHart

theorem State.MemForm.conflict {s : State} {own : Option ℕ} {pa : ℕ} {wr : Bool} (h : s.MemForm) : (s.conflict own pa wr).MemForm :=
  h.foldl (fun _ _ hu => hu.abortHart)

theorem State.MemForm.dropCopies {s : State} {sec : ℕ} {keep : Option ℕ} (h : s.MemForm) : (s.dropCopies sec keep).MemForm := h
theorem State.MemForm.setDir {s : State} {sec : ℕ} {d : DirEnt} (h : s.MemForm) : (s.setDir sec d).MemForm := h

theorem State.MemForm.homeTake {s : State} {sec : ℕ} (h : s.MemForm) : (s.homeTake sec).MemForm := by
  unfold State.homeTake
  extract_lets -underBinder d
  exact .either h h.dropCopies.setDir

theorem State.MemForm.leaseDrop {s : State} {sec : ℕ} (h : s.MemForm) : (s.leaseDrop sec).MemForm := h

theorem State.MemForm.setCompanion {s : State} {die leaf : ℕ} {w : Bool} (h : s.MemForm) : (s.setCompanion die leaf w).MemForm := by
  unfold State.setCompanion
  extract_lets -underBinder c c' sec s₁
  have hs₁ : s₁.MemForm := .either h.leaseDrop h.conflict.homeTake
  exact .either h hs₁.landed

theorem State.MemForm.setTlb {s : State} {d : ℕ} {l : List TlbEnt} (h : s.MemForm) : (s.setTlb d l).MemForm := h

theorem State.MemForm.tlbFill {s : State} {d : ℕ} {e : TlbEnt} (h : s.MemForm) : (s.tlbFill d e).MemForm := by
  unfold State.tlbFill
  extract_lets -underBinder l
  refine .either h.setTlb ?_
  split
  · next heq =>
      extract_lets -underBinder v
      split
      · exact (h.draw.snd heq).setTlb
      · exact h.draw.snd heq

theorem State.MemForm.setL1 {s : State} {core sec st : ℕ} (h : s.MemForm) : (s.setL1 core sec st).MemForm := h
theorem State.MemForm.downgrade {s : State} {core sec st : ℕ} (h : s.MemForm) : (s.downgrade core sec st).MemForm := .either h h.setL1

theorem State.MemForm.dirShare {s : State} {sec : ℕ} (h : s.MemForm) : (s.dirShare sec).MemForm := by
  unfold State.dirShare
  extract_lets -underBinder d
  split
  · exact h.setDir.downgrade
  · exact h.setDir.downgrade
  · exact h

theorem State.MemForm.homeRead {s : State} {own : Option ℕ} {pa : ℕ} (h : s.MemForm) : (s.homeRead own pa).MemForm := .either h h.conflict.dirShare
theorem State.MemForm.walkReads {s : State} {root va : ℕ} (h : s.MemForm) : (s.walkReads root va).MemForm := h.foldl (fun _ _ hu => hu.homeRead)

theorem State.MemForm.fill {s : State} {die part root : ℕ} {acc : Access} {va core : ℕ} (h : s.MemForm) : (s.fill die part root acc va core).2.MemForm := by
  unfold State.fill
  extract_lets -underBinder s₁
  have hs₁ : s₁.MemForm := h.walkReads
  split
  · exact hs₁
  · split
    · exact hs₁
    · extract_lets -underBinder s₂ e
      have hs₂ : s₂.MemForm := hs₁.setCompanion
      exact hs₂.tlbFill.tlbFill

theorem State.MemForm.translate {s : State} {die part root : ℕ} {acc : Access} {va core : ℕ}
    (h : s.MemForm) : (s.translate die part root acc va core).2.MemForm := by
  unfold State.translate
  extract_lets -underBinder serves
  split
  · split
    · exact h
    · exact h.fill
  · split
    · split
      · split
        · exact h.setCompanion.tlbFill
        · exact h
      · exact h.fill
    · exact h.fill

theorem State.MemForm.xlate {s : State} {die part : ℕ} {acc : Access} {va core : ℕ} (h : s.MemForm) : (s.xlate die part acc va core).2.MemForm := h.translate

theorem State.MemForm.wbXlate {s : State} {sec : ℕ} {keep : Option ℕ} (h : s.MemForm) : (s.wbXlate sec keep).MemForm := by
  unfold State.wbXlate
  extract_lets -underBinder d
  refine .either h ?_
  split
  · exact h.xlate
  · exact h

theorem State.MemForm.dirTake {s : State} {sec : ℕ} (h : s.MemForm) : (s.dirTake sec).MemForm := h.wbXlate.homeTake

theorem State.MemForm.l2Evict {s : State} {line : ℕ} (h : s.MemForm) : (s.l2Evict line).MemForm := by
  unfold State.l2Evict
  refine h.setCoh.foldl (fun u x₂ hu => ?_)
  extract_lets -underBinder sec d s₁ _ s₂
  have hs₁ : s₁.MemForm := hu.wbXlate.dropCopies
  have hs₂ : s₂.MemForm := hs₁.setCoh
  exact .either hu (.either hs₂.notice hs₂)

theorem State.MemForm.l2Room {s : State} {sl n : ℕ} (h : s.MemForm) : (s.l2Room sl n).MemForm := by
  induction n generalizing s with
  | zero => exact h
  | succ n ih =>
    refine ih ?_
    split
    · exact h.draw.l2Evict
    · exact h.draw

theorem State.MemForm.l2Fill {s : State} {line : ℕ} (h : s.MemForm) : (s.l2Fill line).MemForm := by
  unfold State.l2Fill
  refine .either h ?_
  extract_lets -underBinder sl s₁ _
  have hs₁ : s₁.MemForm := h.l2Room
  exact hs₁.setCoh

theorem State.MemForm.dirOwn {s : State} {core sec : ℕ} (h : s.MemForm) : (s.dirOwn core sec).MemForm := by
  unfold State.dirOwn
  extract_lets -underBinder s₁ s₂ d bit
  have hs₁ : s₁.MemForm := h.l2Fill.wbXlate
  have hs₂ : s₂.MemForm := hs₁.dropCopies
  exact .either hs₂ (.either hs₂.setDir.setL1 hs₂.setDir.setL1)

theorem State.MemForm.l1Store {s : State} {core sec : ℕ} (h : s.MemForm) : (s.l1Store core sec).MemForm := by
  unfold State.l1Store
  split
  · exact h
  · exact h.setL1.setDir
  · exact h.dirOwn

theorem State.MemForm.leaseStore {s : State} {sec : ℕ} {ws : List (ℕ × Byte)} (h : s.MemForm) : (s.leaseStore sec ws).MemForm := by
  unfold State.leaseStore
  split
  · exact h.setCoh
  · exact h

theorem State.MemForm.commitSector {s : State} {w : Writer} {core : Option ℕ} {pa : ℕ} {ws : List (ℕ × Byte)}
    (h : s.MemForm) : (s.commitSector w core pa ws).MemForm := by
  unfold State.commitSector
  extract_lets -underBinder sec s₁
  have hs₁ : s₁.MemForm := by
    refine .either h.leaseStore ?_
    split
    · exact .either h.l1Store h.conflict.l1Store
    · exact h.conflict.dirTake
  exact hs₁.landed

theorem State.MemForm.consume {s : State} {part : ℕ} {p : Place} (h : s.MemForm) : (s.consume part p).MemForm := by
  unfold State.consume
  extract_lets -underBinder gone addr u
  exact h.modPart.note

theorem State.MemForm.hwSector {s : State} {part : ℕ} {p : Place} {ws : List (ℕ × Byte)} (h : s.MemForm) : (s.hwSector part p ws).MemForm := by
  unfold State.hwSector
  split
  · split
    · exact .either h.consume h.touchTag.commitSector
    · exact h.putSector.notice.notice
  · exact h.putSector.notice

theorem State.MemForm.vaOf {s : State} {part va : ℕ} {acc : Access} (h : s.MemForm) : (s.vaOf part va acc).2.MemForm := by
  unfold State.vaOf
  split
  · next e₁ => exact h.xlate.snd e₁
  · next e₂ => exact h.xlate.snd e₂

theorem State.MemForm.hwPut {s : State} {part va : ℕ} {bs : List Byte} (h : s.MemForm) : OptForm (s.hwPut part va bs) := by
  unfold State.hwPut
  split
  · next e =>
      split
      · exact trivial
      · exact (h.vaOf.snd e).foldl (fun _ _ hu => hu.hwSector)
  · exact trivial

theorem State.MemForm.logHeader {s : State} {part : ℕ} (h : s.MemForm) : (s.logHeader part).MemForm := by
  unfold State.logHeader
  split
  · exact h
  · extract_lets -underBinder s₁
    have hs₁ : s₁.MemForm := by
      unfold s₁
      split
      · exact h.hwPut.getD h
      · exact h
    exact hs₁.hwPut.getD hs₁

theorem State.MemForm.sealWindow {s : State} {part : ℕ} {f : LogWindow → LogWindow} (h : s.MemForm) : (s.sealWindow part f).MemForm := by
  unfold State.sealWindow
  split
  · exact .either h.setLog.logHeader h
  · exact h

theorem State.MemForm.setRpc {s : State} {x : RpcSt} (h : s.MemForm) : (s.setRpc x).MemForm := h

theorem State.MemForm.reply {s : State} {r : Rpc} {code : ℕ} {detail : BitVec 64} {res : List (BitVec 64)}
    (h : s.MemForm) : (s.reply r code detail res).MemForm := by
  unfold State.reply
  split
  · exact h
  · refine .either h ?_
    extract_lets -underBinder body hdr _ s₁
    have hs₁ : s₁.MemForm := h.setRpc
    exact .either hs₁ hs₁.sealWindow

theorem State.MemForm.ok {s : State} {r : Rpc} {res : List (BitVec 64)} (h : s.MemForm) : (s.ok r res).MemForm := h.reply
theorem State.MemForm.setDbg {s : State} {x : Dbg} (h : s.MemForm) : (s.setDbg x).MemForm := h

theorem State.MemForm.sessionEvent {s : State} {ses code core slot ord : ℕ} (h : s.MemForm) : (s.sessionEvent ses code core slot ord).MemForm := by
  unfold State.sessionEvent
  split
  · exact h
  · extract_lets -underBinder mine _ _ s₁ _ s₂
    have hs₁ : s₁.MemForm := h.setRpc
    have hs₂ : s₂.MemForm := hs₁.setDbg
    exact .either (.either h.setDbg h.setDbg) (hs₂.foldl (fun _ _ hu => hu.ok))

theorem State.MemForm.partEvent {s : State} {part code core slot ord : ℕ} (h : s.MemForm) : (s.partEvent part code core slot ord).MemForm := by
  unfold State.partEvent
  split
  · exact h.sessionEvent
  · exact h

theorem State.MemForm.plainEvent {s : State} {ses code : ℕ} (h : s.MemForm) : (s.plainEvent ses code).MemForm := by
  unfold State.plainEvent
  extract_lets -underBinder x
  exact h.draw.sessionEvent

theorem State.MemForm.haltDone {s : State} {part : ℕ} (h : s.MemForm) : (s.haltDone part).MemForm := by
  unfold State.haltDone
  split
  · exact h
  · split
    · exact h
    · refine .either h ?_
      extract_lets -underBinder _ s₁ mine _ s₂
      have hs₁ : s₁.MemForm := h.setDbg
      have hs₂ : s₂.MemForm := hs₁.setRpc
      exact (hs₂.foldl (fun _ _ hu => hu.ok)).plainEvent

theorem State.MemForm.unask {s : State} {gk : ℕ} (h : s.MemForm) : (s.unask gk).MemForm := h
theorem State.MemForm.queueEvent {s : State} {core slot event : ℕ} (h : s.MemForm) : (s.queueEvent core slot event).MemForm := h

theorem State.MemForm.park {s : State} {gk event : ℕ} (h : s.MemForm) : (s.park gk event).MemForm := by
  unfold State.park
  split
  · exact h
  · extract_lets -underBinder met s₁ s₂ code
    have hs₁ : s₁.MemForm := h.setGroup
    have hs₂ : s₂.MemForm := hs₁.unask.queueEvent
    exact .haltDone (.either hs₂ hs₂.partEvent)

theorem State.MemForm.resumeOps {s : State} {gk : ℕ} (h : s.MemForm) : (s.resumeOps gk).MemForm := h
theorem State.MemForm.parkWoken {s : State} {gk : ℕ} (h : s.MemForm) : (s.parkWoken gk).MemForm := h.park.modGroup.resumeOps
theorem State.MemForm.delGroup {s : State} {gk : ℕ} (h : s.MemForm) : (s.delGroup gk).MemForm := h

theorem State.MemForm.tokenBack {s : State} {gk : ℕ} (h : s.MemForm) : (s.tokenBack gk).MemForm := by
  unfold State.tokenBack
  split
  · exact .either h.setTix h
  · exact .either h.setTix h

theorem State.MemForm.setTeam {s : State} {tk : ℕ} {t : Team} (h : s.MemForm) : (s.setTeam tk t).MemForm := h

theorem State.MemForm.modTeam {s : State} {tk : ℕ} {f : Team → Team} (h : s.MemForm) : (s.modTeam tk f).MemForm := by
  unfold State.modTeam
  split
  · exact h.setTeam
  · exact h

theorem State.MemForm.endGroup {s : State} {gk : ℕ} (h : s.MemForm) : (s.endGroup gk).MemForm := by
  unfold State.endGroup
  split
  · exact h
  · extract_lets -underBinder s₁ s₂ _ s₃
    have hs₁ : s₁.MemForm := h.modTeam
    have hs₂ : s₂.MemForm := hs₁.modCore
    have hs₃ : s₃.MemForm := hs₂.setInn
    exact hs₃.delGroup.unask.tokenBack.haltDone

theorem State.MemForm.maybeEnd {s : State} {gk : ℕ} (h : s.MemForm) : (s.maybeEnd gk).MemForm := by
  unfold State.maybeEnd
  split
  · refine .either h.endGroup ?_
    split
    · exact .either h.parkWoken h
    · exact .either h.park h
    · exact h
  · exact h

theorem State.MemForm.arrive {s : State} {tk n : ℕ} (h : s.MemForm) : (s.arrive tk n).MemForm := h.modTeam
theorem State.MemForm.freeSlots {s : State} {c : EngCmd} (h : s.MemForm) : (s.freeSlots c).MemForm := .either h h.modPart

theorem State.MemForm.retireCmd {s : State} {c : EngCmd} {flags : Flags} {arrives : Bool} (h : s.MemForm) : (s.retireCmd c flags arrives).MemForm := by
  unfold State.retireCmd
  extract_lets -underBinder core s₁ s₂ s₃ s₄ s₅
  have hs₁ : s₁.MemForm := h
  have hs₂ : s₂.MemForm := hs₁.modCore
  have hs₃ : s₃.MemForm := hs₂.freeSlots
  have hs₄ : s₄.MemForm := by
    unfold s₄
    split
    · exact .either hs₃.arrive hs₃
    · exact hs₃
  have hs₅ : s₅.MemForm := by
    unfold s₅
    split
    · exact .either hs₄.markRemoved hs₄
    · exact hs₄
  exact hs₅.modAnyGroup.maybeEnd

theorem State.MemForm.modCmd {s : State} {core entry : ℕ} {f : EngCmd → EngCmd} (h : s.MemForm) : (s.modCmd core entry f).MemForm := h

theorem State.MemForm.freezeQueue {s : State} {c : EngCmd} {subc va : ℕ} (h : s.MemForm) : (s.freezeQueue c subc va).MemForm := by
  unfold State.freezeQueue
  extract_lets -underBinder s₁ s₂
  have hs₁ : s₁.MemForm := h.modTeam
  have hs₂ : s₂.MemForm := hs₁.modCmd
  exact hs₂.record

theorem State.MemForm.hwPuts {s : State} {part : ℕ} {l : List (ℕ × List Byte)} (h : s.MemForm) : OptForm (s.hwPuts part l) := by
  induction l generalizing s with
  | nil => exact h
  | cons e r ih =>
    unfold State.hwPuts
    split
    · next e => exact ih (h.hwPut.some e)
    · trivial

theorem State.MemForm.hwWord {s : State} {part va : ℕ} (h : s.MemForm) : PairForm (s.hwWord part va) := by
  unfold State.hwWord
  split
  · next e => exact h.vaOf.snd e
  · exact trivial

theorem State.MemForm.overflow {s : State} {part : ℕ} (h : s.MemForm) : (s.overflow part).MemForm := by
  unfold State.overflow
  split
  · exact h
  · extract_lets -underBinder n
    refine .either h ?_
    split
    · exact h
    · next e₁ =>
        extract_lets -underBinder c
        split
        · next e₂ => exact ((h.hwWord.pair e₁).hwPuts.some e₂).modPart
        · exact h

theorem State.MemForm.modCluster {s : State} {c : ℕ} {f : Cluster → Cluster} (h : s.MemForm) : (s.modCluster c f).MemForm := h

theorem State.MemForm.ringPost {s : State} {part : ℕ} {r : Ring} {headOff : ℕ} {resv : Bool} {rec : ℕ → BitVec 512}
    (h : s.MemForm) : (s.ringPost part r headOff resv rec).left.MemForm := by
  unfold State.ringPost
  split
  · exact h
  · next e₁ =>
      split
      · exact h
      · next e₂ =>
          split
          · exact (h.hwWord.pair e₁).hwWord.pair e₂
          · extract_lets -underBinder hdr
            split
            · next e₃ => exact ((h.hwWord.pair e₁).hwWord.pair e₂).hwPuts.some e₃
            · exact h

theorem State.MemForm.faultPost {s : State} {part : ℕ} {rec : BitVec 512} (h : s.MemForm) : (s.faultPost part rec).2.MemForm := by
  unfold State.faultPost
  split
  · exact h
  · split
    · next e₁ => exact (h.ringPost.ofPostRes e₁).modPart
    · next e₂ => exact h.ringPost.ofPostRes e₂
    · next e₃ => exact h.ringPost.ofPostRes e₃

theorem State.MemForm.tried {s : State} {c : Bool} {part : ℕ} {rec : BitVec 512} (h : s.MemForm) :
    (if c then (false, s) else s.faultPost part rec).2.MemForm := by
  split
  · exact h
  · exact h.faultPost

theorem drainHold_memForm {die : ℕ} {l : List (ℕ × BitVec 512)} {stuck : List ℕ} {s : State} (h : s.MemForm) : (drainHold die l stuck s).MemForm := by
  induction l generalizing stuck s with
  | nil => exact h
  | cons e r ih =>
    unfold drainHold
    split
    next ok t e =>
    have tried : t.MemForm := h.tried.snd e
    exact .either (ih tried) (ih tried.modCluster)

theorem State.MemForm.drainFaults {s : State} {die : ℕ} (h : s.MemForm) : (s.drainFaults die).MemForm := by
  unfold State.drainFaults
  extract_lets -underBinder l s₁ left s₂ entered s₃
  have hs₁ : s₁.MemForm := drainHold_memForm h.modCluster
  have hs₂ : s₂.MemForm := drainHold_memForm hs₁
  have hs₃ : s₃.MemForm := hs₂.foldl (fun _ _ hu₁ => hu₁.modPart)
  exact hs₃.foldl (fun _ _ hu₂ => hu₂.overflow)

theorem State.MemForm.postFault {s : State} {die part : ℕ} {rec : BitVec 512} (h : s.MemForm) : (s.postFault die part rec).MemForm := by
  unfold State.postFault
  extract_lets -underBinder s₁ s₂ held
  have drained : s₂.MemForm := h.modPart.drainFaults
  split
  next ok t e =>
  have tried : t.MemForm := drained.tried.snd e
  refine .either tried ?_
  exact .either tried.modCluster.modPart.overflow tried.modCluster

theorem State.MemForm.holdCmd {s : State} {c : EngCmd} {f : FaultInfo} (h : s.MemForm) : (s.holdCmd c f).MemForm := by
  unfold State.holdCmd
  extract_lets -underBinder t
  exact h.modCmd.postFault

theorem State.MemForm.stopCmd {s : State} {c : EngCmd} {f : Option FaultInfo} (h : s.MemForm) : (s.stopCmd c f).MemForm := by
  unfold State.stopCmd
  split
  · exact h.holdCmd
  · exact h.freezeQueue

theorem State.MemForm.fireLevel {s : State} {gk tk id lvl : ℕ} (h : s.MemForm) : (s.fireLevel gk tk id lvl).MemForm := h
theorem State.MemForm.fireCmd {s : State} {c : EngCmd} {l : List (Place × ℕ)} (h : s.MemForm) : (s.fireCmd c l).MemForm := .either h h.fireLevel

theorem State.MemForm.endPlace {s : State} {die core part : ℕ} {acc : Access} {e : End} {a : ℕ} (h : s.MemForm) : (s.endPlace die core part acc e a).2.MemForm := by
  unfold State.endPlace
  split
  · exact h
  · split
    · next heq₁ => exact h.xlate.snd heq₁
    · next heq₂ => exact h.xlate.snd heq₂

theorem State.MemForm.spans {s : State} {die core part : ℕ} {acc : Access} {e : End} {l : List (ℕ × ℕ)}
    (h : s.MemForm) : (s.spans die core part acc e l).s.MemForm := by
  unfold State.spans
  refine List.foldlRecOn l _ (motive := fun r : Spans => r.s.MemForm) h (fun r hr x _ => ?_)
  split
  · exact hr
  split
  · next e => exact hr.endPlace.snd e
  · next e =>
    split
    · exact hr.endPlace.snd e
    · exact hr.endPlace.snd e
  · next e => exact hr.endPlace.snd e

theorem State.MemForm.cmdSpans {s : State} {c : EngCmd} {acc : Access} {e : End} {l : List (ℕ × ℕ)} (h : s.MemForm) : (s.cmdSpans c acc e l).s.MemForm := by
  unfold State.cmdSpans
  extract_lets -underBinder sp
  exact h.spans.fireCmd

theorem State.MemForm.failCmd {s : State} {c : EngCmd} {kind status : ℕ} (h : s.MemForm) : (s.failCmd c kind status).MemForm := by
  unfold State.failCmd
  extract_lets -underBinder r wr s₁
  have hs₁ : s₁.MemForm := h.cmdSpans.foldl (fun _ _ hu => hu.setPoison)
  exact .either h.cmdSpans.stopCmd hs₁.record.retireCmd

theorem State.MemForm.dropDirs {s : State} {part : ℕ} {old new : UndoLog} (h : s.MemForm) : (s.dropDirs part old new).MemForm :=
  h.foldl (fun _ _ hu => hu.hwPut.getD hu)

theorem State.MemForm.undo {s : State} {w : Writer} {pa : ℕ} {mask : BitVec 16} (h : s.MemForm) : (s.undo w pa mask).left.MemForm := by
  unfold State.undo
  split
  · exact h
  · split
    · exact h
    · split
      · exact h
      · extract_lets -underBinder inside l' s₁ l
        have hs₁ : s₁.MemForm := h.dropDirs
        split
        · exact h.sealWindow
        · split
          · exact h
          · split
            · extract_lets -underBinder old bs
              split
              · next e =>
                  extract_lets -underBinder l₁ l₂ l₃
                  exact (hs₁.hwPuts.some e).setLog.logHeader
              · exact hs₁.setLog.logHeader.record
            · exact hs₁.setLog.logHeader

theorem State.MemForm.writeSector {s : State} {w : Writer} {core : Option ℕ} {p : Place} {ws : List (ℕ × Byte)}
    (h : s.MemForm) : (s.writeSector w core p ws).MemForm := by
  unfold State.writeSector
  split
  · split
    · refine .either h.consume ?_
      split
      · next e₁ => exact (h.undo.ofUndoRes e₁).touchTag.commitSector
      · next e₂ => exact (h.undo.ofUndoRes e₂).modPart
    · exact h.putSector.notice.notice
  · exact h.putSector.notice

theorem State.MemForm.writeSpans {s : State} {w : Writer} {l : List (Place × ℕ)} {vas : List ℕ} {bs : List (Byte × Bool)}
    (h : s.MemForm) : (s.writeSpans w l vas bs).MemForm := by
  unfold State.writeSpans
  extract_lets -underBinder parts s₁
  have hs₁ : s₁.MemForm := h.foldl (fun _ _ hu₁ => hu₁.writeSector)
  exact hs₁.foldl (fun _ _ hu₂ => .either hu₂.setPoison hu₂)

theorem State.MemForm.logFull {s : State} {l : List (Writer × ℕ)} (h : s.MemForm) : (s.logFull l).MemForm := by
  unfold State.logFull
  extract_lets part
  split
  · next t found =>
    obtain ⟨e, -, full⟩ := List.exists_of_findSome?_eq_some found
    split at full
    · next made =>
      cases full
      exact h.undo.ofUndoRes made
    · cases full
  · exact h.setLog.logHeader
  · exact h

theorem State.MemForm.writeStop {c : EngCmd} {w : Writer} {wr : Spans} (h : wr.s.MemForm) : OptForm (State.writeStop c w wr) := by
  unfold State.writeStop
  split
  · exact h.stopCmd
  · extract_lets -underBinder l
    split
    · exact trivial
    · exact h.logFull

theorem State.MemForm.takeData {s : State} {c : EngCmd} {e : End} {data : List Byte} {next : State → EngCmd → State}
    (h : s.MemForm) (hnext : ∀ t a₁, t.MemForm → (next t a₁).MemForm) : (s.takeData c e data next).MemForm := by
  unfold State.takeData
  extract_lets -underBinder a wr w
  split
  · next heq => exact h.cmdSpans.writeStop.some heq
  · extract_lets -underBinder c' s₁
    have hs₁ : s₁.MemForm := h.cmdSpans.writeSpans
    exact hnext _ _ hs₁.modCmd

theorem State.MemForm.netFail {s : State} {c : EngCmd} {data : List Byte} {syndrome : ℕ} (h : s.MemForm) : (s.netFail c data syndrome).MemForm := by
  unfold State.netFail
  extract_lets -underBinder s₁
  have hs₁ : s₁.MemForm := h.modPart
  exact .either (hs₁.takeData (fun _ _ hu => hu.failCmd)) hs₁.failCmd

theorem execRcRetransmitTimeout_memForm {core entry : ℕ} {s : State} (h : s.MemForm) : OutForm (execRcRetransmitTimeout core entry s) := by
  unfold execRcRetransmitTimeout
  split
  · exact h
  · split
    · exact h
    · split
      · exact h.modCmd
      · extract_lets -underBinder x
        exact h.draw.netFail

theorem execRpcSessionOpen_memForm {session : ℕ} {gid : BitVec 128} {port : ℕ} {s : State} (h : s.MemForm) : OutForm (execRpcSessionOpen session gid port s) := by
  unfold execRpcSessionOpen
  show State.MemForm _
  exact .either h h.setRpc

theorem State.MemForm.modHart {s : State} {hart : ℕ} {f : Hart → Hart} (h : s.MemForm) : (s.modHart hart f).MemForm := h

theorem State.MemForm.hartTrap {s : State} {hart cause : ℕ} {tval : BitVec 64} (h : s.MemForm) : (s.hartTrap hart cause tval).MemForm :=
  h.abortHart.hartToken.modHart

theorem execHartInterrupt_memForm {hart : ℕ} {s : State} (h : s.MemForm) : OutForm (execHartInterrupt hart s) := by
  unfold execHartInterrupt
  show State.MemForm _
  split
  · exact h.hartTrap
  · exact h

theorem State.MemForm.writeAll {s : State} {w : Writer} {core : Option ℕ} {l : List (Place × List Byte)} (h : s.MemForm) : (s.writeAll w core l).MemForm :=
  h.foldl (fun _ _ hu => hu.writeSector)

theorem State.MemForm.write {s : State} {w : Writer} {core : Option ℕ} {p : Place} {bs : List Byte} (h : s.MemForm) : (s.write w core p bs).MemForm := h.writeAll

theorem State.MemForm.atHome {s : State} {own : Option ℕ} {x : Place} (h : s.MemForm) : (s.atHome own x).MemForm := by
  unfold State.atHome
  split
  · exact .either h (.either h.leaseDrop h.conflict.rowsDrop.dirTake)
  · exact h

theorem State.MemForm.atomicAt {s : State} {w : Writer} {p : Place} {op : Aop} {t : Typ} {b new : ℕ}
    (h : s.MemForm) : (s.atomicAt w p op t b new).2.2.2.MemForm := by
  unfold State.atomicAt
  extract_lets -underBinder q s₁ old r
  have hs₁ : s₁.MemForm := h.atHome
  split
  · exact hs₁.consume
  · split
    · exact hs₁.write
    · exact hs₁

theorem State.MemForm.hartDone {s : State} {a : HartAcc} {v : Option (BitVec 64)} (h : s.MemForm) : (s.hartDone a v).MemForm := h

theorem State.MemForm.dirRead {s : State} {core sec : ℕ} (h : s.MemForm) : (s.dirRead core sec).MemForm := by
  unfold State.dirRead
  extract_lets -underBinder s₁ d bit owner
  have hs₁ : s₁.MemForm := h.l2Fill
  split
  · exact .either hs₁.setDir.setL1 hs₁.setDir.setL1
  · exact hs₁.setDir.setL1
  · exact .either hs₁.setL1 hs₁.setDir.downgrade.setL1
  · exact .either hs₁ hs₁.setDir.setL1.setL1
  · exact .either hs₁ hs₁.setDir.setL1
  · exact hs₁

theorem State.MemForm.rebase {s : State} {slice : ℕ} (h : s.MemForm) : (s.rebase slice).MemForm := by
  unfold State.rebase
  extract_lets -underBinder b n k keep _
  exact .either h h.setCoh

theorem State.MemForm.leaseFill {s : State} {sec : ℕ} (h : s.MemForm) : (s.leaseFill sec).MemForm := by
  unfold State.leaseFill
  refine .either h ?_
  extract_lets -underBinder sl s₁ w off data _
  have hs₁ : s₁.MemForm := h.rebase
  exact hs₁.setCoh

theorem State.MemForm.leaseLine {s : State} {line : ℕ} (h : s.MemForm) : (s.leaseLine line).MemForm :=
  h.l2Fill.foldl (fun _ _ hu => .either hu hu.leaseDrop.leaseFill)

theorem State.MemForm.loadEffects {s : State} {own core : Option ℕ} {pa : ℕ} (h : s.MemForm) : (s.loadEffects own core pa).MemForm := by
  unfold State.loadEffects
  split
  · refine .either h (.either ?_ ?_)
    · extract_lets -underBinder s₁
      have hs₁ : s₁.MemForm := .either h h.leaseLine
      split
      · exact .either hs₁.setL1 hs₁
      · exact hs₁
    · split
      · exact .either h.conflict.dirRead h
      · exact h.homeRead
  · exact h

theorem State.MemForm.leaseAcquire {s : State} (h : s.MemForm) : s.leaseAcquire.MemForm := h

theorem State.MemForm.hartPlain {s : State} {hart : ℕ} {a : HartAcc} {pa : ℕ} (h : s.MemForm) : (s.hartPlain hart a pa).MemForm := by
  unfold State.hartPlain
  extract_lets -underBinder k p part w peer s₁
  have hs₁ : s₁.MemForm := .either h.leaseAcquire h
  split
  · extract_lets -underBinder s₂
    have hs₂ : s₂.MemForm := hs₁.touchTag.loadEffects
    exact .either hs₂.consume.hartTrap hs₂.hartDone
  · extract_lets -underBinder q s₂
    have hs₂ : s₂.MemForm := hs₁.touchTag.atHome
    exact .either hs₂.consume.hartTrap hs₂.modHart.hartDone
  · exact hs₁.write.modHart.hartDone
  · exact .either hs₁.atHome.write.modHart.hartDone hs₁.modHart.hartDone
  · extract_lets -underBinder r
    exact .either hs₁.atomicAt.hartTrap hs₁.atomicAt.touchTag.modHart.hartDone
  · exact hs₁
  · exact hs₁

theorem State.MemForm.hartTx {s : State} {hart : ℕ} {a : HartAcc} {pa : ℕ} (h : s.MemForm) : (s.hartTx hart a pa).MemForm := by
  unfold State.hartTx
  extract_lets -underBinder k wr sl sec part s₁ s₂ s₃ buf o s₄ byte
  have hs₁ : s₁.MemForm := h.touchTag.conflict
  have hs₂ : s₂.MemForm := by
    unfold s₂
    split
    · exact hs₁.setTix
    · exact hs₁
  have hs₃ : s₃.MemForm := hs₂.modHart
  have hs₄ : s₄.MemForm := hs₃.dirShare
  exact .either h.abortHart (.either h.abortHart (.either h.abortHart (.either h (.either hs₃.rowsDrop.dirTake.modHart.hartDone (.either hs₄.consume.hartTrap hs₄.hartDone)))))

theorem State.MemForm.postUint {s : State} {core slot gmask vec : ℕ} (h : s.MemForm) : (s.postUint core slot gmask vec).MemForm := h
theorem State.MemForm.upost {s : State} {core : ℕ} {v : BitVec 64} (h : s.MemForm) : (s.upost core v).MemForm := .either h.postUint h

theorem State.MemForm.windowUnmap {s : State} {core idx : ℕ} {new : BitVec 64} (h : s.MemForm) : (s.windowUnmap core idx new).MemForm := by
  unfold State.windowUnmap
  extract_lets -underBinder cl _ e s₁ lines s₂
  have hs₁ : s₁.MemForm := h.modCore.modCluster
  have hs₂ : s₂.MemForm := hs₁.modCluster
  exact .either h (.either h.setCore (.either hs₁ hs₂.modCore))

theorem State.MemForm.mapPages {s : State} {cluster : ℕ} {e : BitVec 64} {n va : ℕ} (h : s.MemForm) : (s.mapPages cluster e n va).2.MemForm := by
  induction n generalizing s va with
  | zero => exact h
  | succ n ih =>
    unfold State.mapPages
    split
    · next e => exact h.xlate.snd e
    · next e₁ =>
      split
      · next e₂ => exact .of ((ih (h.xlate.snd e₁)).snd e₂) rfl
      · next e₂ => exact (ih (h.xlate.snd e₁)).snd e₂

theorem State.MemForm.windowMap {s : State} {core idx : ℕ} {e : BitVec 64} (h : s.MemForm) : (s.windowMap core idx e).MemForm := by
  unfold State.windowMap
  extract_lets -underBinder cl k
  refine .either h (.either h.setCore ?_)
  split
  · next heq₁ => exact (h.mapPages.snd heq₁).setCore
  · next heq₂ => exact (h.mapPages.snd heq₂).setCore.modCluster

theorem State.MemForm.engResume {s : State} {tk : ℕ} (h : s.MemForm) : (s.engResume tk).MemForm := by
  unfold State.engResume
  refine .either h ?_
  extract_lets -underBinder l
  exact (h.foldl (fun _ _ hu => hu.freeSlots.modCmd)).modTeam

theorem State.MemForm.uncount {s : State} {c : EngCmd} (h : s.MemForm) : (s.uncount c).left.MemForm := by
  unfold State.uncount
  split
  · exact h
  · extract_lets -underBinder off
    split
    · next e₁ => exact h.xlate.snd e₁
    · next e₂ =>
        extract_lets -underBinder w home
        split
        · exact h.xlate.snd e₂
        · split
          · exact h.xlate.snd e₂
          · split
            · exact (h.xlate.snd e₂).logFull
            · exact (h.xlate.snd e₂).write

theorem State.MemForm.dropCmd {s : State} {c : EngCmd} (h : s.MemForm) : (s.dropCmd c).MemForm := by
  unfold State.dropCmd
  split
  · next e₁ => exact (h.uncount.ofUncounted e₁).retireCmd
  · next e₂ => exact (h.uncount.ofUncounted e₂).retireCmd
  · next e₃ => exact (h.uncount.ofUncounted e₃).holdCmd
  · next e₄ => exact h.uncount.ofUncounted e₄

theorem State.MemForm.engDiscard {s : State} {tk : ℕ} (h : s.MemForm) : (s.engDiscard tk).MemForm := by
  unfold State.engDiscard
  split
  · exact h
  · extract_lets -underBinder l s₁
    have hs₁ : s₁.MemForm := h.modTeam
    exact hs₁.foldl (fun _ _ hu => hu.modCmd.dropCmd)

theorem State.MemForm.teamWrite {s : State} {tk off : ℕ} {bs : List Byte} (h : s.MemForm) : (s.teamWrite tk off bs).MemForm := by
  unfold State.teamWrite
  refine .either h.modTeam (.either ?_ h)
  extract_lets -underBinder b
  exact .either h.engDiscard (.either h.engResume h)

theorem State.MemForm.rehome {s : State} {gk : ℕ} (h : s.MemForm) : (s.rehome gk).MemForm := by
  unfold State.rehome
  split
  · exact h
  · refine .either h (.either ?_ ?_)
    · extract_lets -underBinder base _
      exact h.setGroup
    · split
      · next e₁ =>
          extract_lets -underBinder _ s₁ _
          have hs₁ : s₁.MemForm := .either (h.xlate.snd e₁) ((h.xlate.snd e₁).setDir)
          exact hs₁.setGroup
      · next e₂ => exact h.xlate.snd e₂

theorem State.MemForm.codeWord {s : State} {gk : ℕ} {g : Group} {pc : ℕ} (h : s.MemForm) : (s.codeWord gk g pc).2.MemForm := by
  unfold State.codeWord
  split
  · split
    · next e₁ =>
        split
        · exact h.xlate.snd e₁
        · extract_lets -underBinder s₁
          have hs₁ : s₁.MemForm := .either (h.xlate.snd e₁) ((h.xlate.snd e₁).touchTag.homeRead)
          exact hs₁
    · next e₂ => exact h.xlate.snd e₂
  · exact h

theorem State.MemForm.stand {s : State} {gk : ℕ} (h : s.MemForm) : PairForm (s.stand? gk) := by
  unfold State.stand?
  split
  · exact trivial
  · split
    · exact trivial
    · extract_lets -underBinder g e pc act csz r
      split
      · exact trivial
      · split
        · exact h
        · exact h.codeWord

theorem State.MemForm.winWrite {s : State} {gk off : ℕ} {bs : List Byte} (h : s.MemForm) : (s.winWrite gk off bs).MemForm := by
  unfold State.winWrite
  split
  · exact h
  · refine .either h ?_
    extract_lets -underBinder g' s₁
    have hs₁ : s₁.MemForm := h.setGroup
    exact .either hs₁.rehome hs₁

theorem State.MemForm.wholeAgain {s : State} {tk : ℕ} (h : s.MemForm) : (s.wholeAgain tk).MemForm := .either h.modTeam h

theorem State.MemForm.watchSector {s : State} {pa : ℕ} (h : s.MemForm) : (s.watchSector pa).MemForm := by
  unfold State.watchSector
  split
  · refine .either h ?_
    extract_lets -underBinder s₁ _
    have hs₁ : s₁.MemForm := h.l2Fill.dirShare
    exact hs₁.setDir
  · exact h

theorem State.MemForm.coreXlate {s : State} {core part : ℕ} {acc : Access} {va : ℕ} (h : s.MemForm) : (s.coreXlate core part acc va).2.MemForm := by
  unfold State.coreXlate
  split
  · exact h
  · exact h.xlate

theorem State.MemForm.rewatch {s : State} {gk : ℕ} (h : s.MemForm) : (s.rewatch gk).MemForm := by
  unfold State.rewatch
  split
  · exact h
  · refine .either h ?_
    split
    · next e₁ => exact .either (h.coreXlate.snd e₁) ((h.coreXlate.snd e₁).modGroup.watchSector)
    · next e₂ => exact h.coreXlate.snd e₂

theorem State.MemForm.rewait {s : State} {gk : ℕ} (h : s.MemForm) : (s.rewait gk).MemForm := by
  unfold State.rewait
  split
  · exact h
  · exact .either h h.rewatch.modGroup

theorem State.MemForm.runAgain {s : State} {gk : ℕ} {step : Bool} (h : s.MemForm) : (s.runAgain gk step).MemForm := by
  unfold State.runAgain
  extract_lets -underBinder s₁
  have hs₁ : s₁.MemForm := h.modGroup.resumeOps.rewait
  split
  · exact hs₁.wholeAgain
  · exact hs₁

theorem State.MemForm.featRecord {s : State} {core part wiid : ℕ} (h : s.MemForm) : (s.featRecord core part wiid).MemForm := h.record
theorem State.MemForm.featPart {s : State} {core part : ℕ} (h : s.MemForm) : (s.featPart core part).MemForm := .either h h.modPart.featRecord

theorem State.MemForm.featItem {s : State} {core part queue idx wiid : ℕ} (h : s.MemForm) : (s.featItem core part queue idx wiid).MemForm := by
  unfold State.featItem
  split
  · exact h
  · exact .either h h.modPart.featRecord

theorem State.MemForm.featRefused {s : State} {gk : ℕ} {g : Group} (h : s.MemForm) : (s.featRefused gk g).MemForm := by
  unfold State.featRefused
  split
  · exact h.featItem
  · exact h.featPart

theorem State.MemForm.resume {s : State} {gk : ℕ} {ord : BitVec 16} {lanes : LaneMask} {step : Bool} (h : s.MemForm) : (s.resume gk ord lanes step).MemForm := by
  unfold State.resume
  split
  · exact h
  · refine .either h ?_
    extract_lets -underBinder wp m g g₁
    exact .either h (.either h.featRefused h.setGroup.runAgain)

theorem State.MemForm.gctlWrite {s : State} {gk off : ℕ} {bs : List Byte} (h : s.MemForm) : (s.gctlWrite gk off bs).MemForm := by
  unfold State.gctlWrite
  split
  · exact h
  · extract_lets -underBinder v
    split
    · exact h.resume
    · exact h.resume
    · exact h.modGroup
    · exact h

theorem State.MemForm.privWrite {s : State} {core off : ℕ} {bs : List Byte} (h : s.MemForm) : (s.privWrite core off bs).MemForm := by
  unfold State.privWrite
  refine .either ?_ (.either h.teamWrite (.either h.modCore (.either h.modCore (.either h.modCore (.either ?_ (.either h.upost h))))))
  · extract_lets -underBinder gk o
    exact .either h.gctlWrite h.winWrite
  · extract_lets -underBinder e
    exact .either h.windowMap h.windowUnmap

theorem State.MemForm.hartMiss {s : State} {hart part : ℕ} {acc : Access} {va : ℕ} (h : s.MemForm) : (s.hartMiss hart part acc va).2.MemForm := by
  unfold State.hartMiss
  extract_lets -underBinder r
  split
  · exact h.translate.tlbFill
  · exact h.translate

theorem State.MemForm.hartXlate {s : State} {hart : ℕ} {acc : Access} {va : ℕ} (h : s.MemForm) : (s.hartXlate hart acc va).2.MemForm := by
  unfold State.hartXlate
  extract_lets -underBinder k part
  split
  · exact h
  · split
    · split
      · exact h
      · exact h.hartMiss
    · exact h.hartMiss

theorem State.MemForm.nodeWait {s : State} {hart : ℕ} {k : Hart} (h : s.MemForm) : OptForm (s.nodeWait hart k) := by
  unfold State.nodeWait
  split
  · split
    · exact trivial
    · exact h.setHart
  · split
    · exact trivial
    · exact h

theorem execRv64MemoryAccess_memForm {a : HartAcc} {s : State} (h : s.MemForm) : OutForm (execRv64MemoryAccess a s) := by
  unfold execRv64MemoryAccess
  extract_lets -underBinder h₁ k tx
  split
  · exact h
  · split
    · split
      · exact h.hartDone
      · split
        · split
          · next e₁ => exact h.nodeWait.some e₁
          · extract_lets -underBinder s₁
            have hs₁ : s₁.MemForm := .either h.leaseAcquire h
            exact hs₁.setHart.hartDone
        · exact h.hartDone
    · split
      · exact h.abortHart
      · split
        · exact h.hartTrap
        · split
          · exact h.hartTrap
          · split
            · next e₂ => exact (h.hartXlate.snd e₂).hartTrap
            · next e₃ =>
                split
                · extract_lets -underBinder off v s₁
                  have hs₁ : s₁.MemForm := .either ((h.hartXlate.snd e₃).modCore) (h.hartXlate.snd e₃)
                  split
                  · exact hs₁.hartDone
                  · split
                    · show State.MemForm _
                      exact .either ((h.hartXlate.snd e₃).abortHart) ((h.hartXlate.snd e₃).modHart.hartDone)
                    · split
                      · exact (h.hartXlate.snd e₃).privWrite.hartDone
                      · exact (h.hartXlate.snd e₃).hartTrap
                · split
                  · exact (h.hartXlate.snd e₃).hartTrap
                  · split
                    · exact (h.hartXlate.snd e₃).hartTrap
                    · split
                      · show State.MemForm _
                        exact .either ((h.hartXlate.snd e₃).consume.hartTrap) (h.hartXlate.snd e₃)
                      · split
                        · exact (h.hartXlate.snd e₃).hartTx
                        · split
                          · exact h.hartXlate.snd e₃
                          · split
                            · split
                              · next e₄ => exact (h.hartXlate.snd e₃).nodeWait.some e₄
                              · exact (h.hartXlate.snd e₃).hartPlain
                            · exact (h.hartXlate.snd e₃).hartPlain

theorem State.MemForm.rdmaAnswer {s : State} {n : ℕ} {data : List Byte} (h : s.MemForm) : (s.rdmaAnswer n data).MemForm := h

theorem State.MemForm.rdma {s : State} {rkey : BitVec 32} {va : BitVec 64} {n bit : ℕ} {acc : Access} {f : ℕ → List (Place × ℕ) → State → State}
    (h : s.MemForm) (hf : ∀ a₀ a₁ t, t.MemForm → (f a₀ a₁ t).MemForm) : (s.rdma rkey va n bit acc f).MemForm := by
  unfold State.rdma
  split
  · exact h.rdmaAnswer
  · extract_lets -underBinder a sp
    refine .either h.rdmaAnswer (.either h (.either h.rdmaAnswer ?_))
    split
    · exact h.spans.postFault.rdmaAnswer
    · exact .either h.spans.rdmaAnswer (.either h (hf _ _ _ h.spans))

theorem execRdmaAtomic_memForm {rkey : BitVec 32} {va : BitVec 64} {cas : Bool} {x y : BitVec 64} {s : State}
    (h : s.MemForm) : OutForm (execRdmaAtomic rkey va cas x y s) := by
  unfold execRdmaAtomic
  show State.MemForm _
  refine h.rdma (fun _ _ _ hu => ?_)
  split
  · extract_lets -underBinder r
    exact .either hu.atomicAt.rdmaAnswer hu.atomicAt.rdmaAnswer
  · exact hu

theorem execRdmaWrite_memForm {rkey : BitVec 32} {va : BitVec 64} {data : List Byte} {s : State} (h : s.MemForm) : OutForm (execRdmaWrite rkey va data s) :=
  h.rdma (fun _ _ _ hu => hu.writeSpans.rdmaAnswer)

theorem State.MemForm.readSpans {s : State} {part : ℕ} {l : List (Place × ℕ)} (h : s.MemForm) : (s.readSpans part l).2.MemForm := by
  unfold State.readSpans
  extract_lets -underBinder s₁ cells bad
  have hs₁ : s₁.MemForm := by
    refine h.foldl (fun u x₂ hu₁ => ?_)
    split
    · exact hu₁.touchTag.loadEffects
    · exact hu₁
  exact hs₁.foldl (fun _ _ hu₂ => hu₂.consume)

theorem execRdmaRead_memForm {rkey : BitVec 32} {va : BitVec 64} {len : ℕ} {s : State} (h : s.MemForm) : OutForm (execRdmaRead rkey va len s) := by
  unfold execRdmaRead
  show State.MemForm _
  refine h.rdma (fun _ _ _ hu => ?_)
  extract_lets -underBinder x
  exact .either hu.readSpans.rdmaAnswer hu.readSpans.rdmaAnswer

theorem State.MemForm.stopOps {s : State} {gk : ℕ} (h : s.MemForm) : (s.stopOps gk).MemForm := h

theorem State.MemForm.fireReach {s : State} {gk : ℕ} {g : Group} {o : MemOp} {home : Bool} (h : s.MemForm) : (s.fireReach gk g o home).MemForm :=
  .either h h.fireLevel

theorem State.MemForm.setTags {s : State} {core : ℕ} {l : List L1Line} (h : s.MemForm) : (s.setTags core l).MemForm := h

theorem State.MemForm.l1Drop {s : State} {core sector : ℕ} (h : s.MemForm) : (s.l1Drop core sector).MemForm := by
  unfold State.l1Drop
  split
  · exact h
  · exact h.setL1
  · exact h.setL1
  · extract_lets -underBinder s₁ _
    have hs₁ : s₁.MemForm := h.setL1
    exact hs₁.setDir

theorem State.MemForm.l1Evict {s : State} {core : ℕ} {x : L1Line} (h : s.MemForm) : (s.l1Evict core x).MemForm := by
  unfold State.l1Evict
  extract_lets -underBinder s₁ s₂
  have hs₁ : s₁.MemForm := .either h.xlate h
  have hs₂ : s₂.MemForm := hs₁.foldl (fun _ _ hu => hu.l1Drop)
  exact hs₂.setTags

theorem State.MemForm.l1Alloc {s : State} {core part va pa : ℕ} (h : s.MemForm) : (s.l1Alloc core part va pa).MemForm := by
  unfold State.l1Alloc
  extract_lets -underBinder x s₁ live set s₂
  have hs₁ : s₁.MemForm := by
    refine h.foldl (fun u x₂ hu₁ => ?_)
    extract_lets -underBinder c
    exact hu₁.foldl (fun _ _ hu₂ => hu₂.l1Evict)
  have hs₂ : s₂.MemForm := hs₁.setTags
  refine .either hs₁ (.either hs₂ ?_)
  split
  · next e => exact (hs₂.draw.snd e).l1Evict

theorem State.MemForm.coreOwn {s : State} {core part va pa : ℕ} {l2 : Bool} (h : s.MemForm) : (s.coreOwn core part va pa l2).MemForm := by
  unfold State.coreOwn
  split
  · refine .either h (.either h.l2Fill ?_)
    extract_lets -underBinder s₁
    have hs₁ : s₁.MemForm := h.l1Alloc
    exact .l1Store (.either hs₁ hs₁.conflict)
  · exact h

theorem State.MemForm.storeSector {s : State} {gk : ℕ} {g : Group} {o : MemOp} {p : Place} {ws : List (ℕ × Byte)}
    (h : s.MemForm) : (s.storeSector gk g o p ws).MemForm := by
  unfold State.storeSector
  extract_lets -underBinder a w
  split
  · extract_lets -underBinder l2
    exact h.coreOwn.writeSector
  · exact h.writeSector

theorem State.MemForm.performStore {s : State} {gk : ℕ} {g : Group} {o : MemOp} (h : s.MemForm) : (s.performStore gk g o).MemForm :=
  h.fireReach.foldl (fun _ _ hu => hu.storeSector)

theorem State.MemForm.settleOps {s : State} {gk : ℕ} {g : Group} {l left : List MemOp} (h : s.MemForm) : (s.settleOps gk g l left).2.MemForm := by
  induction l generalizing s left with
  | nil => exact h
  | cons o r ih =>
    unfold State.settleOps
    split
    · split
      · exact ih h
      · split
        · exact ih h
        · exact ih h.performStore
    · exact ih h
    · exact ih h

theorem State.MemForm.settle {s : State} {gk : ℕ} {g : Group} (h : s.MemForm) : (s.settle gk g).MemForm := by
  unfold State.settle
  split
  · next e =>
      extract_lets -underBinder lost s₁
      have hs₁ : s₁.MemForm := (h.settleOps.snd e).modCore
      exact hs₁.modGroup

theorem State.MemForm.dropTx {s : State} {gk l : ℕ} (h : s.MemForm) : (s.dropTx gk l).MemForm := h
theorem State.MemForm.abortLane {s : State} {gk l cause code : ℕ} (h : s.MemForm) : (s.abortLane gk l cause code).MemForm := h.dropTx.modGroup

theorem State.MemForm.abortLanes {s : State} {gk : ℕ} {l : List (ℕ × ℕ × ℕ)} (h : s.MemForm) : (s.abortLanes gk l).MemForm := by
  unfold State.abortLanes
  split
  · exact h
  · extract_lets -underBinder s₁ s₂
    have hs₁ : s₁.MemForm := h.foldl (fun _ _ hu => hu.abortLane)
    have hs₂ : s₂.MemForm := hs₁.modGroup
    exact hs₂.tokenBack

theorem State.MemForm.regionStop {s : State} {gk : ℕ} (h : s.MemForm) : (s.regionStop gk).MemForm := by
  unfold State.regionStop
  split
  · exact h
  · extract_lets -underBinder w s₁ s₂ s₃ s₄ _
    have hs₁ : s₁.MemForm := h.abortLanes
    have hs₂ : s₂.MemForm := by
      unfold s₂
      split
      · exact hs₁.settle
      · exact hs₁
    have hs₃ : s₃.MemForm := hs₂.modGroup
    have hs₄ : s₄.MemForm := .either hs₃.stopOps hs₃
    exact hs₄.setInn.unask.tokenBack.maybeEnd

theorem State.MemForm.stopGroup {s : State} {gk event : ℕ} (h : s.MemForm) : (s.stopGroup gk event).MemForm := by
  unfold State.stopGroup
  split
  · extract_lets -underBinder s₁
    have hs₁ : s₁.MemForm := .either h.setGroup h
    exact .either hs₁ hs₁.regionStop
  · exact h

theorem State.MemForm.replayEnd {s : State} {x : Replay} {status : ℕ} {addr : List ℕ} (h : s.MemForm) : (s.replayEnd x status addr).MemForm := by
  unfold State.replayEnd
  extract_lets -underBinder gks s₁ s₂ _ s₃ _
  have hs₁ : s₁.MemForm := h.foldl (fun _ _ hu => hu.stopGroup)
  have hs₂ : s₂.MemForm := hs₁.modPart
  have hs₃ : s₃.MemForm := hs₂.setDbg
  exact hs₃.setRpc.ok

theorem execReplayRunTimeout_memForm {replay : ℕ} {s : State} (h : s.MemForm) : OutForm (execReplayRunTimeout replay s) := by
  unfold execReplayRunTimeout
  show State.MemForm _
  split
  · exact .either h h.replayEnd
  · exact h

theorem State.MemForm.setSession {s : State} {n : ℕ} {d : DbgSession} (h : s.MemForm) : (s.setSession n d).MemForm := h

theorem execWaitevTimeout_memForm {session : ℕ} {s : State} (h : s.MemForm) : OutForm (execWaitevTimeout session s) := by
  unfold execWaitevTimeout
  extract_lets -underBinder due
  show State.MemForm _
  split
  · exact h
  · extract_lets -underBinder x lost _ s₁ s₂
    have hs₁ : s₁.MemForm := h.draw.setRpc
    have hs₂ : s₂.MemForm := by
      unfold s₂
      split
      · exact hs₁.setSession
      · exact hs₁
    exact hs₂.ok

theorem State.MemForm.soloEnd {s : State} {n : ℕ} {d : DbgSession} {gk : ℕ} {blocked : Bool} (h : s.MemForm) : (s.soloEnd n d gk blocked).MemForm := by
  unfold State.soloEnd
  extract_lets -underBinder x s₁ ord bytes s₂ s₃ mine _ s₄
  have hs₁ : s₁.MemForm := h.draw
  have hs₂ : s₂.MemForm := hs₁.foldl (fun _ _ hu₁ => hu₁.modPart)
  have hs₃ : s₃.MemForm := hs₂.setSession
  have hs₄ : s₄.MemForm := hs₃.setRpc
  exact (hs₄.foldl (fun _ _ hu₂ => hu₂.ok)).sessionEvent

theorem execSoloTimeout_memForm {session : ℕ} {s : State} (h : s.MemForm) : OutForm (execSoloTimeout session s) := by
  unfold execSoloTimeout
  show State.MemForm _
  split
  · exact h
  · split
    · exact h
    · refine .either h ?_
      extract_lets -underBinder run s₁
      have hs₁ : s₁.MemForm := .either h.stopGroup h
      exact .either hs₁ hs₁.soloEnd

theorem State.MemForm.loseSession {s : State} {n : ℕ} (h : s.MemForm) : (s.loseSession n).MemForm := h
theorem execRpcSessionLoss_memForm {session : ℕ} {s : State} (h : s.MemForm) : OutForm (execRpcSessionLoss session s) := h

theorem execRpcSendOversize_memForm {session : ℕ} {s : State} (h : s.MemForm) : OutForm (execRpcSendOversize session s) := by
  unfold execRpcSendOversize
  show State.MemForm _
  split
  · exact h.setRpc
  · exact h

theorem State.MemForm.sessionNote {s : State} {part code : ℕ} (h : s.MemForm) : (s.sessionNote part code).MemForm := by
  unfold State.sessionNote
  split
  · exact h.plainEvent
  · exact h

theorem State.MemForm.setHalted {s : State} {parts : List ℕ} {b : Bool} (h : s.MemForm) : (s.setHalted parts b).MemForm := h.foldl (fun _ _ hu => hu.modPart)
theorem State.MemForm.matStops {s : State} {parts : List ℕ} (h : s.MemForm) : (s.matStops parts).MemForm := h.foldl (fun _ _ hu => hu.stopOps)
theorem State.MemForm.stopParts {s : State} {parts : List ℕ} (h : s.MemForm) : (s.stopParts parts).MemForm := h.foldl (fun _ _ hu => hu.stopGroup)

theorem State.MemForm.beginHalt {s : State} {parts : List ℕ} (h : s.MemForm) : (s.beginHalt parts).MemForm := by
  unfold State.beginHalt
  refine .either h ?_
  extract_lets -underBinder s₁
  have hs₁ : s₁.MemForm := h.setHalted.matStops.stopParts
  exact .either hs₁ hs₁.sessionNote

theorem execLogAutoAdvance_memForm {part : ℕ} {s : State} (h : s.MemForm) : OutForm (execLogAutoAdvance part s) := by
  unfold execLogAutoAdvance
  show State.MemForm _
  exact .either h.beginHalt h

theorem State.MemForm.resumeWindow {s : State} {parts : List ℕ} (h : s.MemForm) : (s.resumeWindow parts).MemForm := by
  unfold State.resumeWindow
  extract_lets -underBinder d stays
  exact h.foldl (fun _ _ hu => hu.runAgain)

theorem State.MemForm.matGoes {s : State} {parts : List ℕ} (h : s.MemForm) : (s.matGoes parts).MemForm := h.foldl (fun _ _ hu => .either hu.resumeOps hu)
theorem State.MemForm.clearRequests {s : State} {parts : List ℕ} (h : s.MemForm) : (s.clearRequests parts).MemForm := h.foldl (fun _ _ hu => hu.modPart)
theorem State.MemForm.foundFull {s : State} {part : ℕ} {l : UndoLog} (h : s.MemForm) : (s.foundFull part l).MemForm := h.setLog.logHeader
theorem State.MemForm.snapBytes {s : State} {part : ℕ} (h : s.MemForm) : (s.snapBytes part).2.MemForm := h

theorem State.MemForm.beginWindow {s : State} {part : ℕ} {w : BitVec 32} (h : s.MemForm) : (s.beginWindow part w).MemForm := by
  unfold State.beginWindow
  split
  · exact h
  · extract_lets -underBinder snap b s₁ n l' s₂
    have hs₁ : s₁.MemForm := h.snapBytes
    have hs₂ : s₂.MemForm := hs₁.dropDirs
    refine .either hs₂.foundFull ?_
    split
    · exact hs₂.record.foundFull
    · next e =>
        extract_lets -underBinder win
        exact (hs₂.hwPuts.some e).setLog.logHeader

theorem State.MemForm.finishAdvance {s : State} {parts : List ℕ} (h : s.MemForm) : (s.finishAdvance parts).MemForm := by
  unfold State.finishAdvance
  extract_lets -underBinder s₁ s₂ s₃
  have hs₁ : s₁.MemForm := by
    refine h.clearRequests.foldl (fun u x₂ hu₁ => ?_)
    split
    · exact .either hu₁.beginWindow hu₁
    · exact hu₁
  have hs₂ : s₂.MemForm := hs₁.setHalted.matGoes
  have hs₃ : s₃.MemForm := .either hs₂ hs₂.resumeWindow
  split
  · exact hs₃
  · extract_lets -underBinder mine _
    exact hs₃.setRpc.foldl (fun _ _ hu₂ => hu₂.ok)

theorem State.MemForm.releaseHeld {s : State} {part : ℕ} (h : s.MemForm) : (s.releaseHeld part).MemForm := by
  unfold State.releaseHeld
  split
  · exact h
  · extract_lets -underBinder s₁
    have hs₁ : s₁.MemForm := h.setLog.logHeader
    exact hs₁.foldl (fun _ _ hu => hu.writeSector)

theorem State.MemForm.loadToken {s : State} {part : ℕ} {e : ℕ × ℕ × ℕ} (h : s.MemForm) : (s.loadToken part e).MemForm := by
  unfold State.loadToken
  extract_lets -underBinder gk who
  split
  · exact h.setInn
  · split
    · exact h.setInn
    · exact h.modCore

theorem State.MemForm.loadGroup {s : State} {x : Saved} (h : s.MemForm) : (s.loadGroup x).MemForm := .either h.setInn (.either h.setGroup h.setInn.modTeam)
theorem State.MemForm.putLocal {s : State} {tk : ℕ} {t : Team} {x : TeamSpill} {a w m : Bool} (h : s.MemForm) : (s.putLocal tk t x a w m).MemForm := h

theorem State.MemForm.loadTeam {s : State} {part tk : ℕ} {t : Team} {x : TeamSpill} (h : s.MemForm) : (s.loadTeam part tk t x).MemForm := by
  unfold State.loadTeam
  extract_lets -underBinder away taken y s₁ _ s₂ s₃ o _
  have hs₁ : s₁.MemForm := h.setTeam
  have hs₂ : s₂.MemForm := .either hs₁ hs₁.setInn
  have hs₃ : s₃.MemForm := hs₂.putLocal
  exact .either hs₃ hs₃.setInn

theorem State.MemForm.clearPart {s : State} {part : ℕ} (h : s.MemForm) : (s.clearPart part).MemForm := h

theorem State.MemForm.loadSnapshot {s : State} {part : ℕ} {x : Snapshot} (h : s.MemForm) : (s.loadSnapshot part x).MemForm := by
  unfold State.loadSnapshot
  extract_lets -underBinder s₁ _ s₂ s₃ here s₄ s₅ s₆
  have hs₁ : s₁.MemForm := h.clearPart
  have hs₂ : s₂.MemForm := hs₁.setInn
  have hs₃ : s₃.MemForm := hs₂.foldl (fun _ _ hu₁ => hu₁.loadTeam)
  have hs₄ : s₄.MemForm := hs₃.foldl (fun _ _ hu₂ => hu₂.loadGroup)
  have hs₅ : s₅.MemForm := hs₄.foldl (fun _ _ hu₃ => hu₃.loadToken)
  have hs₆ : s₆.MemForm := hs₅.foldl (fun _ _ hu₄ => hu₄.modCore)
  exact hs₆.modPart

theorem State.MemForm.unwrite {s : State} {part : ℕ} {l : UndoLog} {r : UndoRec} (h : s.MemForm) : (s.unwrite part l r).2.MemForm := by
  unfold State.unwrite
  split
  · exact h.setPoison
  · exact h.writeSector

theorem State.MemForm.reversePart {s : State} {part : ℕ} {w : BitVec 32} (h : s.MemForm) : (s.reversePart part w).2.MemForm := by
  unfold State.reversePart
  split
  · exact h
  · split
    · extract_lets -underBinder win late recs r held s₁ l' s₂ sum
      have hs₁ : s₁.MemForm := by
        refine (h.foldlSnd (fun v x₁₃ hu => ?_)).loadSnapshot
        extract_lets -underBinder u
        exact hu.unwrite
      have hs₂ : s₂.MemForm := hs₁.dropDirs.setLog.logHeader
      exact hs₂.releaseHeld
    · exact h

theorem State.MemForm.finishReverse {s : State} {ses : ℕ} (h : s.MemForm) : (s.finishReverse ses).MemForm := by
  unfold State.finishReverse
  split
  · exact h
  · extract_lets -underBinder due x s₁ res mine _ s₂
    have hs₁ : s₁.MemForm := by
      refine h.clearRequests.foldlSnd (fun u x₈ hu₁ => ?_)
      extract_lets -underBinder y
      exact hu₁.reversePart
    have hs₂ : s₂.MemForm := hs₁.setRpc
    exact .either h (hs₂.foldl (fun _ _ hu₂ => hu₂.ok))

theorem execWindowAdvanceSnapshot_memForm {part : ℕ} {s : State} (h : s.MemForm) : OutForm (execWindowAdvanceSnapshot part s) := by
  unfold execWindowAdvanceSnapshot
  extract_lets -underBinder parts
  split
  · exact h
  · split
    · split
      · exact h
      · split
        · show State.MemForm _
          exact .either h.finishReverse h.finishAdvance
        · exact h.finishAdvance
    · split
      · exact h.beginHalt
      · exact h

theorem State.MemForm.requestSwitch {s : State} {tk target : ℕ} {up : Bool} (h : s.MemForm) : (s.requestSwitch tk target up).MemForm := by
  unfold State.requestSwitch
  split
  · exact h
  · extract_lets -underBinder res
    exact h.setTeam.postUint

theorem State.MemForm.pressItem {s : State} {core : ℕ} {e : Wanting} (h : s.MemForm) : (s.pressItem core e).MemForm := by
  unfold State.pressItem
  split
  · extract_lets -underBinder cs new press rest _
    exact .either h (h.setInn.foldl (fun _ _ hu => hu.requestSwitch))

theorem State.MemForm.pressCore {s : State} {core : ℕ} (h : s.MemForm) : (s.pressCore core).MemForm := by
  unfold State.pressCore
  extract_lets -underBinder l _ s₁
  have hs₁ : s₁.MemForm := h.setInn
  exact hs₁.foldl (fun _ _ hu => hu.pressItem)

theorem State.MemForm.trackFree {s : State} {core : ℕ} (h : s.MemForm) : (s.trackFree core).MemForm := h

theorem State.MemForm.pressAll {s : State} (h : s.MemForm) : s.pressAll.MemForm := by
  unfold State.pressAll
  extract_lets -underBinder cores
  exact h.foldl (fun _ _ hu => hu.pressCore.trackFree)

theorem State.MemForm.takeOut {s : State} {gk : ℕ} (h : s.MemForm) : (s.takeOut gk).MemForm := h

theorem State.MemForm.swapOutCore {s : State} {part core : ℕ} (h : s.MemForm) : (s.swapOutCore part core).MemForm := by
  unfold State.swapOutCore
  extract_lets -underBinder gs s₁ tiles k out s₂ _
  have hs₁ : s₁.MemForm := h.foldl (fun _ _ hu => hu.setInn.takeOut)
  have hs₂ : s₂.MemForm := hs₁.setCore
  exact hs₂.setInn.modPart

theorem State.MemForm.putBack {s : State} {x : Saved} (h : s.MemForm) : (s.putBack x).MemForm := by
  unfold State.putBack
  extract_lets -underBinder tiles s₁
  have hs₁ : s₁.MemForm := h.setGroup.modCore
  exact .either hs₁.modGroup.resumeOps.rewait hs₁

theorem State.MemForm.tilesBack {s : State} {part core : ℕ} (h : s.MemForm) : (s.tilesBack part core).MemForm := by
  unfold State.tilesBack
  split
  · exact h
  · extract_lets -underBinder _ s₁
    have hs₁ : s₁.MemForm := h.setInn
    refine hs₁.foldl (fun u x₇ hu => ?_)
    extract_lets -underBinder t acc bad here _
    exact .either hu.modCore hu.setInn.setTeam

theorem State.MemForm.swapInCore {s : State} {part core : ℕ} (h : s.MemForm) : (s.swapInCore part core).MemForm := by
  unfold State.swapInCore
  extract_lets -underBinder s₁ mine _ s₂
  have hs₁ : s₁.MemForm := h.modPart.tilesBack
  have hs₂ : s₂.MemForm := hs₁.setInn
  refine hs₂.foldl (fun u x₂ hu => ?_)
  extract_lets -underBinder ok stay slot s₃ _
  have hs₃ : s₃.MemForm := .either hu hu.featPart
  exact .either hu.putBack (.either hu.putBack hs₃.setInn.modTeam)

theorem State.MemForm.swapStop {s : State} {part : ℕ} (h : s.MemForm) : (s.swapStop part).MemForm := h.foldl (fun _ _ hu => .either hu.regionStop.stopOps hu)

theorem State.MemForm.swapStep {s : State} {part : ℕ} (h : s.MemForm) : (s.swapStep part).MemForm := by
  unfold State.swapStep
  split
  · exact h
  · split
    · exact h
    · extract_lets -underBinder s₁ due s₂ left s₃ mine _
      have hs₁ : s₁.MemForm := h.swapStop
      have hs₂ : s₂.MemForm := hs₁.foldl (fun _ _ hu₁ => hu₁.swapOutCore.swapInCore)
      have hs₃ : s₃.MemForm := hs₂.modPart
      exact .either hs₂ ((hs₃.setRpc.foldl (fun _ _ hu₂ => hu₂.ok)).pressAll)

theorem execPartitionSwapExchange_memForm {part : ℕ} {s : State} (h : s.MemForm) : OutForm (execPartitionSwapExchange part s) := h.swapStep

theorem State.MemForm.traceDrained {s : State} (h : s.MemForm) : s.traceDrained.MemForm := by
  unfold State.traceDrained
  extract_lets -underBinder due mine _
  exact h.setRpc.foldl (fun _ _ hu => hu.ok)

theorem State.MemForm.writeDrop {s : State} {part : ℕ} (h : s.MemForm) : (s.writeDrop part).MemForm := by
  unfold State.writeDrop
  split
  · exact h
  · split
    · exact h.hwPut.getD h
    · exact h

theorem State.MemForm.lossNote {s : State} {part : ℕ} {rec : BitVec 512} (h : s.MemForm) : (s.lossNote part rec).MemForm := .either h.record h

theorem drainTrace_memForm {l : List (ℕ × BitVec 512)} {stuck : List ℕ} {s : State} (h : s.MemForm) : (drainTrace l stuck s).2.MemForm := by
  induction l generalizing stuck s with
  | nil => exact h
  | cons e r ih =>
    unfold drainTrace
    extract_lets keep
    split
    · exact ih h
    · split
      · split
        · exact ih h
        · exact ih h
      · split
        · next e => exact ih (h.ringPost.ofPostRes e).lossNote
        · next e => exact ih (h.ringPost.ofPostRes e).lossNote.modPart.writeDrop
        · next e => exact ih (h.ringPost.ofPostRes e)

theorem State.MemForm.drainCluster {s : State} {cluster : ℕ} (h : s.MemForm) : (s.drainCluster cluster).MemForm := by
  unfold State.drainCluster
  extract_lets -underBinder x
  exact (drainTrace_memForm h).modCluster.traceDrained

theorem execTraceBufferDrain_memForm {cluster : ℕ} {s : State} (h : s.MemForm) : OutForm (execTraceBufferDrain cluster s) := h.drainCluster

theorem State.MemForm.traceRecord {s : State} {cluster part : ℕ} {rec : BitVec 512} (h : s.MemForm) : (s.traceRecord cluster part rec).MemForm := by
  unfold State.traceRecord
  extract_lets -underBinder s₁
  have hs₁ : s₁.MemForm := by
    refine .either h ?_
    split
    · exact h.modCluster.modPart
    · exact h
  exact hs₁.modCluster

theorem execFireflyRecord_memForm {core sched : ℕ} {s : State} (h : s.MemForm) : OutForm (execFireflyRecord core sched s) := by
  unfold execFireflyRecord
  split
  · exact h
  · extract_lets -underBinder x y s₁
    have hs₁ : s₁.MemForm := h.draw.draw.modCore
    exact hs₁.traceRecord

theorem execFireflyTag_memForm {core sched : ℕ} {s : State} (h : s.MemForm) : OutForm (execFireflyTag core sched s) := by
  unfold execFireflyTag
  extract_lets -underBinder n x
  split
  · exact h
  · exact h.draw.modCore

theorem execPackageReset_memForm {s : State} (h : s.MemForm) : OutForm (execPackageReset s) := h.packageReset
theorem State.MemForm.refuse {s : State} {r : Rpc} {code : ℕ} {field : Option ℕ} (h : s.MemForm) : (s.refuse r code field).MemForm := h.reply

theorem execClusterPowerGate_memForm {cluster : ℕ} {s : State} (h : s.MemForm) : OutForm (execClusterPowerGate cluster s) := by
  unfold execClusterPowerGate
  split
  · exact h
  · extract_lets -underBinder s₁ bound mine _
    have hs₁ : s₁.MemForm := h.drainCluster
    split
    · exact hs₁
    · exact hs₁.modCluster.setRpc.foldl (fun _ _ hu => .either hu.refuse hu.ok)

theorem State.MemForm.heatRecord {s : State} {sev temp : ℕ} (h : s.MemForm) : (s.heatRecord sev temp).MemForm := by
  unfold State.heatRecord
  extract_lets -underBinder x
  exact h.draw.record

theorem execClockRaiseTimer_memForm {s : State} (h : s.MemForm) : OutForm (execClockRaiseTimer s) := by
  unfold execClockRaiseTimer
  extract_lets -underBinder p q
  split
  · exact h
  · show State.MemForm _
    exact .either h.setPorter.heatRecord h.setPorter

theorem execPowerCapExceeded_memForm {watts : ℕ} {s : State} (h : s.MemForm) : OutForm (execPowerCapExceeded watts s) := h

theorem State.MemForm.traceLost {s : State} {cluster cause : ℕ} (h : s.MemForm) : (s.traceLost cluster cause).MemForm := by
  unfold State.traceLost
  extract_lets -underBinder l new
  exact h.modCluster.drainCluster

theorem State.MemForm.freezeSaved {s : State} {x : Saved} {event : ℕ} (h : s.MemForm) : (s.freezeSaved x event).MemForm := h

theorem State.MemForm.freezeHere {s : State} {gk event : ℕ} (h : s.MemForm) : (s.freezeHere gk event).MemForm := by
  unfold State.freezeHere
  split
  · exact .either h.stopGroup h.park
  · extract_lets -underBinder up _
    exact .either h.setInn.queueEvent h

theorem State.MemForm.removeCore {s : State} {c : ℕ} (h : s.MemForm) : (s.removeCore c).MemForm := by
  unfold State.removeCore
  refine .either h ?_
  extract_lets -underBinder s₁ away s₂ s₃ _ s₄
  have hs₁ : s₁.MemForm := h.modCore
  have hs₂ : s₂.MemForm := hs₁.foldl (fun _ _ hu₁ => hu₁.freezeHere)
  have hs₃ : s₃.MemForm := hs₂.foldl (fun _ _ hu₂ => hu₂.freezeSaved)
  have hs₄ : s₄.MemForm := hs₃.setPorter
  split
  · exact hs₄.note
  · exact hs₄.foldl (fun _ _ hu₃ => hu₃.note)

theorem State.MemForm.loseCluster {s : State} {i cause : ℕ} {withStop : Bool} (h : s.MemForm) : (s.loseCluster i cause withStop).MemForm := by
  unfold State.loseCluster
  extract_lets -underBinder cores s₁ lost _ s₂ s₃ s₄ s₅ s₆ dirty s₇ _ s₈
  have failed : s₁.MemForm := h.foldl (fun _ _ hu => hu.removeCore)
  have dropped : s₂.MemForm := failed.setCoh
  have poisoned : s₃.MemForm := dropped.foldl (fun _ _ hu => hu.foldl (fun _ _ hv => hv.setPoison))
  have cleared : s₄.MemForm := State.MemForm.foldl poisoned (fun _ _ hu => hu.modCore)
  clear_value s₄
  have freed : s₅.MemForm := cleared
  have torn : s₆.MemForm := freed.modCluster.traceLost
  have removed : s₇.MemForm := torn.foldl (fun _ _ hu => .either hu hu.markRemoved)
  have closed : s₈.MemForm := removed.setCoh
  exact .either torn (closed.foldl (fun _ _ hu => hu.consume))

theorem State.MemForm.removeHottest {s : State} (h : s.MemForm) : s.removeHottest.MemForm := by
  unfold State.removeHottest
  split
  · exact h
  · extract_lets -underBinder x
    exact h.draw.loseCluster.heatRecord

theorem execCoolantFlowLoss_memForm {s : State} (h : s.MemForm) : OutForm (execCoolantFlowLoss s) := h.removeHottest

theorem execThermalHoldExpiry_memForm {s : State} (h : s.MemForm) : OutForm (execThermalHoldExpiry s) := by
  unfold execThermalHoldExpiry
  split
  · show State.MemForm _
    exact .either h.setPorter.removeHottest h
  · exact h

theorem execThermalSample_memForm {die temp : ℕ} {s : State} (h : s.MemForm) : OutForm (execThermalSample die temp s) := by
  unfold execThermalSample
  extract_lets -underBinder _ s₁ top p p₁ p₂ p₃
  have hs₁ : s₁.MemForm := h.setPorter
  split
  · exact hs₁.heatRecord.packageReset
  · split
    · exact hs₁.setPorter
    · show State.MemForm _
      exact .either hs₁.setPorter hs₁.setPorter.heatRecord

theorem State.MemForm.dropLeases {s : State} {slice : ℕ} (h : s.MemForm) : (s.dropLeases slice).MemForm := h

theorem State.MemForm.moveSlice {s : State} {i : ℕ} (h : s.MemForm) : (s.moveSlice i).MemForm := by
  unfold State.moveSlice
  extract_lets -underBinder stop at_ moved s₁ new sigs bit s₂
  have emptied : s₂.MemForm := h.dropLeases.markRemoved.foldl (fun _ _ hu => hu.l2Room)
  exact emptied

theorem State.MemForm.removeUnit {s : State} {x : UnitName} (h : s.MemForm) : (s.removeUnit x).MemForm := by
  unfold State.removeUnit
  split
  · exact .either h h.removeCore
  · exact .either h h.moveSlice
  · exact .either h h.markRemoved
  · exact .either h h.markRemoved
  · refine .either h ?_
    extract_lets -underBinder _ s₁
    have hs₁ : s₁.MemForm := h.markRemoved
    exact hs₁.foldl (fun _ _ hu₁ => hu₁.loseSession)
  · refine .either h (.abortHart ?_)
    extract_lets -underBinder _
    exact h.markRemoved
  · refine .either h ?_
    extract_lets -underBinder s₁
    have hs₁ : s₁.MemForm := h.markRemoved
    refine hs₁.foldl (fun v x₁₉ hu₂ => ?_)
    extract_lets -underBinder u
    exact hu₂.modCmd
  · exact .either h h.loseCluster

theorem execUnitRemoval_memForm {u : UnitName} {s : State} (h : s.MemForm) : OutForm (execUnitRemoval u s) := h.removeUnit

theorem execMemoryScrub_memForm {sector found : ℕ} {s : State} (h : s.MemForm) : OutForm (execMemoryScrub sector found s) := by
  unfold execMemoryScrub
  extract_lets -underBinder u
  split
  · exact h
  · split
    · exact h
    · exact h.note
    · exact h.setPoison.note

theorem State.MemForm.traceTorn {s : State} {cluster idx : ℕ} (h : s.MemForm) : (s.traceTorn cluster idx).MemForm := by
  unfold State.traceTorn
  extract_lets -underBinder l
  split
  · exact h
  · refine .either h ?_
    extract_lets -underBinder rest new
    exact h.modCluster

theorem State.MemForm.poisonLane {s : State} {core gslot lane : ℕ} (h : s.MemForm) : (s.poisonLane core gslot lane).MemForm := by
  unfold State.poisonLane
  split
  · exact .either h.abortLanes h
  · exact h

theorem State.MemForm.repairDir {s : State} {sec : ℕ} (h : s.MemForm) : (s.repairDir sec).MemForm := by
  unfold State.repairDir
  extract_lets -underBinder d
  exact .either h h.wbXlate.dropCopies.setDir

theorem State.MemForm.uncorrectable {s : State} {x : EccSite} (h : s.MemForm) : (s.uncorrectable x).2.MemForm := by
  unfold State.uncorrectable
  split
  · exact h.freezeHere
  · exact h.setPoison
  · exact h.modCore
  · split
    · exact h.setPoison
    · exact h.setPoison
    · exact h.setL1
  · exact h.modCore
  · exact h.modCore
  · split
    · exact h.l1Evict
    · exact h
  · exact h
  · split
    · exact h.leaseDrop
    · split
      · exact h
      · exact h.setPoison
  · exact h.repairDir
  · exact h.setPoison
  · exact h.leaseDrop
  · exact h.dropLeases
  · split
    · exact h.poisonLane
    · exact h
  · split
    · exact h.poisonLane
    · exact h
  · exact h.foldl (fun _ _ hu => hu.abortHart)
  · exact h.traceTorn
  · extract_lets -underBinder hit
    split
    · exact h
    · exact h.markRemoved

theorem execSoftErrorDetect_memForm {site : EccSite} {correctable : Bool} {s : State} (h : s.MemForm) : OutForm (execSoftErrorDetect site correctable s) := by
  unfold execSoftErrorDetect
  extract_lets u r
  have found : r.2.MemForm := by
    unfold r
    split
    · exact h
    · exact h.uncorrectable
  exact found.note

theorem State.MemForm.syncRecord {s : State} (h : s.MemForm) : s.syncRecord.MemForm := by
  unfold State.syncRecord
  extract_lets -underBinder x
  exact h.draw.note

theorem State.MemForm.enterUnsync {s : State} (h : s.MemForm) : s.enterUnsync.MemForm := h.setClock.setCoh.syncRecord
theorem State.MemForm.setNode {s : State} {x : Node} (h : s.MemForm) : (s.setNode x).MemForm := h
theorem State.MemForm.setLink {s : State} {l : ℕ} {x : Link} (h : s.MemForm) : (s.setLink l x).MemForm := h
theorem State.MemForm.correct {s : State} {offset : ℕ} (h : s.MemForm) : (s.correct offset).MemForm := h

theorem execPtpSync_memForm {offset : ℕ} {s : State} (h : s.MemForm) : OutForm (execPtpSync offset s) := by
  unfold execPtpSync
  split
  · exact h
  · split
    · exact h.correct
    · extract_lets -underBinder x good _ s₁ s₂ _
      have hs₁ : s₁.MemForm := h.correct.draw.setClock
      have hs₂ : s₂.MemForm := .either (hs₁.foldl (fun _ _ hu => hu.setLink)) hs₁
      split
      · exact hs₂.enterUnsync
      · split
        · exact hs₂.setClock.syncRecord
        · exact hs₂

theorem State.MemForm.losePeer {s : State} {p : ℕ} (h : s.MemForm) : (s.losePeer p).MemForm := by
  unfold State.losePeer
  refine .either h ?_
  extract_lets -underBinder _ s₁ _ s₂ left _ s₃
  have hs₁ : s₁.MemForm := h.setNode
  have hs₂ : s₂.MemForm := hs₁.setCoh
  have hs₃ : s₃.MemForm := .either hs₂.setClock hs₂
  exact hs₃.foldl (fun _ _ hu => hu.record)

theorem State.MemForm.dropLink {s : State} {link : ℕ} (h : s.MemForm) : (s.dropLink link).MemForm := h.setLink.losePeer

theorem execLinkDown_memForm {link : ℕ} {s : State} (h : s.MemForm) : OutForm (execLinkDown link s) := by
  unfold execLinkDown
  extract_lets -underBinder x
  show State.MemForm _
  exact .either h.dropLink h

theorem execLinkRetrain_memForm {link lanesOk : ℕ} {s : State} (h : s.MemForm) : OutForm (execLinkRetrain link lanesOk s) := by
  unfold execLinkRetrain
  extract_lets -underBinder x w s₁
  have hs₁ : s₁.MemForm := h.setLink
  split
  · exact h
  · split
    · exact hs₁.dropLink
    · show State.MemForm _
      exact .either hs₁.record hs₁

theorem execFlitResendTimeout_memForm {link : ℕ} {s : State} (h : s.MemForm) : OutForm (execFlitResendTimeout link s) := by
  unfold execFlitResendTimeout
  extract_lets -underBinder x _
  show State.MemForm _
  exact .either h.setLink h

theorem execNodeLinkFlit_memForm {link : ℕ} {f : BitVec 2048} {s : State} (h : s.MemForm) : OutForm (execNodeLinkFlit link f s) := by
  unfold execNodeLinkFlit
  extract_lets -underBinder _ x x₁ s₁
  have hs₁ : s₁.MemForm := h.setLink
  split
  · exact h
  · split
    · exact h.setLink
    · show State.MemForm _
      exact .either hs₁.enterUnsync hs₁

theorem execWindowMarker_memForm {link lc n : ℕ} {s : State} (h : s.MemForm) : OutForm (execWindowMarker link lc n s) := by
  unfold execWindowMarker
  extract_lets -underBinder x
  show State.MemForm _
  exact .either h (.either h.setLink (.either h.setLink h))

theorem State.MemForm.keepRow {s : State} {stack : ℕ} {row : List ℕ} (h : s.MemForm) : (s.keepRow stack row).MemForm := h

theorem State.MemForm.peerRow {s : State} {pa rlen : ℕ} (h : s.MemForm) : (s.peerRow pa rlen).2.MemForm := by
  unfold State.peerRow
  extract_lets -underBinder l x
  exact .either h.readSpans h.readSpans.keepRow

theorem State.MemForm.peerHold {s : State} {pkg ns : ℕ} {op : MemOp} (h : s.MemForm) : (s.peerHold pkg ns op).MemForm := h

theorem State.MemForm.landAway {s : State} {pa : ℕ} {bs : List Byte} (h : s.MemForm) : (s.landAway pa bs).MemForm := by
  unfold State.landAway
  refine h.foldl (fun u x₂ hu => ?_)
  split
  · exact hu.landed
  · exact hu

theorem State.MemForm.peerAtomic {s : State} {pkg pa : ℕ} {op : Aop} {t : Typ} {x y : BitVec 64} (h : s.MemForm) : (s.peerAtomic pkg pa op t x y).MemForm := by
  unfold State.peerAtomic
  refine .either ?_ ?_
  · split
    · exact h.landAway
    · exact h
  · extract_lets -underBinder r s₁ _
    have hs₁ : s₁.MemForm := h.atomicAt
    exact hs₁.setNode

theorem execOperationPacket_memForm {pkg pa : ℕ} {op : PacketOp} {t : Typ} {x y : BitVec 64} {s : State}
    (h : s.MemForm) : OutForm (execOperationPacket pkg pa op t x y s) := by
  unfold execOperationPacket
  split
  · show State.MemForm _
    split
    · exact .either h.peerAtomic h
    · exact h
    · extract_lets -underBinder n cells new
      exact .either h (h.foldl (fun _ _ hu => hu.landAway))
  · split
    · exact h
    · split
      · split
        · show State.MemForm _
          exact .either h h.peerAtomic
        · exact h.peerHold
      · extract_lets -underBinder r _
        exact h.peerRow.setNode
      · extract_lets -underBinder n r
        split
        · exact h
        · split
          · exact h.peerRow
          · exact h.peerRow.writeSpans

theorem execPeerWriteThrough_memForm {pkg pa : ℕ} {data : List Byte} {release : Option ℕ} {s : State}
    (h : s.MemForm) : OutForm (execPeerWriteThrough pkg pa data release s) := by
  unfold execPeerWriteThrough
  split
  · show State.MemForm _
    exact .either h.landAway h
  · split
    · exact h
    · split
      · show State.MemForm _
        exact .either h h.write
      · exact h.peerHold

theorem execPeerLineRead_memForm {sector : ℕ} {s : State} (h : s.MemForm) : OutForm (execPeerLineRead sector s) := by
  unfold execPeerLineRead
  show State.MemForm _
  exact .either h (.either (.either h.leaseLine h) (.either h (h.foldl (fun _ _ hu => hu.conflict.dirShare))))

theorem execPacketPromotion_memForm {s : State} (h : s.MemForm) : OutForm (execPacketPromotion s) := h
theorem execLeaseRebase_memForm {slice : ℕ} {s : State} (h : s.MemForm) : OutForm (execLeaseRebase slice s) := h.rebase

theorem State.MemForm.timedReplies {s : State} (h : s.MemForm) : s.timedReplies.MemForm := by
  unfold State.timedReplies
  extract_lets -underBinder due mine _
  refine h.setRpc.foldl (fun u x₂ hu => ?_)
  extract_lets -underBinder s₁
  have hs₁ : s₁.MemForm := hu.ok
  split
  · exact hs₁.setHalted.setDbg
  · exact hs₁

theorem State.MemForm.setQueue {s : State} {part n : ℕ} {q : Queue} (h : s.MemForm) : (s.setQueue part n q).MemForm := h.modPart

theorem State.MemForm.queueFault {s : State} {part n : ℕ} {b : Bool} (h : s.MemForm) : (s.queueFault part n b).MemForm := by
  unfold State.queueFault
  split
  · exact h.setQueue
  · exact h

theorem State.MemForm.innAt {s : State} {part va : ℕ} {acc : Access} (h : s.MemForm) : (s.innAt part va acc).2.MemForm := by
  unfold State.innAt
  split
  · next e₁ => exact h.xlate.snd e₁
  · next e₂ => exact (h.xlate.snd e₂).postFault

theorem State.MemForm.innRead {s : State} {part va n : ℕ} (h : s.MemForm) : (s.innRead part va n).2.MemForm := by
  unfold State.innRead
  split
  · next e₁ =>
      extract_lets -underBinder s₁ s₂
      have hs₁ : s₁.MemForm := (h.innAt.snd e₁).loadEffects
      have hs₂ : s₂.MemForm := .either hs₁ hs₁.loadEffects
      exact .either hs₂.consume hs₂
  · next e₂ => exact h.innAt.snd e₂

theorem State.MemForm.readTail {s : State} {part n : ℕ} (h : s.MemForm) : (s.readTail part n).MemForm := by
  unfold State.readTail
  split
  · exact h
  · split
    · next e₁ => exact (h.innRead.snd e₁).setQueue
    · next e₂ => exact (h.innRead.snd e₂).queueFault

theorem State.MemForm.payItem {s : State} {part n : ℕ} {x : Item} (h : s.MemForm) : (s.payItem part n x).MemForm := by
  unfold State.payItem
  extract_lets -underBinder put
  have kept : ∀ (t : State) (y : Item), t.MemForm → (put t y).MemForm := fun t y ht => by
    unfold put
    split
    · exact ht.setQueue
    · exact ht
  refine .either (kept _ _ h) ?_
  split
  · next e => exact kept _ _ (h.innAt.snd e)
  · next e =>
    have reached := h.innAt.snd e
    exact .either (kept _ _ reached).atomicAt (kept _ _ reached)

theorem State.MemForm.payLoop {f part n : ℕ} {s : State} (h : s.MemForm) : (State.payLoop f part n s).MemForm := by
  induction f generalizing s with
  | zero => exact h
  | succ f ih =>
    unfold State.payLoop
    split
    · exact h
    · exact .either h.payItem (ih h.payItem)

theorem State.MemForm.headLine {s : State} {part n : ℕ} (h : s.MemForm) : (s.headLine part n).MemForm := by
  unfold State.headLine
  split
  · exact h
  · split
    · next e₁ => exact (h.innAt.snd e₁).setQueue.write
    · next e₂ => exact (h.innAt.snd e₂).setQueue

theorem State.MemForm.advanceQueue {s : State} {part n : ℕ} {changed : Bool} (h : s.MemForm) : (s.advanceQueue part n changed).MemForm := by
  unfold State.advanceQueue
  split
  · exact h
  · extract_lets -underBinder q' s₁
    have hs₁ : s₁.MemForm := h.setQueue
    exact .either hs₁.headLine hs₁

theorem State.MemForm.payQueue {s : State} {part n : ℕ} (h : s.MemForm) : (s.payQueue part n).MemForm := by
  unfold State.payQueue
  split
  · exact h
  · exact h.payLoop.advanceQueue

theorem State.MemForm.depsHold {s : State} {part : ℕ} {l : List (ℕ × ℕ)} (h : s.MemForm) : (s.depsHold part l).2.MemForm := by
  induction l generalizing s with
  | nil => exact h
  | cons d r ih =>
    unfold State.depsHold
    split
    · next e =>
      split
      · exact ih (h.innRead.snd e)
      · exact h.innRead.snd e
    · next e => exact h.innRead.snd e

theorem State.MemForm.readyLoop {f part n : ℕ} {s : State} (h : s.MemForm) : (State.readyLoop f part n s).MemForm := by
  induction f generalizing s with
  | zero => exact h
  | succ f ih =>
    unfold State.readyLoop
    split
    · exact h
    refine .either h ?_
    extract_lets -underBinder r
    have fetched : r.2.MemForm := by
      unfold r
      split
      · exact h
      · split
        · next e => exact h.innRead.snd e
        · next e => exact h.innRead.snd e
    clear_value r
    split
    · exact fetched.queueFault
    extract_lets -underBinder s₁ d s₂ q _ s₃ s₄ _
    have kept : s₁.MemForm := fetched.setQueue
    have deps : s₂.MemForm := kept.depsHold.snd rfl
    have set : s₃.MemForm := deps.setQueue
    have recorded : s₄.MemForm := set.record
    exact .either kept (.either kept (.either deps.queueFault (.either deps (.either (ih recorded.advanceQueue) deps.setQueue))))

theorem State.MemForm.readyQueue {s : State} {part n : ℕ} (h : s.MemForm) : (s.readyQueue part n).MemForm := by
  unfold State.readyQueue
  split
  · exact .either h h.readyLoop
  · exact h

theorem State.MemForm.refreshQueue {s : State} {part n : ℕ} (h : s.MemForm) : (s.refreshQueue part n).MemForm := h.payQueue.readyQueue

theorem State.MemForm.retryQueue {s : State} {part n : ℕ} (h : s.MemForm) : (s.retryQueue part n).MemForm := by
  unfold State.retryQueue
  split
  · exact .either h.readTail.refreshQueue (.either h.refreshQueue h)
  · exact h

theorem State.MemForm.windowPart {s : State} {part : ℕ} (h : s.MemForm) : (s.windowPart part).MemForm := h.foldl (fun _ _ hu => hu.retryQueue.readyQueue)
theorem State.MemForm.rereadWatches {s : State} (h : s.MemForm) : s.rereadWatches.MemForm := h

theorem State.MemForm.retryPostings {s : State} (h : s.MemForm) : s.retryPostings.MemForm := by
  unfold State.retryPostings
  extract_lets -underBinder s₁ s₂
  have hs₁ : s₁.MemForm := h.foldl (fun _ _ hu₁ => hu₁.overflow)
  have hs₂ : s₂.MemForm := hs₁.foldl (fun _ _ hu₂ => .either hu₂ hu₂.drainFaults)
  exact hs₂.foldl (fun _ _ hu₃ => .either hu₃ hu₃.drainCluster)

theorem execVisibilityWindowStart_memForm {s : State} (h : s.MemForm) : OutForm (execVisibilityWindowStart s) := by
  unfold execVisibilityWindowStart
  extract_lets -underBinder s₁ s₂ s₃
  have hs₁ : s₁.MemForm := h.foldl (fun _ _ hu₁ => hu₁.setLink)
  have hs₂ : s₂.MemForm := hs₁.rereadWatches.retryPostings
  have hs₃ : s₃.MemForm := hs₂.foldl (fun _ _ hu₂ => hu₂.windowPart)
  exact hs₃.pressAll.timedReplies

theorem execL2Eviction_memForm {line : ℕ} {s : State} (h : s.MemForm) : OutForm (execL2Eviction line s) := h.l2Evict
theorem State.MemForm.l1WriteBack {s : State} {core sector : ℕ} (h : s.MemForm) : (s.l1WriteBack core sector).MemForm := .l1Drop (.either h.wbXlate h)
theorem execDirectoryWriteBack_memForm {core sector : ℕ} {s : State} (h : s.MemForm) : OutForm (execDirectoryWriteBack core sector s) := h.l1WriteBack

theorem execDirectoryOwnership_memForm {core sector : ℕ} {s : State} (h : s.MemForm) : OutForm (execDirectoryOwnership core sector s) := by
  unfold execDirectoryOwnership
  show State.MemForm _
  refine .either ?_ h
  extract_lets -underBinder w s₁
  have hs₁ : s₁.MemForm := h.conflict.dirOwn.rowsDrop
  exact .either hs₁.notice hs₁

theorem execDirectoryRead_memForm {core sector : ℕ} {s : State} (h : s.MemForm) : OutForm (execDirectoryRead core sector s) := by
  unfold execDirectoryRead
  show State.MemForm _
  exact .either h.conflict.dirRead h

theorem execRingHeadAdvance_memForm {part : ℕ} {s : State} (h : s.MemForm) : OutForm (execRingHeadAdvance part s) := by
  unfold execRingHeadAdvance
  show State.MemForm _
  exact .either h.overflow.retryPostings h

theorem execPageWalk_memForm {die part : ℕ} {va : BitVec 64} {acc : Access} {s : State} (h : s.MemForm) : OutForm (execPageWalk die part va acc s) := by
  unfold execPageWalk
  split
  · exact h
  · split
    · next e₁ => exact h.xlate.snd e₁
    · next e₂ =>
        show State.MemForm _
        exact .either ((h.xlate.snd e₂).postFault) (h.xlate.snd e₂)

theorem execOstlerRegisterWrite_memForm {core off : ℕ} {bytes : List Byte} {s : State} (h : s.MemForm) : OutForm (execOstlerRegisterWrite core off bytes s) :=
  h.privWrite

theorem execShootdownComplete_memForm {hart : ℕ} {s : State} (h : s.MemForm) : OutForm (execShootdownComplete hart s) := by
  unfold execShootdownComplete
  extract_lets -underBinder k parts
  show State.MemForm _
  exact .either h.setHart h

theorem State.MemForm.doomPage {s : State} {parts : List ℕ} {inside : ℕ → Bool} (h : s.MemForm) : (s.doomPage parts inside).MemForm := by
  unfold State.doomPage
  extract_lets -underBinder hit s' root hs
  have hs' : s'.MemForm := h
  exact hs'.foldl (fun _ _ hu => hu.abortHart)

theorem State.MemForm.flushPage {s : State} {parts : List ℕ} {inside : ℕ → Bool} {cluster : ℕ} (h : s.MemForm) : (s.flushPage parts inside cluster).MemForm := by
  unfold State.flushPage
  refine h.foldl (fun u x₂ hu₁ => ?_)
  extract_lets -underBinder c
  exact hu₁.foldl (fun _ _ hu₂ => hu₂.l1Evict)

theorem State.MemForm.shoot {s : State} {part : ℕ} {v : BitVec 64} {all : Bool} (h : s.MemForm) : (s.shoot part v all).MemForm := by
  unfold State.shoot
  extract_lets -underBinder root parts dies s₁ s₂ s₃
  have hs₁ : s₁.MemForm := .either h h.walkReads
  have hs₂ : s₂.MemForm := hs₁.foldl (fun _ _ hu₁ => hu₁.flushPage)
  have hs₃ : s₃.MemForm := hs₂.foldl (fun _ _ hu₂ => hu₂.setTlb)
  exact .either hs₃.doomPage hs₃

theorem State.MemForm.hartIllegal {s : State} {hart : ℕ} (h : s.MemForm) : (s.hartIllegal hart).MemForm := by
  unfold State.hartIllegal
  split
  · next e => exact (h.draw.snd e).hartTrap

theorem State.MemForm.csrWrite {s : State} {hart : ℕ} {ok : Hart → Bool} {f : State → ℕ → State}
    (h : s.MemForm) (hf : ∀ t a₁, t.MemForm → (f t a₁).MemForm) : OutForm (s.csrWrite hart ok f) := by
  unfold State.csrWrite
  extract_lets -underBinder k
  split
  · exact h.abortHart
  · split
    · exact h.hartIllegal
    · split
      · exact h.modHart
      · exact (hf _ _ h).modHart

theorem execXvshootAll_memForm {hart : ℕ} {v : BitVec 64} {s : State} (h : s.MemForm) : OutForm (execXvshootAll hart v s) :=
  h.csrWrite (fun _ _ hu => .either hu hu.shoot.modHart)

theorem execXvshootPage_memForm {hart : ℕ} {v : BitVec 64} {s : State} (h : s.MemForm) : OutForm (execXvshootPage hart v s) :=
  h.csrWrite (fun _ _ hu => .either hu hu.shoot.modHart)

theorem State.MemForm.oneOf {s : State} {l : List ℕ} (h : s.MemForm) : (s.oneOf l).2.MemForm := by
  unfold State.oneOf
  split
  · exact h
  · extract_lets -underBinder x
    exact h.draw

theorem State.MemForm.pageXfault {s : State} {g : Group} (h : s.MemForm) : (s.pageXfault g).2.MemForm := by
  unfold State.pageXfault
  extract_lets -underBinder c
  exact h.oneOf

theorem State.MemForm.freezeParked {s : State} {p id : ℕ} (h : s.MemForm) : (s.freezeParked p id).MemForm := by
  unfold State.freezeParked
  refine .either h (.either ?_ ?_)
  · extract_lets -underBinder gk note
    split
    · extract_lets -underBinder x s₁
      have hs₁ : s₁.MemForm := h.pageXfault.setGroup
      exact .record (.either hs₁ hs₁.park)
    · split
      · exact h
      · extract_lets -underBinder x up _ s₁
        have hs₁ : s₁.MemForm := h.pageXfault.setInn
        exact hs₁.queueEvent.record
  · split
    · split
      · exact .either h.freezeQueue h
      · exact h
    · exact h

theorem execXvfreeze_memForm {hart : ℕ} {v : BitVec 64} {s : State} (h : s.MemForm) : OutForm (execXvfreeze hart v s) := h.csrWrite (fun _ _ hu => hu.freezeParked)

theorem State.MemForm.wake {s : State} {p id : ℕ} (h : s.MemForm) : (s.wake p id).MemForm := by
  unfold State.wake
  refine .either h (.either ?_ ?_)
  · extract_lets -underBinder up
    split
    · exact .either h.setGroup h.runAgain
    · exact h.setInn
  · split
    · exact .either h.modCmd h
    · exact h

theorem execXvwake_memForm {hart : ℕ} {v : BitVec 64} {s : State} (h : s.MemForm) : OutForm (execXvwake hart v s) := h.csrWrite (fun _ _ hu => hu.wake)

theorem execXvuint_memForm {hart : ℕ} {v : BitVec 64} {s : State} (h : s.MemForm) : OutForm (execXvuint hart v s) := by
  unfold execXvuint
  refine h.csrWrite (fun _ _ hu => ?_)
  split
  · exact .either hu.postUint hu
  · exact hu

theorem execUpost_memForm {core : ℕ} {v : BitVec 64} {s : State} (h : s.MemForm) : OutForm (execUpost core v s) := h.upost
theorem State.MemForm.putBytes {s : State} {p : Place} {l : List Byte} (h : s.MemForm) : (s.putBytes p l).MemForm := State.putBytes_wf l s p h

theorem State.MemForm.lineBack {s : State} {line : ℕ} (h : s.MemForm) : (s.lineBack line).MemForm := by
  unfold State.lineBack
  extract_lets -underBinder src bs bad _ s₁ s₂
  have hs₁ : s₁.MemForm := h.setCoh
  have hs₂ : s₂.MemForm := hs₁.putBytes
  exact hs₂.foldl (fun _ _ hu => hu.setPoison.setDir)

theorem execWindowLineWriteback_memForm {cluster idx : ℕ} {s : State} (h : s.MemForm) : OutForm (execWindowLineWriteback cluster idx s) := by
  unfold execWindowLineWriteback
  split
  · exact h
  · extract_lets -underBinder e s₁
    have hs₁ : s₁.MemForm := h.modCluster
    exact hs₁.modCore
  · extract_lets -underBinder s₁
    have hs₁ : s₁.MemForm := h.lineBack
    exact hs₁.modCluster

theorem execWindowUnmap_memForm {core idx : ℕ} {entry : BitVec 64} {s : State} (h : s.MemForm) : OutForm (execWindowUnmap core idx entry s) := by
  unfold execWindowUnmap
  show State.MemForm _
  exact .either h h.windowUnmap

theorem State.MemForm.markLine {s : State} {key off pa : ℕ} (h : s.MemForm) : (s.markLine key off pa).MemForm := by
  unfold State.markLine
  extract_lets -underBinder s₁ _
  have hs₁ : s₁.MemForm := by
    refine h.foldl (fun u x₂ hu => ?_)
    extract_lets -underBinder sec _
    exact hu.wbXlate.dropCopies.setDir.leaseDrop.rowsDrop
  exact hs₁.setCoh

theorem execWindowMapValid_memForm {cluster idx : ℕ} {s : State} (h : s.MemForm) : OutForm (execWindowMapValid cluster idx s) := by
  unfold execWindowMapValid
  split
  · exact h
  · extract_lets -underBinder e s₁ s₂
    have hs₁ : s₁.MemForm := h.foldl (fun _ _ hu => hu.markLine)
    have hs₂ : s₂.MemForm := hs₁.modCluster
    exact hs₂

theorem execWindowMap_memForm {core idx : ℕ} {entry : BitVec 64} {s : State} (h : s.MemForm) : OutForm (execWindowMap core idx entry s) := by
  unfold execWindowMap
  show State.MemForm _
  exact .either h.windowMap h

theorem execEngctlDiscard_memForm {tk : ℕ} {s : State} (h : s.MemForm) : OutForm (execEngctlDiscard tk s) := h.engDiscard
theorem execEngctlResume_memForm {tk : ℕ} {s : State} (h : s.MemForm) : OutForm (execEngctlResume tk s) := h.engResume
theorem execGctlHalt_memForm {gk : ℕ} {s : State} (h : s.MemForm) : OutForm (execGctlHalt gk s) := h.modGroup
theorem execGctlStep_memForm {gk : ℕ} {ord : BitVec 16} {lanes : LaneMask} {s : State} (h : s.MemForm) : OutForm (execGctlStep gk ord lanes s) := h.resume
theorem execGctlResume_memForm {gk : ℕ} {ord : BitVec 16} {lanes : LaneMask} {s : State} (h : s.MemForm) : OutForm (execGctlResume gk ord lanes s) := h.resume
theorem execEventQueueEntryWrite_memForm {core : ℕ} {s : State} (h : s.MemForm) : OutForm (execEventQueueEntryWrite core s) := h

theorem State.MemForm.freeze {s : State} {gk event subc op : ℕ} {lanes : LaneMask} {offs : ℕ} (h : s.MemForm) : (s.freeze gk event subc op lanes offs).MemForm := by
  unfold State.freeze
  split
  · exact h
  · extract_lets -underBinder x s₁
    have hs₁ : s₁.MemForm := h.setGroup.regionStop
    exact hs₁.record

theorem State.MemForm.dog {s : State} {gk subc : ℕ} {due : Group → Bool} (h : s.MemForm) : (s.dog gk subc due).MemForm := by
  unfold State.dog
  split
  · exact h
  · next e => exact .either ((h.stand.pair e).freeze) (h.stand.pair e)

theorem execWatchdogNoWaypoint_memForm {gk : ℕ} {s : State} (h : s.MemForm) : OutForm (execWatchdogNoWaypoint gk s) := h.dog
theorem execWatchdogPendingStop_memForm {gk : ℕ} {s : State} (h : s.MemForm) : OutForm (execWatchdogPendingStop gk s) := h.dog
theorem State.MemForm.violation {s : State} {gk : ℕ} {o : MemOp} (h : s.MemForm) : (s.violation gk o).MemForm := h.freeze

theorem execPartitionViolation_memForm {gk id : ℕ} {s : State} (h : s.MemForm) : OutForm (execPartitionViolation gk id s) := by
  unfold execPartitionViolation
  split
  · show State.MemForm _
    exact .either h.violation h
  · exact h

theorem execExecutionFreeze_memForm {gk event subc op : ℕ} {lanes : LaneMask} {s : State}
    (h : s.MemForm) : OutForm (execExecutionFreeze gk event subc op lanes s) := by
  unfold execExecutionFreeze
  split
  · exact h
  · next e =>
      show State.MemForm _
      exact .either ((h.stand.pair e).freeze) (h.stand.pair e)

theorem State.MemForm.haltParts {s : State} {parts : List ℕ} {but : Option ℕ} (h : s.MemForm) : (s.haltParts parts but).MemForm := h
theorem State.MemForm.meetBreaks {s : State} {t : Stand} (h : s.MemForm) : (s.meetBreaks t).MemForm := h.foldl (fun _ _ hu => hu.modPart)

theorem execPreciseStop_memForm {gk : ℕ} {s : State} (h : s.MemForm) : OutForm (execPreciseStop gk s) := by
  unfold execPreciseStop
  split
  · exact h
  · next heq =>
      split
      · exact h.stand.pair heq
      · extract_lets -underBinder evs hit all n e s₁ s₂
        have hs₁ : s₁.MemForm := (h.stand.pair heq).meetBreaks.oneOf.modGroup
        have hs₂ : s₂.MemForm := hs₁.park.tokenBack
        split
        · exact (h.stand.pair heq).meetBreaks.modGroup
        · split
          · exact h.stand.pair heq
          · show State.MemForm _
            refine .either ?_ hs₂
            split
            · extract_lets -underBinder s₃ _
              have hs₃ : s₃.MemForm := hs₂.haltParts
              exact hs₃.setDbg.haltDone
            · exact hs₂.haltParts

theorem State.MemForm.takeTrap {s : State} {gk : ℕ} {g : Group} {c wp : ℕ} (h : s.MemForm) : (s.takeTrap gk g c wp).MemForm := by
  unfold State.takeTrap
  split
  · exact .either h h.unask.modGroup
  · exact .either (.either h h.modGroup.park) h.modGroup

theorem execUserTrapEntry_memForm {gk cause : ℕ} {s : State} (h : s.MemForm) : OutForm (execUserTrapEntry gk cause s) := by
  unfold execUserTrapEntry
  split
  · exact h
  · split
    · next e =>
        show State.MemForm _
        exact .either ((h.stand.pair e).takeTrap) (h.stand.pair e)
    · show State.MemForm _
      exact .either h.takeTrap h

theorem State.MemForm.unspill {s : State} {tk : ℕ} {t : Team} (h : s.MemForm) : (s.unspill tk t).MemForm := by
  unfold State.unspill
  split
  · exact h
  · extract_lets -underBinder s₁ _
    have hs₁ : s₁.MemForm := h.putLocal.modCore
    exact hs₁.setInn.modPart.setTeam

theorem execGroupRestore_memForm {core : ℕ} {s : State} (h : s.MemForm) : OutForm (execGroupRestore core s) := by
  unfold execGroupRestore
  split
  · exact h
  · extract_lets -underBinder tk
    split
    · exact h
    · split
      · exact h.featRefused
      · split
        · exact h
        · extract_lets -underBinder s₁ _ s₂ s₃ s₄ s₅
          have hs₁ : s₁.MemForm := h.unspill
          have hs₂ : s₂.MemForm := hs₁.setInn
          have hs₃ : s₃.MemForm := by
            unfold s₃
            split
            · exact hs₂.modPart
            · exact hs₂
          have hs₄ : s₄.MemForm := hs₃.putBack
          have hs₅ : s₅.MemForm := hs₄.modTeam.wholeAgain
          exact hs₅.maybeEnd.trackFree

theorem State.MemForm.spillSpan {s : State} {part n : ℕ} (h : s.MemForm) : PairForm (s.spillSpan part n) := by
  unfold State.spillSpan
  split
  · trivial
  · cases firstGap _ _ _ _ with
    | none => trivial
    | some o => exact h

theorem State.MemForm.spillFill {s : State} {part off n : ℕ} (h : s.MemForm) : (s.spillFill part off n).MemForm := by
  unfold State.spillFill
  extract_lets -underBinder base k _
  refine h.setClock.foldl (fun u x₂ hu => ?_)
  extract_lets -underBinder bs
  exact hu.hwPut.getD hu

theorem State.MemForm.spillTake {s : State} {part n : ℕ} (h : s.MemForm) : PairForm (s.spillTake part n) := by
  unfold State.spillTake
  cases e : s.spillSpan part n with
  | none => trivial
  | some x => exact (h.spillSpan.pair e).spillFill

theorem execAllocationSpill_memForm {tk : ℕ} {s : State} (h : s.MemForm) : OutForm (execAllocationSpill tk s) := by
  unfold execAllocationSpill
  split
  · exact h
  next t _ =>
  extract_lets -underBinder core r
  have found : PairForm r := by
    unfold r
    split
    · exact h
    · exact h.spillTake
  clear_value r
  split
  · exact h
  cases r with
  | none => exact h
  | some x => exact (State.MemForm.either found.modCore found).setInn.setTeam

theorem State.MemForm.evict {s : State} {gk : ℕ} (h : s.MemForm) : (s.evict gk).MemForm := by
  unfold State.evict
  split
  · exact h
  extract_lets -underBinder stay s₁
  have stopped : s₁.MemForm := .either h.regionStop h
  split
  · exact stopped
  extract_lets -underBinder bytes fits r s₂ _ s₃ _ s₄
  have room : r.2.MemForm := by
    unfold r
    split
    · exact stopped
    · split
      · next e => exact stopped.spillTake.pair e
      · exact stopped
  have away : s₄.MemForm := State.MemForm.takeOut (s := s₃.setClock _) room
  exact .either h (.either (.either stopped.resumeOps stopped) away.modTeam)

theorem execSwitchGraceExpiry_memForm {core : ℕ} {s : State} (h : s.MemForm) : OutForm (execSwitchGraceExpiry core s) := by
  unfold execSwitchGraceExpiry
  extract_lets -underBinder s₁
  have hs₁ : s₁.MemForm := h.pressCore
  show State.MemForm _
  split
  · exact (hs₁.foldl (fun _ _ hu => hu.evict)).trackFree
  · exact hs₁

theorem execUpshiftQuantumExpiry_memForm {tk : ℕ} {s : State} (h : s.MemForm) : OutForm (execUpshiftQuantumExpiry tk s) := by
  unfold execUpshiftQuantumExpiry
  extract_lets -underBinder s₁
  have hs₁ : s₁.MemForm := h.trackFree
  split
  · exact hs₁
  · split
    · exact hs₁.requestSwitch.trackFree
    · exact hs₁

theorem State.MemForm.unbindTeam {s : State} {tk : ℕ} {t : Team} {x : Item} (h : s.MemForm) : (s.unbindTeam tk t x).MemForm := by
  unfold State.unbindTeam
  refine h.foldl (fun u x₂ hu => ?_)
  extract_lets -underBinder j
  exact .either hu hu.modTeam

theorem State.MemForm.delTeam {s : State} {tk : ℕ} (h : s.MemForm) : (s.delTeam tk).MemForm := h

theorem execWorkgroupRetire_memForm {tk : ℕ} {s : State} (h : s.MemForm) : OutForm (execWorkgroupRetire tk s) := by
  unfold execWorkgroupRetire
  split
  · exact h
  · split
    · exact h
    · extract_lets -underBinder owed s₁ s₂ s₃ s₄ _ s₅
      have hs₁ : s₁.MemForm := .either h.engDiscard h
      have hs₂ : s₂.MemForm := hs₁.write
      have hs₃ : s₃.MemForm := hs₂.modCore.delTeam
      have hs₄ : s₄.MemForm := by
        unfold s₄
        split
        · exact hs₃
        · extract_lets -underBinder s₆ y
          have hs₆ : s₆.MemForm := hs₃.unbindTeam
          split
          · exact hs₆.setQueue
          · exact hs₆
      have hs₅ : s₅.MemForm := hs₄.setClock
      exact .trackFree (.pressAll (.either hs₅.readyQueue hs₅.refreshQueue))

theorem State.MemForm.retryOthers {s : State} {part n : ℕ} (h : s.MemForm) : (s.retryOthers part n).MemForm := h.foldl (fun _ _ hu => hu.retryQueue)

theorem execDependenceCounterChange_memForm {part queue : ℕ} {s : State} (h : s.MemForm) : OutForm (execDependenceCounterChange part queue s) :=
  .pressAll (.retryOthers (.either h.retryQueue h.readyQueue))

theorem execTailLineWrite_memForm {part queue : ℕ} {s : State} (h : s.MemForm) : OutForm (execTailLineWrite part queue s) :=
  h.readTail.refreshQueue.retryOthers.pressAll

theorem State.MemForm.logStart {s : State} {part : ℕ} (h : s.MemForm) : (s.logStart part).MemForm := by
  unfold State.logStart
  split
  · exact h
  · exact .either h h.setLog.beginWindow

theorem State.MemForm.undItem {s : State} {part : ℕ} {x : Item} (h : s.MemForm) : (s.undItem part x).MemForm := by
  unfold State.undItem
  refine .either h ?_
  split
  · exact h.modPart
  · exact .either h h.logStart

theorem State.MemForm.deliver {s : State} {gk : ℕ} (h : s.MemForm) : (s.deliver gk).MemForm := h.modGroup

theorem State.MemForm.writeMailbox {s : State} {tk : ℕ} {t : Team} (h : s.MemForm) : (s.writeMailbox tk t).MemForm := by
  unfold State.writeMailbox
  extract_lets -underBinder at_ s₁
  have hs₁ : s₁.MemForm := h.write
  exact hs₁.write

theorem State.MemForm.makeGroups {s : State} {tk : ℕ} {t : Team} {v : Variant} {off : ℕ} (h : s.MemForm) : (s.makeGroups tk t v off).MemForm := by
  unfold State.makeGroups
  refine h.foldl (fun u x₂ hu => ?_)
  split
  · exact hu.setGroup
  · exact hu

theorem State.MemForm.bindTeam {s : State} {tk : ℕ} {x : Item} {placed : ℕ} (h : s.MemForm) : (s.bindTeam tk x placed).MemForm := by
  unfold State.bindTeam
  split
  · exact h
  · extract_lets -underBinder l mates entry tab s₁
    have hs₁ : s₁.MemForm := h.setTeam
    refine hs₁.foldl (fun u x₇ hu => ?_)
    extract_lets -underBinder j
    exact .either hu hu.modTeam

theorem State.MemForm.innOpen {s : State} {part va n : ℕ} (h : s.MemForm) : (s.innOpen part va n).2.MemForm := by
  induction n with
  | zero => exact h
  | succ n ih =>
    unfold State.innOpen
    split
    · next e => exact ih.snd e
    · next e => exact (ih.snd e).innAt

theorem State.MemForm.innLines {s : State} {part va n : ℕ} (h : s.MemForm) : (s.innLines part va n).2.MemForm := by
  induction n with
  | zero => exact h
  | succ n ih =>
    unfold State.innLines
    split
    · next e => exact ih.snd e
    · next e₁ =>
      split
      · next e₂ => exact .of ((ih.snd e₁).innRead.snd e₂) rfl
      · next e₂ => exact (ih.snd e₁).innRead.snd e₂

theorem State.MemForm.capturePages {s : State} {part base arglen : ℕ} {c : Capture} (h : s.MemForm) : (s.capturePages part base arglen c).2.MemForm := by
  unfold State.capturePages
  split
  · next heq₁ => exact h.innRead.snd heq₁
  · next heq₂ =>
      extract_lets -underBinder head r
      refine ((h.innRead.snd heq₂).foldlSnd (fun u₁ x₉ hu₁ => ?_)).foldlSsnd (fun u₂ x₁₂ hu₂ => ?_)
      · split
        · next heq₃ => exact hu₁.innRead.snd heq₃
        · next heq₄ => exact hu₁.innRead.snd heq₄
      · split
        · next heq₅ =>
            extract_lets -underBinder e
            exact hu₂.innRead.snd heq₅
        · next heq₆ => exact hu₂.innRead.snd heq₆

theorem State.MemForm.captureEnd {s : State} {part : ℕ} {p : Part} {base arglen used : ℕ} (h : s.MemForm) : (s.captureEnd part p base arglen used).2.MemForm := by
  unfold State.captureEnd
  split
  · exact h
  · extract_lets -underBinder x
    exact h.capturePages

theorem State.MemForm.captureItem {s : State} {part queue : ℕ} {x : Item} {im : Image} (h : s.MemForm) : (s.captureItem part queue x im).2.MemForm := by
  unfold State.captureItem
  split
  · exact h
  · split
    · exact h
    · extract_lets -underBinder w used
      split
      · exact h.captureEnd
      · split
        · next e₁ => exact h.captureEnd.innLines.snd e₁
        · next e₂ =>
            split
            · next e₃ => exact (h.captureEnd.innLines.snd e₂).innOpen.snd e₃
            · next e₄ =>
                extract_lets -underBinder c head s₁
                have hs₁ : s₁.MemForm := ((h.captureEnd.innLines.snd e₂).innOpen.snd e₄).foldl (fun _ _ hu => hu.hwPut.getD hu)
                exact hs₁.modPart

theorem State.MemForm.grant {s : State} {lodge part queue : ℕ} {x : Item} {im : Image} {var : ℕ} (h : s.MemForm) : (s.grant lodge part queue x im var).MemForm := by
  unfold State.grant
  split
  · split
    · next e₁ => exact (h.captureItem.snd e₁).queueFault
    · next e₂ =>
        extract_lets -underBinder core tk n last s₁ s₂ s₃ hs q t t₁ _ s₄ s₅ s₆ s₇ _ s₈
        have hs₁ : s₁.MemForm := (h.captureItem.snd e₂).modPart
        have hs₂ : s₂.MemForm := by
          unfold s₂
          split
          · extract_lets -underBinder q₁
            exact hs₁.setQueue
          · exact hs₁
        have hs₃ : s₃.MemForm := .either hs₂.headLine hs₂
        have hs₄ : s₄.MemForm := hs₃.setClock.modCore
        have hs₅ : s₅.MemForm := hs₄.setTeam.bindTeam
        have hs₆ : s₆.MemForm := hs₅.makeGroups
        have hs₇ : s₇.MemForm := hs₆.writeMailbox
        have hs₈ : s₈.MemForm := hs₇.deliver.setInn
        exact hs₈.undItem.readyQueue.trackFree
  · exact h

theorem State.MemForm.grantLoop {n : ℕ} {s : State} (h : s.MemForm) : (State.grantLoop n s).MemForm := by
  induction n generalizing s with
  | zero => exact h
  | succ n ih =>
    unfold State.grantLoop
    split
    · exact h
    · exact .either (ih h.grant) h.grant

theorem State.MemForm.featRecords {s : State} (h : s.MemForm) : s.featRecords.MemForm := h.foldl (fun _ _ hu => .either hu hu.featItem)

theorem execInnkeeperGrant_memForm {s : State} (h : s.MemForm) : OutForm (execInnkeeperGrant s) := by
  unfold execInnkeeperGrant
  extract_lets -underBinder s₁
  have hs₁ : s₁.MemForm := h.featRecords.foldl (fun _ _ hu => hu.trackFree)
  show State.MemForm _
  exact .either hs₁.pressAll hs₁.grantLoop.pressAll

theorem State.MemForm.judge {s : State} {r : Rpc} {l : List Ground} {run : State → State}
    (h : s.MemForm) (hrun : ∀ t, t.MemForm → (run t).MemForm) : (s.judge r l run).MemForm := by
  unfold State.judge
  extract_lets -underBinder hold
  split
  · exact hrun _ h
  · exact h.refuse
  · extract_lets -underBinder x c
    exact h.draw.refuse

theorem execBadopRequest_memForm {r : Rpc} {s : State} (h : s.MemForm) : OutForm (execBadopRequest r s) :=
  State.MemForm.either (h.judge (fun _ ht => ht)) (h.judge (fun _ ht => ht))

theorem State.MemForm.dropWindows {s : State} {part : ℕ} (h : s.MemForm) : (s.dropWindows part).MemForm := by
  unfold State.dropWindows
  refine h.foldl (fun u₁ x₂ hu₁ => ?_)
  refine hu₁.foldl (fun u₂ x₈ hu₂ => ?_)
  refine .either hu₂ ?_
  extract_lets -underBinder lines s₁ s₂
  have hs₁ : s₁.MemForm := hu₂.foldl (fun _ _ hu₃ => hu₃.lineBack)
  have hs₂ : s₂.MemForm := hs₁.modCluster
  exact hs₂.modCore

theorem State.MemForm.freePart {s : State} {part : ℕ} (h : s.MemForm) : (s.freePart part).MemForm := by
  unfold State.freePart
  split
  · exact h
  · extract_lets -underBinder s₁ s₂ s₃ tiles ses _ _ s₄
    have hs₁ : s₁.MemForm := h.dropWindows.foldl (fun _ _ hu₁ => hu₁.flushPage)
    have hs₂ : s₂.MemForm := hs₁.foldl (fun _ _ hu₂ => hu₂.regionStop.endGroup)
    have hs₃ : s₃.MemForm := hs₂.foldl (fun _ _ hu₃ => hu₃.abortHart.modHart)
    have hs₄ : s₄.MemForm := hs₃
    split
    · exact hs₄.setDbg
    · extract_lets -underBinder left _
      exact hs₄.setDbg

theorem State.MemForm.finishDying {s : State} (h : s.MemForm) : s.finishDying.MemForm := by
  unfold State.finishDying
  refine h.foldl (fun u x₂ hu => ?_)
  split
  · exact .either hu.freePart.ok.pressAll hu
  · exact hu

theorem State.MemForm.startDestroy {s : State} {part : ℕ} {r : Rpc} (h : s.MemForm) : (s.startDestroy part r).MemForm := by
  unfold State.startDestroy
  extract_lets -underBinder lodges s₁
  have hs₁ : s₁.MemForm := h.foldl (fun _ _ hu => hu.modGroup.maybeEnd)
  exact hs₁.modPart.finishDying

theorem State.MemForm.onPart {s : State} {r : Rpc} {admin : Bool} {ok : ℕ → Bool} {l : Part → List Ground} {run : Part → State → State} (h : s.MemForm)
    (hrun : ∀ p t, t.MemForm → (run p t).MemForm) : (s.onPart r admin ok l run).MemForm := by
  unfold State.onPart
  split
  · exact h.judge (fun _ ht => ht)
  · exact h.judge (hrun _)

theorem execReplayRelease_memForm {r : Rpc} {s : State} (h : s.MemForm) : OutForm (execReplayRelease r s) := h.onPart (fun _ _ hu => hu.startDestroy)
theorem State.MemForm.await {s : State} {w : Waiting} (h : s.MemForm) : (s.await w).MemForm := h
theorem State.MemForm.refreshPart {s : State} {part : ℕ} (h : s.MemForm) : (s.refreshPart part).MemForm := h.foldl (fun _ _ hu => hu.readTail.refreshQueue)
theorem State.MemForm.newFrame {s : State} {n : ℕ} (h : s.MemForm) : (s.newFrame n).2.MemForm := s.newFrame_wf n h
theorem State.MemForm.svcWrite {s : State} {part pa : ℕ} {bs : List Byte} (h : s.MemForm) : (s.svcWrite part pa bs).MemForm := h.foldl (fun _ _ hu => hu.hwSector)

theorem State.MemForm.mapFrom {s : State} {part va top : ℕ} {pte : BitVec 64} {lvl base : ℕ} (h : s.MemForm) :
    OptForm (s.mapFrom part va top pte lvl base) := by
  induction lvl generalizing s base with
  | zero => exact State.MemForm.either h h.svcWrite
  | succ l ih =>
    unfold State.mapFrom
    extract_lets -underBinder at_ e
    refine .either h (.either h.svcWrite (.either (ih h) ?_))
    split
    · trivial
    · next e => exact ih ((h.newFrame.snd e).foldl (fun _ _ hu => hu.touchTag)).svcWrite

theorem State.MemForm.mapBytes {s : State} {part root va : ℕ} {bs : List Byte} {wr : Bool} (h : s.MemForm) : OptForm (s.mapBytes part root va bs wr) := by
  unfold State.mapBytes
  refine .foldlOpt h (fun o j ho => ho.bind (fun t ht => ?_))
  split
  · trivial
  · next e => exact ((ht.newFrame.snd e).putBytes.foldl (fun _ _ hu => hu.touchTag)).mapFrom

theorem State.MemForm.joinSession {s : State} {session : Option ℕ} {tag : ℕ} (h : s.MemForm) : (s.joinSession session tag).MemForm := by
  unfold State.joinSession
  split
  · exact h
  · exact h.setSession

theorem State.MemForm.startResident {s : State} {part hart : ℕ} (h : s.MemForm) : (s.startResident part hart).MemForm := by
  unfold State.startResident
  split
  · exact h
  · extract_lets -underBinder off s₁
    have hs₁ : s₁.MemForm := h.modPart
    refine hs₁.foldl (fun u₁ x₇ hu₁ => ?_)
    refine hu₁.foldl (fun u₂ x₁₃ hu₂ => ?_)
    refine .either hu₂ ?_
    split
    · exact hu₂.setGroup
    · exact hu₂

theorem State.MemForm.newVa {s : State} {root n : ℕ} (h : s.MemForm) : (s.newVa root n).2.MemForm := h

theorem State.MemForm.fetchBytes {s : State} {part va n : ℕ} (h : s.MemForm) : (s.fetchBytes part va n).2.MemForm := by
  unfold State.fetchBytes
  refine h.foldlSnd (fun u x₂ hu => ?_)
  split
  · exact hu
  · extract_lets -underBinder lo hi
    split
    · next e₁ => exact hu.vaOf.snd e₁
    · next e₂ =>
        extract_lets -underBinder p
        exact .either ((hu.vaOf.snd e₂).consume) (hu.vaOf.snd e₂)

theorem State.MemForm.mapImage {s : State} {orig tag root : ℕ} {im : Image} (h : s.MemForm) : OptForm (s.mapImage orig tag root im) := by
  unfold State.mapImage
  split
  · trivial
  · next e =>
    refine (h.fetchBytes.snd e).mapBytes.bind (fun t ht => ?_)
    split
    · next e => exact (ht.fetchBytes.snd e).mapBytes
    · trivial

theorem State.MemForm.mapCaptured {s : State} {orig tag root base : ℕ} {e : (ℕ × ℕ × BitVec 64) × ℕ}
    (h : s.MemForm) : OptForm (s.mapCaptured orig tag root base e) := by
  unfold State.mapCaptured
  split
  · exact trivial
  · next heq₁ =>
      split
      · exact trivial
      · next heq₂ =>
          extract_lets -underBinder s₁ s₂
          have hs₁ : s₁.MemForm := ((h.fetchBytes.snd heq₁).newFrame.snd heq₂).putBytes
          have hs₂ : s₂.MemForm := hs₁.foldl (fun _ _ hu => hu.touchTag)
          exact hs₂.mapFrom

theorem State.MemForm.replayMade {s : State} {r : Rpc} {p : Part} {tag : ℕ} {c : Capture} {base arglen : ℕ} (h : s.MemForm) :
    OptForm (s.replayMade r p tag c base arglen) := by
  rw [show @State.replayMade = delta% @State.replayMade from rfl]
  beta_reduce
  extract_lets -underBinder cores
  split
  · trivial
  next root t e =>
  have framed : t.MemForm := h.newFrame.snd e
  extract_lets -underBinder s₁ pages handles mapped mapped'
  have paged : pages.2.MemForm := framed.setPart.capturePages.snd rfl
  have captured : OptForm mapped := .foldlOpt paged (fun _ _ ho => ho.bind (fun _ ht => ht.mapCaptured))
  have imaged : OptForm mapped' := captured.foldlOpt (fun _ _ ho => ho.bind (fun _ ht => ht.mapImage))
  refine imaged.bind (fun u hu => ?_)
  extract_lets va item page
  have found : va.2.MemForm := hu.newVa.snd rfl
  exact found.mapBytes.map (fun _ hv => hv.setPart.joinSession.startResident)

theorem State.MemForm.freshNum {s : State} {bound : ℕ} {used : List ℕ} (h : s.MemForm) : (s.freshNum bound used).2.MemForm := h

theorem State.MemForm.found {s : State} {tag : Option ℕ} {c : Option Capture} {x : Option (ℕ × ℕ × ℕ × ℕ)} {f : ℕ → Capture → ℕ → ℕ → State}
    (hs : s.MemForm) (hf : ∀ k c base arglen, (f k c base arglen).MemForm) :
    (match tag, c, x with
      | some k, some c, some (base, _, arglen, _) => f k c base arglen
      | _, _, _ => s).MemForm := by
  split
  · exact hf ..
  · exact hs

theorem execReplayRun_memForm {r : Rpc} {s : State} (h : s.MemForm) : OutForm (execReplayRun r s) := by
  refine h.onPart (fun p u hu => ?_)
  extract_lets t
  have fresh : t.2.MemForm := hu.freshNum.snd rfl
  clear_value t
  refine State.MemForm.found hu.refuse (fun k c base arglen => ?_)
  split
  · exact hu.refuse
  next s' e =>
  have ready : s'.MemForm := fresh.replayMade.some e
  have noted : (s'.setDbg { s'.dbg with replays := s'.dbg.replays ++ [{ orig := r.part, tag := k, req := r, until_ := s.clock.now + r.num 6 }] }).MemForm := ready
  exact noted.await.refreshPart.pressAll

theorem execReplayList_memForm {r : Rpc} {s : State} (h : s.MemForm) : OutForm (execReplayList r s) := h.onPart (fun _ _ hu => hu.ok)

theorem execReplaySetup_memForm {r : Rpc} {s : State} (h : s.MemForm) : OutForm (execReplaySetup r s) := by
  unfold execReplaySetup
  show State.MemForm _
  refine h.onPart (fun _ _ hu => ?_)
  split
  · next e₁ => exact (hu.vaOf.snd e₁).refuse
  · next e₂ => exact (hu.vaOf.snd e₂).modPart.ok

theorem execTraceStatus_memForm {r : Rpc} {s : State} (h : s.MemForm) : OutForm (execTraceStatus r s) := h.onPart (fun _ _ hu => hu.ok)
theorem execTraceDrain_memForm {r : Rpc} {s : State} (h : s.MemForm) : OutForm (execTraceDrain r s) := h.onPart (fun _ _ hu => hu.await.traceDrained)
theorem execTraceEnable_memForm {r : Rpc} {s : State} (h : s.MemForm) : OutForm (execTraceEnable r s) := h.onPart (fun _ _ hu => hu.modPart.ok)

theorem State.MemForm.reach {s : State} {part va n : ℕ} {acc : Access} (h : s.MemForm) : (s.reach part va n acc).2.MemForm := by
  unfold State.reach
  refine h.foldlSnd (fun u x₂ hu => ?_)
  split
  · exact hu
  · split
    · next e₁ => exact hu.vaOf.snd e₁
    · next e₂ => exact hu.vaOf.snd e₂

theorem execTraceSetup_memForm {r : Rpc} {s : State} (h : s.MemForm) : OutForm (execTraceSetup r s) := by
  unfold execTraceSetup
  refine h.onPart (fun p u hu => ?_)
  extract_lets x a
  have reached : a.2.MemForm := hu.reach.snd rfl
  exact .either hu.refuse (reached.hwPut.getD reached).modPart.retryPostings.ok

theorem State.MemForm.onSession {s : State} {r : Rpc} {ok : ℕ → Bool} {l : Part → ℕ → DbgSession → List Ground} {run : Part → ℕ → DbgSession → State → State}
    (h : s.MemForm) (hrun : ∀ a₀ a₁ a₂ t, t.MemForm → (run a₀ a₁ a₂ t).MemForm) : (s.onSession r ok l run).MemForm := by
  unfold State.onSession
  refine h.onPart (fun _ _ hu => ?_)
  split
  · exact hu
  · exact hrun _ _ _ _ hu

theorem execDebugGwrite_memForm {r : Rpc} {s : State} (h : s.MemForm) : OutForm (execDebugGwrite r s) := by
  unfold execDebugGwrite
  show State.MemForm _
  refine h.onSession (fun _ _ _ _ hu => ?_)
  extract_lets -underBinder gk bs s₁
  have hs₁ : s₁.MemForm := hu.winWrite
  exact .ok (.either hs₁.gctlWrite hs₁)

theorem State.MemForm.slotsOf {s : State} {bs : List Byte} (h : s.MemForm) : (s.slotsOf bs).2.MemForm := h

theorem execDebugGread_memForm {r : Rpc} {s : State} (h : s.MemForm) : OutForm (execDebugGread r s) := by
  unfold execDebugGread
  show State.MemForm _
  refine h.onSession (fun _ _ _ _ hu => ?_)
  extract_lets -underBinder x
  exact hu.slotsOf.ok

theorem execDebugWaitev_memForm {r : Rpc} {s : State} (h : s.MemForm) : OutForm (execDebugWaitev r s) := by
  unfold execDebugWaitev
  show State.MemForm _
  refine h.onSession (fun _ _ _ _ hu => ?_)
  split
  · exact hu.setSession.ok
  · exact hu.await

theorem execDebugBreakClear_memForm {r : Rpc} {s : State} (h : s.MemForm) : OutForm (execDebugBreakClear r s) := h.onSession (fun _ _ _ _ hu => hu.modPart.ok)
theorem execDebugBreakSet_memForm {r : Rpc} {s : State} (h : s.MemForm) : OutForm (execDebugBreakSet r s) := h.onSession (fun _ _ _ _ hu => hu.modPart.ok)

theorem execDebugSolo_memForm {r : Rpc} {s : State} (h : s.MemForm) : OutForm (execDebugSolo r s) := by
  unfold execDebugSolo
  show State.MemForm _
  refine h.onSession (fun _ _ _ _ hu₁ => ?_)
  extract_lets -underBinder gk s₁ s₂
  have hs₁ : s₁.MemForm := hu₁.foldl (fun _ _ hu₂ => hu₂.modPart)
  have hs₂ : s₂.MemForm := hs₁.setSession.await
  exact hs₂.resume

theorem execDebugReverse_memForm {r : Rpc} {s : State} (h : s.MemForm) : OutForm (execDebugReverse r s) := by
  unfold execDebugReverse
  extract_lets -underBinder w
  show State.MemForm _
  refine h.onSession (fun _ _ _ _ hu => ?_)
  extract_lets -underBinder s₁
  have hs₁ : s₁.MemForm := hu.setSession.await.beginHalt
  exact .either hs₁.finishReverse hs₁

theorem execDebugAdvance_memForm {r : Rpc} {s : State} (h : s.MemForm) : OutForm (execDebugAdvance r s) := h.onSession (fun _ _ _ _ hu => hu.await.beginHalt)

theorem execDebugResume_memForm {r : Rpc} {s : State} (h : s.MemForm) : OutForm (execDebugResume r s) := by
  unfold execDebugResume
  show State.MemForm _
  refine h.onSession (fun _ _ _ _ hu₁ => ?_)
  extract_lets -underBinder away gks s₁ _ s₂ s₃
  have hs₁ : s₁.MemForm := hu₁.foldl (fun _ _ hu₂ => .either hu₂.modGroup hu₂.resume)
  have hs₂ : s₂.MemForm := hs₁.setInn
  have hs₃ : s₃.MemForm := hs₂.foldl (fun _ _ hu₃ => hu₃.modPart)
  exact hs₃.setSession.ok

theorem execDebugHalt_memForm {r : Rpc} {s : State} (h : s.MemForm) : OutForm (execDebugHalt r s) :=
  h.onSession (fun _ _ _ _ hu => hu.haltParts.setSession.await.haltDone)

theorem execDebugLogOff_memForm {r : Rpc} {s : State} (h : s.MemForm) : OutForm (execDebugLogOff r s) := by
  unfold execDebugLogOff
  show State.MemForm _
  refine h.onSession (fun _ _ _ _ hu => ?_)
  split
  · exact hu
  · exact hu.setLog.releaseHeld.logHeader.ok

theorem execDebugLogOn_memForm {r : Rpc} {s : State} (h : s.MemForm) : OutForm (execDebugLogOn r s) := h.onSession (fun _ _ _ _ hu => hu.logStart.ok)

theorem execDebugLogSetup_memForm {r : Rpc} {s : State} (h : s.MemForm) : OutForm (execDebugLogSetup r s) := by
  unfold execDebugLogSetup
  show State.MemForm _
  refine h.onSession (fun _ _ _ _ hu₁ => ?_)
  split
  · next e₁ => exact (hu₁.vaOf.snd e₁).refuse
  · next e₂ =>
      refine .either ((hu₁.vaOf.snd e₂).refuse) ?_
      extract_lets -underBinder on s₁ l s₂ s₃
      have hs₁ : s₁.MemForm := (hu₁.vaOf.snd e₂).foldl (fun _ _ hu₂ => hu₂.hwPut.getD hu₂)
      have hs₂ : s₂.MemForm := hs₁.setLog
      have hs₃ : s₃.MemForm := .either hs₂.beginWindow hs₂.logHeader
      exact hs₃.releaseHeld.ok

theorem execDebugDetach_memForm {r : Rpc} {s : State} (h : s.MemForm) : OutForm (execDebugDetach r s) := by
  unfold execDebugDetach
  show State.MemForm _
  refine h.onSession (fun _ _ _ _ hu₁ => ?_)
  extract_lets -underBinder s₁ _
  have hs₁ : s₁.MemForm := hu₁.foldl (fun _ _ hu₂ => hu₂.modPart)
  exact hs₁.setDbg.ok

theorem execDebugAttach_memForm {r : Rpc} {s : State} (h : s.MemForm) : OutForm (execDebugAttach r s) := by
  unfold execDebugAttach
  extract_lets -underBinder tags
  show State.MemForm _
  refine h.onPart (fun _ _ hu₁ => ?_)
  extract_lets -underBinder used n s₁
  have hs₁ : s₁.MemForm := hu₁.foldl (fun _ _ hu₂ => hu₂.modPart)
  exact hs₁.setSession.ok

theorem State.MemForm.admin {s : State} {r : Rpc} {ok : ℕ → Bool} {l : List Ground} {run : State → State}
    (h : s.MemForm) (hrun : ∀ t, t.MemForm → (run t).MemForm) : (s.admin r ok l run).MemForm :=
  h.judge hrun

theorem State.MemForm.mgmt {s : State} {r : Rpc} {ok : ℕ → Bool} {l : List Ground} {run : State → State}
    (h : s.MemForm) (hrun : ∀ t, t.MemForm → (run t).MemForm) : (s.mgmt r ok l run).MemForm :=
  h.admin hrun

theorem execMgmtImage_memForm {r : Rpc} {s : State} (h : s.MemForm) : OutForm (execMgmtImage r s) := by
  unfold execMgmtImage
  extract_lets -underBinder all
  show State.MemForm _
  refine h.mgmt (fun _ hu => ?_)
  refine .either hu.setPorter.ok (.either hu.record.refuse ?_)
  extract_lets -underBinder _ s₁ s₂
  have hs₁ : s₁.MemForm := hu.record.setPorter
  have hs₂ : s₂.MemForm := hs₁.record.ok
  exact .either hs₂.packageReset hs₂

theorem execMgmtClearcnt_memForm {r : Rpc} {s : State} (h : s.MemForm) : OutForm (execMgmtClearcnt r s) := by
  unfold execMgmtClearcnt
  extract_lets -underBinder hit
  show State.MemForm _
  refine h.mgmt (fun _ hu => ?_)
  extract_lets -underBinder _ s₁ s₂
  have hs₁ : s₁.MemForm := hu.setPorter
  have hs₂ : s₂.MemForm := .either hs₁ hs₁
  exact hs₂.ok

theorem execMgmtGrandmaster_memForm {r : Rpc} {s : State} (h : s.MemForm) : OutForm (execMgmtGrandmaster r s) := h.mgmt (fun _ hu => hu.setClock.ok)

theorem execMgmtAdminlistRemove_memForm {r : Rpc} {s : State} (h : s.MemForm) : OutForm (execMgmtAdminlistRemove r s) := by
  unfold execMgmtAdminlistRemove
  extract_lets -underBinder gid
  show State.MemForm _
  refine h.mgmt (fun _ hu => ?_)
  extract_lets -underBinder l _
  exact hu.setPorter.ok

theorem execMgmtAdminlistAdd_memForm {r : Rpc} {s : State} (h : s.MemForm) : OutForm (execMgmtAdminlistAdd r s) := by
  unfold execMgmtAdminlistAdd
  extract_lets -underBinder gid
  show State.MemForm _
  refine h.mgmt (fun _ hu => ?_)
  extract_lets -underBinder l _
  exact hu.setPorter.ok

theorem execMgmtWindow_memForm {r : Rpc} {s : State} (h : s.MemForm) : OutForm (execMgmtWindow r s) := by
  unfold execMgmtWindow
  extract_lets -underBinder x away
  exact h.draw.mgmt (fun _ hu => hu.setClock.ok)

theorem execMgmtVcweight_memForm {r : Rpc} {s : State} (h : s.MemForm) : OutForm (execMgmtVcweight r s) := h.mgmt (fun _ hu => hu.setPorter.ok)
theorem execMgmtUngate_memForm {r : Rpc} {s : State} (h : s.MemForm) : OutForm (execMgmtUngate r s) := h.mgmt (fun _ hu => hu.modCluster.ok)

theorem execMgmtGate_memForm {r : Rpc} {s : State} (h : s.MemForm) : OutForm (execMgmtGate r s) := by
  unfold execMgmtGate
  show State.MemForm _
  refine h.mgmt (fun _ hu => ?_)
  extract_lets -underBinder c _
  exact .either hu.modCluster.ok hu.modCluster.setRpc

theorem execMgmtPowercap_memForm {r : Rpc} {s : State} (h : s.MemForm) : OutForm (execMgmtPowercap r s) := h.mgmt (fun _ hu => hu.setPorter.ok)

theorem execSwap_memForm {r : Rpc} {s : State} (h : s.MemForm) : OutForm (execSwap r s) := by
  unfold execSwap
  show State.MemForm _
  refine h.onPart (fun _ _ hu => ?_)
  extract_lets -underBinder s₁ _
  have hs₁ : s₁.MemForm := hu.modPart.swapStop
  exact hs₁.setRpc.swapStep

theorem State.MemForm.setTable {s : State} {r : Rpc} {stor : Bool} (h : s.MemForm) : (s.setTable r stor).MemForm := by
  unfold State.setTable
  extract_lets -underBinder size
  refine h.onPart (fun _ _ hu₁ => ?_)
  extract_lets -underBinder x y
  refine .either hu₁.draw.refuse ((hu₁.draw.foldlSnd (fun u x₃ hu₂ => ?_)).ok)
  extract_lets -underBinder q qpn e
  exact hu₂.freshNum.modPart

theorem execStorageSet_memForm {r : Rpc} {s : State} (h : s.MemForm) : OutForm (execStorageSet r s) := h.setTable
theorem execPeerSet_memForm {r : Rpc} {s : State} (h : s.MemForm) : OutForm (execPeerSet r s) := h.setTable

theorem State.MemForm.query {s : State} {r : Rpc} {admin : Bool} {res : Part → State → List ℕ} (h : s.MemForm) : (s.query r admin res).MemForm :=
  h.onPart (fun _ _ hu => hu.ok)

theorem execQuerySpareStatus_memForm {r : Rpc} {s : State} (h : s.MemForm) : OutForm (execQuerySpareStatus r s) := h.query
theorem execQueryErrorCounters_memForm {r : Rpc} {s : State} (h : s.MemForm) : OutForm (execQueryErrorCounters r s) := h.query
theorem execQueryQueueIndices_memForm {r : Rpc} {s : State} (h : s.MemForm) : OutForm (execQueryQueueIndices r s) := h.query
theorem execQueryPartitionState_memForm {r : Rpc} {s : State} (h : s.MemForm) : OutForm (execQueryPartitionState r s) := h.query
theorem execQueueDestroy_memForm {r : Rpc} {s : State} (h : s.MemForm) : OutForm (execQueueDestroy r s) := h.onPart (fun _ _ hu => hu.modPart.setInn.ok)

theorem execQueueCreate_memForm {r : Rpc} {s : State} (h : s.MemForm) : OutForm (execQueueCreate r s) := by
  unfold execQueueCreate
  extract_lets lineBad
  refine h.onPart (fun p u hu => ?_)
  extract_lets -underBinder a b c t
  have ring : a.2.MemForm := hu.reach.snd rfl
  clear_value a
  have head : b.2.MemForm := ring.reach.snd rfl
  clear_value b
  have tail : c.2.MemForm := head.reach.snd rfl
  clear_value c
  have made : t.MemForm := tail.setQueue
  exact .either hu.refuse (.either hu.refuse (.either hu.refuse made.headLine.ok))

theorem execMemUnexpose_memForm {r : Rpc} {s : State} (h : s.MemForm) : OutForm (execMemUnexpose r s) := h.onPart (fun _ _ hu => hu.modPart.ok)

theorem execMemExpose_memForm {r : Rpc} {s : State} (h : s.MemForm) : OutForm (execMemExpose r s) := by
  unfold execMemExpose
  show State.MemForm _
  refine h.onPart (fun _ _ hu => ?_)
  extract_lets -underBinder a x used key
  split
  · exact hu.freshNum.draw.refuse
  · exact hu.freshNum.draw.modPart.ok

theorem execResidentStart_memForm {r : Rpc} {s : State} (h : s.MemForm) : OutForm (execResidentStart r s) := h.onPart (fun _ _ hu => hu.startResident.ok)

theorem execImageUnload_memForm {r : Rpc} {s : State} (h : s.MemForm) : OutForm (execImageUnload r s) := by
  unfold execImageUnload
  show State.MemForm _
  refine h.onPart (fun _ _ hu => ?_)
  extract_lets -underBinder s₁
  have hs₁ : s₁.MemForm := hu
  exact hs₁.modPart.ok

theorem State.MemForm.relocate {s : State} {part va : ℕ} {img : List Byte} {const : ℕ} (h : s.MemForm) : (s.relocate part va img const).MemForm := by
  unfold State.relocate
  refine h.foldl (fun u₁ x₂ hu₁ => ?_)
  refine hu₁.foldl (fun u₂ x₈ hu₂ => ?_)
  split
  · next e₁ => exact (hu₂.vaOf.snd e₁).svcWrite
  · next e₂ => exact hu₂.vaOf.snd e₂

theorem execImageLoad_memForm {r : Rpc} {s : State} (h : s.MemForm) : OutForm (execImageLoad r s) := by
  unfold execImageLoad
  show State.MemForm _
  refine h.onPart (fun _ _ hu => ?_)
  split
  · exact hu.refuse
  · next e₁ =>
      refine .either hu.refuse ?_
      split
      · exact hu.refuse
      · extract_lets -underBinder a
        split
        · exact hu.refuse
        · extract_lets -underBinder bytes va
          split
          · exact hu.refuse
          · next e₂ =>
              extract_lets -underBinder s₁
              have hs₁ : s₁.MemForm := ((hu.fetchBytes.snd e₁).freshNum.newVa.mapBytes.some e₂).relocate
              exact hs₁.modPart.ok

theorem execPartDestroy_memForm {r : Rpc} {s : State} (h : s.MemForm) : OutForm (execPartDestroy r s) := h.onPart (fun _ _ hu => hu.startDestroy)

theorem execPartCreate_memForm {r : Rpc} {s : State} (h : s.MemForm) : OutForm (execPartCreate r s) := by
  unfold execPartCreate
  refine h.admin (fun u hu => ?_)
  extract_lets -underBinder t
  have tagged : t.2.MemForm := hu.freshNum.snd rfl
  clear_value t
  split
  · exact tagged.refuse
  split
  · next e =>
    split at e
    · exact (tagged.newFrame.snd e).refuse
    · exact (State.MemForm.snd (x := (some (r.num 16), t.2)) tagged e).refuse
  next f u' e =>
  have framed : u'.MemForm := by
    split at e
    · exact tagged.newFrame.snd e
    · exact State.MemForm.snd (x := (some (r.num 16), t.2)) tagged e
  extract_lets -underBinder p made fresh a b s₁ s₂ s₃ s₄
  have first : a.2.MemForm := by
    unfold a
    split
    · exact framed
    · exact framed.setPart.reach
  have second : b.2.MemForm := by
    unfold b
    split
    · split
      · exact first
      · exact first.reach
    · exact first
  have posted : s₂.MemForm := second.hwPut.getD second
  have served : s₃.MemForm := by
    unfold s₃
    split
    · exact posted.hwPut.getD posted
    · exact posted
  exact .either hu.refuse (.either hu.refuse (served.foldl (fun _ _ hv => hv.modHart)).ok)

theorem State.MemForm.finishCmd {s : State} {c : EngCmd} {flags : Flags} (h : s.MemForm) : (s.finishCmd c flags).MemForm := by
  unfold State.finishCmd
  split
  · next e₁ => exact (h.uncount.ofUncounted e₁).retireCmd
  · next e₂ => exact (h.uncount.ofUncounted e₂).holdCmd
  · next e₃ => exact (h.uncount.ofUncounted e₃).stopCmd
  · next e₄ => exact h.uncount.ofUncounted e₄

theorem State.MemForm.finishRec {s : State} {c : EngCmd} {status np ns count : ℕ} {flags : Flags}
    (h : s.MemForm) : (s.finishRec c status np ns count flags).MemForm := by
  unfold State.finishRec
  extract_lets -underBinder a sp w
  split
  · next e => exact h.cmdSpans.writeStop.some e
  · extract_lets -underBinder s₁
    have hs₁ : s₁.MemForm := h.cmdSpans.writeSpans
    exact hs₁.finishCmd

theorem State.MemForm.storFail {s : State} {c : EngCmd} {status : ℕ} (h : s.MemForm) : (s.storFail c status).MemForm := .either h.finishRec h.failCmd

theorem execStorageTimeout_memForm {core entry : ℕ} {s : State} (h : s.MemForm) : OutForm (execStorageTimeout core entry s) := by
  unfold execStorageTimeout
  split
  · exact h
  · split
    · exact h
    · extract_lets -underBinder x
      exact h.draw.storFail

theorem State.MemForm.askStor {s : State} {core entry n : ℕ} (h : s.MemForm) : (s.askStor core entry n).MemForm := by
  induction n generalizing s with
  | zero => exact h
  | succ f ih =>
    unfold State.askStor
    split
    · exact h
    · exact .either h (ih h.setNode.modCmd)

theorem execStorageCompletion_memForm {core entry : ℕ} {status : BitVec 16} {data : List Byte} {s : State}
    (h : s.MemForm) : OutForm (execStorageCompletion core entry status data s) := by
  unfold execStorageCompletion
  split
  · exact h
  · split
    · exact h
    · split
      · exact h.storFail
      · extract_lets -underBinder s₁
        have hs₁ : s₁.MemForm := h.askStor
        split
        · exact hs₁
        · split
          · exact hs₁
          · split
            · exact hs₁.modCmd
            · exact hs₁.takeData (fun _ _ hu => hu)

theorem execNetworkCommandFail_memForm {core entry : ℕ} {written : List Byte} {syndrome : BitVec 16} {s : State}
    (h : s.MemForm) : OutForm (execNetworkCommandFail core entry written syndrome s) := by
  unfold execNetworkCommandFail
  split
  · exact h
  · split
    · exact h
    · exact h.netFail

theorem SndForm.row {x : List (Byte × Bool) × State} {far : Bool} {stack : Nat} {lines : List Nat} (h : SndForm x) :
    SndForm (if x.1.any (·.2) then (none, x.2) else (some (x.1.map (·.1)), if far then x.2 else x.2.keepRow stack lines)) :=
  .either h (.pair (.either h (State.MemForm.keepRow h)))

theorem State.MemForm.readRow {s : State} {part : ℕ} {t : TableSample} {r : ℕ} (h : s.MemForm) : (s.readRow part t r).2.MemForm := by
  suffices hr : SndForm (s.readRow part t r) from hr
  unfold State.readRow
  exact .either (.pair h) (.row (.either (.pair (h.foldl (fun _ _ hu => hu.consume))) h.readSpans))

theorem State.MemForm.cmdRow {s : State} {c : EngCmd} {t : TableSample} {r : ℕ} (h : s.MemForm) : (s.cmdRow c t r).2.MemForm := by
  unfold State.cmdRow
  extract_lets -underBinder p
  exact .readRow (.either h.fireCmd h)

theorem execScaddRowUpdate_memForm {core entry : ℕ} {s : State} (h : s.MemForm) : OutForm (execScaddRowUpdate core entry s) := by
  unfold execScaddRowUpdate
  split
  · exact h
  · split
    · extract_lets -underBinder w r mine rest secs tagged homes y done
      have htagged : tagged.MemForm := .either (h.foldl (fun _ _ hu => hu.touchTag)) h
      split
      · exact h
      · split
        · exact h.stopCmd
        · split
          · exact h
          · split
            · exact htagged.logFull
            · show State.MemForm _
              split
              · exact htagged.cmdRow.freeSlots.modCmd
              · extract_lets -underBinder z s₁
                have hs₁ : s₁.MemForm := htagged.cmdRow.writeSpans
                exact hs₁.freeSlots.modCmd
    · exact h

theorem execScarabBurst_memForm {core entry : ℕ} {s : State} (h : s.MemForm) : OutForm (execScarabBurst core entry s) := by
  unfold execScarabBurst
  split
  · exact h
  · split
    · split
      · exact h
      · extract_lets -underBinder wr w
        split
        · next e => exact h.cmdSpans.writeStop.some e
        · extract_lets -underBinder data s₁
          have hs₁ : s₁.MemForm := h.cmdSpans.writeSpans
          exact hs₁.modCmd
    · exact h

theorem State.MemForm.parkWords {s : State} {part off : ℕ} {vals : List (BitVec 32)} (h : s.MemForm) : (s.parkWords part off vals).MemForm := by
  unfold State.parkWords
  extract_lets -underBinder base bs
  exact h.spillFill.foldl (fun _ _ hu => hu.hwPut.getD hu)

theorem State.MemForm.accRoom {s : State} {sc : ℕ × ℕ} (h : s.MemForm) : OptForm (s.accRoom sc) := by
  unfold State.accRoom
  extract_lets l
  split
  · exact h
  split
  · exact h
  · exact h.spillSpan.map (fun _ hx => hx.parkWords.modCmd)

theorem State.MemForm.contribute1 {s : State} {c : EngCmd} {r : ℕ} {vals : List (ℕ × Flags)} (h : s.MemForm) : OptForm (s.contribute1 c r vals) := by
  unfold State.contribute1
  extract_lets -underBinder core fl
  split
  · exact h
  extract_lets -underBinder used put sc
  have kept : ∀ (t : State) (a : Acum) (f : Flags), t.MemForm → (put t a f).MemForm := fun _ _ _ ht => ht.modCmd.setClock
  split
  · have room : ∀ (c : Prop) [Decidable c], OptForm (if c then some s else s.accRoom sc) := fun _ _ => .either h h.accRoom
    refine (room _).map (fun t ht => kept _ _ _ ?_)
    split
    · exact ht.modPart
    · exact ht
  · exact h.accRoom.map (fun _ ht => kept _ _ _ ht)

theorem State.MemForm.contribute {s : State} {c : EngCmd} {r : ℕ} {vals : List (ℕ × Flags)} (h : s.MemForm) : OptForm (s.contribute c r vals) := by
  unfold State.contribute
  split
  · exact h.contribute1
  · exact h.contribute1.bind (fun _ ht => ht.contribute1)

theorem State.MemForm.scaddBatch {s : State} {c : EngCmd} {t : TableSample} (h : s.MemForm) : (s.scaddBatch c t).MemForm := by
  unfold State.scaddBatch
  extract_lets -underBinder core k sp x idx at_ valid rd bf r
  have listed : sp.s.MemForm := h.cmdSpans
  refine .either listed.stopCmd ?_
  have rows : rd.s.MemForm := listed.readSpans.cmdSpans
  refine .either rows.stopCmd ?_
  have summed : OptForm r.1 := by
    refine List.foldlRecOn valid _ (motive := fun acc : Option State × List (Place × ℕ) => OptForm acc.1) rows (fun acc hacc j _ => ?_)
    split
    · exact hacc
    · next e => exact .either (State.MemForm.modCmd (hacc.some e).readSpans) (State.MemForm.contribute (hacc.some e).readSpans)
  split
  · exact rows.freeSlots.modCmd.freezeQueue
  · next e => exact (summed.some e).modCmd

theorem State.MemForm.defaultRow {s : State} {c : EngCmd} {t : TableSample} (h : s.MemForm) : (s.defaultRow c t).2.2.MemForm := by
  unfold State.defaultRow
  split
  · exact h
  · split
    · exact h
    · extract_lets -underBinder sp x
      split
      · exact h.cmdSpans
      · split
        · exact h.cmdSpans.readSpans
        · exact h.cmdSpans.readSpans

theorem State.MemForm.gatherBatch {s : State} {c : EngCmd} {t : TableSample} (h : s.MemForm) : (s.gatherBatch c t).MemForm := by
  unfold State.gatherBatch
  extract_lets -underBinder k sp x idx at_ valid rows got lost sub dflt used s₁ good inv
  have hs₁ : s₁.MemForm := by
    refine .either ((h.cmdSpans.readSpans.foldlSnd (fun u₁ x₂ hu₁ => ?_)).defaultRow) (h.cmdSpans.readSpans.foldlSnd (fun u₂ x₅ hu₂ => ?_))
    · extract_lets -underBinder y
      exact hu₁.cmdRow
    · extract_lets -underBinder y
      exact hu₂.cmdRow
  refine .either h.cmdSpans.stopCmd (.either h.cmdSpans.readSpans.stopCmd (.either ((h.cmdSpans.readSpans.foldlSnd (fun u₃ x₈ hu₃ => ?_)).defaultRow.stopCmd) hs₁.modCmd))
  extract_lets -underBinder y
  exact hu₃.cmdRow

theorem State.MemForm.remark {s : State} {c : EngCmd} (h : s.MemForm) : (s.remark c).MemForm := by
  unfold State.remark
  extract_lets -underBinder core s₁
  have hs₁ : s₁.MemForm := h
  exact hs₁.foldl (fun _ _ hu => hu.modCore)

theorem State.MemForm.sampleTable {s : State} {c : EngCmd} (h : s.MemForm) : (s.sampleTable c).MemForm := by
  unfold State.sampleTable
  extract_lets -underBinder core va sp
  split
  · exact h.cmdSpans.holdCmd
  · exact h.cmdSpans.freezeQueue
  · extract_lets -underBinder w homes r s₁ e _ c₁
    have hs₁ : s₁.MemForm := h.cmdSpans.readSpans
    refine .either h.cmdSpans (.either hs₁.freezeQueue ?_)
    split
    · exact hs₁.freezeQueue
    · refine .either hs₁.logFull ?_
      extract_lets -underBinder off n s₂
      have hs₂ : s₂.MemForm := by
        unfold s₂
        split
        · exact hs₁.write
        · exact hs₁
      exact hs₂.remark.modCmd

theorem execScarabRowRequest_memForm {core entry : ℕ} {s : State} (h : s.MemForm) : OutForm (execScarabRowRequest core entry s) := by
  unfold execScarabRowRequest
  split
  · exact h
  · split
    · exact h
    · split
      · exact h.sampleTable
      · split
        · exact h
        · show State.MemForm _
          exact .either h.gatherBatch h.scaddBatch

theorem State.MemForm.finishCodec {s : State} {c : EngCmd} {d : Decomp} {poison : Bool} (h : s.MemForm) : (s.finishCodec c d poison).MemForm := by
  unfold State.finishCodec
  extract_lets -underBinder x s₁ d₁ st hurt mk s₂ wr w
  have hs₁ : s₁.MemForm := .either h.draw h
  have hs₂ : s₂.MemForm := hs₁.cmdSpans
  refine .either hs₂.stopCmd ?_
  split
  · next e => exact hs₂.cmdSpans.writeStop.some e
  · extract_lets -underBinder s₃ s₄ s₅
    have hs₃ : s₃.MemForm := hs₂.cmdSpans.writeSpans
    have hs₄ : s₄.MemForm := hs₃.foldl (fun _ _ hu => hu.setPoison)
    have hs₅ : s₅.MemForm := .either hs₄.modPart.record hs₄
    exact hs₅.finishRec

theorem State.MemForm.doStor {s : State} {c : EngCmd} (h : s.MemForm) : (s.doStor c).MemForm := .either h.askStor (.either h.finishCodec h.retireCmd)
theorem State.MemForm.sendNet {s : State} {c : EngCmd} {m : NetMsg} (h : s.MemForm) : (s.sendNet c m).MemForm := .either h h.setNode.modCmd

theorem State.MemForm.doNet {s : State} {c : EngCmd} {data : List Byte} (h : s.MemForm) : (s.doNet c data).MemForm := by
  unfold State.doNet
  refine .either h (.either ?_ ?_)
  · extract_lets -underBinder x
    exact h.draw.netFail
  · split
    · extract_lets -underBinder rd x
      exact .either h.cmdSpans.stopCmd h.cmdSpans.readSpans.sendNet.retireCmd
    · extract_lets -underBinder s₁
      have hs₁ : s₁.MemForm := h.sendNet
      exact .either hs₁ (hs₁.takeData (fun _ _ hu₁ => hu₁.retireCmd))
    · extract_lets -underBinder cas s₁
      have hs₁ : s₁.MemForm := h.sendNet
      exact .either hs₁ (hs₁.takeData (fun _ _ hu₂ => hu₂.retireCmd))

theorem State.MemForm.doDecomp {s : State} {c : EngCmd} (h : s.MemForm) : (s.doDecomp c).MemForm := by
  unfold State.doDecomp
  extract_lets -underBinder core rd cut x dict dcut lz4 d met s₁
  have hs₁ : s₁.MemForm := by
    unfold s₁
    split
    · exact .either h.cmdSpans.readSpans.readSpans.consume h.cmdSpans.readSpans.readSpans
    · exact h.cmdSpans.readSpans.readSpans
  exact .either h.cmdSpans.stopCmd hs₁.finishCodec

theorem State.MemForm.doCopyt {s : State} {c : EngCmd} (h : s.MemForm) : (s.doCopyt c).MemForm := by
  unfold State.doCopyt
  extract_lets -underBinder d rows rd ws wr w
  refine .either h.cmdSpans.stopCmd ?_
  split
  · next e => exact h.cmdSpans.cmdSpans.writeStop.some e
  · extract_lets -underBinder r wide fill
    exact h.cmdSpans.cmdSpans.readSpans.writeSpans.finishCmd

theorem State.MemForm.mixed {s : State} {sp dp : List (Place × ℕ)} {bs : List (Byte × Bool)} (h : s.MemForm) : (s.mixed sp dp bs).2.MemForm := h

theorem State.MemForm.doCopy {s : State} {c : EngCmd} (h : s.MemForm) : (s.doCopy c).MemForm := by
  unfold State.doCopy
  extract_lets rd wr w r m
  have source : rd.s.MemForm := h.cmdSpans
  refine .either source.stopCmd ?_
  have target : wr.s.MemForm := source.cmdSpans
  split
  · next e => exact target.writeStop.some e
  have mixed : m.2.MemForm := by
    unfold m
    split
    · exact target.readSpans.mixed
    · exact target.readSpans
  exact mixed.writeSpans.finishCmd

theorem execEngineCommandRetire_memForm {core entry : ℕ} {data : List Byte} {s : State} (h : s.MemForm) : OutForm (execEngineCommandRetire core entry data s) := by
  unfold execEngineCommandRetire
  split
  · exact h
  · split
    · exact h.dropCmd
    · split
      · exact h
      · split
        · exact h.retireCmd
        · split
          · exact h.doCopy
          · exact h.doCopyt
          · show State.MemForm _
            exact .either h.finishRec h
          · show State.MemForm _
            exact .either h.finishRec h
          · exact h.doDecomp
          · exact h.doNet
          · exact h.doNet
          · exact h.doNet
          · exact h.doStor

theorem State.MemForm.commitTo {s : State} {gk : ℕ} {m : LaneMask} {off : ℕ} (h : s.MemForm) : (s.commitTo gk m off).MemForm := h.modGroup

theorem State.MemForm.acceptCmd {s : State} {i : Issue} {c : EngCmd} (h : s.MemForm) : (s.acceptCmd i c).MemForm := by
  unfold State.acceptCmd
  extract_lets -underBinder core marked marks _ s₁ c₁ s₂ c₂ s₃ s₄
  have hs₁ : s₁.MemForm := h.setClock
  have hs₂ : s₂.MemForm := hs₁.foldl (fun _ _ hu => hu.modCore)
  have hs₃ : s₃.MemForm := hs₂.modCore
  have hs₄ : s₄.MemForm := hs₃.modGroup.commitTo
  split
  · exact hs₄.sealWindow
  · exact hs₄.sealWindow
  · exact hs₄.sealWindow
  · exact hs₄.sealWindow
  · exact .either hs₄ hs₄.sampleTable
  · exact .either hs₄ hs₄.sampleTable
  · exact hs₄

theorem State.MemForm.pageFault {s : State} {gk : ℕ} {fs : List FaultInfo} (h : s.MemForm) : (s.pageFault gk fs).MemForm := by
  unfold State.pageFault
  split
  · exact h
  · extract_lets -underBinder wiid fs₁ s₁
    have hs₁ : s₁.MemForm := h.foldl (fun _ _ hu => hu.postFault)
    exact hs₁.modGroup.regionStop

theorem engHold_memForm {kind : EngKind} {o : EOps} {s : State} {i : Issue} (h : s.MemForm) : OptForm (engHold kind o s i) := by
  unfold engHold
  split
  · exact trivial
  · extract_lets -underBinder c b m
    split
    · exact h
    · exact trivial

theorem State.MemForm.finish {s : State} {gk : ℕ} (h : s.MemForm) : (s.finish gk).MemForm := h.modGroup.maybeEnd
theorem State.MemForm.fireIssue {s : State} {i : Issue} {opc : ℕ} (h : s.MemForm) : (s.fireIssue i opc).MemForm := h

theorem State.MemForm.pickFault {s : State} {l : List Flt} (h : s.MemForm) : PairForm (s.pickFault l) := by
  unfold State.pickFault
  split
  · exact trivial
  · exact h
  · split
    · next e => exact h.draw.snd e

theorem perform_memForm {s : State} {hd : Hdr} {sp : Spec} {faults : State → Issue → List Flt} {hold : State → Issue → Option State} {effect : State → Issue → State}
    (h : s.MemForm) (hhold : ∀ t a₁, t.MemForm → OptForm (hold t a₁)) (heffect : ∀ t a₁, t.MemForm → (effect t a₁).MemForm) : OutForm (perform s hd sp faults hold effect) := by
  unfold perform
  split
  · exact h
  · extract_lets -underBinder ill i waits
    split
    · next e₁ => exact (h.pickFault.pair e₁).freeze
    · split
      · exact h
      · split
        · next e₂ => exact (hhold _ _ h).some e₂
        · extract_lets -underBinder s₁ s₂
          have hs₁ : s₁.MemForm := h.setGroup.fireIssue
          have hs₂ : s₂.MemForm := hs₁.abortLanes
          exact (heffect _ _ hs₂).finish

theorem engIssue_memForm {opc : ℕ} {kind : EngKind} {hd : Hdr} {o : EOps} {s : State} (h : s.MemForm) : OutForm (engIssue opc kind hd o s) := by
  unfold engIssue
  refine perform_memForm h (fun _ _ => ?_) (fun _ _ hu => ?_)
  · intro x₁
    exact engHold_memForm x₁
  · refine .either hu ?_
    extract_lets -underBinder c
    refine .either ?_ hu.acceptCmd
    split
    · next e₁ => exact (hu.xlate.snd e₁).pageFault
    · next e₂ => exact .either ((hu.xlate.snd e₂).freeze) ((hu.xlate.snd e₂).touchTag.loadEffects.acceptCmd)

theorem execSread_memForm {hd : Hdr} {o : EOps} {s : State} (h : s.MemForm) : OutForm (execSread hd o s) := engIssue_memForm h
theorem execNatom_memForm {hd : Hdr} {o : EOps} {s : State} (h : s.MemForm) : OutForm (execNatom hd o s) := engIssue_memForm h
theorem execNget_memForm {hd : Hdr} {o : EOps} {s : State} (h : s.MemForm) : OutForm (execNget hd o s) := engIssue_memForm h
theorem execNput_memForm {hd : Hdr} {o : EOps} {s : State} (h : s.MemForm) : OutForm (execNput hd o s) := engIssue_memForm h
theorem execDecomp_memForm {hd : Hdr} {o : EOps} {s : State} (h : s.MemForm) : OutForm (execDecomp hd o s) := engIssue_memForm h
theorem execScadd_memForm {hd : Hdr} {o : EOps} {s : State} (h : s.MemForm) : OutForm (execScadd hd o s) := engIssue_memForm h
theorem execGather_memForm {hd : Hdr} {o : EOps} {s : State} (h : s.MemForm) : OutForm (execGather hd o s) := engIssue_memForm h

theorem State.MemForm.descConsume {s : State} {hd : Hdr} {o : EOps} (h : s.MemForm) : (s.descConsume hd o).MemForm := by
  unfold State.descConsume
  split
  · exact h
  · extract_lets -underBinder va
    refine .either h ?_
    split
    · exact .either h.consume h
    · exact h

theorem execCopyt_memForm {hd : Hdr} {o : EOps} {s : State} (h : s.MemForm) : OutForm (execCopyt hd o s) := engIssue_memForm h.descConsume
theorem execCopy_memForm {hd : Hdr} {o : EOps} {s : State} (h : s.MemForm) : OutForm (execCopy hd o s) := engIssue_memForm h
theorem State.MemForm.putOp {s : State} {core : ℕ} {o : MatOp} (h : s.MemForm) : (s.putOp core o).MemForm := h

theorem State.MemForm.matRetire {s : State} {core : ℕ} {o : MatOp} (h : s.MemForm) : (s.matRetire core o).MemForm := by
  unfold State.matRetire
  extract_lets -underBinder s₁ s₂
  have hs₁ : s₁.MemForm := .either h.fireLevel h
  have hs₂ : s₂.MemForm := hs₁.modCore
  exact hs₂.modAnyGroup.maybeEnd

theorem State.MemForm.accConsume {s : State} {core part : ℕ} {l : List ℕ} (h : s.MemForm) : (s.accConsume core part l).MemForm := h.foldl (fun _ _ hu => hu.consume)

theorem State.MemForm.matConsume {s : State} {o : MatOp} {l : List Place} (h : s.MemForm) : (s.matConsume o l).1.MemForm :=
  h.foldl (fun _ _ hu => hu.consume)

theorem State.MemForm.matSlice {s : State} {core : ℕ} {o : MatOp} (h : s.MemForm) : (s.matSlice core o).MemForm := by
  unfold State.matSlice
  extract_lets -underBinder l words marked short bad r s₁ o₁ s₂ o₂ s₃
  have consumed : s₁.MemForm := h.accConsume.matConsume
  have counted : s₂.MemForm := .either consumed.modPart consumed
  have summed : s₃.MemForm := counted
  exact .either summed.matRetire summed.putOp

theorem State.MemForm.metaLoad {s : State} {core : ℕ} {o : MatOp} (h : s.MemForm) : (s.metaLoad core o).MemForm :=
  h.matConsume.modCore.matRetire

theorem execMatrixOpRetire_memForm {core : ℕ} {s : State} (h : s.MemForm) : OutForm (execMatrixOpRetire core s) := by
  unfold execMatrixOpRetire
  split
  · exact h
  · split
    · exact h
    · extract_lets -underBinder l
      show State.MemForm _
      exact .either h.putOp (.either h.metaLoad h.matSlice)

theorem onGroup_memForm {f : Issue → Group → Group} {s : State} {i : Issue} (h : s.MemForm) : (onGroup f s i).MemForm := h.modGroup

theorem execOpfence_memForm {hd : Hdr} {o : TOps} {s : State} (h : s.MemForm) : OutForm (execOpfence hd o s) := by
  unfold execOpfence
  extract_lets -underBinder x
  refine perform_memForm h (fun _ _ hu => ?_) (fun _ _ => ?_)
  · split
    · exact hu
    · exact trivial
  · intro x₃
    exact onGroup_memForm x₃

theorem noHold_memForm {s : State} {x : Issue} (_ : s.MemForm) : OptForm (noHold s x) := trivial

theorem execAccz_memForm {hd : Hdr} {o : TOps} {s : State} (h : s.MemForm) : OutForm (execAccz hd o s) := by
  unfold execAccz
  refine perform_memForm h (fun _ _ => ?_) (fun _ _ hu => ?_)
  · intro x₁
    exact noHold_memForm x₁
  · split
    · exact hu
    · exact hu.modCore

theorem execAccst_memForm {hd : Hdr} {o : TOps} {s : State} (h : s.MemForm) : OutForm (execAccst hd o s) := by
  unfold execAccst
  refine perform_memForm h (fun _ _ => ?_) (fun _ _ hu => ?_)
  · intro x₁
    exact noHold_memForm x₁
  · split
    · exact hu
    · exact hu.modCore

theorem execAccld_memForm {hd : Hdr} {o : TOps} {s : State} (h : s.MemForm) : OutForm (execAccld hd o s) := by
  unfold execAccld
  refine perform_memForm h (fun _ _ => ?_) (fun _ _ hu => ?_)
  · intro x₁
    exact noHold_memForm x₁
  · split
    · exact hu
    · extract_lets -underBinder c l bad
      exact hu.accConsume.modGroup

theorem execTkrel_memForm {hd : Hdr} {o : TOps} {s : State} (h : s.MemForm) : OutForm (execTkrel hd o s) := by
  unfold execTkrel
  refine perform_memForm h (fun _ _ => ?_) (fun _ _ hu => ?_)
  · intro x₁
    exact noHold_memForm x₁
  · split
    · exact hu
    · exact .either hu (.commitTo (.either hu.modCore hu))

theorem State.MemForm.stamped {s : State} {gk what : ℕ} (h : s.MemForm) : (s.stamped gk what).MemForm := by
  unfold State.stamped
  split
  · exact .either h h.setGroup.setClock
  · exact h

theorem execTkacq_memForm {hd : Hdr} {o : TOps} {s : State} (h : s.MemForm) : OutForm (execTkacq hd o s) := by
  unfold execTkacq
  refine perform_memForm h (fun _ _ hu₁ => ?_) (fun _ _ hu₂ => ?_)
  · split
    · exact trivial
    · split
      · exact trivial
      · split
        · exact hu₁.stamped
        · exact trivial
  · split
    · exact hu₂
    · exact .either hu₂ hu₂.modCore

theorem State.MemForm.matAccept {s : State} {i : Issue} {regs : List ℕ} {o : MatOp} (h : s.MemForm) : (s.matAccept i regs o).MemForm := by
  unfold State.matAccept
  extract_lets -underBinder c pend fresh op _
  exact h.setClock.modCore.modGroup

theorem execLdmeta_memForm {hd : Hdr} {o : TOps} {s : State} (h : s.MemForm) : OutForm (execLdmeta hd o s) := by
  unfold execLdmeta
  extract_lets -underBinder r
  refine perform_memForm h (fun _ _ hu₁ => ?_) (fun _ _ hu₂ => .either hu₂ hu₂.matAccept)
  split
  · exact hu₁
  · exact trivial

theorem matOp_memForm {opc : ℕ} {kind : MatKind} {hd : Hdr} {o : TOps} {s : State} (h : s.MemForm) : OutForm (matOp opc kind hd o s) := by
  unfold matOp
  extract_lets -underBinder ra rb sparse
  refine perform_memForm h (fun _ _ hu₁ => ?_) (fun _ _ hu₂ => ?_)
  · split
    · exact hu₁
    · exact trivial
  · split
    · exact hu₂
    · exact .either hu₂ hu₂.matAccept.commitTo

theorem execMmab_memForm {hd : Hdr} {o : TOps} {s : State} (h : s.MemForm) : OutForm (execMmab hd o s) := matOp_memForm h
theorem execMmas_memForm {hd : Hdr} {o : TOps} {s : State} (h : s.MemForm) : OutForm (execMmas hd o s) := matOp_memForm h
theorem execMma_memForm {hd : Hdr} {o : TOps} {s : State} (h : s.MemForm) : OutForm (execMma hd o s) := matOp_memForm h

theorem execSerialTokenGrant_memForm {s : State} (h : s.MemForm) : OutForm (execSerialTokenGrant s) := by
  unfold execSerialTokenGrant
  split
  · exact h
  · split
    · exact h
    · extract_lets -underBinder _ s₁
      have hs₁ : s₁.MemForm := h.setTix
      show State.MemForm _
      split
      · exact hs₁.modGroup
      · exact hs₁

theorem State.MemForm.privCommit {s : State} {core pa : ℕ} {buf : BitVec 64 × BitVec 512} (h : s.MemForm) : (s.privCommit core pa buf).MemForm :=
  h.foldl (fun _ _ hu => hu.privWrite)

theorem State.MemForm.decided {s : State} {t : BitVec 48} (h : s.MemForm) : (s.decided t).MemForm := h

theorem State.MemForm.hartDecision {s : State} {hart : ℕ} {t : BitVec 48} (h : s.MemForm) : (s.hartDecision hart t).MemForm := by
  unfold State.hartDecision
  extract_lets -underBinder k w by_ secs s₁ s₂ _ s₃
  have hs₁ : s₁.MemForm := h.foldl (fun _ _ hu => .either hu.privCommit hu.writeSector)
  have hs₂ : s₂.MemForm := by
    unfold s₂
    split
    · exact hs₁.freeSlot
    · exact hs₁
  have hs₃ : s₃.MemForm := .either hs₂.setTix hs₂
  exact .either h.decided (.either h.logFull hs₃.modHart.decided)

theorem execHartCommitPublish_memForm {s : State} (h : s.MemForm) : OutForm (execHartCommitPublish s) := by
  unfold execHartCommitPublish
  split
  · show State.MemForm _
    exact .either h.hartDecision h
  · exact h

theorem State.MemForm.lockSectors {s : State} {gk : ℕ} {c : LaneMask} (h : s.MemForm) : (s.lockSectors gk c).MemForm := by
  unfold State.lockSectors
  extract_lets -underBinder k rd wr s₁
  have hs₁ : s₁.MemForm := h.foldl (fun _ _ hu₁ => hu₁.conflict.dirShare)
  exact hs₁.foldl (fun _ _ hu₂ => hu₂.conflict.rowsDrop.dirTake)

theorem State.MemForm.groupDecision {s : State} {gk : ℕ} {t : BitVec 48} (h : s.MemForm) : (s.groupDecision gk t).MemForm := by
  unfold State.groupDecision
  split
  · exact h.decided
  · split
    · exact h.decided
    · extract_lets -underBinder c s₁
      have hs₁ : s₁.MemForm := h.lockSectors
      split
      · extract_lets -underBinder pub by_ secs s₂ ok s₃ s₄ s₅
        have hs₂ : s₂.MemForm := hs₁.foldl (fun _ _ hu₁ => hu₁.writeSector)
        have hs₃ : s₃.MemForm := hs₂.foldl (fun _ _ hu₂ => hu₂.dropTx)
        have hs₄ : s₄.MemForm := hs₃.modGroup
        have hs₅ : s₅.MemForm := hs₄.abortLanes.tokenBack.decided
        exact .either hs₁.logFull (.either hs₅.regionStop hs₅)

theorem execGroupCommitDecision_memForm {s : State} (h : s.MemForm) : OutForm (execGroupCommitDecision s) := by
  unfold execGroupCommitDecision
  split
  · show State.MemForm _
    exact .either h.groupDecision h
  · exact h

theorem execTicketRequest_memForm {s : State} (h : s.MemForm) : OutForm (execTicketRequest s) := by
  unfold execTicketRequest
  extract_lets -underBinder open_
  split
  · exact h
  · extract_lets -underBinder t _ s₁
    have hs₁ : s₁.MemForm := h.setTix
    show State.MemForm _
    split
    · exact hs₁.modHart
    · exact hs₁

theorem onHart_memForm {s : State} {f : ℕ → Hart → State} (h : s.MemForm) (hf : ∀ hart k, (f hart k).MemForm) : OutForm (onHart s f) := by
  unfold onHart
  split
  · exact hf _ _
  · exact h

theorem execCustom0Illegal_memForm {w : BitVec 32} {s : State} (h : s.MemForm) : OutForm (execCustom0Illegal w s) :=
  onHart_memForm h (fun _ _ => h.hartIllegal)

theorem execTxS_memForm {rd : BitVec 5} {s : State} (h : s.MemForm) : OutForm (execTxS rd s) := by
  refine onHart_memForm h (fun hart k => ?_)
  exact h.setHart

theorem execTxA_memForm {rs : BitVec 5} {s : State} (h : s.MemForm) : OutForm (execTxA rs s) := by
  refine onHart_memForm h (fun hart k => ?_)
  exact .either h.abortHart h.setHart

theorem execTxE_memForm {rd : BitVec 5} {s : State} (h : s.MemForm) : OutForm (execTxE rd s) := by
  refine onHart_memForm h (fun hart k => ?_)
  exact .either h.hartIllegal (.either h h.setHart.setTix)

theorem State.MemForm.askToken {s : State} {who : TxAgent} (h : s.MemForm) : (s.askToken who).MemForm := .either h h.setTix
theorem State.MemForm.hartStart {s : State} {hart : ℕ} {k : Hart} {slot rd : ℕ} {serial : Bool} (h : s.MemForm) : (s.hartStart hart k slot rd serial).MemForm := h

theorem execTxB_memForm {rd : BitVec 5} {s : State} (h : s.MemForm) : OutForm (execTxB rd s) := by
  refine onHart_memForm h (fun hart k => ?_)
  refine .either h.abortHart (.either (.either ?_ h.askToken) ?_)
  · split
    · exact h.hartStart
    · exact h
  · split
    · exact h.hartStart
    · exact h.setHart

theorem execTxstat_memForm {hd : Hdr} {o : XOps} {s : State} (h : s.MemForm) : OutForm (execTxstat hd o s) := by
  unfold execTxstat
  refine perform_memForm h (fun _ _ => ?_) (fun _ _ => ?_)
  · intro x
    exact noHold_memForm x
  · intro x₁
    exact onGroup_memForm x₁

theorem execTxabort_memForm {hd : Hdr} {o : XOps} {s : State} (h : s.MemForm) : OutForm (execTxabort hd o s) := by
  unfold execTxabort
  refine perform_memForm h (fun _ _ => ?_) (fun _ _ hu => hu.abortLanes)
  intro x₁
  exact noHold_memForm x₁

theorem execTxend_memForm {hd : Hdr} {o : XOps} {s : State} (h : s.MemForm) : OutForm (execTxend hd o s) := by
  unfold execTxend
  extract_lets -underBinder x
  refine perform_memForm h (fun _ _ hu₁ => ?_) (fun _ _ hu₂ => ?_)
  · split
    · exact hu₁.stamped
    · exact trivial
  · extract_lets -underBinder c s₁ _
    have hs₁ : s₁.MemForm := hu₂.modGroup
    exact .either hu₂.commitTo hs₁.setTix

theorem execTxbegin_memForm {hd : Hdr} {o : XOps} {s : State} (h : s.MemForm) : OutForm (execTxbegin hd o s) := by
  unfold execTxbegin
  refine perform_memForm h (fun _ _ hu₁ => ?_) (fun _ _ hu₂ => ?_)
  · split
    · exact hu₁.askToken
    · exact trivial
  · extract_lets -underBinder start need s₁
    have hs₁ : s₁.MemForm := hu₂.modGroup
    exact hs₁.abortLanes

theorem State.MemForm.matRenew {s : State} {gk tk id : ℕ} {l : List (Place × ℕ)} (h : s.MemForm) : (s.matRenew gk tk id l).MemForm := h

theorem State.MemForm.watchHold {s : State} {core part va : ℕ} {x : Place} (h : s.MemForm) : (s.watchHold core part va x).MemForm := by
  unfold State.watchHold
  split
  · refine .either h ?_
    extract_lets -underBinder s₁ d
    have hs₁ : s₁.MemForm := h.l1Alloc
    exact hs₁.setDir.setL1
  · exact h

theorem State.MemForm.atomics {s : State} {gk : ℕ} {g : Group} {o : MemOp} (h : s.MemForm) : (s.atomics gk g o).2.2.MemForm := by
  unfold State.atomics
  refine h.foldlSsnd (fun u x₂ hu => ?_)
  extract_lets -underBinder r t
  have ht : t.MemForm := by
    unfold t
    split
    · exact hu.atomicAt.touchTag
    · exact hu.atomicAt
  exact ht.watchHold

theorem State.MemForm.finishAtomic {s : State} {gk : ℕ} {g : Group} {o : MemOp} (h : s.MemForm) : (s.finishAtomic gk g o).MemForm := by
  unfold State.finishAtomic
  extract_lets -underBinder pas s₀ s₁ r t
  have hs₀ : s₀.MemForm := h
  have hs₁ : s₁.MemForm := .fireReach (.either h.leaseAcquire h)
  have ht : t.MemForm := hs₁.atomics.matRenew
  exact .either hs₀.logFull ht.modGroup.commitTo.maybeEnd

theorem State.MemForm.performHeld {s : State} {x : HeldRel} (h : s.MemForm) : (s.performHeld x).MemForm := by
  unfold State.performHeld
  refine .either (h.foldl (fun u x₂ hu => ?_)) h.writeAll
  split
  · exact hu.peerAtomic
  · exact hu

theorem execNodeReleasePerform_memForm {gk id : ℕ} {s : State} (h : s.MemForm) : OutForm (execNodeReleasePerform gk id s) := by
  unfold execNodeReleasePerform
  split
  · split
    · exact h.setNode.performHeld
    · exact h
  · split
    · exact h
    · split
      · exact h
      · split
        · exact h
        · split
          · exact h.violation
          · split
            · exact h.finishAtomic
            · exact h.performStore.modGroup.maybeEnd

theorem execAtomicPerform_memForm {gk id : ℕ} {s : State} (h : s.MemForm) : OutForm (execAtomicPerform gk id s) := by
  unfold execAtomicPerform
  split
  · exact h
  · split
    · exact h
    · split
      · exact h.violation
      · split
        · show State.MemForm _
          refine .either h ?_
          extract_lets -underBinder s₁
          have hs₁ : s₁.MemForm := by
            refine h.foldl (fun u x₁₃ hu => ?_)
            split
            · exact .either hu.leaseDrop hu
            · exact hu
          exact hs₁.modGroup
        · exact h.finishAtomic

theorem State.MemForm.release {s : State} {gk : ℕ} {g : Group} {o : MemOp} (h : s.MemForm) : (s.release gk g o).MemForm :=
  .either (.either h h.modGroup.commitTo) h.performStore.modGroup.commitTo

theorem execStoreRetire_memForm {gk id : ℕ} {s : State} (h : s.MemForm) : OutForm (execStoreRetire gk id s) := by
  unfold execStoreRetire
  split
  · exact h
  · split
    · exact h
    · split
      · exact h.violation
      · split
        · exact h.release.maybeEnd
        · exact h.performStore.modGroup.maybeEnd

theorem State.MemForm.coreLoad {s : State} {core part va pa : ℕ} {l2 : Bool} (h : s.MemForm) : (s.coreLoad core part va pa l2).MemForm := by
  unfold State.coreLoad
  split
  · exact .either h (.either (.loadEffects (.either h h.l2Fill)) h.l1Alloc.loadEffects)
  · exact h

theorem execLoadRetire_memForm {gk id : ℕ} {s : State} (h : s.MemForm) : OutForm (execLoadRetire gk id s) := by
  unfold execLoadRetire
  split
  · exact h
  · split
    · exact h
    · split
      · exact h.violation
      · extract_lets -underBinder s₁ globs s₂ s₃ bad s₄ val fl
        have hs₁ : s₁.MemForm := .either h.leaseAcquire h
        have hs₂ : s₂.MemForm := .fireReach (.either (hs₁.foldl (fun _ _ hu₁ => hu₁.watchSector)) hs₁)
        have hs₃ : s₃.MemForm := hs₂.foldl (fun _ _ hu₂ => hu₂.touchTag.coreLoad)
        have hs₄ : s₄.MemForm := hs₃.foldl (fun _ _ hu₃ => hu₃.consume)
        split
        · exact hs₄.modGroup.maybeEnd
        · exact hs₄.modGroup.maybeEnd

theorem State.MemForm.launch {s : State} {i : Issue} {len opc : ℕ} {op : MemOp} (h : s.MemForm) : (s.launch i len opc op).MemForm := h.modGroup

theorem State.MemForm.xlateLanes {s : State} {gk : ℕ} {g : Group} {acc : Access} {l : List (ℕ × ℕ × LaneMask)} (h : s.MemForm) :
    (s.xlateLanes gk g acc l).2.2.MemForm := by
  induction l generalizing s with
  | nil => exact h
  | cons x r ih =>
    unfold State.xlateLanes
    split
    · next e => exact ih (h.coreXlate.snd e)
    · next e => exact ih (h.coreXlate.snd e)

theorem State.MemForm.places {s : State} {i : Issue} {o : MOps} {sp : MemSpace} {acc : Access} {size : ℕ}
    (h : s.MemForm) : (s.places i o sp acc size).2.2.MemForm := by
  unfold State.places
  extract_lets -underBinder ls ea x
  split
  · exact h.xlateLanes
  · exact h

theorem memHold_memForm {o : MOps} {sp : MemSpace} {load : Bool} {s : State} {i : Issue} (h : s.MemForm) : OptForm (memHold o sp load s i) := by
  unfold memHold
  split
  · exact trivial
  · split
    · split
      · exact h
      · extract_lets -underBinder b
        split
        · exact h
        · exact trivial
    · split
      · exact h
      · extract_lets -underBinder b
        split
        · exact h
        · exact trivial

theorem execAtomic_memForm {opc : ℕ} {sp : MemSpace} {hd : Hdr} {o : MOps} {s : State} (h : s.MemForm) : OutForm (execAtomic opc sp hd o s) := by
  unfold execAtomic
  extract_lets -underBinder size scal step cas b v
  refine perform_memForm h (fun _ _ => ?_) (fun _ _ hu => ?_)
  · intro x₁
    exact memHold_memForm x₁
  · refine .either hu ?_
    extract_lets -underBinder x accs
    exact .either hu.places.pageFault hu.places.launch

theorem execAtoma_memForm {hd : Hdr} {o : MOps} {s : State} (h : s.MemForm) : OutForm (execAtoma hd o s) := execAtomic_memForm h
theorem execAtom_memForm {hd : Hdr} {o : MOps} {s : State} (h : s.MemForm) : OutForm (execAtom hd o s) := execAtomic_memForm h

theorem execFence_memForm {hd : Hdr} {o : MOps} {s : State} (h : s.MemForm) : OutForm (execFence hd o s) := by
  unfold execFence
  extract_lets -underBinder node
  refine perform_memForm h (fun _ _ hu₁ => ?_) (fun _ _ hu₂ => ?_)
  · split
    · exact trivial
    · split
      · exact hu₁
      · split
        · split
          · exact hu₁.modGroup
          · split
            · exact hu₁
            · exact trivial
        · exact trivial
  · refine .either hu₂ ?_
    extract_lets -underBinder s₁
    have hs₁ : s₁.MemForm := hu₂.modGroup
    exact .either hs₁.leaseAcquire hs₁

theorem execPref_memForm {hd : Hdr} {o : MOps} {s : State} (h : s.MemForm) : OutForm (execPref hd o s) := by
  unfold execPref
  extract_lets -underBinder v
  refine perform_memForm h (fun _ _ => ?_) (fun _ _ hu₁ => ?_)
  · intro x₄
    exact noHold_memForm x₄
  · refine hu₁.foldl (fun u₁ x₇ hu₂ => ?_)
    extract_lets -underBinder ea
    refine .either hu₂ ?_
    split
    · next e₁ => exact hu₂.coreXlate.snd e₁
    · next e₂ =>
        refine .either (hu₂.coreXlate.snd e₂) ((hu₂.coreXlate.snd e₂).foldl (fun u₂ x₁₈ hu₃ => ?_))
        extract_lets -underBinder sec
        exact .either hu₃ (.either (.either hu₃.loadEffects hu₃.conflict.l2Fill) hu₃.coreLoad)

theorem State.MemForm.txStore {s : State} {gk : ℕ} {g : Group} {l va pa size data : ℕ} (h : s.MemForm) : (s.txStore gk g l va pa size data).2.MemForm := by
  unfold State.txStore
  split
  · exact h
  · extract_lets -underBinder c put s₁
    have hs₁ : s₁.MemForm := h.touchTag
    split
    · exact h.consume
    · split
      · exact hs₁.modCore
      · split
        · exact hs₁
        · exact hs₁.modCore

theorem txHold_memForm {o : MOps} {sp : MemSpace} {load : Bool} {s : State} {i : Issue} (h : s.MemForm) : OptForm (txHold o sp load s i) := by
  unfold txHold
  split
  · next e => exact (memHold_memForm h).some e
  · extract_lets -underBinder m x
    split
    · split
      · exact h
      · exact trivial
    · split
      · exact h
      · exact trivial

theorem execStore_memForm {opc : ℕ} {sp : MemSpace} {hd : Hdr} {o : MOps} {s : State} (h : s.MemForm) : OutForm (execStore opc sp hd o s) := by
  unfold execStore
  extract_lets -underBinder size scal v
  refine perform_memForm h (fun _ _ => ?_) (fun _ _ hu₁ => ?_)
  · intro x₁
    exact txHold_memForm x₁
  · refine .either hu₁ ?_
    extract_lets -underBinder x tx data r s₁ s₂
    have hs₁ : s₁.MemForm := by
      refine hu₁.places.foldlSsnd (fun u x₄ hu₂ => ?_)
      extract_lets -underBinder a
      split
      · split
        · split
          · next e₁ => exact hu₂.txStore.snd e₁
          · next e₂ => exact (hu₂.txStore.snd e₂).dropTx
        · exact hu₂
      · exact hu₂
    have hs₂ : s₂.MemForm := .either hs₁ hs₁.launch
    exact .either hu₁.places.pageFault (.either hu₁.places.freeze hs₂.abortLanes)

theorem execStx_memForm {hd : Hdr} {o : MOps} {s : State} (h : s.MemForm) : OutForm (execStx hd o s) := execStore_memForm h

theorem State.MemForm.txLoad {s : State} {gk : ℕ} {g : Group} {l va pa size : ℕ} (h : s.MemForm) : (s.txLoad gk g l va pa size).2.MemForm := by
  unfold State.txLoad
  split
  · exact h
  · extract_lets -underBinder c buf own rest byte val s₁ sh e
    have hs₁ : s₁.MemForm := h.touchTag.coreLoad
    split
    · exact h
    · split
      · exact h.consume
      · split
        · exact h
        · exact hs₁.modCore

theorem execLoad_memForm {opc : ℕ} {sp : MemSpace} {hd : Hdr} {o : MOps} {s : State} (h : s.MemForm) : OutForm (execLoad opc sp hd o s) := by
  unfold execLoad
  extract_lets -underBinder size scal v
  refine perform_memForm h (fun _ _ => ?_) (fun _ _ hu₁ => ?_)
  · intro x₁
    exact txHold_memForm x₁
  · refine .either hu₁ ?_
    extract_lets -underBinder x tx r s₁ s₂
    have hs₁ : s₁.MemForm := by
      refine hu₁.places.foldlSsnd (fun u x₄ hu₂ => ?_)
      split
      · split
        · split
          · next e₁ => exact hu₂.txLoad.snd e₁
          · next e₂ => exact (hu₂.txLoad.snd e₂).dropTx
        · exact hu₂
      · exact hu₂
    have hs₂ : s₂.MemForm := .either hs₁ hs₁.launch
    exact .either hu₁.places.pageFault (.either hu₁.places.freeze hs₂.abortLanes)

theorem execLdx_memForm {hd : Hdr} {o : MOps} {s : State} (h : s.MemForm) : OutForm (execLdx hd o s) := execLoad_memForm h
theorem execLdw_memForm {hd : Hdr} {o : MOps} {s : State} (h : s.MemForm) : OutForm (execLdw hd o s) := execLoad_memForm h
theorem execSta_memForm {hd : Hdr} {o : MOps} {s : State} (h : s.MemForm) : OutForm (execSta hd o s) := execStore_memForm h
theorem execLda_memForm {hd : Hdr} {o : MOps} {s : State} (h : s.MemForm) : OutForm (execLda hd o s) := execLoad_memForm h
theorem execSt_memForm {hd : Hdr} {o : MOps} {s : State} (h : s.MemForm) : OutForm (execSt hd o s) := execStore_memForm h
theorem execLd_memForm {hd : Hdr} {o : MOps} {s : State} (h : s.MemForm) : OutForm (execLd hd o s) := execLoad_memForm h

theorem execPred_memForm {opc : ℕ} {f : LaneMask → LaneMask → LaneMask} {hd : Hdr} {k : KOps} {s : State} (h : s.MemForm) : OutForm (execPred opc f hd k s) := by
  unfold execPred
  refine perform_memForm h (fun _ _ => ?_) (fun _ _ => ?_)
  · intro x
    exact noHold_memForm x
  · intro x₁
    exact onGroup_memForm x₁

theorem execPmov_memForm {hd : Hdr} {k : KOps} {s : State} (h : s.MemForm) : OutForm (execPmov hd k s) := execPred_memForm h
theorem execPnot_memForm {hd : Hdr} {k : KOps} {s : State} (h : s.MemForm) : OutForm (execPnot hd k s) := execPred_memForm h
theorem execPxor_memForm {hd : Hdr} {k : KOps} {s : State} (h : s.MemForm) : OutForm (execPxor hd k s) := execPred_memForm h
theorem execPor_memForm {hd : Hdr} {k : KOps} {s : State} (h : s.MemForm) : OutForm (execPor hd k s) := execPred_memForm h
theorem execPand_memForm {hd : Hdr} {k : KOps} {s : State} (h : s.MemForm) : OutForm (execPand hd k s) := execPred_memForm h

theorem execVector_memForm {opc : ℕ} {at_ bt ct rt : Typ} {useB useC : Bool} {f : ℕ → ℕ → ℕ → ℕ × Flags} {hd : Hdr} {k : KOps} {s : State}
    (h : s.MemForm) : OutForm (execVector opc at_ bt ct rt useB useC f hd k s) := by
  unfold execVector
  refine perform_memForm h (fun _ _ => ?_) (fun _ _ => ?_)
  · intro x
    exact noHold_memForm x
  · intro x₁
    exact onGroup_memForm x₁

theorem execCvt_memForm {hd : Hdr} {k : KOps} {s : State} (h : s.MemForm) : OutForm (execCvt hd k s) := by
  unfold execCvt
  extract_lets -underBinder u pair
  exact execVector_memForm h

theorem execVFloat_memForm {opc : ℕ} {useB useC : Bool} {op : FloatOp} {hd : Hdr} {k : KOps} {s : State}
    (h : s.MemForm) : OutForm (execVFloat opc useB useC op hd k s) :=
  execVector_memForm h

theorem execRsq_memForm {hd : Hdr} {k : KOps} {s : State} (h : s.MemForm) : OutForm (execRsq hd k s) := execVFloat_memForm h
theorem execRcp_memForm {hd : Hdr} {k : KOps} {s : State} (h : s.MemForm) : OutForm (execRcp hd k s) := execVFloat_memForm h
theorem execLog2_memForm {hd : Hdr} {k : KOps} {s : State} (h : s.MemForm) : OutForm (execLog2 hd k s) := execVFloat_memForm h
theorem execExp2_memForm {hd : Hdr} {k : KOps} {s : State} (h : s.MemForm) : OutForm (execExp2 hd k s) := execVFloat_memForm h
theorem execFsqrt_memForm {hd : Hdr} {k : KOps} {s : State} (h : s.MemForm) : OutForm (execFsqrt hd k s) := execVFloat_memForm h
theorem execFdiv_memForm {hd : Hdr} {k : KOps} {s : State} (h : s.MemForm) : OutForm (execFdiv hd k s) := execVFloat_memForm h
theorem execFrnd_memForm {hd : Hdr} {k : KOps} {s : State} (h : s.MemForm) : OutForm (execFrnd hd k s) := execVFloat_memForm h
theorem execFclass_memForm {hd : Hdr} {k : KOps} {s : State} (h : s.MemForm) : OutForm (execFclass hd k s) := execVector_memForm h

theorem execCompare_memForm {opc : ℕ} {f : ℕ → ℕ → Bool × Flags} {hd : Hdr} {k : KOps} {s : State} (h : s.MemForm) : OutForm (execCompare opc f hd k s) := by
  unfold execCompare
  refine perform_memForm h (fun _ _ => ?_) (fun _ _ => ?_)
  · intro x
    exact noHold_memForm x
  · intro x₁
    exact onGroup_memForm x₁

theorem execFcmp_memForm {hd : Hdr} {k : KOps} {s : State} (h : s.MemForm) : OutForm (execFcmp hd k s) := execCompare_memForm h
theorem execFneg_memForm {hd : Hdr} {k : KOps} {s : State} (h : s.MemForm) : OutForm (execFneg hd k s) := execVFloat_memForm h
theorem execFabs_memForm {hd : Hdr} {k : KOps} {s : State} (h : s.MemForm) : OutForm (execFabs hd k s) := execVFloat_memForm h
theorem execFmax_memForm {hd : Hdr} {k : KOps} {s : State} (h : s.MemForm) : OutForm (execFmax hd k s) := execVFloat_memForm h
theorem execFmin_memForm {hd : Hdr} {k : KOps} {s : State} (h : s.MemForm) : OutForm (execFmin hd k s) := execVFloat_memForm h
theorem execFfma_memForm {hd : Hdr} {k : KOps} {s : State} (h : s.MemForm) : OutForm (execFfma hd k s) := execVFloat_memForm h
theorem execFmul_memForm {hd : Hdr} {k : KOps} {s : State} (h : s.MemForm) : OutForm (execFmul hd k s) := execVFloat_memForm h
theorem execFsub_memForm {hd : Hdr} {k : KOps} {s : State} (h : s.MemForm) : OutForm (execFsub hd k s) := execVFloat_memForm h
theorem execFadd_memForm {hd : Hdr} {k : KOps} {s : State} (h : s.MemForm) : OutForm (execFadd hd k s) := execVFloat_memForm h

theorem execLpoll_memForm {hd : Hdr} {k : KOps} {s : State} (h : s.MemForm) : OutForm (execLpoll hd k s) := by
  unfold execLpoll
  extract_lets -underBinder form
  refine perform_memForm h (fun _ _ => ?_) (fun _ _ => ?_)
  · intro x
    exact noHold_memForm x
  · intro x₁
    exact onGroup_memForm x₁

theorem execLred_memForm {hd : Hdr} {k : KOps} {s : State} (h : s.MemForm) : OutForm (execLred hd k s) := by
  unfold execLred
  refine perform_memForm h (fun _ _ => ?_) (fun _ _ => ?_)
  · intro x
    exact noHold_memForm x
  · intro x₁
    exact onGroup_memForm x₁

theorem execLscan_memForm {hd : Hdr} {k : KOps} {s : State} (h : s.MemForm) : OutForm (execLscan hd k s) := by
  unfold execLscan
  refine perform_memForm h (fun _ _ => ?_) (fun _ _ => ?_)
  · intro x
    exact noHold_memForm x
  · intro x₁
    exact onGroup_memForm x₁

theorem execLprev_memForm {hd : Hdr} {k : KOps} {s : State} (h : s.MemForm) : OutForm (execLprev hd k s) := by
  unfold execLprev
  extract_lets -underBinder n
  refine perform_memForm h (fun _ _ => ?_) (fun _ _ => ?_)
  · intro x
    exact noHold_memForm x
  · intro x₁
    exact onGroup_memForm x₁

theorem execLxch_memForm {hd : Hdr} {k : KOps} {s : State} (h : s.MemForm) : OutForm (execLxch hd k s) := by
  unfold execLxch
  refine perform_memForm h (fun _ _ => ?_) (fun _ _ => ?_)
  · intro x
    exact noHold_memForm x
  · intro x₁
    exact onGroup_memForm x₁

theorem execPermb_memForm {hd : Hdr} {k : KOps} {s : State} (h : s.MemForm) : OutForm (execPermb hd k s) := by
  unfold execPermb
  extract_lets -underBinder b
  refine perform_memForm h (fun _ _ => ?_) (fun _ _ => ?_)
  · intro x
    exact noHold_memForm x
  · intro x₁
    exact onGroup_memForm x₁

theorem execVInt_memForm {opc : ℕ} {useB useC : Bool} {op : IntOp} {hd : Hdr} {k : KOps} {s : State} (h : s.MemForm) : OutForm (execVInt opc useB useC op hd k s) :=
  execVector_memForm h

theorem execPkwid_memForm {hd : Hdr} {k : KOps} {s : State} (h : s.MemForm) : OutForm (execPkwid hd k s) := execVInt_memForm h
theorem execPknar_memForm {hd : Hdr} {k : KOps} {s : State} (h : s.MemForm) : OutForm (execPknar hd k s) := execVInt_memForm h
theorem execPkmax_memForm {hd : Hdr} {k : KOps} {s : State} (h : s.MemForm) : OutForm (execPkmax hd k s) := execVInt_memForm h
theorem execPkmin_memForm {hd : Hdr} {k : KOps} {s : State} (h : s.MemForm) : OutForm (execPkmin hd k s) := execVInt_memForm h
theorem execPkavg_memForm {hd : Hdr} {k : KOps} {s : State} (h : s.MemForm) : OutForm (execPkavg hd k s) := execVInt_memForm h
theorem execPksad_memForm {hd : Hdr} {k : KOps} {s : State} (h : s.MemForm) : OutForm (execPksad hd k s) := execVInt_memForm h
theorem execPkmad_memForm {hd : Hdr} {k : KOps} {s : State} (h : s.MemForm) : OutForm (execPkmad hd k s) := execVInt_memForm h
theorem execPkmul_memForm {hd : Hdr} {k : KOps} {s : State} (h : s.MemForm) : OutForm (execPkmul hd k s) := execVInt_memForm h
theorem execPksub_memForm {hd : Hdr} {k : KOps} {s : State} (h : s.MemForm) : OutForm (execPksub hd k s) := execVInt_memForm h
theorem execPkadd_memForm {hd : Hdr} {k : KOps} {s : State} (h : s.MemForm) : OutForm (execPkadd hd k s) := execVInt_memForm h
theorem execVdot4_memForm {hd : Hdr} {k : KOps} {s : State} (h : s.MemForm) : OutForm (execVdot4 hd k s) := execVInt_memForm h

theorem execVmovi_memForm {hd : Hdr} {k : KOps} {s : State} (h : s.MemForm) : OutForm (execVmovi hd k s) := by
  unfold execVmovi
  refine perform_memForm h (fun _ _ => ?_) (fun _ _ => ?_)
  · intro x
    exact noHold_memForm x
  · intro x₁
    exact onGroup_memForm x₁

theorem execVmov_memForm {hd : Hdr} {k : KOps} {s : State} (h : s.MemForm) : OutForm (execVmov hd k s) := by
  unfold execVmov
  extract_lets -underBinder plain isB
  refine perform_memForm h (fun _ _ => ?_) (fun _ _ => ?_)
  · intro x
    exact noHold_memForm x
  · intro x₁
    exact onGroup_memForm x₁

theorem execVbfi_memForm {hd : Hdr} {k : KOps} {s : State} (h : s.MemForm) : OutForm (execVbfi hd k s) := execVInt_memForm h
theorem execVbfx_memForm {hd : Hdr} {k : KOps} {s : State} (h : s.MemForm) : OutForm (execVbfx hd k s) := execVInt_memForm h
theorem execVclz_memForm {hd : Hdr} {k : KOps} {s : State} (h : s.MemForm) : OutForm (execVclz hd k s) := execVInt_memForm h
theorem execVpop_memForm {hd : Hdr} {k : KOps} {s : State} (h : s.MemForm) : OutForm (execVpop hd k s) := execVInt_memForm h
theorem execVsel_memForm {hd : Hdr} {k : KOps} {s : State} (h : s.MemForm) : OutForm (execVsel hd k s) := execVInt_memForm h
theorem execVcmp_memForm {hd : Hdr} {k : KOps} {s : State} (h : s.MemForm) : OutForm (execVcmp hd k s) := execCompare_memForm h
theorem execVrot_memForm {hd : Hdr} {k : KOps} {s : State} (h : s.MemForm) : OutForm (execVrot hd k s) := execVInt_memForm h
theorem execVsra_memForm {hd : Hdr} {k : KOps} {s : State} (h : s.MemForm) : OutForm (execVsra hd k s) := execVInt_memForm h
theorem execVshr_memForm {hd : Hdr} {k : KOps} {s : State} (h : s.MemForm) : OutForm (execVshr hd k s) := execVInt_memForm h
theorem execVshl_memForm {hd : Hdr} {k : KOps} {s : State} (h : s.MemForm) : OutForm (execVshl hd k s) := execVInt_memForm h

theorem execBitwise_memForm {opc : ℕ} {useB : Bool} {op : IntOp} {hd : Hdr} {k : KOps} {s : State} (h : s.MemForm) : OutForm (execBitwise opc useB op hd k s) :=
  execVInt_memForm h

theorem execVnot_memForm {hd : Hdr} {k : KOps} {s : State} (h : s.MemForm) : OutForm (execVnot hd k s) := execBitwise_memForm h
theorem execVxor_memForm {hd : Hdr} {k : KOps} {s : State} (h : s.MemForm) : OutForm (execVxor hd k s) := execBitwise_memForm h
theorem execVor_memForm {hd : Hdr} {k : KOps} {s : State} (h : s.MemForm) : OutForm (execVor hd k s) := execBitwise_memForm h
theorem execVand_memForm {hd : Hdr} {k : KOps} {s : State} (h : s.MemForm) : OutForm (execVand hd k s) := execBitwise_memForm h
theorem execVneg_memForm {hd : Hdr} {k : KOps} {s : State} (h : s.MemForm) : OutForm (execVneg hd k s) := execVInt_memForm h
theorem execVabs_memForm {hd : Hdr} {k : KOps} {s : State} (h : s.MemForm) : OutForm (execVabs hd k s) := execVInt_memForm h
theorem execVmax_memForm {hd : Hdr} {k : KOps} {s : State} (h : s.MemForm) : OutForm (execVmax hd k s) := execVInt_memForm h
theorem execVmin_memForm {hd : Hdr} {k : KOps} {s : State} (h : s.MemForm) : OutForm (execVmin hd k s) := execVInt_memForm h
theorem execVdiv_memForm {hd : Hdr} {k : KOps} {s : State} (h : s.MemForm) : OutForm (execVdiv hd k s) := execVInt_memForm h
theorem execVmad_memForm {hd : Hdr} {k : KOps} {s : State} (h : s.MemForm) : OutForm (execVmad hd k s) := execVInt_memForm h
theorem execVmulh_memForm {hd : Hdr} {k : KOps} {s : State} (h : s.MemForm) : OutForm (execVmulh hd k s) := execVInt_memForm h
theorem execVmul_memForm {hd : Hdr} {k : KOps} {s : State} (h : s.MemForm) : OutForm (execVmul hd k s) := execVInt_memForm h
theorem execVsub_memForm {hd : Hdr} {k : KOps} {s : State} (h : s.MemForm) : OutForm (execVsub hd k s) := execVInt_memForm h
theorem execVadd_memForm {hd : Hdr} {k : KOps} {s : State} (h : s.MemForm) : OutForm (execVadd hd k s) := execVInt_memForm h

theorem execScalar_memForm {opc : ℕ} {sgn useB useC : Bool} {f : ℕ → ℕ → ℕ → BitVec 64 × Flags} {hd : Hdr} {k : KOps} {s : State}
    (h : s.MemForm) : OutForm (execScalar opc sgn useB useC f hd k s) := by
  unfold execScalar
  refine perform_memForm h (fun _ _ => ?_) (fun _ _ => ?_)
  · intro x
    exact noHold_memForm x
  · intro x₁
    exact onGroup_memForm x₁

theorem execSInt_memForm {opc : ℕ} {useB useC : Bool} {op : IntOp} {hd : Hdr} {k : KOps} {s : State} (h : s.MemForm) : OutForm (execSInt opc useB useC op hd k s) :=
  execScalar_memForm h

theorem execSbfi_memForm {hd : Hdr} {k : KOps} {s : State} (h : s.MemForm) : OutForm (execSbfi hd k s) := execSInt_memForm h
theorem execSbfx_memForm {hd : Hdr} {k : KOps} {s : State} (h : s.MemForm) : OutForm (execSbfx hd k s) := execSInt_memForm h
theorem execSpop_memForm {hd : Hdr} {k : KOps} {s : State} (h : s.MemForm) : OutForm (execSpop hd k s) := execSInt_memForm h
theorem execSclz_memForm {hd : Hdr} {k : KOps} {s : State} (h : s.MemForm) : OutForm (execSclz hd k s) := execSInt_memForm h
theorem execSlea_memForm {hd : Hdr} {k : KOps} {s : State} (h : s.MemForm) : OutForm (execSlea hd k s) := execScalar_memForm h

theorem execSmovi_memForm {hd : Hdr} {k : KOps} {s : State} (h : s.MemForm) : OutForm (execSmovi hd k s) := by
  unfold execSmovi
  refine perform_memForm h (fun _ _ => ?_) (fun _ _ => ?_)
  · intro x
    exact noHold_memForm x
  · intro x₁
    exact onGroup_memForm x₁

theorem execSsel_memForm {hd : Hdr} {k : KOps} {s : State} (h : s.MemForm) : OutForm (execSsel hd k s) := execSInt_memForm h
theorem execScmp_memForm {hd : Hdr} {k : KOps} {s : State} (h : s.MemForm) : OutForm (execScmp hd k s) := execScalar_memForm h
theorem execSsra_memForm {hd : Hdr} {k : KOps} {s : State} (h : s.MemForm) : OutForm (execSsra hd k s) := execSInt_memForm h
theorem execSshr_memForm {hd : Hdr} {k : KOps} {s : State} (h : s.MemForm) : OutForm (execSshr hd k s) := execSInt_memForm h
theorem execSshl_memForm {hd : Hdr} {k : KOps} {s : State} (h : s.MemForm) : OutForm (execSshl hd k s) := execSInt_memForm h
theorem execSxor_memForm {hd : Hdr} {k : KOps} {s : State} (h : s.MemForm) : OutForm (execSxor hd k s) := execSInt_memForm h
theorem execSor_memForm {hd : Hdr} {k : KOps} {s : State} (h : s.MemForm) : OutForm (execSor hd k s) := execSInt_memForm h
theorem execSand_memForm {hd : Hdr} {k : KOps} {s : State} (h : s.MemForm) : OutForm (execSand hd k s) := execSInt_memForm h
theorem execSmax_memForm {hd : Hdr} {k : KOps} {s : State} (h : s.MemForm) : OutForm (execSmax hd k s) := execSInt_memForm h
theorem execSmin_memForm {hd : Hdr} {k : KOps} {s : State} (h : s.MemForm) : OutForm (execSmin hd k s) := execSInt_memForm h
theorem execSrem_memForm {hd : Hdr} {k : KOps} {s : State} (h : s.MemForm) : OutForm (execSrem hd k s) := execSInt_memForm h
theorem execSdiv_memForm {hd : Hdr} {k : KOps} {s : State} (h : s.MemForm) : OutForm (execSdiv hd k s) := execSInt_memForm h
theorem execSmulh_memForm {hd : Hdr} {k : KOps} {s : State} (h : s.MemForm) : OutForm (execSmulh hd k s) := execSInt_memForm h
theorem execSmul_memForm {hd : Hdr} {k : KOps} {s : State} (h : s.MemForm) : OutForm (execSmul hd k s) := execSInt_memForm h
theorem execSsub_memForm {hd : Hdr} {k : KOps} {s : State} (h : s.MemForm) : OutForm (execSsub hd k s) := execSInt_memForm h
theorem execSadd_memForm {hd : Hdr} {k : KOps} {s : State} (h : s.MemForm) : OutForm (execSadd hd k s) := execSInt_memForm h

theorem execSflagClr_memForm {hd : Hdr} {o : YOps} {s : State} (h : s.MemForm) : OutForm (execSflagClr hd o s) := by
  unfold execSflagClr
  refine perform_memForm h (fun _ _ => ?_) (fun _ _ => ?_)
  · intro x
    exact noHold_memForm x
  · intro x₁
    exact onGroup_memForm x₁

theorem execSflagSet_memForm {hd : Hdr} {o : YOps} {s : State} (h : s.MemForm) : OutForm (execSflagSet hd o s) := by
  unfold execSflagSet
  refine perform_memForm h (fun _ _ => ?_) (fun _ _ => ?_)
  · intro x
    exact noHold_memForm x
  · intro x₁
    exact onGroup_memForm x₁

theorem execWmark_memForm {hd : Hdr} {o : YOps} {s : State} (h : s.MemForm) : OutForm (execWmark hd o s) := by
  unfold execWmark
  extract_lets -underBinder x
  refine perform_memForm h (fun _ _ => ?_) (fun _ _ hu => ?_)
  · intro x₁
    exact noHold_memForm x₁
  · refine .either hu ?_
    extract_lets -underBinder s₁
    have hs₁ : s₁.MemForm := hu.commitTo
    exact .either hs₁.modPart.stopGroup hs₁

theorem execSwr_memForm {hd : Hdr} {o : YOps} {s : State} (h : s.MemForm) : OutForm (execSwr hd o s) := by
  unfold execSwr
  extract_lets -underBinder n
  refine perform_memForm h (fun _ _ => ?_) (fun _ _ => ?_)
  · intro x
    exact noHold_memForm x
  · intro x₁
    exact onGroup_memForm x₁

theorem execSrd_memForm {hd : Hdr} {o : YOps} {s : State} (h : s.MemForm) : OutForm (execSrd hd o s) := by
  unfold execSrd
  extract_lets -underBinder n vec
  refine perform_memForm h (fun _ _ => ?_) (fun _ _ hu => hu.modGroup)
  intro x₁
  exact noHold_memForm x₁

theorem execHret_memForm {hd : Hdr} {o : YOps} {s : State} (h : s.MemForm) : OutForm (execHret hd o s) := by
  unfold execHret
  extract_lets -underBinder x
  refine perform_memForm h (fun _ _ => ?_) (fun _ _ hu => ?_)
  · intro x₁
    exact noHold_memForm x₁
  · refine .either hu ?_
    split
    · exact hu.modGroup
    · exact hu.modGroup

theorem execTrap_memForm {hd : Hdr} {o : YOps} {s : State} (h : s.MemForm) : OutForm (execTrap hd o s) := by
  unfold execTrap
  extract_lets -underBinder code
  refine perform_memForm h (fun _ _ hu₁ => ?_) (fun _ _ hu₂ => ?_)
  · split
    · exact trivial
    · split
      · exact hu₁
      · exact trivial
  · refine .either hu₂ (.either hu₂.modGroup ?_)
    extract_lets -underBinder now resume
    split
    · exact hu₂.modGroup
    · exact .either hu₂.modGroup hu₂.modGroup.park

theorem State.MemForm.svcTranslated {s : State} {i : Issue} {o : YOps} {k : State → State}
    (h : s.MemForm) (hk : ∀ t, t.MemForm → (k t).MemForm) : (s.svcTranslated i o k).MemForm := by
  unfold State.svcTranslated
  split
  · next e₁ => exact hk _ (h.xlate.snd e₁)
  · next e₂ => exact (h.xlate.snd e₂).pageFault

theorem execSvcApp_memForm {hd : Hdr} {o : YOps} {s : State} (h : s.MemForm) : OutForm (execSvcApp hd o s) := by
  unfold execSvcApp
  refine perform_memForm h (fun _ _ hu₁ => ?_) (fun _ _ hu₂ => ?_)
  · split
    · exact trivial
    · split
      · exact hu₁
      · split
        · exact hu₁.stamped
        · exact trivial
  · refine .either hu₂ (hu₂.svcTranslated (fun _ hu₃ => ?_))
    split
    · split
      · next e₁ => exact (hu₃.ringPost.ofPostRes e₁).commitTo
      · next e₂ => exact hu₃.ringPost.ofPostRes e₂
      · next e₃ => exact hu₃.ringPost.ofPostRes e₃
    · exact hu₃

theorem execSvcOstler_memForm {hd : Hdr} {o : YOps} {s : State} (h : s.MemForm) : OutForm (execSvcOstler hd o s) := by
  unfold execSvcOstler
  refine perform_memForm h (fun _ _ hu₁ => ?_) (fun _ _ hu₂ => .either hu₂ (hu₂.svcTranslated (fun _ hu₃ => hu₃.modCore.commitTo)))
  extract_lets -underBinder c
  split
  · exact hu₁.stamped
  · exact trivial

theorem execXrel_memForm {hd : Hdr} {o : YOps} {s : State} (h : s.MemForm) : OutForm (execXrel hd o s) := by
  unfold execXrel
  extract_lets -underBinder n
  refine perform_memForm h (fun _ _ hu₁ => ?_) (fun _ _ hu₂ => .either hu₂ hu₂.modTeam.modGroup)
  split
  · exact hu₁
  · exact trivial

theorem execXacq_memForm {hd : Hdr} {o : YOps} {s : State} (h : s.MemForm) : OutForm (execXacq hd o s) := by
  unfold execXacq
  extract_lets -underBinder n
  refine perform_memForm h (fun _ _ hu₁ => ?_) (fun _ _ hu₂ => .either hu₂ hu₂.modTeam.modGroup)
  split
  · exact trivial
  · split
    · exact hu₁.stamped
    · exact trivial

theorem State.MemForm.rebindTeam {s : State} {tk : ℕ} (h : s.MemForm) : (s.rebindTeam tk).MemForm := by
  unfold State.rebindTeam
  split
  · exact h
  · split
    · exact h.setTeam
    · refine h.foldl (fun u x₁₂ hu => ?_)
      extract_lets -underBinder j
      exact .either hu hu.modTeam

theorem State.MemForm.doSwitch {s : State} {tk : ℕ} {t : Team} {gs : List (ℕ × Group)} {k target : ℕ} (h : s.MemForm) : (s.doSwitch tk t gs k target).MemForm := by
  unfold State.doSwitch
  split
  · exact h
  · split
    · exact h
    · extract_lets -underBinder keep off s₁ hs
      have hs₁ : s₁.MemForm := h.foldl (fun _ _ hu => hu.endGroup)
      split
      · exact hs₁
      · extract_lets -underBinder t₁ s₂ s₃ s₄ s₅ s₆
        have hs₂ : s₂.MemForm := hs₁.modCore
        have hs₃ : s₃.MemForm := hs₂.setTeam.rebindTeam
        have hs₄ : s₄.MemForm := hs₃.writeMailbox
        have hs₅ : s₅.MemForm := hs₄.makeGroups
        have hs₆ : s₆.MemForm := hs₅
        exact hs₆.trackFree

theorem execVariantSwitch_memForm {tk : ℕ} {s : State} (h : s.MemForm) : OutForm (execVariantSwitch tk s) := by
  unfold execVariantSwitch
  split
  · exact h
  extract_lets gs ks s₁
  split
  · exact h
  refine .either h ?_
  clear_value ks
  split
  · exact .either h (.either h h.doSwitch)
  · exact h.setTeam.foldl (fun _ _ hu => hu.freeze)

theorem execSwitchv_memForm {hd : Hdr} {o : YOps} {s : State} (h : s.MemForm) : OutForm (execSwitchv hd o s) := by
  unfold execSwitchv
  refine perform_memForm h (fun _ _ => ?_) (fun _ _ hu => ?_)
  · intro x₁
    exact noHold_memForm x₁
  · extract_lets -underBinder s₁ pend
    have hs₁ : s₁.MemForm := hu.wholeAgain
    exact .either hs₁.modGroup hs₁

theorem execFetchw_memForm {hd : Hdr} {o : YOps} {s : State} (h : s.MemForm) : OutForm (execFetchw hd o s) := by
  unfold execFetchw
  extract_lets -underBinder x
  refine perform_memForm h (fun _ _ hu₁ => ?_) (fun _ _ hu₂ => hu₂.modGroup.commitTo)
  split
  · exact trivial
  · split
    · exact hu₁
    · exact hu₁.stamped.modGroup.setInn

theorem execMwaitTimeout_memForm {gk : ℕ} {s : State} (h : s.MemForm) : OutForm (execMwaitTimeout gk s) := h.modGroup
theorem execMwaitWake_memForm {gk : ℕ} {s : State} (h : s.MemForm) : OutForm (execMwaitWake gk s) := h.modGroup

theorem execMwait_memForm {hd : Hdr} {o : YOps} {s : State} (h : s.MemForm) : OutForm (execMwait hd o s) := by
  unfold execMwait
  refine perform_memForm h (fun _ _ => ?_) (fun _ _ hu => ?_)
  · intro x₁
    exact noHold_memForm x₁
  · extract_lets -underBinder lim
    exact .either hu hu.modGroup.rewait

theorem State.MemForm.watchHome {s : State} {x : Place} (h : s.MemForm) : (s.watchHome x).MemForm := by
  unfold State.watchHome
  split
  · exact h.watchSector
  · exact h

theorem execMonitor_memForm {hd : Hdr} {o : YOps} {s : State} (h : s.MemForm) : OutForm (execMonitor hd o s) := by
  unfold execMonitor
  extract_lets -underBinder a
  refine perform_memForm h (fun _ _ hu₁ => ?_) (fun _ _ hu₂ => ?_)
  · split
    · exact hu₁
    · exact trivial
  · refine .either hu₂ ?_
    extract_lets -underBinder x loc line w va kept arm base
    refine .either (.either hu₂.modGroup.watchHome ?_) ?_
    · extract_lets -underBinder s₁
      have hs₁ : s₁.MemForm := .either hu₂.modGroup hu₂
      exact hs₁.modGroup
    · split
      · next e₁ =>
          refine .either ((hu₂.coreXlate.snd e₁).modGroup.watchHome) ?_
          extract_lets -underBinder s₁
          have hs₁ : s₁.MemForm := .either ((hu₂.coreXlate.snd e₁).modGroup) (hu₂.coreXlate.snd e₁)
          exact hs₁.modGroup
      · next e₂ => exact (hu₂.coreXlate.snd e₂).pageFault

theorem execRvwait_memForm {hd : Hdr} {o : YOps} {s : State} (h : s.MemForm) : OutForm (execRvwait hd o s) := by
  unfold execRvwait
  extract_lets -underBinder n
  refine perform_memForm h (fun _ _ hu₁ => ?_) (fun _ _ hu₂ => hu₂)
  split
  · exact hu₁
  · exact trivial

theorem execRvarrive_memForm {hd : Hdr} {o : YOps} {s : State} (h : s.MemForm) : OutForm (execRvarrive hd o s) := by
  unfold execRvarrive
  extract_lets -underBinder n
  refine perform_memForm h (fun _ _ hu₁ => ?_) (fun _ _ hu₂ => ?_)
  · split
    · exact hu₁
    · exact trivial
  · refine .either hu₂ ?_
    extract_lets -underBinder s₁
    have hs₁ : s₁.MemForm := hu₂.arrive.commitTo
    exact hs₁.modGroup

theorem execRvinit_memForm {hd : Hdr} {o : YOps} {s : State} (h : s.MemForm) : OutForm (execRvinit hd o s) := by
  unfold execRvinit
  extract_lets -underBinder n
  refine perform_memForm h (fun _ _ => ?_) (fun _ _ hu => hu.modTeam)
  intro x₁
  exact noHold_memForm x₁

theorem execWait_memForm {hd : Hdr} {o : JOps} {s : State} (h : s.MemForm) : OutForm (execWait hd o s) := by
  unfold execWait
  refine perform_memForm h (fun _ _ hu₁ => ?_) (fun _ _ hu₂ => hu₂)
  split
  · exact trivial
  · exact hu₁

theorem execExit_memForm {hd : Hdr} {o : JOps} {s : State} (h : s.MemForm) : OutForm (execExit hd o s) := by
  unfold execExit
  extract_lets -underBinder x
  refine perform_memForm h (fun _ _ => ?_) (fun _ _ => ?_)
  · intro x
    exact noHold_memForm x
  · intro x₁
    exact onGroup_memForm x₁

theorem execYield_memForm {hd : Hdr} {o : JOps} {s : State} (h : s.MemForm) : OutForm (execYield hd o s) := by
  unfold execYield
  extract_lets -underBinder x
  refine perform_memForm h (fun _ _ => ?_) (fun _ _ => ?_)
  · intro x
    exact noHold_memForm x
  · intro x₁
    exact onGroup_memForm x₁

theorem execRejoin_memForm {hd : Hdr} {o : JOps} {s : State} (h : s.MemForm) : OutForm (execRejoin hd o s) := by
  unfold execRejoin
  refine perform_memForm h (fun _ _ => ?_) (fun _ _ => ?_)
  · intro x
    exact noHold_memForm x
  · intro x₁
    exact onGroup_memForm x₁

theorem execEnrol_memForm {hd : Hdr} {o : JOps} {s : State} (h : s.MemForm) : OutForm (execEnrol hd o s) := by
  unfold execEnrol
  refine perform_memForm h (fun _ _ => ?_) (fun _ _ => ?_)
  · intro x
    exact noHold_memForm x
  · intro x₁
    exact onGroup_memForm x₁

theorem jumpReg_memForm {opc : ℕ} {hd : Hdr} {o : JOps} {s : State} (h : s.MemForm) : OutForm (jumpReg opc hd o s) := by
  unfold jumpReg
  refine perform_memForm h (fun _ _ => ?_) (fun _ _ => ?_)
  · intro x
    exact noHold_memForm x
  · intro x₁
    exact onGroup_memForm x₁

theorem execRet_memForm {hd : Hdr} {o : JOps} {s : State} (h : s.MemForm) : OutForm (execRet hd o s) := jumpReg_memForm h

theorem execCall_memForm {hd : Hdr} {o : JOps} {s : State} (h : s.MemForm) : OutForm (execCall hd o s) := by
  unfold execCall
  refine perform_memForm h (fun _ _ => ?_) (fun _ _ => ?_)
  · intro x
    exact noHold_memForm x
  · intro x₁
    exact onGroup_memForm x₁

theorem State.MemForm.loopCapture {s : State} {i : Issue} {dest : ℕ} {taken : Bool} (h : s.MemForm) : (s.loopCapture i dest taken).MemForm := h

theorem jump_memForm {opc : ℕ} {hd : Hdr} {o : JOps} {s : State} (h : s.MemForm) : OutForm (jump opc hd o s) := by
  unfold jump
  refine perform_memForm h (fun _ _ => ?_) (fun _ _ hu => hu.modGroup.loopCapture)
  intro x₁
  exact noHold_memForm x₁

theorem execJmp_memForm {hd : Hdr} {o : JOps} {s : State} (h : s.MemForm) : OutForm (execJmp hd o s) := jump_memForm h
theorem execBrx_memForm {hd : Hdr} {o : JOps} {s : State} (h : s.MemForm) : OutForm (execBrx hd o s) := jumpReg_memForm h
theorem execBra_memForm {hd : Hdr} {o : JOps} {s : State} (h : s.MemForm) : OutForm (execBra hd o s) := jump_memForm h

theorem execNop_memForm {hd : Hdr} {bytes : ℕ} {s : State} (h : s.MemForm) : OutForm (execNop hd bytes s) := by
  unfold execNop
  refine perform_memForm h (fun _ _ => ?_) (fun _ _ hu => hu)
  intro x₁
  exact noHold_memForm x₁

theorem exec_memForm {i : Instr} {s : State} (h : s.MemForm) : OutForm (exec i s) := by
  unfold exec
  split
  · exact execNop_memForm h
  · exact execBra_memForm h
  · exact execBrx_memForm h
  · exact execJmp_memForm h
  · exact execCall_memForm h
  · exact execRet_memForm h
  · exact execEnrol_memForm h
  · exact execRejoin_memForm h
  · exact execYield_memForm h
  · exact execExit_memForm h
  · exact execWait_memForm h
  · exact execRvinit_memForm h
  · exact execRvarrive_memForm h
  · exact execRvwait_memForm h
  · exact execMonitor_memForm h
  · exact execMwait_memForm h
  · exact execMwaitWake_memForm h
  · exact execMwaitTimeout_memForm h
  · exact execFetchw_memForm h
  · exact execSwitchv_memForm h
  · exact execVariantSwitch_memForm h
  · exact execXacq_memForm h
  · exact execXrel_memForm h
  · exact execSvcOstler_memForm h
  · exact execSvcApp_memForm h
  · exact execTrap_memForm h
  · exact execHret_memForm h
  · exact execSrd_memForm h
  · exact execSwr_memForm h
  · exact execWmark_memForm h
  · exact execSflagSet_memForm h
  · exact execSflagClr_memForm h
  · exact execSadd_memForm h
  · exact execSsub_memForm h
  · exact execSmul_memForm h
  · exact execSmulh_memForm h
  · exact execSdiv_memForm h
  · exact execSrem_memForm h
  · exact execSmin_memForm h
  · exact execSmax_memForm h
  · exact execSand_memForm h
  · exact execSor_memForm h
  · exact execSxor_memForm h
  · exact execSshl_memForm h
  · exact execSshr_memForm h
  · exact execSsra_memForm h
  · exact execScmp_memForm h
  · exact execSsel_memForm h
  · exact execSmovi_memForm h
  · exact execSlea_memForm h
  · exact execSclz_memForm h
  · exact execSpop_memForm h
  · exact execSbfx_memForm h
  · exact execSbfi_memForm h
  · exact execVadd_memForm h
  · exact execVsub_memForm h
  · exact execVmul_memForm h
  · exact execVmulh_memForm h
  · exact execVmad_memForm h
  · exact execVdiv_memForm h
  · exact execVmin_memForm h
  · exact execVmax_memForm h
  · exact execVabs_memForm h
  · exact execVneg_memForm h
  · exact execVand_memForm h
  · exact execVor_memForm h
  · exact execVxor_memForm h
  · exact execVnot_memForm h
  · exact execVshl_memForm h
  · exact execVshr_memForm h
  · exact execVsra_memForm h
  · exact execVrot_memForm h
  · exact execVcmp_memForm h
  · exact execVsel_memForm h
  · exact execVpop_memForm h
  · exact execVclz_memForm h
  · exact execVbfx_memForm h
  · exact execVbfi_memForm h
  · exact execVmov_memForm h
  · exact execVmovi_memForm h
  · exact execVdot4_memForm h
  · exact execPkadd_memForm h
  · exact execPksub_memForm h
  · exact execPkmul_memForm h
  · exact execPkmad_memForm h
  · exact execPksad_memForm h
  · exact execPkavg_memForm h
  · exact execPkmin_memForm h
  · exact execPkmax_memForm h
  · exact execPknar_memForm h
  · exact execPkwid_memForm h
  · exact execPermb_memForm h
  · exact execLxch_memForm h
  · exact execLprev_memForm h
  · exact execLscan_memForm h
  · exact execLred_memForm h
  · exact execLpoll_memForm h
  · exact execFadd_memForm h
  · exact execFsub_memForm h
  · exact execFmul_memForm h
  · exact execFfma_memForm h
  · exact execFmin_memForm h
  · exact execFmax_memForm h
  · exact execFabs_memForm h
  · exact execFneg_memForm h
  · exact execFcmp_memForm h
  · exact execFclass_memForm h
  · exact execFrnd_memForm h
  · exact execFdiv_memForm h
  · exact execFsqrt_memForm h
  · exact execExp2_memForm h
  · exact execLog2_memForm h
  · exact execRcp_memForm h
  · exact execRsq_memForm h
  · exact execCvt_memForm h
  · exact execPand_memForm h
  · exact execPor_memForm h
  · exact execPxor_memForm h
  · exact execPnot_memForm h
  · exact execPmov_memForm h
  · exact execLd_memForm h
  · exact execSt_memForm h
  · exact execLda_memForm h
  · exact execSta_memForm h
  · exact execLdw_memForm h
  · exact execLdx_memForm h
  · exact execStx_memForm h
  · exact execPref_memForm h
  · exact execFence_memForm h
  · exact execAtom_memForm h
  · exact execAtoma_memForm h
  · exact execLoadRetire_memForm h
  · exact execStoreRetire_memForm h
  · exact execAtomicPerform_memForm h
  · exact execNodeReleasePerform_memForm h
  · exact execTxbegin_memForm h
  · exact execTxend_memForm h
  · exact execTxabort_memForm h
  · exact execTxstat_memForm h
  · exact execTxB_memForm h
  · exact execTxE_memForm h
  · exact execTxA_memForm h
  · exact execTxS_memForm h
  · exact execCustom0Illegal_memForm h
  · exact execTicketRequest_memForm h
  · exact execGroupCommitDecision_memForm h
  · exact execHartCommitPublish_memForm h
  · exact execSerialTokenGrant_memForm h
  · exact execMma_memForm h
  · exact execMmas_memForm h
  · exact execMmab_memForm h
  · exact execLdmeta_memForm h
  · exact execTkacq_memForm h
  · exact execTkrel_memForm h
  · exact execAccld_memForm h
  · exact execAccst_memForm h
  · exact execAccz_memForm h
  · exact execOpfence_memForm h
  · exact execMatrixOpRetire_memForm h
  · exact execCopy_memForm h
  · exact execCopyt_memForm h
  · exact execGather_memForm h
  · exact execScadd_memForm h
  · exact execDecomp_memForm h
  · exact execNput_memForm h
  · exact execNget_memForm h
  · exact execNatom_memForm h
  · exact execSread_memForm h
  · exact execEngineCommandRetire_memForm h
  · exact execScarabRowRequest_memForm h
  · exact execScarabBurst_memForm h
  · exact execScaddRowUpdate_memForm h
  · exact execNetworkCommandFail_memForm h
  · exact execStorageCompletion_memForm h
  · exact execStorageTimeout_memForm h
  · exact execPartCreate_memForm h
  · exact execPartDestroy_memForm h
  · exact execImageLoad_memForm h
  · exact execImageUnload_memForm h
  · exact execResidentStart_memForm h
  · exact execMemExpose_memForm h
  · exact execMemUnexpose_memForm h
  · exact execQueueCreate_memForm h
  · exact execQueueDestroy_memForm h
  · exact execQueryPartitionState_memForm h
  · exact execQueryQueueIndices_memForm h
  · exact execQueryErrorCounters_memForm h
  · exact execQuerySpareStatus_memForm h
  · exact execPeerSet_memForm h
  · exact execStorageSet_memForm h
  · exact execSwap_memForm h
  · exact execMgmtPowercap_memForm h
  · exact execMgmtGate_memForm h
  · exact execMgmtUngate_memForm h
  · exact execMgmtVcweight_memForm h
  · exact execMgmtWindow_memForm h
  · exact execMgmtAdminlistAdd_memForm h
  · exact execMgmtAdminlistRemove_memForm h
  · exact execMgmtGrandmaster_memForm h
  · exact execMgmtClearcnt_memForm h
  · exact execMgmtImage_memForm h
  · exact execDebugAttach_memForm h
  · exact execDebugDetach_memForm h
  · exact execDebugLogSetup_memForm h
  · exact execDebugLogOn_memForm h
  · exact execDebugLogOff_memForm h
  · exact execDebugHalt_memForm h
  · exact execDebugResume_memForm h
  · exact execDebugAdvance_memForm h
  · exact execDebugReverse_memForm h
  · exact execDebugSolo_memForm h
  · exact execDebugBreakSet_memForm h
  · exact execDebugBreakClear_memForm h
  · exact execDebugWaitev_memForm h
  · exact execDebugGread_memForm h
  · exact execDebugGwrite_memForm h
  · exact execTraceSetup_memForm h
  · exact execTraceEnable_memForm h
  · exact execTraceDrain_memForm h
  · exact execTraceStatus_memForm h
  · exact execReplaySetup_memForm h
  · exact execReplayList_memForm h
  · exact execReplayRun_memForm h
  · exact execReplayRelease_memForm h
  · exact execBadopRequest_memForm h
  · exact execInnkeeperGrant_memForm h
  · exact execTailLineWrite_memForm h
  · exact execDependenceCounterChange_memForm h
  · exact execWorkgroupRetire_memForm h
  · exact execUpshiftQuantumExpiry_memForm h
  · exact execSwitchGraceExpiry_memForm h
  · exact execAllocationSpill_memForm h
  · exact execGroupRestore_memForm h
  · exact execUserTrapEntry_memForm h
  · exact execPreciseStop_memForm h
  · exact execExecutionFreeze_memForm h
  · exact execPartitionViolation_memForm h
  · exact execWatchdogPendingStop_memForm h
  · exact execWatchdogNoWaypoint_memForm h
  · exact execEventQueueEntryWrite_memForm h
  · exact execGctlResume_memForm h
  · exact execGctlStep_memForm h
  · exact execGctlHalt_memForm h
  · exact execEngctlResume_memForm h
  · exact execEngctlDiscard_memForm h
  · exact execWindowMap_memForm h
  · exact execWindowMapValid_memForm h
  · exact execWindowUnmap_memForm h
  · exact execWindowLineWriteback_memForm h
  · exact execUpost_memForm h
  · exact execXvuint_memForm h
  · exact execXvwake_memForm h
  · exact execXvfreeze_memForm h
  · exact execXvshootPage_memForm h
  · exact execXvshootAll_memForm h
  · exact execShootdownComplete_memForm h
  · exact execOstlerRegisterWrite_memForm h
  · exact execPageWalk_memForm h
  · exact execRingHeadAdvance_memForm h
  · exact execDirectoryRead_memForm h
  · exact execDirectoryOwnership_memForm h
  · exact execDirectoryWriteBack_memForm h
  · exact execL2Eviction_memForm h
  · exact execVisibilityWindowStart_memForm h
  · exact execLeaseRebase_memForm h
  · exact execPacketPromotion_memForm h
  · exact execPeerLineRead_memForm h
  · exact execPeerWriteThrough_memForm h
  · exact execOperationPacket_memForm h
  · exact execWindowMarker_memForm h
  · exact execNodeLinkFlit_memForm h
  · exact execFlitResendTimeout_memForm h
  · exact execLinkRetrain_memForm h
  · exact execLinkDown_memForm h
  · exact execPtpSync_memForm h
  · exact execSoftErrorDetect_memForm h
  · exact execMemoryScrub_memForm h
  · exact execUnitRemoval_memForm h
  · exact execThermalSample_memForm h
  · exact execThermalHoldExpiry_memForm h
  · exact execCoolantFlowLoss_memForm h
  · exact execPowerCapExceeded_memForm h
  · exact execClockRaiseTimer_memForm h
  · exact execClusterPowerGate_memForm h
  · exact execPackageReset_memForm h
  · exact execFireflyTag_memForm h
  · exact execFireflyRecord_memForm h
  · exact execTraceBufferDrain_memForm h
  · exact execPartitionSwapExchange_memForm h
  · exact execWindowAdvanceSnapshot_memForm h
  · exact execLogAutoAdvance_memForm h
  · exact execRpcSendOversize_memForm h
  · exact execRpcSessionLoss_memForm h
  · exact execSoloTimeout_memForm h
  · exact execWaitevTimeout_memForm h
  · exact execReplayRunTimeout_memForm h
  · exact execRdmaRead_memForm h
  · exact execRdmaWrite_memForm h
  · exact execRdmaAtomic_memForm h
  · exact execRv64MemoryAccess_memForm h
  · exact execHartInterrupt_memForm h
  · exact execRpcSessionOpen_memForm h
  · exact execRcRetransmitTimeout_memForm h
  · exact execPowerFailure_memForm h

theorem nextState_memForm {s : State} {out : Host.Outcome State Fault Refusal} (h : s.MemForm) (hout : OutForm out) : (nextState s out).MemForm := by
  cases out with
  | next t => exact hout
  | fault | refused => exact h

theorem State.MemForm.csrRead {s : State} {hart csr : ℕ} (h : s.MemForm) : PairForm (s.csrRead hart csr) := by
  unfold State.csrRead
  extract_lets -underBinder k is
  split
  · exact h
  · exact h
  · exact h
  · exact h
  · exact h
  · exact h
  · exact h
  · exact h
  · exact h
  · exact h
  · exact h
  · exact h
  · exact h
  · exact h
  · exact h
  · exact h
  · exact h
  · exact h
  · exact h
  · exact h
  · exact h
  · exact h
  · exact h
  · exact h
  · exact h
  · exact h
  · exact h.draw
  · exact h.draw
  · exact h.draw
  · exact h.draw
  · exact h.draw
  · exact h.draw
  · exact h.draw
  · exact h.draw
  · exact h.draw
  · exact h.draw
  · exact h.draw
  · exact h.draw
  · exact h
  · exact h
  · exact h
  · exact h
  · split
    · exact h
    · exact trivial

theorem State.MemForm.csrOp {s : State} {hart csr rd : ℕ} {f : Option (BitVec 64 → BitVec 64)} (h : s.MemForm) : (s.csrOp hart csr rd f).MemForm := by
  unfold State.csrOp
  extract_lets k
  refine .either h.abortHart (.either h.hartIllegal ?_)
  split
  · exact h.hartIllegal
  next old s₁ e =>
  have read : s₁.MemForm := h.csrRead.pair e
  split
  · exact read.modHart
  next f =>
  extract_lets put
  have kept : ∀ out, OutForm out → (put out).MemForm := fun out hout =>
    .either (nextState_memForm read hout).modHart (nextState_memForm read hout)
  split
  · exact kept _ (execXvwake_memForm read)
  · exact kept _ (.either (execXvshootAll_memForm read) (execXvshootPage_memForm read))
  · exact kept _ (execXvuint_memForm read)
  · exact kept _ (execXvfreeze_memForm read)
  · exact read.modHart

theorem State.MemForm.hartSystem {s : State} {hart : ℕ} {w : BitVec 32} (h : s.MemForm) : OptForm (s.hartSystem hart w) := by
  unfold State.hartSystem
  extract_lets k n rd rs src tx
  have kept : ∀ t : State, t.MemForm → OptForm (tx t) := fun t ht => State.MemForm.either h.abortHart ht
  split
  · refine .either (kept _ h.hartTrap) (.either (kept _ h.draw.hartTrap) (.either (.either trivial h.setHart) (.either (.either h.setHart trivial)
      (.either (.either trivial h.setHart) (.either (.either trivial (kept _ h.setTlb.setHart)) trivial)))))
  · exact h.csrOp
  · exact h.csrOp
  · exact h.csrOp
  · exact h.csrOp
  · exact h.csrOp
  · exact h.csrOp
  · trivial

theorem State.MemForm.fenceI {s : State} {hart : ℕ} (h : s.MemForm) : (s.fenceI hart).MemForm := by
  unfold State.fenceI
  split
  · exact h.modCore
  · exact h

theorem State.MemForm.hartWord {s : State} {hart : ℕ} {w : BitVec 32} {comp : Bool} (h : s.MemForm) : OptForm (s.hartWord hart w comp) := by
  unfold State.hartWord
  extract_lets k n rd f3 a b next acc run fp
  have kept : ∀ x, OptForm (run x) := fun x => nextState_memForm h (execRv64MemoryAccess_memForm h)
  have set : ∀ {α : Type} (o : Option α) (f : α → Hart), OptForm (o.map (fun x => s.setHart hart (f x))) := fun o f => by
    cases o with
    | none => trivial
    | some x => exact h.setHart
  split
  · exact h
  · exact h
  · exact h
  · exact .either h trivial
  · exact set _ _
  · exact .either trivial (kept _)
  · exact .either (kept _) trivial
  · exact .either trivial (kept _)
  · exact .either (kept _) trivial
  · split
    · trivial
    · cases rvAmo (bits n 31 27) with
      | none => trivial
      | some o => exact .either trivial (kept _)
  · exact .either (kept _) (.either (State.MemForm.either h.abortHart h.fenceI) trivial)
  · exact set _ _
  · exact set _ _
  · exact set _ _
  · exact set _ _
  · exact set _ _
  · exact h.hartSystem
  · exact set _ _

theorem State.MemForm.hartBase {s : State} {hart : ℕ} {w : BitVec 32} (h : s.MemForm) : (s.hartBase hart w).MemForm := by
  unfold State.hartBase
  extract_lets comp
  refine OptForm.getD ?_ h.hartIllegal
  cases (if comp then rvExpand (w.toNat % 2 ^ 16) else some w) with
  | none => trivial
  | some w => exact h.hartWord

theorem State.MemForm.hartParcel {s : State} {hart : ℕ} {va : BitVec 64} (h : s.MemForm) : (s.hartParcel hart va).left.MemForm := by
  unfold State.hartParcel
  split
  · exact h.hartTrap
  · split
    · next e₁ => exact (h.hartXlate.snd e₁).hartTrap
    · next e₂ =>
        extract_lets -underBinder part s₁
        have hs₁ : s₁.MemForm := .either (h.hartXlate.snd e₂) ((h.hartXlate.snd e₂).touchTag.homeRead)
        split
        · exact (h.hartXlate.snd e₂).hartTrap
        · split
          · exact hs₁.consume.hartTrap
          · exact hs₁

theorem State.MemForm.hartFetch {s : State} {hart : ℕ} (h : s.MemForm) : (s.hartFetch hart).left.MemForm := by
  unfold State.hartFetch
  split
  · next e => exact h.hartParcel.ofHartFetch e
  next lo s₁ e =>
  have low : s₁.MemForm := h.hartParcel.ofHartFetch e
  split
  · exact low
  split
  · next e => exact low.hartParcel.ofHartFetch e
  · next e => exact .of (low.hartParcel.ofHartFetch e) rfl

theorem State.MemForm.fetchPoison {s : State} {gk : ℕ} {t : Stand} (h : s.MemForm) : (s.fetchPoison gk t).MemForm := by
  unfold State.fetchPoison
  split
  · split
    · next e₁ => exact .either ((h.xlate.snd e₁).consume) (h.xlate.snd e₁)
    · next e₂ => exact h.xlate.snd e₂
  · exact h

theorem State.MemForm.turnOf {s : State} {gk : ℕ} (h : s.MemForm) : (s.turnOf gk).left.MemForm := by
  unfold State.turnOf
  split
  · exact h
  split
  · split
    · exact h
    · exact h
  next t s₁ e =>
  have standing : s₁.MemForm := h.stand.pair e
  split
  · exact standing
  split
  · exact standing
  extract_lets due x
  have drawn : x.2.MemForm := standing.draw.snd rfl
  clear_value due x
  split
  · exact standing
  · exact drawn
  split
  · exact drawn.modGroup.pageFault
  split
  · exact drawn.freeze
  split
  · exact standing.fetchPoison
  split
  · exact standing
  split
  · exact standing
  · exact standing

theorem State.MemForm.groupTurn {s : State} {gk : ℕ} (h : s.MemForm) : (s.groupTurn gk).left.MemForm := by
  unfold State.groupTurn
  extract_lets -underBinder s₁
  have hs₁ : s₁.MemForm := h
  split
  · exact hs₁
  · split
    · next e₁ => exact hs₁.turnOf.ofTurned e₁
    · next e₂ => exact hs₁.turnOf.ofTurned e₂

theorem State.MemForm.nextTurn {s : State} (h : s.MemForm) : s.nextTurn.2.MemForm := by
  unfold State.nextTurn
  split
  · exact h
  · extract_lets -underBinder x y n
    exact h.draw.draw

theorem State.MemForm.agendaTurn {s : State} {ex : Exec} (h : s.MemForm) : (s.agendaTurn ex).left.MemForm := by
  unfold State.agendaTurn
  extract_lets r s₁ s₂ _ _
  have turned : s₁.MemForm := h.nextTurn
  have resting : s₂.MemForm := turned
  split
  · exact turned.groupTurn
  · extract_lets s₃
    have running : s₃.MemForm := turned
    split
    · exact running
    split
    · next e => exact running.hartFetch.ofHartFetch e
    · next e =>
      have fetched := running.hartFetch.ofHartFetch e
      split
      · exact fetched
      · exact fetched.hartBase
  · split
    · exact resting
    split
    · exact resting
    · exact resting
  · exact resting
  · exact resting

theorem State.MemForm.haltFull {s : State} {part : ℕ} (h : s.MemForm) : (s.haltFull part).MemForm := by
  unfold State.haltFull
  split
  · exact h
  · refine .either h ?_
    extract_lets -underBinder s₁
    have hs₁ : s₁.MemForm := h.setLog.stopParts.sessionNote
    split
    · exact hs₁.setDbg
    · exact hs₁

theorem State.MemForm.haltFullLogs {s : State} (h : s.MemForm) : s.haltFullLogs.MemForm := h.foldl (fun _ _ hu => hu.haltFull)

theorem State.MemForm.soloStep {s : State} {n : ℕ} {d : DbgSession} (h : s.MemForm) : (s.soloStep n d).MemForm := by
  unfold State.soloStep
  split
  · exact h
  · split
    · exact h.soloEnd
    · exact .either (.either h h.setGroup) (.either h (.either h.setSession.resume h.soloEnd))

theorem State.MemForm.soloSteps {s : State} (h : s.MemForm) : s.soloSteps.MemForm := h.foldl (fun _ _ hu => hu.soloStep)

theorem State.MemForm.replaySteps {s : State} (h : s.MemForm) : s.replaySteps.MemForm := by
  unfold State.replaySteps
  refine h.foldl (fun u x₂ hu => ?_)
  split
  · exact hu
  · split
    · exact hu.replayEnd
    · exact .either hu.replayEnd hu

theorem State.MemForm.settleAll {s : State} (h : s.MemForm) : s.settleAll.MemForm := by
  unfold State.settleAll
  extract_lets -underBinder s₁ _
  have hs₁ : s₁.MemForm := h.haltFullLogs.finishDying.soloSteps.replaySteps
  exact hs₁.setRpc

theorem State.MemForm.turn {s : State} {ex : Exec} (h : s.MemForm) : (s.turn ex).left.MemForm := by
  unfold State.turn
  extract_lets s₁
  split
  · exact h.settleAll
  · exact h.settleAll.agendaTurn

theorem step_memForm {s : State} (h : s.MemForm) : OutForm (step s) := by
  unfold step
  split
  · next e => exact exec_memForm (h.turn.ofTurnRes e)
  · next e => exact h.turn.ofTurnRes e

end Sys2Proof.Machine

namespace Sys2Proof
open Machine

/-- Settles O59: every function that a step calls keeps the canonical form. -/
theorem stepKeepsMemoryForm : Obligations.StepKeepsMemoryForm := by
  intro s t form next
  have kept : OutForm (step s) := step_memForm form
  rw [next] at kept
  exact kept

end Sys2Proof
end

section
/-! SUPPORT. The matrix unit: what it holds of a core through the writes, records and replies of other agents (R276), the bytes that a
slice leaves alone, and the integer sum of a slice (R138, R270). -/

namespace Sys2Proof.Machine

/-! ### What other agents leave of the matrix unit -/

/-- The accumulators of a core, and what its matrix operations are known by. -/
def Core.unit (k : Core) : SMap 32 × List (Nat × Nat × Nat) := (k.acc, k.mq.map (fun m => (m.gk, m.tk, m.issued)))

/-- Every core keeps its accumulators and the operations of its matrix unit. -/
structure UnitKept (s t : State) : Prop where
  unit : ∀ c, (t.core c).unit = (s.core c).unit

namespace UnitKept

variable {s t u : State}

theorem refl (s : State) : UnitKept s s := ⟨fun _ => rfl⟩

theorem trans (h : UnitKept s t) (k : UnitKept t u) : UnitKept s u := ⟨fun c => (k.unit c).trans (h.unit c)⟩

theorem foldl {α : Type} {f : State → α → State} (hf : ∀ s a, UnitKept s (f s a)) (l : List α) (s : State) : UnitKept s (l.foldl f s) := by
  induction l generalizing s with
  | nil => exact refl s
  | cons a r ih => exact (hf s a).trans (ih _)

theorem ite {c : Prop} [Decidable c] (ht : UnitKept s t) (hu : UnitKept s u) : UnitKept s (if c then t else u) := by
  split
  · exact ht
  · exact hu

theorem of_cores (h : t.cores = s.cores) : UnitKept s t := ⟨fun c => by rw [State.core, h, ← State.core]⟩

theorem of_cacheEffect (h : CacheEffect s t) : UnitKept s t := .of_cores h.cores

theorem modCore (s : State) (c : Nat) (f : Core → Core) (hf : ∀ k, (f k).unit = k.unit) : UnitKept s (s.modCore c f) := ⟨fun j => by
  rw [State.core_modCore]
  split
  · next h => rw [h, hf]
  · rfl⟩

/-- An operation that the unit holds afterwards it held before. -/
theorem mq (h : UnitKept s t) {c : Nat} {o : MatOp} (ho : o ∈ (t.core c).mq) :
    ∃ m ∈ (s.core c).mq, m.gk = o.gk ∧ m.tk = o.tk ∧ m.issued = o.issued := by
  have there : (o.gk, o.tk, o.issued) ∈ (s.core c).unit.2 := h.unit c ▸ List.mem_map_of_mem ho
  obtain ⟨m, hm, same⟩ := List.mem_map.mp there
  simp only [Prod.mk.injEq] at same
  exact ⟨m, hm, same⟩

theorem acc (h : UnitKept s t) (c : Nat) : (t.core c).acc = (s.core c).acc := congrArg Prod.fst (h.unit c)

end UnitKept

theorem putByte_unitKept (s : State) (p : Place) (b : Byte) : UnitKept s (s.putByte p b) := by
  cases p with
  | glob pa => exact .of_cacheEffect (putByte_glob_cacheEffect ..)
  | aspc c o => exact .modCore s c (fun k => { k with a := sset k.a o b }) (fun _ => rfl)
  | wspc c o => exact .modCore s c (fun k => { k with w := sset k.w o b }) (fun _ => rfl)

theorem setPoison_unitKept (s : State) (p : Place) (on : Bool) : UnitKept s (s.setPoison p on) := by
  cases p with
  | glob pa => exact .of_cores rfl
  | aspc c o => exact .modCore s c (fun k => { k with apoison := if on then nins k.apoison (o / 64) else ndel k.apoison (o / 64) }) (fun _ => rfl)
  | wspc c o => exact .modCore s c (fun k => { k with wpoison := if on then nins k.wpoison (o / 64) else ndel k.wpoison (o / 64) }) (fun _ => rfl)

theorem putSector_unitKept (s : State) (p : Place) (ws : List (Nat × Byte)) : UnitKept s (s.putSector p ws) := by
  have put : UnitKept s (ws.foldl (fun s e => s.putByte (p.add e.1) e.2) s) := .foldl (fun s (e : Nat × Byte) => putByte_unitKept s (p.add e.1) e.2) ws s
  exact .ite (put.trans (setPoison_unitKept ..)) put

theorem notice_unitKept (s : State) (p : Place) : UnitKept s (s.notice p) := .of_cacheEffect (notice_cacheEffect ..)

theorem setRpc_unitKept (s : State) (x : RpcSt) : UnitKept s (s.setRpc x) := .of_cores rfl
theorem setDbg_unitKept (s : State) (x : Dbg) : UnitKept s (s.setDbg x) := .of_cores rfl
theorem setInn_unitKept (s : State) (x : Inn) : UnitKept s (s.setInn x) := .of_cores rfl
theorem setGroup_unitKept (s : State) (k : Nat) (g : Group) : UnitKept s (s.setGroup k g) := .of_cores rfl
theorem delGroup_unitKept (s : State) (k : Nat) : UnitKept s (s.delGroup k) := .of_cores rfl
theorem unask_unitKept (s : State) (gk : Nat) : UnitKept s (s.unask gk) := .of_cores rfl
theorem modPart_unitKept (s : State) (k : Nat) (f : Part → Part) : UnitKept s (s.modPart k f) := .of_cores (State.modPart_cores ..)

theorem record_cores (s : State) (kind sev cls unit : Nat) (part : Option Nat) (addr n : Nat) (detail : BitVec 256) :
    (s.record kind sev cls unit part addr n detail).cores = s.cores := by
  unfold State.record
  extract_lets -underBinder fold counted p p'
  split <;> rfl

theorem note_cores (s : State) (kind sev cls unit : Nat) (part : Option Nat) (addr n : Nat) : (s.note kind sev cls unit part addr n).cores = s.cores :=
  record_cores s.drawWide.2 kind sev cls unit part addr n s.drawWide.1

theorem consume_cores (s : State) (part : Nat) (p : Place) : (s.consume part p).cores = s.cores := by
  unfold State.consume
  exact (note_cores ..).trans (State.modPart_cores ..)

theorem hwSector_unitKept (s : State) (part : Nat) (p : Place) (ws : List (Nat × Byte)) : UnitKept s (s.hwSector part p ws) := by
  unfold State.hwSector
  split
  · split
    · exact .ite (.of_cores (consume_cores ..)) (.of_cacheEffect ((touchTag_cacheEffect ..).trans (commitSector_cacheEffect ..)))
    · exact ((putSector_unitKept ..).trans (notice_unitKept ..)).trans (notice_unitKept ..)
  · exact (putSector_unitKept ..).trans (notice_unitKept ..)

theorem vaOf_unitKept (s : State) (part va : Nat) (acc : Access) : UnitKept s (s.vaOf part va acc).2 := by
  have translated := UnitKept.of_cacheEffect (xlate_cacheEffect s 8 part acc va 0)
  unfold State.vaOf
  split
  · next h => rwa [h] at translated
  · next h => rwa [h] at translated

theorem hwPut_unitKept (s : State) (part va : Nat) (bs : List Byte) : UnitKept s ((s.hwPut part va bs).getD s) := by
  have reached := vaOf_unitKept s part va .innWrite
  unfold State.hwPut
  split
  · next h =>
    rw [h] at reached
    split
    · exact .refl s
    · exact reached.trans (.foldl (fun t (e : Place × List (Nat × Byte)) => hwSector_unitKept t part e.1 e.2) _ _)
  · exact .refl s

theorem logHeader_unitKept (s : State) (part : Nat) : UnitKept s (s.logHeader part) := by
  unfold State.logHeader
  split
  · exact .refl s
  · dsimp only
    split
    · exact (hwPut_unitKept ..).trans (hwPut_unitKept ..)
    · exact hwPut_unitKept ..

theorem sealWindow_unitKept (s : State) (part : Nat) (f : LogWindow → LogWindow) : UnitKept s (s.sealWindow part f) := by
  unfold State.sealWindow
  split
  · exact .ite ((modPart_unitKept ..).trans (logHeader_unitKept ..)) (.refl s)
  · exact .refl s

theorem reply_unitKept (s : State) (r : Rpc) (code : Nat) (detail : BitVec 64) (res : List (BitVec 64)) : UnitKept s (s.reply r code detail res) := by
  unfold State.reply
  split
  · exact .refl s
  split
  · exact .refl s
  · exact .ite (setRpc_unitKept ..) ((setRpc_unitKept ..).trans (sealWindow_unitKept ..))

theorem ok_unitKept (s : State) (r : Rpc) (res : List (BitVec 64)) : UnitKept s (s.ok r res) := reply_unitKept ..

theorem oks_unitKept (l : List Waiting) (res : List (BitVec 64)) (s : State) : UnitKept s (l.foldl (fun t w => t.ok w.req res) s) :=
  .foldl (fun t (w : Waiting) => ok_unitKept t w.req res) l s

theorem sessionEvent_unitKept (s : State) (ses code core slot ord : Nat) : UnitKept s (s.sessionEvent ses code core slot ord) := by
  unfold State.sessionEvent
  split
  · exact .refl s
  · dsimp only
    exact .ite (.ite (setDbg_unitKept ..) (setDbg_unitKept ..)) (((setRpc_unitKept ..).trans (setDbg_unitKept ..)).trans (oks_unitKept ..))

theorem partEvent_unitKept (s : State) (part code core slot ord : Nat) : UnitKept s (s.partEvent part code core slot ord) := by
  unfold State.partEvent
  split
  · exact sessionEvent_unitKept ..
  · exact .refl s

theorem plainEvent_unitKept (s : State) (ses code : Nat) : UnitKept s (s.plainEvent ses code) :=
  (UnitKept.of_cacheEffect (draw_cacheEffect s)).trans (sessionEvent_unitKept ..)

theorem haltDone_unitKept (s : State) (part : Nat) : UnitKept s (s.haltDone part) := by
  unfold State.haltDone
  split
  · exact .refl s
  split
  · exact .refl s
  dsimp only
  split
  · exact .refl s
  · exact (((setDbg_unitKept ..).trans (setRpc_unitKept ..)).trans (oks_unitKept ..)).trans (plainEvent_unitKept ..)

theorem queueEvent_unitKept (s : State) (core slot event : Nat) : UnitKept s (s.queueEvent core slot event) := .modCore s core _ (fun k => by
  split <;> rfl)

theorem park_unitKept (s : State) (gk event : Nat) : UnitKept s (s.park gk event) := by
  unfold State.park
  split
  · exact .refl s
  next g _ =>
  extract_lets -underBinder met t u code
  have queued : UnitKept s u := ((setGroup_unitKept ..).trans (unask_unitKept ..)).trans (queueEvent_unitKept ..)
  exact (UnitKept.ite queued (queued.trans (partEvent_unitKept ..))).trans (haltDone_unitKept ..)

theorem resumeOps_unitKept (s : State) (gk : Nat) : UnitKept s (s.resumeOps gk) := .modCore s _ _ (fun k => by
  have keys : ∀ m : MatOp, (fun m : MatOp => (m.gk, m.tk, m.issued)) (if s.matOf gk m then { m with stopped := false } else m) = (m.gk, m.tk, m.issued) := fun m => by
    split <;> rfl
  simp only [Core.unit, List.map_map, Function.comp_def, keys])

theorem tokenBack_cores (s : State) (gk : Nat) : (s.tokenBack gk).cores = s.cores := by
  unfold State.tokenBack
  split <;> split <;> rfl

theorem endGroup_unitKept (s : State) (gk : Nat) : UnitKept s (s.endGroup gk) := by
  unfold State.endGroup
  split
  · exact .refl s
  next g _ =>
  extract_lets t u _ v
  have free : UnitKept s t := .of_cores (State.modTeam_cores ..)
  have returned : UnitKept t u := .modCore t (coreOf gk) (fun c => { c with token := c.token.filter (fun e => e.2 != gk), lastBack := kdel c.lastBack gk }) (fun _ => rfl)
  have left : UnitKept s v := (free.trans returned).trans (setInn_unitKept ..)
  exact (((left.trans (delGroup_unitKept ..)).trans (unask_unitKept ..)).trans (.of_cores (tokenBack_cores ..))).trans (haltDone_unitKept ..)

theorem maybeEnd_unitKept (s : State) (gk : Nat) : UnitKept s (s.maybeEnd gk) := by
  unfold State.maybeEnd
  split
  · refine .ite (endGroup_unitKept ..) ?_
    split
    · exact .ite (((park_unitKept ..).trans (.of_cores (State.modGroup_cores ..))).trans (resumeOps_unitKept ..)) (.refl s)
    · exact .ite (park_unitKept ..) (.refl s)
    · exact .refl s
  · exact .refl s

theorem modAnyGroup_unitKept (s : State) (gk tk : Nat) (f : Group → Group) : UnitKept s (s.modAnyGroup gk tk f) :=
  .ite (.of_cores (State.modGroup_cores ..)) (.of_cores rfl)

theorem fireLevel_unitKept (s : State) (gk tk id lvl : Nat) : UnitKept s (s.fireLevel gk tk id lvl) := .modCore s _ _ (fun _ => rfl)

/-! ### Bytes that stay -/

/-- Every byte reads as before: the bytes of memory and their poison, what of it is lost, and the local spaces are as they were. -/
structure SameBytes (s t : State) : Prop where
  bytes : t.mem.bytes = s.mem.bytes
  poison : t.mem.poison = s.mem.poison
  gone : ∀ pa, t.isGone pa = s.isGone pa
  locals : ∀ c, ((t.core c).a, (t.core c).w, (t.core c).apoison, (t.core c).wpoison) = ((s.core c).a, (s.core c).w, (s.core c).apoison, (s.core c).wpoison)

namespace SameBytes

variable {s t u : State}

theorem refl (s : State) : SameBytes s s := ⟨rfl, rfl, fun _ => rfl, fun _ => rfl⟩

theorem trans (h : SameBytes s t) (k : SameBytes t u) : SameBytes s u :=
  ⟨k.bytes.trans h.bytes, k.poison.trans h.poison, fun pa => (k.gone pa).trans (h.gone pa), fun c => (k.locals c).trans (h.locals c)⟩

theorem foldl {α : Type} {f : State → α → State} (hf : ∀ s a, SameBytes s (f s a)) (l : List α) (s : State) : SameBytes s (l.foldl f s) := by
  induction l generalizing s with
  | nil => exact refl s
  | cons a r ih => exact (hf s a).trans (ih _)

theorem modCore (s : State) (c : Nat) (f : Core → Core)
    (hf : ∀ k, ((f k).a, (f k).w, (f k).apoison, (f k).wpoison) = (k.a, k.w, k.apoison, k.wpoison)) : SameBytes s (s.modCore c f) :=
  ⟨rfl, rfl, fun _ => rfl, fun j => by
    rw [State.core_modCore]
    split
    · next h => rw [h, hf]
    · rfl⟩

theorem modPart (s : State) (k : Nat) (f : Part → Part) : SameBytes s (s.modPart k f) := by
  unfold State.modPart
  split
  · exact ⟨rfl, rfl, fun _ => rfl, fun _ => rfl⟩
  · exact .refl s

theorem readByte (h : SameBytes s t) (p : Place) : t.readByte p = s.readByte p := by
  unfold State.readByte State.isPoison State.rawByte
  cases p with
  | glob pa => simp only [h.gone, h.bytes, h.poison]
  | aspc c o =>
    have same := h.locals c
    simp only [Prod.mk.injEq] at same
    simp only [same]
  | wspc c o =>
    have same := h.locals c
    simp only [Prod.mk.injEq] at same
    simp only [same]

end SameBytes

theorem setPorter_sameBytes {s : State} {x : Porter} (h : x.removed = s.porter.removed) : SameBytes s (s.setPorter x) :=
  ⟨rfl, rfl, fun pa => by simp only [State.isGone, State.setPorter, h], fun _ => rfl⟩

theorem record_sameBytes (s : State) (kind sev cls unit : Nat) (part : Option Nat) (addr n : Nat) (detail : BitVec 256) :
    SameBytes s (s.record kind sev cls unit part addr n detail) := by
  unfold State.record
  extract_lets -underBinder fold counted p p'
  have removed : p'.removed = s.porter.removed := by
    unfold p'
    split
    · rfl
    · split <;> rfl
  split
  · exact setPorter_sameBytes removed
  · exact setPorter_sameBytes removed

theorem draw_sameBytes (s : State) : SameBytes s s.draw.2 := ⟨rfl, rfl, (draw_cacheEffect s).isGone, fun _ => rfl⟩

theorem drawWide_sameBytes (s : State) : SameBytes s s.drawWide.2 :=
  (((draw_sameBytes s).trans (draw_sameBytes _)).trans (draw_sameBytes _)).trans (draw_sameBytes _)

theorem note_sameBytes (s : State) (kind sev cls unit : Nat) (part : Option Nat) (addr n : Nat) : SameBytes s (s.note kind sev cls unit part addr n) :=
  (drawWide_sameBytes s).trans (record_sameBytes s.drawWide.2 kind sev cls unit part addr n s.drawWide.1)

theorem consume_sameBytes (s : State) (part : Nat) (p : Place) : SameBytes s (s.consume part p) := by
  unfold State.consume
  exact (SameBytes.modPart ..).trans (note_sameBytes ..)

/-! ### A slice (R138, R270) -/

theorem accConsume_sameBytes (s : State) (core part : Nat) (l : List Nat) : SameBytes s (s.accConsume core part l) :=
  .foldl (fun t _ => consume_sameBytes t part _) l s

theorem matConsume_sameBytes (s : State) (o : MatOp) (l : List Place) : SameBytes s (s.matConsume o l).1 :=
  .foldl (fun t p => consume_sameBytes t _ p) _ s

theorem consumes_cores {α : Type} {f : State → α → State} (hf : ∀ s a, (f s a).cores = s.cores) (l : List α) (s : State) : (l.foldl f s).cores = s.cores := by
  induction l generalizing s with
  | nil => rfl
  | cons a r ih => exact (ih _).trans (hf s a)

theorem accConsume_cores (s : State) (core part : Nat) (l : List Nat) : (s.accConsume core part l).cores = s.cores :=
  consumes_cores (fun t _ => consume_cores t part _) l s

theorem matConsume_cores (s : State) (o : MatOp) (l : List Place) : (s.matConsume o l).1.cores = s.cores :=
  consumes_cores (fun t p => consume_cores t _ p) _ s

/-- The words of a slice are words of the rows that belong to lanes of `exe`. -/
theorem mem_sliceWords {s : State} {core : Nat} {o : MatOp} {e : Nat × BitVec 32 × Flags} (h : e ∈ s.sliceWords core o) :
    ∃ l j, o.exe.getLsbD l = true ∧ j < 128 ∧ e.1 = 4096 * o.tile + 128 * l + j := by
  have place : ∀ i j x, i ∈ (lanesOf o.exe).flatMap (fun l => [2 * l, 2 * l + 1]) → j ∈ List.range 64 → (4096 * o.tile + 64 * i + j, x) = e →
      ∃ l j, o.exe.getLsbD l = true ∧ j < 128 ∧ e.1 = 4096 * o.tile + 128 * l + j := by
    rintro i j x hi hj rfl
    obtain ⟨l, hl, at_⟩ := List.mem_flatMap.mp hi
    have lane := (mem_lanesOf.mp hl).2
    have low := List.mem_range.mp hj
    rcases List.mem_pair.mp at_ with rfl | rfl
    · exact ⟨l, j, lane, by omega, by dsimp only; omega⟩
    · exact ⟨l, 64 + j, lane, by omega, by dsimp only; omega⟩
  unfold State.sliceWords at h
  extract_lets -underBinder a b sl ks acc rows cols z cols' at h
  split at h
  all_goals
    obtain ⟨i, hi, hx⟩ := List.mem_flatMap.mp h
    obtain ⟨j, hj, rfl⟩ := List.mem_map.mp hx
    exact place i j _ hi hj rfl

/-- A slice leaves every accumulator word of another row as it was. -/
theorem sget_putAcc_other (k : Core) {s : State} {core : Nat} {o : MatOp} {n : Nat}
    (h : ∀ l j, o.exe.getLsbD l = true → j < 128 → n ≠ 4096 * o.tile + 128 * l + j) :
    sget (k.putAcc ((s.sliceWords core o).map (fun e => (e.1, e.2.1)))).acc n = sget k.acc n := by
  refine sget_ssets_other _ _ _ (fun e he same => ?_)
  obtain ⟨w, hw, rfl⟩ := List.mem_map.mp he
  obtain ⟨l, j, hl, hj, at_⟩ := mem_sliceWords hw
  exact h l j hl hj (same.symm.trans at_)

/-- The retirement of an operation takes it from the queue, and leaves every accumulator. -/
theorem matRetire_unit (s : State) (core : Nat) (o : MatOp) :
    ((s.matRetire core o).core core).acc = (s.core core).acc ∧
      ∀ m ∈ ((s.matRetire core o).core core).mq, ¬(m.gk = o.gk ∧ m.tk = o.tk ∧ m.issued = o.issued) := by
  unfold State.matRetire
  extract_lets t u
  have leveled : UnitKept s t := .ite (fireLevel_unitKept ..) (.refl s)
  have after : UnitKept u ((u.modAnyGroup o.gk o.tk (fun g => { g.addFlags o.flags with tc := g.tc - 1 })).maybeEnd o.gk) :=
    (modAnyGroup_unitKept ..).trans (maybeEnd_unitKept ..)
  have taken : u.core core = { t.core core with mq := (t.core core).mq.filter (fun m => !m.same o) } := (State.core_modCore ..).trans (if_pos rfl)
  refine ⟨?_, fun m hm same => ?_⟩
  · rw [after.acc, taken]
    exact leveled.acc core
  · obtain ⟨m', hm', gk, tk, issued⟩ := after.mq hm
    rw [taken] at hm'
    have other := (List.mem_filter.mp hm').2
    simp [MatOp.same, gk, tk, issued, same] at other

theorem putOp_core (s : State) (core : Nat) (o : MatOp) :
    (s.putOp core o).core core = { s.core core with mq := (s.core core).mq.map (fun m => if m.same o then o else m) } :=
  (State.core_modCore ..).trans (if_pos rfl)

theorem putOp_sameBytes (s : State) (core : Nat) (o : MatOp) : SameBytes s (s.putOp core o) := .modCore s core _ (fun _ => rfl)

/-- A slice, as the states that its end has: the operation that goes on or retires, and the state in which it does. -/
theorem matSlice_ends {s v : State} {core : Nat} {m : MatOp} (ends : s.matSlice core m = v) : ∃ (u : State) (o : MatOp),
    v = (if m.k / 32 ≤ m.slice + 1 then u.matRetire core o else u.putOp core o) ∧
    o.gk = m.gk ∧ o.tk = m.tk ∧ o.issued = m.issued ∧ SameBytes s u ∧
    u.core core = (s.core core).putAcc ((s.sliceWords core m).map (fun e => (e.1, e.2.1))) := by
  unfold State.matSlice at ends
  extract_lets -underBinder l words marked short bad r s₁ o₁ s₂ o₂ s₃ at ends
  have consumed : SameBytes s s₁ := (accConsume_sameBytes ..).trans (matConsume_sameBytes ..)
  have cores : s₁.cores = s.cores := (matConsume_cores ..).trans (accConsume_cores ..)
  have counted : SameBytes s₁ s₂ ∧ s₂.cores = s₁.cores := by
    unfold s₂
    split
    · exact ⟨.modPart .., State.modPart_cores ..⟩
    · exact ⟨.refl _, rfl⟩
  refine ⟨s₃, o₂, ends.symm, rfl, rfl, rfl, (consumed.trans counted.1).trans (.modCore s₂ core _ (fun _ => rfl)), ?_⟩
  refine (State.core_modCore ..).trans ((if_pos rfl).trans ?_)
  rw [show s₂.core core = s.core core by rw [State.core, counted.2, cores, ← State.core]]

/-- Only what the issue saw is refreshed for reads that a command held: the slice is that of the same operation. -/
theorem matFresh_same (s : State) (core : Nat) (m : MatOp) :
    (s.matFresh core m).gk = m.gk ∧ (s.matFresh core m).tk = m.tk ∧ (s.matFresh core m).issued = m.issued ∧ (s.matFresh core m).exe = m.exe ∧
      (s.matFresh core m).tile = m.tile ∧ (s.matFresh core m).slice = m.slice ∧ (s.matFresh core m).k = m.k := by
  unfold State.matFresh
  split
  · exact ⟨rfl, rfl, rfl, rfl, rfl, rfl, rfl⟩
  · exact ⟨rfl, rfl, rfl, rfl, rfl, rfl, rfl⟩

section
variable {s : State} {core : Nat} {m : MatOp} (next : nextMat (s.core core).mq [] = some m) (first : s.matWaits core m = false)
include next first

theorem matrixOpRetire_slice (dense : m.kind ≠ .ldmeta) (free : s.matHeld core m = []) :
    exec (.matrixOpRetire core) s = .next (s.matSlice core (s.matFresh core m)) := by
  show execMatrixOpRetire core s = _
  unfold execMatrixOpRetire
  simp [next, first, dense, free]

theorem matrixOpRetire_held (held : s.matHeld core m ≠ []) :
    exec (.matrixOpRetire core) s =
      .next (s.putOp core { m with stalls := s.matHeld core m ++ m.stalls.filter (fun e => !(s.matHeld core m).contains e) }) := by
  show execMatrixOpRetire core s = _
  unfold execMatrixOpRetire
  simp [next, first, held]

end

/-! ### The integer sum -/

theorem foldl_add_products (x : Int) (l : List (Int × Int)) : l.foldl (fun x t => x + t.1 * t.2) x = x + (l.map (fun t => t.1 * t.2)).sum := by
  induction l generalizing x with
  | nil => simp
  | cons t r ih => rw [List.foldl_cons, ih, List.map_cons, List.sum_cons, add_assoc]

/-- A pattern of 32 bits has the value it was made of, where that is a signed value of 32 bits. -/
theorem intVal_intPat {x : Int} (low : -2 ^ 31 ≤ x) (high : x ≤ 2 ^ 31 - 1) : intVal .i32 (intPat 32 x) = x := by
  show toSigned 32 (intPat 32 x) = x
  unfold toSigned intPat
  dsimp only
  split <;> omega

/-- Narrowing to 32 bits saturates at the bounds, and says so. -/
theorem narrow_saturates (x : Int) :
    let y : Int := if x < -2 ^ 31 then -2 ^ 31 else if 2 ^ 31 - 1 < x then 2 ^ 31 - 1 else x
    intVal .i32 (narrow .i32 true x).1 = y ∧ ((narrow .i32 true x).2 = fSAT ↔ y ≠ x) := by
  have least : intMin .i32 = -2 ^ 31 := rfl
  have greatest : intMax .i32 = 2 ^ 31 - 1 := rfl
  have width : Typ.i32.width = 32 := rfl
  intro y
  unfold narrow
  simp only [least, greatest, width, Bool.true_and, Bool.or_eq_true, decide_eq_true_eq]
  by_cases low : x < -2 ^ 31
  · have bound : y = -2 ^ 31 := if_pos low
    rw [if_pos (.inl low), if_pos low, bound]
    exact ⟨intVal_intPat (x := -2 ^ 31) (by omega) (by omega), iff_of_true rfl (by intro same; omega)⟩
  by_cases high : 2 ^ 31 - 1 < x
  · have bound : y = 2 ^ 31 - 1 := (if_neg low).trans (if_pos high)
    rw [if_pos (.inr high), if_neg low, bound]
    exact ⟨intVal_intPat (x := 2 ^ 31 - 1) (by omega) (by omega), iff_of_true rfl (by intro same; omega)⟩
  · have inside : y = x := (if_neg low).trans (if_neg high)
    rw [if_neg (not_or.mpr ⟨low, high⟩), inside]
    exact ⟨intVal_intPat (by omega) (by omega), iff_of_false (show (0 : Flags) ≠ fSAT by decide) (fun h => h rfl)⟩

end Sys2Proof.Machine

namespace Sys2Proof
open Machine

/-- Settles O36: a slice puts the words of its rows, and goes on or retires; a held one is noted; the sum is narrowed once. -/
theorem matrixSlices : Obligations.MatrixSlices := by
  refine ⟨fun s core m next first dense free => ?_, fun s core m next first held => ?_, fun acc terms => ?_⟩
  · obtain ⟨gk, tk, issued, exe, tile, slice, k⟩ := matFresh_same s core m
    obtain ⟨u, o, ends, ogk, otk, oissued, bytes, put⟩ := matSlice_ends (rfl : s.matSlice core (s.matFresh core m) = _)
    rw [k, slice] at ends
    refine ⟨_, matrixOpRetire_slice next first dense free, fun n other => ?_, fun more p => ?_, fun last x hx => ?_, fun more => ?_⟩
    · have kept : sget (u.core core).acc n = sget (s.core core).acc n := by
        rw [put]
        exact sget_putAcc_other _ (by rwa [exe, tile])
      rw [ends, ← kept]
      split
      · rw [(matRetire_unit u core o).1]
      · rw [putOp_core]
    · rw [ends, if_neg (by omega)]
      exact (bytes.trans (putOp_sameBytes ..)).readByte p
    · rw [ends, if_pos last] at hx
      have gone := (matRetire_unit u core o).2 x hx
      rwa [ogk, otk, oissued, gk, tk, issued] at gone
    · rw [ends, if_neg (by omega), putOp_core, List.length_map, put]
      rfl
  · refine ⟨_, matrixOpRetire_held next first held, ?_, ?_, rfl, (putOp_sameBytes ..).readByte⟩
    · rw [putOp_core]
    · rw [putOp_core]
  · unfold sliceInt
    rw [foldl_add_products]
    exact narrow_saturates _

end Sys2Proof
end

section
/-! SUPPORT. Scratchpad windows: the write of a map entry, the marking of its backing lines, and the lines of a window that go back to
memory (R79 to R81). -/

namespace Sys2Proof.Machine

/-! ### The write of an entry (R79, R80) -/

theorem mapPages_cacheEffect (s : State) (cluster : Nat) (e : BitVec 64) (n va : Nat) : CacheEffect s (s.mapPages cluster e n va).2 := by
  induction n generalizing s va with
  | zero => exact .refl s
  | succ n ih =>
    have page := xlate_cacheEffect s cluster (mapPart e) .engWrite (va % 2 ^ 56) 0
    unfold State.mapPages
    split
    · next h => rwa [h] at page
    · next u h =>
      rw [h] at page
      have rest := page.trans (ih u (va + 65536))
      split
      · next h => rwa [h] at rest
      · next h => rwa [h] at rest

section
variable {s : State} {core idx : Nat} {e : BitVec 64} (ready : (s.core core).mapBusy = false)
include ready

theorem windowMap_refused (h : s.mapRefused (clusterOf core) idx e = true ∨ (mapV (sget (s.cluster (clusterOf core)).map idx) ||
      (kget (s.cluster (clusterOf core)).clearing idx).isSome || (kget (s.cluster (clusterOf core)).setting idx).isSome) = true) :
    s.windowMap core idx e = s.setCore core { s.core core with mapIdx := idx, mapErr := true, mapDone := true } := by
  unfold State.windowMap
  dsimp only
  rw [ready, if_neg Bool.false_ne_true, if_pos]
  simpa only [Bool.or_eq_true, or_assoc] using h

theorem windowMap_taken (allowed : s.mapRefused (clusterOf core) idx e = false)
    (free : (mapV (sget (s.cluster (clusterOf core)).map idx) || (kget (s.cluster (clusterOf core)).clearing idx).isSome ||
      (kget (s.cluster (clusterOf core)).setting idx).isSome) = false) {l : List Nat} {w : State}
    (pages : s.mapPages (clusterOf core) e (mapSize e / 65536) (mapVa e) = (some l, w)) :
    s.windowMap core idx e = (w.setCore core { w.core core with mapIdx := idx, mapBusy := true, mapErr := false, mapDone := false }).modCluster
      (clusterOf core) (fun c => { c with map := sset c.map idx (setFld (e &&& mapMask) 0 1 0),
                                          setting := kset c.setting idx (l.flatMap (fun pa => (List.range 256).map (fun j => pa + 256 * j))) }) := by
  unfold State.windowMap
  dsimp only
  rw [ready, if_neg Bool.false_ne_true, if_neg, pages]
  rw [allowed, Bool.false_or, free]
  exact Bool.false_ne_true

/-- An invalid write of an entry that is not being set keeps its fields, with V = 0. -/
theorem windowUnmap_written (settled : kget (s.cluster (clusterOf core)).setting idx = none) :
    s.windowUnmap core idx e =
      (let cl := clusterOf core
       let old := sget (s.cluster cl).map idx
       let u := (s.modCore core (fun k => { k with mapIdx := idx, mapErr := false, mapDone := true })).modCluster cl (fun c =>
         { c with map := sset c.map idx (setFld (e &&& mapMask) 0 1 0) })
       if mapV old = true then (u.modCluster cl (fun c => { c with
         old := sset c.old idx old, clearing := kset c.clearing idx ((s.coh.winLines.filter (fun x => x.2.1 == 256 * cl + idx)).map (·.1)) })).modCore (mapCore cl old) (fun k => { k with
         rsb := k.rsb ++ [{ wSpace := mapIsW old, tk := 4095 - idx, lo := mapOffs old, hi := mapOffs old + mapSize old, dest := false, cmd := none }] })
       else u) := by
  unfold State.windowUnmap
  dsimp only
  rw [ready, if_neg Bool.false_ne_true, settled, Option.isSome_none, if_neg Bool.false_ne_true]
  cases mapV (sget (s.cluster (clusterOf core)).map idx) with
  | false => rfl
  | true => rfl

end

/-! ### Backing lines (R80) -/

section
variable (s : State) (key off pa : Nat)

/-- The mark of a line takes back its cached copies and adds the line to those under windows. -/
theorem markLine_marks : (s.markLine key off pa).coh.winLines = kset s.coh.winLines (pa / 256) (key, off) ∧
    (s.markLine key off pa).clusters = s.clusters ∧ (s.markLine key off pa).cores = s.cores := by
  unfold State.markLine
  extract_lets t
  have cleaned : CacheEffect s t := .foldl (fun _ _ => ((((wbXlate_cacheEffect ..).trans (dropCopies_cacheEffect ..)).trans
    (setDir_cacheEffect ..)).trans (leaseDrop_cacheEffect ..)).trans (rowsDrop_cacheEffect ..)) _ s
  clear_value t
  exact ⟨congrArg (kset · (pa / 256) (key, off)) cleaned.win, cleaned.clusters, cleaned.cores⟩

/-- The lines of a window are marked one after another, each at the next 256 bytes of the window. -/
def State.markLines (n : Nat) (lines : List Nat) : State :=
  (List.range n).foldl (fun (s : State) j => s.markLine key (off + 256 * j) (lines.getD j 0)) s

theorem markLines_succ (n : Nat) (lines : List Nat) :
    s.markLines key off (n + 1) lines = (s.markLines key off n lines).markLine key (off + 256 * n) (lines.getD n 0) := by
  unfold State.markLines
  rw [List.range_succ, List.foldl_append]
  rfl

theorem markLines_clusters (n : Nat) (lines : List Nat) : (s.markLines key off n lines).clusters = s.clusters := by
  induction n with
  | zero => rfl
  | succ n ih => rw [markLines_succ, (markLine_marks ..).2.1, ih]

theorem markLines_cores (n : Nat) (lines : List Nat) : (s.markLines key off n lines).cores = s.cores := by
  induction n with
  | zero => rfl
  | succ n ih => rw [markLines_succ, (markLine_marks ..).2.2, ih]

end

/-- Lines that differ are marked each for its own place of the window. -/
theorem markLines_winLines (s : State) (key off : Nat) {lines : List Nat} (apart : (lines.map (· / 256)).Nodup) {n : Nat} (hn : n ≤ lines.length) :
    ∀ j, j < n → kget (s.markLines key off n lines).coh.winLines (lines.getD j 0 / 256) = some (key, off + 256 * j) := by
  induction n with
  | zero => exact fun _ h => absurd h (Nat.not_lt_zero _)
  | succ n ih =>
    intro j hj
    rw [markLines_succ, (markLine_marks ..).1, kget_kset]
    rcases Nat.lt_succ_iff_lt_or_eq.mp hj with before | rfl
    · have other : lines.getD j 0 / 256 ≠ lines.getD n 0 / 256 := fun same => by
        have at_j : j < lines.length := by omega
        have at_n : n < lines.length := by omega
        have index := (List.Nodup.getElem_inj_iff apart (hi := by simpa using at_j) (hj := by simpa using at_n)).mp (by
          simpa [List.getD_eq_getElem?_getD, at_j, at_n] using same)
        omega
      rw [if_neg other]
      exact ih (by omega) j before
    · rw [if_pos rfl]

/-- The waits of a cluster's cores for one entry end. -/
def Core.mapEnds (cluster idx : Nat) (x : Nat × Core) : Nat × Core :=
  if clusterOf x.1 = cluster && x.2.mapBusy && x.2.mapIdx == idx then (x.1, { x.2 with mapBusy := false, mapDone := true }) else x

theorem Core.mapEnds_fst (cluster idx : Nat) (x : Nat × Core) : (Core.mapEnds cluster idx x).1 = x.1 := by
  unfold Core.mapEnds
  split <;> rfl

/-- The cores of a cluster that wait for one entry wait no longer. -/
def State.mapEnds (s : State) (c idx : Nat) : State := { s with cores := s.cores.map (Core.mapEnds c idx) }

theorem mapEnds_cluster (s : State) (c idx k : Nat) : (s.mapEnds c idx).cluster k = s.cluster k := rfl

theorem windowMapValid_next {s : State} {c idx : Nat} {lines : List Nat} (h : kget (s.cluster c).setting idx = some lines) :
    exec (.windowMapValid c idx) s =
      .next (((s.markLines (256 * c + idx) (mapOffs (sget (s.cluster c).map idx)) lines.length lines).modCluster c (fun k =>
        { k with map := sset k.map idx (setFld (sget (s.cluster c).map idx) 0 1 1), setting := kdel k.setting idx })).mapEnds c idx) := by
  show execWindowMapValid c idx s = _
  unfold execWindowMapValid
  rw [h]
  rfl

/-- A core that waits for the entry waits no longer. -/
theorem mapEnds_ready (m : KMap Core) {c idx k : Nat} (hk : clusterOf k = c) (hi : ((kget m k).getD {}).mapIdx = idx) :
    ((kget (m.map (Core.mapEnds c idx)) k).getD {}).mapBusy = false := by
  rw [kget_map _ (Core.mapEnds_fst c idx)]
  cases h : kget m k with
  | none => rfl
  | some x =>
    rw [h] at hi
    have at_ : x.mapIdx = idx := hi
    show (Core.mapEnds c idx (k, x)).2.mapBusy = false
    unfold Core.mapEnds
    cases busy : x.mapBusy with
    | false => simpa using busy
    | true => simp [hk, at_]

/-! ### Lines go back (R81) -/

/-- Bytes put in memory that stands are read where they were put, and every other byte of memory stays. -/
theorem rawByte_putBytes (l : List Byte) (s : State) (pa q : Nat) (stands : ∀ i, i < l.length → s.isGone (pa + i) = false) :
    (s.putBytes (.glob pa) l).rawByte (.glob q) = if pa ≤ q ∧ q < pa + l.length then l.getD (q - pa) 0 else s.rawByte (.glob q) := by
  induction l generalizing s pa with
  | nil => exact (if_neg (by simp only [List.length_nil]; omega)).symm
  | cons b r ih =>
    have step : (s.putBytes (.glob pa) (b :: r)) = (s.putByte (.glob pa) b).putBytes (.glob (pa + 1)) r := rfl
    rw [step, ih _ _ (fun i hi => by
      rw [(putByte_glob_cacheEffect s pa b).isGone, Nat.add_assoc, Nat.add_comm 1 i]
      exact stands _ (by rw [List.length_cons]; omega))]
    rw [List.length_cons]
    by_cases first : q = pa
    · subst first
      rw [if_neg (by omega), if_pos (by omega), State.rawByte_putByte_same s q b (stands 0 (Nat.succ_pos _)), Nat.sub_self, List.getD_cons_zero]
    · rw [State.rawByte_putByte_ne _ _ first]
      by_cases after : pa + 1 ≤ q ∧ q < pa + 1 + r.length
      · rw [if_pos after, if_pos (by omega), show q - pa = q - (pa + 1) + 1 by omega, List.getD_cons_succ]
      · rw [if_neg after, if_neg (by omega)]

theorem putBytes_win (l : List Byte) (s : State) (pa : Nat) : (s.putBytes (.glob pa) l).coh.winLines = s.coh.winLines := by
  induction l generalizing s pa with
  | nil => rfl
  | cons b r ih => exact (ih (s.putByte (.glob pa) b) (pa + 1)).trans (putByte_glob_cacheEffect s pa b).win

theorem putBytes_clusters (l : List Byte) (s : State) (pa : Nat) : (s.putBytes (.glob pa) l).clusters = s.clusters := by
  induction l generalizing s pa with
  | nil => rfl
  | cons b r ih => exact (ih (s.putByte (.glob pa) b) (pa + 1)).trans (putByte_glob_cacheEffect s pa b).clusters

/-- The poison of a line goes back with it, and the directory forgets that it was a window's. -/
def State.lineClosed (s : State) (line : Nat) (bad : List Bool) : State :=
  (List.range 4).foldl (fun (s : State) j =>
    (s.setPoison (.glob (line * 256 + 64 * j)) (bad.getD j false)).setDir (line * 4 + j) { s.dirEnt (line * 4 + j) with state := 0 }) s

theorem lineClosed_fields (s : State) (line : Nat) (bad : List Bool) : (s.lineClosed line bad).coh.winLines = s.coh.winLines ∧
    (s.lineClosed line bad).clusters = s.clusters ∧ ∀ a, (s.lineClosed line bad).rawByte (.glob a) = s.rawByte (.glob a) := by
  unfold State.lineClosed
  generalize List.range 4 = l
  induction l generalizing s with
  | nil => exact ⟨rfl, rfl, fun _ => rfl⟩
  | cons j r ih =>
    obtain ⟨win, clusters, bytes⟩ := ih ((s.setPoison (.glob (line * 256 + 64 * j)) (bad.getD j false)).setDir (line * 4 + j) { s.dirEnt (line * 4 + j) with state := 0 })
    exact ⟨win, clusters, fun a => (bytes a).trans rfl⟩

section
variable (s : State) (line : Nat)

theorem lineBack_clusters : (s.lineBack line).clusters = s.clusters := (lineClosed_fields ..).2.1.trans (putBytes_clusters ..)

theorem lineBack_winLines : kget (s.lineBack line).coh.winLines line = none := by
  have win : (s.lineBack line).coh.winLines = kdel s.coh.winLines line := (lineClosed_fields ..).1.trans (putBytes_win ..)
  rw [win, kget_kdel, if_pos rfl]

/-- The line holds the bytes that the window held, and no other byte of memory changes. -/
theorem lineBack_rawByte (stands : ∀ n, n < 256 → s.isGone (line * 256 + n) = false) (a : Nat) :
    (s.lineBack line).rawByte (.glob a) = if a / 256 = line then s.rawByte ((s.locate (line * 256)).add (a % 256)) else s.rawByte (.glob a) := by
  have bytes := rawByte_putBytes ((List.range 256).map (fun j => s.rawByte ((s.locate (line * 256)).add j)))
    (s.setCoh { s.coh with winLines := kdel s.coh.winLines line }) (line * 256) a (fun i hi => stands i (by simpa using hi))
  refine ((lineClosed_fields ..).2.2 a).trans (bytes.trans ?_)
  rw [List.length_map, List.length_range]
  by_cases here : a / 256 = line
  · have inside : a - line * 256 = a % 256 := by omega
    rw [if_pos (by omega), if_pos here, inside, List.getD_eq_getElem?_getD, List.getElem?_map, List.getElem?_range (by omega)]
    rfl
  · rw [if_neg (by omega), if_neg here]
    rfl

end

theorem rawByte_modCluster (s : State) (c : Nat) (f : Cluster → Cluster) (p : Place) : (s.modCluster c f).rawByte p = s.rawByte p := by
  cases p <;> rfl

theorem windowLineWriteback_line {s : State} {c idx line : Nat} {rest : List Nat} (h : kget (s.cluster c).clearing idx = some (line :: rest)) :
    exec (.windowLineWriteback c idx) s = .next ((s.lineBack line).modCluster c (fun k => { k with clearing := kset k.clearing idx rest })) := by
  show execWindowLineWriteback c idx s = _
  unfold execWindowLineWriteback
  rw [h]

theorem windowLineWriteback_last {s : State} {c idx : Nat} (h : kget (s.cluster c).clearing idx = some []) :
    exec (.windowLineWriteback c idx) s = .next ((s.modCluster c (fun k => { k with old := kdel k.old idx, clearing := kdel k.clearing idx })).modCore
      (mapCore c (sget (s.cluster c).old idx)) (fun k => { k with rsb := k.rsb.filter (fun r => !(r.cmd.isNone && r.tk == 4095 - idx)) })) := by
  show execWindowLineWriteback c idx s = _
  unfold execWindowLineWriteback
  rw [h]

/-- The write of an entry, as WINDOW_MAP and WINDOW_UNMAP give it to the entry's number. -/
theorem exec_windowMap {s : State} {core idx : Nat} {e : BitVec 64} (v : mapV e = true) :
    exec (.windowMap core idx e) s = .next (s.windowMap core (idx % 256) e) := congrArg Host.Outcome.next (if_pos v)
theorem exec_windowUnmap {s : State} {core idx : Nat} {e : BitVec 64} (v : mapV e = false) :
    exec (.windowUnmap core idx e) s = .next (s.windowUnmap core (idx % 256) e) :=
  congrArg Host.Outcome.next (if_neg (by rw [v]; exact Bool.false_ne_true))

end Sys2Proof.Machine

namespace Sys2Proof
open Machine

/-- Settles O46: the writes of an entry, its lines once they are clean, and the lines that go back one by one. -/
theorem windowMapping : Obligations.WindowMapping := by
  refine ⟨fun s core idx e ready => ⟨fun l w v allowed free pages => ?_, fun v refused => ?_, fun v settled invalid => ?_, fun v settled valid => ?_⟩,
    fun s c idx lines setting apart => ?_, fun s c idx line rest clearing stands => ?_, fun s c idx clearing => ?_⟩
  · have walked := mapPages_cacheEffect s (clusterOf core) e (mapSize e / 65536) (mapVa e)
    rw [pages] at walked
    refine ⟨_, (exec_windowMap v).trans (congrArg _ (windowMap_taken ready allowed free pages)), ?_⟩
    simp [sget_sset, kget_kset]
  · refine ⟨_, (exec_windowMap v).trans (congrArg _ (windowMap_refused ready refused)), ?_⟩
    simp [ready]
  · refine ⟨_, (exec_windowUnmap v).trans (congrArg _ (windowUnmap_written ready settled)), ?_⟩
    simp [invalid, sget_sset]
  · refine ⟨_, (exec_windowUnmap v).trans (congrArg _ (windowUnmap_written ready settled)), ?_⟩
    simp [valid, sget_sset, kget_kset]
  · refine ⟨_, windowMapValid_next setting, ?_, ?_, markLines_winLines s _ _ apart le_rfl, fun k hk hi => ?_⟩
    · rw [mapEnds_cluster, State.cluster_modCluster, if_pos rfl, sget_sset_same]
    · rw [mapEnds_cluster, State.cluster_modCluster, if_pos rfl, kget_kdel, if_pos rfl]
    · refine mapEnds_ready _ hk ?_
      rwa [State.modCluster_cores, markLines_cores]
  · have at_line (n : Nat) (hn : n < 256) : (line * 256 + n) / 256 = line := by omega
    refine ⟨_, windowLineWriteback_line clearing, ?_, lineBack_winLines s line, fun n hn => ?_, fun a ha => ?_⟩
    · rw [State.cluster_modCluster, if_pos rfl, kget_kset, if_pos rfl]
    · rw [rawByte_modCluster, lineBack_rawByte s line stands, if_pos (at_line n hn), show (line * 256 + n) % 256 = n by omega]
    · rw [rawByte_modCluster, lineBack_rawByte s line stands, if_neg ha]
  · refine ⟨_, windowLineWriteback_last clearing, ?_, ?_, fun r hr => ?_⟩
    · rw [State.cluster_modCore, State.cluster_modCluster, if_pos rfl, kget_kdel, if_pos rfl]
    · rw [State.cluster_modCore, State.cluster_modCluster, if_pos rfl]
    · rw [State.core_modCore, if_pos rfl] at hr
      have other := (List.mem_filter.mp hr).2
      rintro ⟨none_, tk⟩
      simp [none_, tk] at other

end Sys2Proof
end

section
/-! SUPPORT. Bytes of a word: a field that is set, and a word that its bytes make (R2). -/

namespace Sys2Proof

theorem setFld_getLsbD {w : Nat} (x : BitVec w) (lo n v i : Nat) :
    (setFld x lo n v).getLsbD i = if lo ≤ i ∧ i < lo + n ∧ i < w then v.testBit (i - lo) else x.getLsbD i := by
  unfold setFld
  simp only [BitVec.getLsbD_or, BitVec.getLsbD_and, BitVec.getLsbD_not, BitVec.getLsbD_ofNat, Nat.testBit_shiftLeft, Nat.testBit_two_pow_sub_one]
  by_cases wide : i < w
  · by_cases low : lo ≤ i
    · by_cases high : i - lo < n
      · rw [if_pos (by omega)]
        simp [wide, low, high]
      · rw [if_neg (by omega)]
        simp [wide, low, high]
    · rw [if_neg (by omega)]
      simp [wide, low]
  · rw [if_neg (by omega), BitVec.getLsbD_of_ge x i (by omega)]
    simp [wide]

theorem fld_setFld_other {w hi lo lo' n v : Nat} (x : BitVec w) (h : lo' + n ≤ lo ∨ hi < lo') : fld (setFld x lo' n v) hi lo = fld x hi lo := by
  apply Nat.eq_of_testBit_eq
  intro i
  rw [fld_testBit, fld_testBit, setFld_getLsbD]
  by_cases inside : i < hi + 1 - lo
  · rw [if_neg (by omega)]
  · simp [inside]

theorem length_toBytes (n x : Nat) : (toBytes n x).length = n := by
  induction n generalizing x with
  | zero => rfl
  | succ n ih => exact congrArg (· + 1) (ih _)

theorem getD_toBytes (n x j : Nat) (hj : j < n) : (toBytes n x).getD j 0 = BitVec.ofNat 8 (x / 256 ^ j) := by
  induction n generalizing x j with
  | zero => exact absurd hj (Nat.not_lt_zero _)
  | succ n ih =>
    cases j with
    | zero => rw [toBytes, List.getD_cons_zero, pow_zero, Nat.div_one]
    | succ j => rw [toBytes, List.getD_cons_succ, ih _ _ (by omega), Nat.div_div_eq_div_mul, pow_succ']

theorem ofBytes_toBytes (n x : Nat) : ofBytes (toBytes n x) = x % 256 ^ n := by
  induction n generalizing x with
  | zero => rw [pow_zero, Nat.mod_one]; rfl
  | succ n ih =>
    show (BitVec.ofNat 8 x).toNat + 256 * ofBytes (toBytes n (x / 256)) = _
    rw [ih, BitVec.toNat_ofNat, show (2 : Nat) ^ 8 = 256 from rfl, ← Nat.mod_mul, pow_succ']

/-- A bit of a byte of a number is a bit of the number. -/
theorem testBit_byte (x j i : Nat) : (BitVec.ofNat 8 (x / 256 ^ j)).toNat.testBit i = (decide (i < 8) && x.testBit (8 * j + i)) := by
  rw [BitVec.toNat_ofNat, Nat.testBit_mod_two_pow, show (256 : Nat) = 2 ^ 8 from rfl, ← pow_mul, ← Nat.shiftRight_eq_div_pow, Nat.testBit_shiftRight]

/-- Bytes of a number set one after another, from the lowest. -/
def setBytes {w : Nat} (base : BitVec w) (x : Nat) (n : Nat) : BitVec w :=
  (List.range n).foldl (fun v j => setFld v (8 * j) 8 (BitVec.ofNat 8 (x / 256 ^ j)).toNat) base

theorem setBytes_succ {w : Nat} (base : BitVec w) (x n : Nat) :
    setBytes base x (n + 1) = setFld (setBytes base x n) (8 * n) 8 (BitVec.ofNat 8 (x / 256 ^ n)).toNat := by
  unfold setBytes
  rw [List.range_succ, List.foldl_append]
  rfl

theorem setBytes_getLsbD {w : Nat} (base : BitVec w) (x n i : Nat) (hw : 8 * n ≤ w) :
    (setBytes base x n).getLsbD i = if i < 8 * n then x.testBit i else base.getLsbD i := by
  induction n with
  | zero => rw [if_neg (by omega)]; rfl
  | succ n ih =>
    rw [setBytes_succ, setFld_getLsbD, ih (by omega), testBit_byte]
    by_cases here : 8 * n ≤ i ∧ i < 8 * n + 8
    · rw [if_pos (by omega), if_pos (by omega), show 8 * n + (i - 8 * n) = i by omega]
      simp [show i - 8 * n < 8 by omega]
    · rw [if_neg (by omega)]
      by_cases below : i < 8 * n
      · rw [if_pos below, if_pos (by omega)]
      · rw [if_neg below, if_neg (by omega)]

/-- A word all of whose bytes are set is the number. -/
theorem setBytes_all {w n : Nat} (hw : w = 8 * n) (base x : BitVec w) : setBytes base x.toNat n = x := by
  apply BitVec.eq_of_getLsbD_eq
  intro i hi
  rw [setBytes_getLsbD _ _ _ _ (by omega), if_pos (by omega)]
  rfl

namespace Machine

/-- A register of 8 bytes that is written whole holds what is written. -/
theorem overlay_all (old base : Nat) (x : BitVec 64) : overlay old base base (toBytes 8 x.toNat) = x.toNat := by
  have bytes : (List.range (toBytes 8 x.toNat).length).foldl (fun (v : BitVec 64) j =>
      if base ≤ base + j && base + j < base + 8 then setFld v (8 * (base + j - base)) 8 ((toBytes 8 x.toNat).getD j 0).toNat else v) (BitVec.ofNat 64 old) =
      setBytes (BitVec.ofNat 64 old) x.toNat 8 := by
    rw [length_toBytes]
    refine List.foldl_ext _ _ _ (fun v j hj => ?_)
    have inside : j < 8 := List.mem_range.mp hj
    rw [if_pos (by simp [inside]), getD_toBytes _ _ _ inside, Nat.add_sub_cancel_left]
  unfold overlay
  rw [bytes, setBytes_all (w := 64) rfl]

end Machine

end Sys2Proof
end

section
/-! SUPPORT. User-interrupt posts, wakes and freezes, and the region of an Ostler that only its hart reaches (R85, R327, R335, R339, R341, R342, R423). -/

namespace Sys2Proof.Machine

/-! ### Posts (R335, R339) -/

/-- Whether a post names a group. -/
def Group.posted (g : Group) (gk core slot mask : Nat) : Bool := coreOf gk == core && g.tslot == slot && g.kind != .lodge && mask.testBit g.grpid

theorem postUint_group {s : State} {gk : Nat} {g : Group} (hg : s.group? gk = some g) (core slot mask vec : Nat) :
    (s.postUint core slot mask vec).group? gk = some (if g.posted gk core slot mask then g.raise 3 vec else g) := by
  refine (kget_map (fun e : Nat × Group => if e.2.posted e.1 core slot mask then (e.1, e.2.raise 3 vec) else e) (fun e => ?_) s.groups gk).trans ?_
  · split <;> rfl
  · rw [show kget s.groups gk = some g from hg, Option.map_some]
    congr 1
    split <;> rfl

theorem posted_iff {g : Group} {gk core slot mask : Nat} :
    g.posted gk core slot mask = true ↔ coreOf gk = core ∧ g.tslot = slot ∧ g.kind ≠ .lodge ∧ mask.testBit g.grpid = true := by
  simp [Group.posted, and_assoc]

/-- A post raises PEND and adds to PUVEC. -/
theorem raise_uint (g : Group) {vec : Nat} (hv : vec < 2 ^ 16) :
    (g.raise 3 vec).cause.getLsbD 3 = true ∧ fld (g.raise 3 vec).cause 31 16 = fld g.cause 31 16 ||| vec ∧ { g.raise 3 vec with cause := g.cause } = g := by
  have cause : (g.raise 3 vec).cause = setFld (g.cause ||| BitVec.ofNat 64 (vec % 2 ^ 16 * 2 ^ 16)) 3 1 1 := rfl
  refine ⟨?_, ?_, rfl⟩
  · rw [cause, setFld_getLsbD, if_pos (by omega)]
    rfl
  · rw [cause, fld_setFld_other _ (.inl (by omega))]
    apply Nat.eq_of_testBit_eq
    intro i
    rw [Nat.testBit_or, fld_testBit, fld_testBit, BitVec.getLsbD_or, Nat.mod_eq_of_lt hv, BitVec.getLsbD_ofNat, Nat.testBit_mul_two_pow]
    by_cases inside : i < 16
    · simp [inside, show 16 + i < 64 by omega]
    · have beyond : vec.testBit i = false := Nat.testBit_lt_two_pow (lt_of_lt_of_le hv (Nat.pow_le_pow_right (by omega) (by omega)))
      simp [inside, beyond]

/-! ### Control registers of application cores -/

/-- A write outside transactions, in a mode above user, of a core of a partition, that its register takes. -/
theorem csrWrite_done {s : State} {h p : Nat} {ok : Hart → Bool} {f : State → Nat → State} (out : (s.hart h).ckpt = none) (app : h < 16)
    (mode : (s.hart h).mode ≠ .u) (part : (s.hart h).part = some p) (taken : ok (s.hart h) = true) :
    s.csrWrite h ok f = .next ((f s p).modHart h (fun k => { k with pc := k.pc + 4 })) := by
  unfold State.csrWrite
  simp only [out, part, taken, Option.isSome_none, Bool.false_eq_true, if_false, Bool.not_true, Bool.or_false]
  rw [if_neg]
  simp [mode, app]

/-! ### Wakes and freezes (R327, R423) -/

theorem wake_parked {s : State} {p id : Nat} {g : Group} (low : id < 2 ^ 15) (some_ : parkNone id = false) (hg : s.group? (parkGroup id) = some g)
    (part : g.part = p) (parked : g.st = .parked) (page : g.event = 1) : s.wake p id = s.runAgain (parkGroup id) false := by
  have waits : g.paged p = true := by simp [Group.paged, part, parked, page]
  unfold State.wake
  simp only [some_, Bool.false_eq_true, if_false, low, if_true, hg, Option.filter_some, waits]
  rw [if_neg (by simp [parked])]

/-- The group as a freeze of its page leaves it before it parks (R423). -/
def Group.pageFrozen (g : Group) (c : Nat) : Group :=
  { g with xfault := xfaultWord (g.fault.foldl (fun m f => m ||| f.lanes) 0) c g.atOp 16 g.atOff, fault := [], stopEv := g.stopEv.map (fun _ => 16) }

theorem freezeParked_parked {s : State} {p id c : Nat} {g : Group} (low : id < 2 ^ 15) (some_ : parkNone id = false)
    (hg : s.group? (parkGroup id) = some g) (part : g.part = p) (parked : g.st = .parked) (page : g.event = 1)
    (cause : (g.fault.map (·.cause)).dedup = [c]) : ∃ u, s.freezeParked p id = u ∧
      Undisturbed ((s.setGroup (parkGroup id) (g.pageFrozen c)).park (parkGroup id) 16) u := by
  have waits : g.paged p = true := by simp [Group.paged, part, parked, page]
  have fault : s.pageXfault g = (xfaultWord (g.fault.foldl (fun m f => m ||| f.lanes) 0) c g.atOp 16 g.atOff, s) := by
    unfold State.pageXfault
    rw [cause]
    rfl
  refine ⟨_, rfl, ?_⟩
  unfold State.freezeParked
  simp only [some_, Bool.false_eq_true, if_false, low, if_true, hg, Option.filter_some, waits, fault]
  rw [if_neg (by simp [parked])]
  exact record_undisturbed ..

theorem xfaultWord_event_subc (lanes : LaneMask) {c : Nat} (hc : c < 256) (op offs : Nat) :
    fld (xfaultWord lanes c op 16 offs) 39 32 = 16 ∧ fld (xfaultWord lanes c op 16 offs) 55 48 = c :=
  ⟨fld_pack (before := [(0, 32, offs)]) (after := [(40, 8, op), (48, 8, c), (64, 32, lanes.toNat)]) (lo := 32) (n := 8) (v := 16)
      (by decide) (by decide) (by simp [Apart]) (by simp [Apart]),
    (fld_pack (before := [(0, 32, offs), (32, 8, 16), (40, 8, op)]) (after := [(64, 32, lanes.toNat)]) (lo := 48) (n := 8) (v := c)
      (by decide) (by decide) (by simp [Apart]) (by simp [Apart])).trans (Nat.mod_eq_of_lt hc)⟩

theorem not_waked {s : State} {p id : Nat} (h : parkNone id = true) : s.wake p id = s ∧ s.freezeParked p id = s := ⟨if_pos h, if_pos h⟩

/-! ### The region of an Ostler (R341, R342) -/

/-- Bytes of one vector register word of the window, written from the lowest. -/
def Group.putWordBytes (g : Group) (s : State) (gk w : Nat) (bs : List Byte) (n : Nat) : Group :=
  (List.range n).foldl (fun (h : Group) j => h.winPut w (setFld (s.winWord gk h w) (8 * j) 8 (bs.getD j 0).toNat)) g

section
variable {s : State} {gk w : Nat} {g : Group} (reg : w < 0x2000) (held : g.held.getLsbD (w / 2048) = true)
include reg held

theorem winPut_reg (x : BitVec 32) : g.winPut w x = g.putV [(w, x)] := by
  unfold Group.winPut
  rw [if_pos reg, if_pos held]

theorem winWord_reg : s.winWord gk g w = sget g.v w := by
  unfold State.winWord
  rw [if_pos reg, if_pos held, Group.vr, Nat.div_add_mod]

/-- The word takes the bytes; nothing else of the group changes but the log of values before a write. -/
theorem putWordBytes_word (x n : Nat) (hn : n ≤ 4) :
    let h := g.putWordBytes s gk w (toBytes 4 x) n
    sget h.v w = setBytes (sget g.v w) x n ∧ (∀ k, k ≠ w → sget h.v k = sget g.v k) ∧ { h with v := g.v, oldv := g.oldv } = g := by
  induction n with
  | zero => exact ⟨rfl, fun _ _ => rfl, rfl⟩
  | succ n ih =>
    obtain ⟨word, others, rest⟩ := ih (by omega)
    intro h
    have step : h = (g.putWordBytes s gk w (toBytes 4 x) n).winPut w (setFld (s.winWord gk (g.putWordBytes s gk w (toBytes 4 x) n) w) (8 * n) 8
        ((toBytes 4 x).getD n 0).toNat) := by
      unfold h Group.putWordBytes
      rw [List.range_succ, List.foldl_append]
      rfl
    clear_value h
    generalize g.putWordBytes s gk w (toBytes 4 x) n = b at word others rest step
    have owns : b.held.getLsbD (w / 2048) = true := (congrArg (fun g : Group => g.held.getLsbD (w / 2048)) rest).trans held
    rw [winPut_reg reg owns, winWord_reg reg owns, word, getD_toBytes _ _ _ (by omega), ← setBytes_succ] at step
    subst step
    refine ⟨sget_sset_same .., fun k hk => (sget_sset_ne _ _ hk).trans (others k hk), ?_⟩
    exact (congrArg (fun g' : Group => { g' with v := g.v, oldv := g.oldv }) (Group.putV_eq b _)).trans rest

end

/-- The write of a whole vector register word of a group that does not run. -/
theorem winWrite_reg {s : State} {gk w : Nat} {g : Group} (hg : s.group? gk = some g) (stopped : g.st ≠ .running) (reg : w < 0x2000) (x : Nat) :
    s.winWrite gk (4 * w) (toBytes 4 x) = s.setGroup gk (g.putWordBytes s gk w (toBytes 4 x) 4) := by
  have bytes : (List.range (toBytes 4 x).length).foldl (fun (g : Group) j =>
      g.winPut ((4 * w + j) / 4) (setFld (s.winWord gk g ((4 * w + j) / 4)) (8 * ((4 * w + j) % 4)) 8 ((toBytes 4 x).getD j 0).toNat)) g =
      g.putWordBytes s gk w (toBytes 4 x) 4 := by
    rw [length_toBytes]
    refine List.foldl_ext _ _ _ (fun h j hj => ?_)
    have inside : j < 4 := List.mem_range.mp hj
    rw [show (4 * w + j) / 4 = w by omega, show (4 * w + j) % 4 = j by omega]
  unfold State.winWrite
  rw [hg]
  dsimp only
  rw [if_neg (by simpa using stopped), bytes, if_neg]
  simp only [length_toBytes, Bool.and_eq_true, decide_eq_true_eq]
  omega

section
variable (s : State) (core : Nat) (x : BitVec 64)

theorem ostlerRegisterWrite_heads :
    exec (.ostlerRegisterWrite core 0x410400 (toBytes 8 x.toNat)) s = .next (s.modCore core (fun k => { k with reqHead := x.toNat })) ∧
    exec (.ostlerRegisterWrite core 0x411200 (toBytes 8 x.toNat)) s = .next (s.modCore core (fun k => { k with evHead := x.toNat })) := by
  have req : s.privWrite core 0x410400 (toBytes 8 x.toNat) = s.modCore core (fun k => { k with reqHead := overlay k.reqHead 0x410400 0x410400 (toBytes 8 x.toNat) }) := by
    unfold State.privWrite
    rw [length_toBytes, if_neg (by decide), if_neg (by decide), if_pos (by decide)]
  have ev : s.privWrite core 0x411200 (toBytes 8 x.toNat) = s.modCore core (fun k => { k with evHead := overlay k.evHead 0x411200 0x411200 (toBytes 8 x.toNat) }) := by
    unfold State.privWrite
    rw [length_toBytes, if_neg (by decide), if_neg (by decide), if_neg (by decide), if_pos (by decide)]
  simp only [overlay_all] at req ev
  exact ⟨congrArg _ req, congrArg _ ev⟩

/-- A register that takes a whole word is written with that word. -/
theorem ofBytes_word : BitVec.ofNat 64 (ofBytes (toBytes 8 x.toNat)) = x := by
  rw [ofBytes_toBytes, Nat.mod_eq_of_lt (show x.toNat < 256 ^ 8 from x.isLt)]
  exact BitVec.ofNat_toNat 64 x

theorem ostlerRegisterWrite_words :
    exec (.ostlerRegisterWrite core 0x412008 (toBytes 8 x.toNat)) s =
      .next (if mapV x then s.windowMap core (s.core core).mapIdx x else s.windowUnmap core (s.core core).mapIdx x) ∧
    exec (.ostlerRegisterWrite core 0x412010 (toBytes 8 x.toNat)) s = exec (.upost core x) s := by
  have window : s.privWrite core 0x412008 (toBytes 8 x.toNat) =
      if mapV x then s.windowMap core (s.core core).mapIdx x else s.windowUnmap core (s.core core).mapIdx x := by
    unfold State.privWrite
    rw [length_toBytes, if_neg (by decide), if_neg (by decide), if_neg (by decide), if_neg (by decide), if_neg (by decide), if_pos (by decide), ofBytes_word]
  have post : s.privWrite core 0x412010 (toBytes 8 x.toNat) = s.upost core x := by
    unfold State.privWrite
    rw [length_toBytes, if_neg (by decide), if_neg (by decide), if_neg (by decide), if_neg (by decide), if_neg (by decide), if_neg (by decide),
      if_pos (by decide), ofBytes_word]
  refine ⟨congrArg Host.Outcome.next window, ?_⟩
  show Host.Outcome.next (s.privWrite core 0x412010 (toBytes 8 x.toNat)) = Host.Outcome.next (s.upost core x)
  rw [post]

end

end Sys2Proof.Machine
end

section
/-! SUPPORT. Shoot-downs (R330, R331): the L1 lines of a page leave every L1, because what else happens meanwhile brings no copy back; the
TLB entries that are hit leave; and without a modified copy nothing else of the TLBs and no byte changes (R85). -/

namespace Sys2Proof.Machine

/-! ### Copies do not come back -/

theorem kget_filter {α : Type} (f : Nat → Bool) (m : KMap α) (k : Nat) : kget (m.filter (fun e => f e.1)) k = if f k then kget m k else none := by
  induction m with
  | nil => exact (ite_self _).symm
  | cons e r ih =>
    obtain ⟨a, y⟩ := e
    rw [List.filter_cons]
    by_cases here : a = k
    · subst here
      cases keep : f a with
      | false => simp [ih, keep]
      | true => simp [kget]
    · cases keep : f a with
      | false => simp only [ih, kget, here, if_false, Bool.false_eq_true]
      | true => simp only [ih, kget, here, if_false, if_true]

/-- The lines that every L1 names are as they were, and a sector that was in no state is in none. -/
structure CopiesFall (s t : State) : Prop where
  tags : t.coh.tags = s.coh.tags
  l1 : ∀ k, (kget s.coh.l1 k).getD 0 = 0 → (kget t.coh.l1 k).getD 0 = 0

namespace CopiesFall

variable {s t u : State}

theorem of_l1 (tags : t.coh.tags = s.coh.tags) (l1 : t.coh.l1 = s.coh.l1) : CopiesFall s t := ⟨tags, fun k h => by rwa [l1]⟩

/-- Some sectors go to no state. -/
theorem of_filter (keep : Nat → Bool) (tags : t.coh.tags = s.coh.tags) (l1 : t.coh.l1 = s.coh.l1.filter (fun e => keep e.1)) : CopiesFall s t := ⟨tags, fun k h => by
  rw [l1, kget_filter]
  split
  · exact h
  · rfl⟩

theorem of_coh (h : t.coh = s.coh) : CopiesFall s t := .of_l1 (by rw [h]) (by rw [h])

theorem refl (s : State) : CopiesFall s s := .of_coh rfl

theorem trans (h : CopiesFall s t) (k : CopiesFall t u) : CopiesFall s u := ⟨k.tags.trans h.tags, fun j gone => k.l1 j (h.l1 j gone)⟩

theorem foldl {α : Type} {f : State → α → State} (hf : ∀ s a, CopiesFall s (f s a)) (l : List α) (s : State) : CopiesFall s (l.foldl f s) := by
  induction l generalizing s with
  | nil => exact refl s
  | cons a r ih => exact (hf s a).trans (ih _)

theorem ite {c : Prop} [Decidable c] (ht : CopiesFall s t) (hu : CopiesFall s u) : CopiesFall s (if c then t else u) := by
  split
  · exact ht
  · exact hu

end CopiesFall

theorem setDir_copiesFall (s : State) (sec : Nat) (d : DirEnt) : CopiesFall s (s.setDir sec d) := .of_l1 rfl rfl
theorem leaseDrop_copiesFall (s : State) (sec : Nat) : CopiesFall s (s.leaseDrop sec) :=
  .of_filter (fun k => k % 2 ^ 46 != sec) rfl rfl
theorem rowsDrop_copiesFall (s : State) (sec : Nat) : CopiesFall s (s.rowsDrop sec) := .of_l1 rfl rfl
theorem notice_copiesFall (s : State) (p : Place) : CopiesFall s (s.notice p) := .of_coh rfl
theorem setTlb_copiesFall (s : State) (d : Nat) (l : List TlbEnt) : CopiesFall s (s.setTlb d l) := .of_coh rfl
theorem setPoison_copiesFall (s : State) (p : Place) (on : Bool) : CopiesFall s (s.setPoison p on) := by
  cases p <;> exact .of_coh rfl

theorem setL1_copiesFall (s : State) (core sec st : Nat) (h : st = 0 ∨ s.l1 core sec ≠ 0) : CopiesFall s (s.setL1 core sec st) := ⟨rfl, fun k gone => by
  show (kget (if st = 0 then kdel s.coh.l1 (l1Key core sec) else kset s.coh.l1 (l1Key core sec) st) k).getD 0 = 0
  split
  · rw [kget_kdel]
    split
    · rfl
    · exact gone
  · next st_ne =>
    rw [kget_kset]
    split
    · next at_ =>
      subst at_
      exact absurd gone (h.resolve_left st_ne)
    · exact gone⟩

theorem dropCopies_copiesFall (s : State) (sec : Nat) (keep : Option Nat) : CopiesFall s (s.dropCopies sec keep) :=
  .of_filter (fun k => k % 2 ^ 46 != sec || some (k / 2 ^ 46) == keep) rfl rfl

/-- The abort of a transaction of a hart touches neither the caches, nor the TLBs, nor a byte. -/
theorem abortHart_fields (s : State) (h cause code : Nat) : (s.abortHart h cause code).coh = s.coh ∧ (s.abortHart h cause code).tlbs = s.tlbs ∧
    (s.abortHart h cause code).mem = s.mem ∧ (s.abortHart h cause code).cores = s.cores := by
  unfold State.abortHart
  dsimp only
  split
  · exact ⟨rfl, rfl, rfl, rfl⟩
  · split <;> exact ⟨rfl, rfl, rfl, rfl⟩

theorem conflict_copiesFall (s : State) (own : Option Nat) (pa : Nat) (wr : Bool) : CopiesFall s (s.conflict own pa wr) :=
  .foldl (fun s (e : Nat × Nat) => .of_coh (abortHart_fields s e.2 13 0).1) _ s

theorem downgrade_copiesFall (s : State) (core sec st : Nat) : CopiesFall s (s.downgrade core sec st) := by
  unfold State.downgrade
  split
  · exact .refl s
  · next held => exact setL1_copiesFall s core sec st (.inr held)

theorem dirShare_copiesFall (s : State) (sec : Nat) : CopiesFall s (s.dirShare sec) := by
  unfold State.dirShare
  dsimp only
  split
  · exact (setDir_copiesFall ..).trans (downgrade_copiesFall ..)
  · exact (setDir_copiesFall ..).trans (downgrade_copiesFall ..)
  · exact .refl s

theorem homeRead_copiesFall (s : State) (own : Option Nat) (pa : Nat) : CopiesFall s (s.homeRead own pa) :=
  .ite (.refl s) ((conflict_copiesFall ..).trans (dirShare_copiesFall ..))

theorem walkReads_copiesFall (s : State) (root va : Nat) : CopiesFall s (s.walkReads root va) :=
  .foldl (fun t a => homeRead_copiesFall t none a) _ s

theorem homeTake_copiesFall (s : State) (sec : Nat) : CopiesFall s (s.homeTake sec) :=
  .ite (.refl s) ((dropCopies_copiesFall ..).trans (setDir_copiesFall ..))

theorem putByte_copiesFall (s : State) (p : Place) (b : Byte) : CopiesFall s (s.putByte p b) := by
  cases p with
  | glob pa =>
    unfold State.putByte
    exact .ite (.refl s) (.of_coh rfl)
  | aspc c o => exact .of_coh rfl
  | wspc c o => exact .of_coh rfl

theorem putSector_copiesFall (s : State) (p : Place) (ws : List (Nat × Byte)) : CopiesFall s (s.putSector p ws) := by
  have put : CopiesFall s (ws.foldl (fun s e => s.putByte (p.add e.1) e.2) s) := .foldl (fun s (e : Nat × Byte) => putByte_copiesFall s (p.add e.1) e.2) ws s
  exact .ite (put.trans (setPoison_copiesFall ..)) put

theorem landed_copiesFall (s : State) (w : Writer) (sec : Nat) (ws : List (Nat × Byte)) : CopiesFall s (s.landed w sec ws) := by
  unfold State.landed
  extract_lets t u
  have put : CopiesFall s u := (CopiesFall.of_coh rfl : CopiesFall s t).trans ((rowsDrop_copiesFall ..).trans (putSector_copiesFall ..))
  exact .ite (put.trans (notice_copiesFall ..)) put

theorem setCompanion_copiesFall (s : State) (die leaf : Nat) (w : Bool) : CopiesFall s (s.setCompanion die leaf w) := by
  unfold State.setCompanion
  extract_lets -underBinder c c' sec t
  have taken : CopiesFall s t := .ite (leaseDrop_copiesFall ..) ((conflict_copiesFall ..).trans (homeTake_copiesFall ..))
  exact .ite (.refl s) (taken.trans (landed_copiesFall ..))

theorem tlbFill_copiesFall (s : State) (d : Nat) (e : TlbEnt) : CopiesFall s (s.tlbFill d e) := by
  unfold State.tlbFill
  dsimp only
  split
  · exact .of_coh rfl
  · split <;> exact .of_coh rfl

theorem fill_copiesFall (s : State) (die part root : Nat) (acc : Access) (va core : Nat) : CopiesFall s (s.fill die part root acc va core).2 := by
  have walked := walkReads_copiesFall s root va
  unfold State.fill
  dsimp only
  split
  · exact walked
  split
  · exact walked
  · exact ((walked.trans (setCompanion_copiesFall ..)).trans (tlbFill_copiesFall ..)).trans (tlbFill_copiesFall ..)

theorem xlate_copiesFall (s : State) (die part : Nat) (acc : Access) (va core : Nat) : CopiesFall s (s.xlate die part acc va core).2 := by
  show CopiesFall s (s.translate die part _ acc va core).2
  unfold State.translate
  dsimp only
  split
  · split
    · exact .refl s
    · exact fill_copiesFall ..
  · split
    · split
      · split
        · exact (setCompanion_copiesFall ..).trans (tlbFill_copiesFall ..)
        · exact .refl s
      · exact fill_copiesFall ..
    · exact fill_copiesFall ..

theorem l1Drop_copiesFall (s : State) (core sec : Nat) : CopiesFall s (s.l1Drop core sec) := by
  unfold State.l1Drop
  split
  · exact .refl s
  · exact setL1_copiesFall s core sec 0 (.inl rfl)
  · exact setL1_copiesFall s core sec 0 (.inl rfl)
  · exact (setL1_copiesFall s core sec 0 (.inl rfl)).trans (setDir_copiesFall ..)

/-! ### A line that leaves an L1 -/

/-- An L1 neither names a line nor holds a sector of it. -/
def State.LineLeft (s : State) (c : Nat) (x : L1Line) : Prop := x ∉ s.l1Tags c ∧ ∀ j, j < 4 → s.l1 c (4 * x.pline + j) = 0

theorem setL1_zero (s : State) (core sec : Nat) : (s.setL1 core sec 0).l1 core sec = 0 := by
  show (kget (kdel s.coh.l1 (l1Key core sec)) (l1Key core sec)).getD 0 = 0
  rw [kget_kdel, if_pos rfl]
  rfl

theorem l1Drop_l1 (s : State) (core sec : Nat) : (s.l1Drop core sec).l1 core sec = 0 := by
  unfold State.l1Drop
  split
  · next h => exact h
  · exact setL1_zero ..
  · exact setL1_zero ..
  · exact setL1_zero ..

/-- What a step over a list reaches at one of its members, it has at the end, if every other step keeps it. -/
theorem foldl_reaches {α : Type} {P Q : State → Prop} {f : State → α → State} {a : α} (turn : ∀ t, P t → Q (f t a)) (keepsP : ∀ t b, P t → P (f t b))
    (keepsQ : ∀ t b, Q t → Q (f t b)) {l : List α} (ha : a ∈ l) {s : State} (h : P s) : Q (l.foldl f s) := by
  have keeps : ∀ (l : List α) (t : State), Q t → Q (l.foldl f t) := fun l => by
    induction l with
    | nil => exact fun _ ht => ht
    | cons b r ih => exact fun t ht => ih _ (keepsQ t b ht)
  induction l generalizing s with
  | nil => cases ha
  | cons b r ih =>
    rcases List.mem_cons.mp ha with rfl | later
    · exact keeps r _ (turn s h)
    · exact ih later (keepsP s b h)

theorem foldl_keeps {α : Type} {P : State → Prop} {f : State → α → State} (keeps : ∀ t b, P t → P (f t b)) (l : List α) {s : State} (h : P s) : P (l.foldl f s) := by
  induction l generalizing s with
  | nil => exact h
  | cons b r ih => exact ih (keeps s b h)

section
variable (s : State) (core : Nat) (y : L1Line)

/-- Sectors of a line leave an L1. -/
theorem l1Drops_l1 {sector : Nat → Nat} (l : List Nat) {j : Nat} (hj : j ∈ l) : (l.foldl (fun v j => v.l1Drop core (sector j)) s).l1 core (sector j) = 0 :=
  foldl_reaches (P := fun _ => True) (Q := fun v => v.l1 core (sector j) = 0) (f := fun v j => v.l1Drop core (sector j)) (fun v _ => l1Drop_l1 v core (sector j))
    (fun _ _ _ => trivial) (fun v i gone => (l1Drop_copiesFall v core (sector i)).l1 _ gone) hj trivial

/-- The evicted line before its name leaves the L1: no copy came, and no sector of it is held. -/
theorem l1Evict_drops : ∃ t, s.l1Evict core y = t.setTags core ((t.l1Tags core).filter (· != y)) ∧ CopiesFall s t ∧
    ∀ j, j < 4 → t.l1 core (4 * y.pline + j) = 0 := by
  have written : CopiesFall s (if (List.range 4).any (fun j => 3 ≤ s.l1 core (4 * y.pline + j)) then
      (s.xlate (clusterOf core) y.part .store (256 * y.vline) core).2 else s) := .ite (xlate_copiesFall ..) (.refl s)
  have dropped := fun w : State => CopiesFall.foldl (fun (v : State) j => l1Drop_copiesFall v core (4 * y.pline + j)) (List.range 4) w
  exact ⟨_, rfl, written.trans (dropped _), fun j hj => l1Drops_l1 (sector := fun j => 4 * y.pline + j) _ core _ (List.mem_range.mpr hj)⟩

theorem setTags_l1Tags (l : List L1Line) (c : Nat) : (s.setTags core l).l1Tags c = if c = core then l else s.l1Tags c := by
  show (kget (kset s.coh.tags core l) c).getD [] = _
  rw [kget_kset]
  split <;> rfl

end

theorem CopiesFall.l1Tags {s t : State} (h : CopiesFall s t) (c : Nat) : t.l1Tags c = s.l1Tags c := by
  unfold State.l1Tags
  rw [h.tags]

theorem CopiesFall.left {s t : State} (h : CopiesFall s t) {c : Nat} {x : L1Line} (left : s.LineLeft c x) : t.LineLeft c x := by
  obtain ⟨named, held⟩ := left
  exact ⟨by rwa [h.l1Tags], fun j hj => h.l1 _ (held j hj)⟩

section
variable {s : State} {core c : Nat} {x y : L1Line}

theorem l1Evict_left : (s.l1Evict c x).LineLeft c x := by
  obtain ⟨t, evicted, -, held⟩ := l1Evict_drops s c x
  rw [evicted]
  exact ⟨by rw [setTags_l1Tags, if_pos rfl]; simp, held⟩

theorem l1Evict_keeps_left (left : s.LineLeft c x) : (s.l1Evict core y).LineLeft c x := by
  obtain ⟨t, evicted, fall, -⟩ := l1Evict_drops s core y
  obtain ⟨named, held⟩ := fall.left left
  rw [evicted]
  refine ⟨?_, held⟩
  rw [setTags_l1Tags]
  split
  · next at_ =>
    subst at_
    exact fun there => named (List.mem_filter.mp there).1
  · exact named

/-- A line that an L1 names is named still, or has left it, after another line was evicted. -/
theorem l1Evict_keeps (h : x ∈ s.l1Tags c ∨ s.LineLeft c x) : x ∈ (s.l1Evict core y).l1Tags c ∨ (s.l1Evict core y).LineLeft c x := by
  rcases h with named | left
  · by_cases same : core = c ∧ y = x
    · obtain ⟨rfl, rfl⟩ := same
      exact .inr l1Evict_left
    · obtain ⟨t, evicted, fall, -⟩ := l1Evict_drops s core y
      rw [← fall.l1Tags] at named
      rw [evicted, setTags_l1Tags]
      left
      split
      · next at_ =>
        subst at_
        exact List.mem_filter.mpr ⟨named, by simpa using fun e : x = y => same ⟨rfl, e.symm⟩⟩
      · exact named
  · exact .inr (l1Evict_keeps_left left)

end

/-! ### The page of a shoot-down leaves every L1 -/

/-- The lines of a page leave one L1. -/
def State.flushCore (s : State) (parts : List Nat) (inside : Nat → Bool) (c : Nat) : State :=
  ((s.l1Tags c).filter (fun x => parts.contains x.part && inside (256 * x.vline))).foldl (fun s x => s.l1Evict c x) s

/-- The lines of a page leave every L1 of the package. -/
def State.flushAll (s : State) (parts : List Nat) (inside : Nat → Bool) : State := (List.range 8).foldl (fun s d => s.flushPage parts inside d) s

section
variable {s : State} {parts : List Nat} {inside : Nat → Bool} {c : Nat} {x : L1Line}

theorem flushCore_left (part : x.part ∈ parts) (page : inside (256 * x.vline) = true) (h : x ∈ s.l1Tags c ∨ s.LineLeft c x) :
    (s.flushCore parts inside c).LineLeft c x := by
  rcases h with named | left
  · exact foldl_reaches (P := fun _ => True) (Q := fun t => t.LineLeft c x) (fun t _ => l1Evict_left) (fun _ _ _ => trivial)
      (fun t y left => l1Evict_keeps_left left) (List.mem_filter.mpr ⟨named, by simp [part, page]⟩) trivial
  · exact foldl_keeps (P := fun t => t.LineLeft c x) (fun t y left => l1Evict_keeps_left left) _ left

theorem flushCore_keeps_left (core : Nat) (left : s.LineLeft c x) : (s.flushCore parts inside core).LineLeft c x :=
  foldl_keeps (P := fun t => t.LineLeft c x) (fun _ _ left => l1Evict_keeps_left left) _ left

theorem flushCore_keeps (core : Nat) (h : x ∈ s.l1Tags c ∨ s.LineLeft c x) :
    x ∈ (s.flushCore parts inside core).l1Tags c ∨ (s.flushCore parts inside core).LineLeft c x :=
  foldl_keeps (P := fun t => x ∈ t.l1Tags c ∨ t.LineLeft c x) (fun _ _ h => l1Evict_keeps h) _ h

theorem flushPage_eq (d : Nat) : s.flushPage parts inside d = (List.range 32).foldl (fun t k => t.flushCore parts inside (32 * d + k)) s := rfl

theorem flushAll_left (hc : c < 256) (part : x.part ∈ parts) (page : inside (256 * x.vline) = true) (h : x ∈ s.l1Tags c ∨ s.LineLeft c x) :
    (s.flushAll parts inside).LineLeft c x := by
  have at_ : 32 * (c / 32) + c % 32 = c := by omega
  refine foldl_reaches (P := fun t => x ∈ t.l1Tags c ∨ t.LineLeft c x) (Q := fun t => t.LineLeft c x) (a := c / 32) (fun t ht => ?_) (fun t d ht => ?_)
    (fun t d ht => ?_) (List.mem_range.mpr (by omega)) h
  · rw [flushPage_eq]
    refine foldl_reaches (P := fun t => x ∈ t.l1Tags c ∨ t.LineLeft c x) (Q := fun t => t.LineLeft c x) (a := c % 32) (fun t ht => ?_)
      (fun t k ht => flushCore_keeps _ ht) (fun t k ht => flushCore_keeps_left _ ht) (List.mem_range.mpr (by omega)) ht
    rw [at_]
    exact flushCore_left part page ht
  · rw [flushPage_eq]
    exact foldl_keeps (P := fun t => x ∈ t.l1Tags c ∨ t.LineLeft c x) (fun t k ht => flushCore_keeps _ ht) _ ht
  · rw [flushPage_eq]
    exact foldl_keeps (P := fun t => t.LineLeft c x) (fun t k ht => flushCore_keeps_left _ ht) _ ht

end

/-! ### The TLBs -/

/-- The entries that a shoot-down hits leave the TLBs that it reaches. -/
def State.dropHits (s : State) (dies : List Nat) (hit : TlbEnt → Bool) : State :=
  dies.foldl (fun (s : State) d => s.setTlb d ((s.tlb d).filter (fun e => !hit e))) s

theorem tlb_setTlb (s : State) (d k : Nat) (l : List TlbEnt) : (s.setTlb d l).tlb k = if k = d then l else s.tlb k := by
  show (kget (kset s.tlbs d l) k).getD [] = _
  rw [kget_kset]
  split <;> rfl

theorem mem_dropHits {s : State} {dies : List Nat} {hit : TlbEnt → Bool} {k : Nat} {e : TlbEnt} :
    e ∈ (s.dropHits dies hit).tlb k ↔ e ∈ s.tlb k ∧ (k ∈ dies → hit e = false) := by
  induction dies generalizing s with
  | nil => simp [State.dropHits]
  | cons d r ih =>
    refine (ih (s := s.setTlb d ((s.tlb d).filter (fun e => !hit e)))).trans ?_
    rw [tlb_setTlb]
    by_cases here : k = d
    · subst here
      simp only [if_true, List.mem_filter, Bool.not_eq_true', List.mem_cons, true_or, true_implies]
      tauto
    · simp only [here, if_false, List.mem_cons, false_or]

theorem shoot_eq (s : State) (p : Nat) (v : BitVec 64) (all : Bool) : s.shoot p v all =
    (let root := ((s.part? p).map (·.root)).getD 0
     let t := ((if all then s else s.walkReads root (fld v 55 0)).flushAll (s.rootParts root) (inPage v all)).dropHits (s.shootDies root v all)
       (shootHits v all (s.rootParts root))
     if v.getLsbD 61 then t.doomPage (s.rootParts root) (inPage v all) else t) := rfl

/-- The doom of transactions touches neither the caches, nor the TLBs, nor a byte. -/
theorem doomPage_fields (s : State) (parts : List Nat) (inside : Nat → Bool) :
    (s.doomPage parts inside).coh = s.coh ∧ (s.doomPage parts inside).tlbs = s.tlbs ∧ SameBytes s (s.doomPage parts inside) := by
  unfold State.doomPage
  extract_lets -underBinder hit t root hs
  have doomed : t.coh = s.coh ∧ t.tlbs = s.tlbs ∧ SameBytes s t := ⟨rfl, rfl, rfl, rfl, fun _ => rfl, fun _ => rfl⟩
  clear_value t hs
  induction hs generalizing t with
  | nil => exact doomed
  | cons e r ih =>
    obtain ⟨coh, tlbs, mem, cores⟩ := abortHart_fields t e.1 9 0
    obtain ⟨coh₁, tlbs₁, bytes⟩ := doomed
    refine ih (t.abortHart e.1 9 0) ⟨coh.trans coh₁, tlbs.trans tlbs₁, bytes.trans ⟨by rw [mem], by rw [mem], (abortHart_cacheEffect t e.1 9 0).isGone, fun c => ?_⟩⟩
    rw [State.core, cores, ← State.core]

/-! ### Without modified copies (R85) -/

/-- From a package without modified copies: one without them, with the same TLBs and the same bytes. -/
structure QuietTlbs (s t : State) : Prop where
  quiet : s.Unmodified → t.Unmodified ∧ t.tlbs = s.tlbs ∧ SameBytes s t

namespace QuietTlbs

variable {s t u : State}

theorem refl (s : State) : QuietTlbs s s := ⟨fun h => ⟨h, rfl, .refl s⟩⟩

theorem trans (h : QuietTlbs s t) (k : QuietTlbs t u) : QuietTlbs s u where
  quiet hs := by
    obtain ⟨ht, tlbs, bytes⟩ := h.quiet hs
    obtain ⟨hu, tlbs', bytes'⟩ := k.quiet ht
    exact ⟨hu, tlbs'.trans tlbs, bytes.trans bytes'⟩

theorem foldl {α : Type} {f : State → α → State} (hf : ∀ s a, QuietTlbs s (f s a)) (l : List α) (s : State) : QuietTlbs s (l.foldl f s) := by
  induction l generalizing s with
  | nil => exact refl s
  | cons a r ih => exact (hf s a).trans (ih _)

/-- The path of a read that fills no TLB. -/
theorem of_read (c : CacheEffect s t) (r : ReadOnly s t) (tlbs : s.Unmodified → t.tlbs = s.tlbs) : QuietTlbs s t where
  quiet hs := by
    obtain ⟨ht, bytes, poison⟩ := r.keeps hs
    exact ⟨ht, tlbs hs, bytes, poison, c.isGone, fun k => by rw [State.core, c.cores, ← State.core]⟩

end QuietTlbs

theorem homeRead_tlbs (s : State) (own : Option Nat) (pa : Nat) : (s.homeRead own pa).tlbs = s.tlbs := by
  have shared : ∀ t : State, (t.dirShare (pa / 64)).tlbs = t.tlbs := fun t => by
    unfold State.dirShare State.downgrade
    dsimp only
    split
    · split <;> rfl
    · split <;> rfl
    · rfl
  have aborted : ∀ (l : List (Nat × Nat)) (t : State), (l.foldl (fun s e => s.abortHart e.2 13 0) t).tlbs = t.tlbs := fun l => by
    induction l with
    | nil => exact fun _ => rfl
    | cons e r ih => exact fun t => (ih _).trans (abortHart_fields t e.2 13 0).2.1
  unfold State.homeRead
  split
  · rfl
  · exact (shared _).trans (aborted ..)

theorem walkReads_quietTlbs (s : State) (root va : Nat) : QuietTlbs s (s.walkReads root va) :=
  .foldl (fun t a => .of_read (homeRead_cacheEffect ..) (homeRead_readOnly ..) (fun _ => homeRead_tlbs t none a)) _ s

theorem l1Drop_tlbs (s : State) (core sec : Nat) : (s.l1Drop core sec).tlbs = s.tlbs := by
  unfold State.l1Drop
  split <;> rfl

/-- No copy is written back, so that no write-back fills a TLB. -/
theorem l1Evict_quietTlbs (s : State) (core : Nat) (x : L1Line) : QuietTlbs s (s.l1Evict core x) := .of_read (l1Evict_cacheEffect ..) (l1Evict_readOnly ..) fun hs => by
  have dropped : ∀ (l : List Nat) (t : State), (l.foldl (fun s j => s.l1Drop core (4 * x.pline + j)) t).tlbs = t.tlbs := fun l => by
    induction l with
    | nil => exact fun _ => rfl
    | cons j r ih => exact fun t => (ih _).trans (l1Drop_tlbs ..)
  have clean : ¬(List.range 4).any (fun j => 3 ≤ s.l1 core (4 * x.pline + j)) = true := by
    rw [List.any_eq_true]
    rintro ⟨j, -, h⟩
    exact absurd (of_decide_eq_true h) (Nat.not_le.mpr (hs.l1 ..))
  unfold State.l1Evict
  rw [if_neg clean]
  exact dropped ..

theorem flushAll_quietTlbs (s : State) (parts : List Nat) (inside : Nat → Bool) : QuietTlbs s (s.flushAll parts inside) :=
  .foldl (fun t _ => .foldl (fun u _ => .foldl (fun w x => l1Evict_quietTlbs w _ x) _ u) _ t) _ s

theorem setTlb_sameBytes (s : State) (d : Nat) (l : List TlbEnt) : SameBytes s (s.setTlb d l) := ⟨rfl, rfl, fun _ => rfl, fun _ => rfl⟩

theorem dropHits_sameBytes (s : State) (dies : List Nat) (hit : TlbEnt → Bool) : SameBytes s (s.dropHits dies hit) :=
  .foldl (fun t d => setTlb_sameBytes t d ((t.tlb d).filter (fun e => !hit e))) dies s

theorem dropHits_copiesFall (s : State) (dies : List Nat) (hit : TlbEnt → Bool) : CopiesFall s (s.dropHits dies hit) :=
  .foldl (fun t d => setTlb_copiesFall t d ((t.tlb d).filter (fun e => !hit e))) dies s

section
variable (s : State) (p : Nat) (v : BitVec 64) (all : Bool)

/-- The TLBs after a shoot-down: those after the flush, without the entries that it hits where it reaches. -/
theorem shoot_tlb {d : Nat} {e : TlbEnt} :
    let root := ((s.part? p).map (·.root)).getD 0
    e ∈ (s.shoot p v all).tlb d ↔ e ∈ ((if all then s else s.walkReads root (fld v 55 0)).flushAll (s.rootParts root) (inPage v all)).tlb d ∧
      (d ∈ s.shootDies root v all → shootHits v all (s.rootParts root) e = false) := by
  intro root
  rw [shoot_eq, ← mem_dropHits]
  dsimp only
  split
  · rw [State.tlb, (doomPage_fields ..).2.1, ← State.tlb]
  · rfl

theorem shoot_left {c : Nat} {x : L1Line} (hc : c < 256) (named : x ∈ s.l1Tags c)
    (part : x.part ∈ s.rootParts (((s.part? p).map (·.root)).getD 0)) (page : inPage v all (256 * x.vline) = true) : (s.shoot p v all).LineLeft c x := by
  rw [shoot_eq]
  extract_lets root t
  have walked : CopiesFall s (if all then s else s.walkReads root (fld v 55 0)) := .ite (.refl s) (walkReads_copiesFall ..)
  have flushed : t.LineLeft c x := (dropHits_copiesFall ..).left (flushAll_left hc part page (.inl (by rwa [walked.l1Tags])))
  split
  · exact (CopiesFall.of_coh (doomPage_fields ..).1).left flushed
  · exact flushed

variable {s} in
/-- Without modified copies the entries that are not hit stay, and every byte reads as before. -/
theorem shoot_quiet (hs : s.Unmodified) :
    (∀ d, ∀ e ∈ s.tlb d, shootHits v all (s.rootParts (((s.part? p).map (·.root)).getD 0)) e = false → e ∈ (s.shoot p v all).tlb d) ∧
      ∀ q, (s.shoot p v all).readByte q = s.readByte q := by
  have walked : QuietTlbs s (if all then s else s.walkReads (((s.part? p).map (·.root)).getD 0) (fld v 55 0)) := by
    split
    · exact .refl s
    · exact walkReads_quietTlbs ..
  obtain ⟨-, tlbs, bytes⟩ := (walked.trans (flushAll_quietTlbs _ (s.rootParts (((s.part? p).map (·.root)).getD 0)) (inPage v all))).quiet hs
  refine ⟨fun d e he missed => (shoot_tlb s p v all).mpr ⟨?_, fun _ => missed⟩, fun q => SameBytes.readByte ?_ q⟩
  · rwa [State.tlb, tlbs, ← State.tlb]
  · rw [shoot_eq]
    extract_lets root t
    have dropped : SameBytes s t := bytes.trans (dropHits_sameBytes ..)
    split
    · exact dropped.trans (doomPage_fields ..).2.2
    · exact dropped

end

/-- The end of a shoot-down (R331): nothing that was translated in its range is under way. -/
theorem shootdownComplete_next {s : State} {h : Nat} (busy : (s.hart h).busy = true) (parts : List Nat)
    (hp : parts = match (s.hart h).part with
      | some p => s.rootParts (((s.part? p).map (·.root)).getD 0)
      | none => []) (done : Prop) [Decidable done]
    (hd : done ↔ (∀ e ∈ s.groups, shootWaits (s.hart h).shoot parts e.2 = false) ∧
      (∀ x ∈ s.node.held, ¬(x.by_.part ∈ parts ∧ x.op.shootWaits (s.hart h).shoot = true)) ∧
      (∀ e ∈ s.parts, ∀ l, e.2.log = some l → ∀ x ∈ l.heldWr, ∀ a, x.by_.va = some a →
        ¬(x.by_.part ∈ parts ∧ inPage (s.hart h).shoot ((s.hart h).shoot.getLsbD 62) a = true))) :
    exec (.shootdownComplete h) s = .next (if done then s.setHart h { s.hart h with busy := false } else s) := by
  show execShootdownComplete h s = _
  unfold execShootdownComplete
  extract_lets k parts'
  have same : parts' = parts := hp.symm
  rw [same]
  refine congrArg Host.Outcome.next (if_congr ?_ rfl rfl)
  rw [hd]
  unfold k
  simp only [busy, Bool.true_and, Bool.and_eq_true, List.all_eq_true, Bool.not_eq_true', and_assoc]
  refine and_congr_right fun _ => and_congr (forall₂_congr fun x _ => ?_) (forall₂_congr fun e _ => ?_)
  · simp
  · cases hl : e.2.log with
    | none => simp
    | some l =>
      simp only [Option.map_some, Option.getD_some, List.all_eq_true, Option.some.injEq, forall_eq']
      refine forall₂_congr fun x _ => ?_
      cases hv : x.by_.va with
      | none => simp
      | some a => simp only [Option.map_some, Option.getD_some, Option.some.injEq, forall_eq', List.contains_eq_mem, not_and_or, Bool.not_eq_true', Bool.and_eq_false_iff, decide_eq_false_iff_not, Bool.not_eq_true]

end Sys2Proof.Machine

namespace Sys2Proof
open Machine

/-- Settles O47: posts, the control registers of application cores, wakes and freezes, shoot-downs, and the region of an Ostler. -/
theorem signalsAndRegisters : Obligations.SignalsAndRegisters := by
  refine ⟨fun s core slot mask vec gk g hg hv => ?_, fun s core v => rfl, fun s h p v out app mode part => ⟨fun t ht => ?_, fun zero => ?_, fun idle => ?_⟩,
    fun s p id g low some_ hg part parked page awake => ⟨?_, fun c hc cause => ?_⟩, fun s p id _ none_ => not_waked none_,
    fun s p v all => ⟨fun d hd e he => ?_, fun c hc x hx part page => shoot_left s p v all hc hx part page, fun clean owned => shoot_quiet p v all ⟨clean, owned⟩⟩,
    fun s h busy => ?_, fun s core x => ?_, fun s core slot w x g hslot reg hg stopped held => ?_⟩
  · have posted := postUint_group hg core slot mask vec
    refine ⟨fun missed => ?_, fun hit => ?_⟩
    · rwa [if_neg (mt posted_iff.mp missed)] at posted
    · rw [if_pos (posted_iff.mpr hit)] at posted
      exact ⟨_, posted, raise_uint g hv⟩
  · show execXvuint h v s = _
    unfold execXvuint
    rw [csrWrite_done out app mode part rfl]
    dsimp only
    rw [ht]
  · constructor
    · show execXvwake h v s = _
      unfold execXvwake
      exact csrWrite_done out app mode part (decide_eq_true zero)
    · show execXvfreeze h v s = _
      unfold execXvfreeze
      exact csrWrite_done out app mode part (decide_eq_true zero)
  · have taken : (!(s.hart h).busy) = true := by rw [idle]; rfl
    constructor
    · intro page
      show execXvshootPage h v s = _
      unfold execXvshootPage
      rw [csrWrite_done out app mode part taken, if_neg (by rw [page]; decide)]
    · intro every
      show execXvshootAll h v s = _
      unfold execXvshootAll
      rw [csrWrite_done out app mode part taken, if_neg (by rw [every]; decide)]
  · rw [wake_parked low some_ hg part parked page, runAgain_group hg false awake]
    simp [Group.again]
  · obtain ⟨u, frozen, after⟩ := freezeParked_parked low some_ hg part parked page cause
    obtain ⟨g₁, hg₁, same₁⟩ := park_group ((State.group_setGroup ..).trans (if_pos rfl)) 16
    obtain ⟨g₂, hg₂, same₂⟩ := after.group hg₁
    have as_parked : g₂.unrung = ((g.pageFrozen c).parked 16).unrung := same₂.trans same₁
    obtain ⟨event, subc⟩ := xfaultWord_event_subc (g.fault.foldl (fun m f => m ||| f.lanes) 0) hc g.atOp g.atOff
    have xfault : g₂.xfault = (g.pageFrozen c).xfault := (congrArg Group.xfault as_parked :)
    rw [frozen]
    exact ⟨g₂, hg₂, (congrArg Group.st as_parked :), (congrArg Group.event as_parked :), (congrArg Group.fault as_parked :),
      xfault ▸ event, xfault ▸ subc, (congrArg Group.pcv as_parked :), (congrArg Group.v as_parked :), (congrArg Group.s as_parked :), (congrArg Group.p as_parked :)⟩
  · exact ((shoot_tlb s p v all).mp he).2 hd
  · exact shootdownComplete_next busy _ rfl _ Iff.rfl
  · obtain ⟨req, ev⟩ := ostlerRegisterWrite_heads s core x
    obtain ⟨window, post⟩ := ostlerRegisterWrite_words s core x
    exact ⟨req, ev, window, post⟩
  · have put : exec (.ostlerRegisterWrite core (65536 * slot + 4 * w) (toBytes 4 x.toNat)) s =
        .next (s.setGroup (core * 64 + slot) (g.putWordBytes s (core * 64 + slot) w (toBytes 4 x.toNat) 4)) := by
      show Host.Outcome.next (s.privWrite core (65536 * slot + 4 * w) (toBytes 4 x.toNat)) = _
      unfold State.privWrite
      dsimp only
      rw [if_pos (by omega), show (65536 * slot + 4 * w) / 65536 = slot by omega, show (65536 * slot + 4 * w) % 65536 = 4 * w by omega, if_neg (by omega),
        winWrite_reg hg stopped reg]
    obtain ⟨word, others, rest⟩ := putWordBytes_word (s := s) (gk := core * 64 + slot) reg held x.toNat 4 le_rfl
    refine ⟨_, _, put, (State.group_setGroup ..).trans (if_pos rfl), fun r l hl => ?_, rest⟩
    unfold Group.vr
    split
    · next at_ => rw [at_, word, setBytes_all (w := 32) rfl]
    · next at_ => exact others _ at_

end Sys2Proof
end

section
/-! SUPPORT. Sessions and replies of the RPC service (R351 to R354, R356, R398, R436): what a reply sends, and which ground of refusal a
request is answered with. -/

namespace Sys2Proof.Machine

/-! ### The service's queues through the header of an undo log (R367, R373) -/

/-- Sessions, waiting requests and replies are as they were. -/
structure RpcKept (s t : State) : Prop where
  rpc : t.rpc = s.rpc

namespace RpcKept

variable {s t u : State}

theorem refl (s : State) : RpcKept s s := ⟨rfl⟩

theorem trans (h : RpcKept s t) (k : RpcKept t u) : RpcKept s u := ⟨k.rpc.trans h.rpc⟩

theorem foldl {α : Type} {f : State → α → State} (hf : ∀ s a, RpcKept s (f s a)) (l : List α) (s : State) : RpcKept s (l.foldl f s) := by
  induction l generalizing s with
  | nil => exact refl s
  | cons a r ih => exact (hf s a).trans (ih _)

theorem ite {c : Prop} [Decidable c] (ht : RpcKept s t) (hu : RpcKept s u) : RpcKept s (if c then t else u) := by
  split
  · exact ht
  · exact hu

theorem of_cacheEffect (h : CacheEffect s t) : RpcKept s t := ⟨(congrArg State.rpc h.rest :)⟩

end RpcKept

theorem record_rpcKept (s : State) (kind sev cls unit : Nat) (part : Option Nat) (addr n : Nat) (detail : BitVec 256) :
    RpcKept s (s.record kind sev cls unit part addr n detail) := by
  unfold State.record
  extract_lets -underBinder fold counted p p'
  exact .ite ⟨rfl⟩ ⟨rfl⟩

theorem note_rpcKept (s : State) (kind sev cls unit : Nat) (part : Option Nat) (addr n : Nat) : RpcKept s (s.note kind sev cls unit part addr n) :=
  (⟨rfl⟩ : RpcKept s s.drawWide.2).trans (record_rpcKept ..)

theorem consume_rpcKept (s : State) (part : Nat) (p : Place) : RpcKept s (s.consume part p) := by
  unfold State.consume
  exact RpcKept.trans ⟨State.modPart_rpc ..⟩ (note_rpcKept ..)

theorem putSector_rpcKept (s : State) (p : Place) (ws : List (Nat × Byte)) : RpcKept s (s.putSector p ws) := by
  have byte : ∀ (t : State) (q : Place) (b : Byte), RpcKept t (t.putByte q b) := fun t q b => by
    cases q with
    | glob pa => exact .of_cacheEffect (putByte_glob_cacheEffect ..)
    | aspc c o => exact ⟨rfl⟩
    | wspc c o => exact ⟨rfl⟩
  have clean : ∀ t : State, RpcKept t (t.setPoison p false) := fun t => by cases p <;> exact ⟨rfl⟩
  have put : RpcKept s (ws.foldl (fun s e => s.putByte (p.add e.1) e.2) s) := .foldl (fun s (e : Nat × Byte) => byte s (p.add e.1) e.2) ws s
  exact .ite (put.trans (clean _)) put

theorem hwSector_rpcKept (s : State) (part : Nat) (p : Place) (ws : List (Nat × Byte)) : RpcKept s (s.hwSector part p ws) := by
  have noticed : ∀ (t : State) (q : Place), RpcKept t (t.notice q) := fun t q => .of_cacheEffect (notice_cacheEffect t q)
  unfold State.hwSector
  split
  · split
    · exact .ite (consume_rpcKept ..) (.of_cacheEffect ((touchTag_cacheEffect ..).trans (commitSector_cacheEffect ..)))
    · exact ((putSector_rpcKept ..).trans (noticed ..)).trans (noticed ..)
  · exact (putSector_rpcKept ..).trans (noticed ..)

theorem vaOf_rpcKept (s : State) (part va : Nat) (acc : Access) : RpcKept s (s.vaOf part va acc).2 := by
  have translated := RpcKept.of_cacheEffect (xlate_cacheEffect s 8 part acc va 0)
  unfold State.vaOf
  split
  · next h => rwa [h] at translated
  · next h => rwa [h] at translated

theorem hwPut_rpcKept (s : State) (part va : Nat) (bs : List Byte) : RpcKept s ((s.hwPut part va bs).getD s) := by
  have reached := vaOf_rpcKept s part va .innWrite
  unfold State.hwPut
  split
  · next hv =>
    rw [hv] at reached
    split
    · exact .refl s
    · exact reached.trans (.foldl (fun t (e : Place × List (Nat × Byte)) => hwSector_rpcKept t part e.1 e.2) _ _)
  · exact .refl s

theorem logHeader_rpcKept (s : State) (part : Nat) : RpcKept s (s.logHeader part) := by
  unfold State.logHeader
  split
  · exact .refl s
  · dsimp only
    split
    · exact (hwPut_rpcKept ..).trans (hwPut_rpcKept ..)
    · exact hwPut_rpcKept ..

theorem sealWindow_rpc (s : State) (part : Nat) (f : LogWindow → LogWindow) : (s.sealWindow part f).rpc = s.rpc := by
  unfold State.sealWindow
  split
  · exact (RpcKept.ite (RpcKept.trans ⟨State.modPart_rpc ..⟩ (logHeader_rpcKept ..)) (.refl s)).rpc
  · rfl

/-! ### Replies (R352 to R354, R356) -/

/-- The header of a reply. -/
def replyHdr (r : Rpc) (code n : Nat) : BitVec 128 :=
  pack 128 [(64, 64, fld r.hdr 127 64), (48, 16, r.opcode), (36, 12, 8 * n), (32, 4, 1), (24, 8, code), (16, 1, 1), (0, 6, r.part)]

theorem reply_rpc {s : State} {r : Rpc} {x : Session} (open_ : kget s.rpc.sessions r.session = some x) (sound : x.err = false) (code : Nat)
    (detail : BitVec 64) {res : List (BitVec 64)} (short : res.length < 510) : (s.reply r code detail res).rpc =
      { s.rpc with
        replies := s.rpc.replies ++ [{ session := r.session, hdr := replyHdr r code (res.length + 1), body := detail :: res }],
        sessions := if code = 0 then s.rpc.sessions else kset s.rpc.sessions r.session { x with err := true } } := by
  unfold State.reply
  rw [open_]
  dsimp only
  rw [if_neg (by rw [sound]; exact Bool.false_ne_true), List.take_of_length_le (by omega)]
  split
  · rfl
  · exact sealWindow_rpc ..

theorem reply_discarded {s : State} {r : Rpc} (h : ∀ x, kget s.rpc.sessions r.session = some x → x.err = true) (code : Nat) (detail : BitVec 64)
    (res : List (BitVec 64)) : s.reply r code detail res = s := by
  unfold State.reply
  split
  · rfl
  · next x open_ => exact if_pos (h x open_)

theorem fld_lt {w : Nat} (x : BitVec w) (hi lo : Nat) : fld x hi lo < 2 ^ (hi + 1 - lo) := Nat.mod_lt _ (Nat.two_pow_pos _)

/-- A field is known by its upper and its lower part. -/
theorem fld_split {v w : Nat} {x : BitVec v} {y : BitVec w} {hi mid lo : Nat} (h : lo < mid) (high : fld x hi mid = fld y hi mid)
    (low : fld x (mid - 1) lo = fld y (mid - 1) lo) : fld x hi lo = fld y hi lo := by
  apply Nat.eq_of_testBit_eq
  intro i
  rw [fld_testBit, fld_testBit]
  by_cases inside : i < hi + 1 - lo
  · by_cases below : lo + i < mid
    · have same := congrArg (·.testBit i) low
      simpa only [fld_testBit, decide_eq_true (show i < mid - 1 + 1 - lo by omega), inside, decide_true, Bool.true_and] using same
    · have same := congrArg (·.testBit (lo + i - mid)) high
      simpa only [fld_testBit, decide_eq_true (show lo + i - mid < hi + 1 - mid by omega), show mid + (lo + i - mid) = lo + i by omega, inside, decide_true,
        Bool.true_and] using same
  · simp [inside]

/-- The fields of a reply's header (R352, R353). -/
theorem replyHdr_fields (r : Rpc) {code n : Nat} (hc : code < 256) (hn : n ≤ 510) : let y := replyHdr r code n
    fld y 127 48 = fld r.hdr 127 48 ∧ fld y 47 36 = 8 * n ∧ fld y 31 24 = code ∧ y.getLsbD 16 = true ∧ fld y 5 0 = r.part ∧ fld y 35 32 = 1 ∧
      fld y 15 6 = 0 ∧ fld y 23 17 = 0 := by
  intro y
  have field : ∀ (before after : List (Nat × Nat × Nat)) (lo n v : Nat),
      y = pack 128 (before ++ (lo, n, v) :: after) → lo + n ≤ 128 → 0 < n → v < 2 ^ n → (∀ e ∈ before ++ after, Apart e lo n) →
        fld y (lo + n - 1) lo = v := fun before after lo n v hy hw hn hv apart => by
    rw [hy, fld_pack hw hn (fun e h => apart e (List.mem_append_left _ h)) (fun e h => apart e (List.mem_append_right _ h)), Nat.mod_eq_of_lt hv]
  have reqid : fld y 127 64 = fld r.hdr 127 64 := field [] _ 64 64 _ rfl (by omega) (by omega) (fld_lt ..) (by simp [Apart])
  have opcode : fld y 63 48 = r.opcode := field [(64, 64, fld r.hdr 127 64)] _ 48 16 _ rfl (by omega) (by omega) (fld_lt ..) (by simp [Apart])
  have mark : fld y 16 16 = 1 := field [(64, 64, fld r.hdr 127 64), (48, 16, r.opcode), (36, 12, 8 * n), (32, 4, 1), (24, 8, code)] _ 16 1 1 rfl
    (by omega) (by omega) (by omega) (by simp [Apart])
  refine ⟨fld_split (mid := 64) (by omega) reqid opcode, ?_, ?_, ?_, ?_, ?_, fld_pack_gap (by simp [Apart]), fld_pack_gap (by simp [Apart])⟩
  · exact field [(64, 64, fld r.hdr 127 64), (48, 16, r.opcode)] _ 36 12 _ rfl (by omega) (by omega) (by omega) (by simp [Apart])
  · exact field [(64, 64, fld r.hdr 127 64), (48, 16, r.opcode), (36, 12, 8 * n), (32, 4, 1)] _ 24 8 _ rfl (by omega) (by omega) hc (by simp [Apart])
  · have bit : (fld y 16 16).testBit 0 = true := by rw [mark]; rfl
    rw [fld_testBit] at bit
    exact (Bool.and_eq_true_iff.mp bit).2
  · exact field [(64, 64, fld r.hdr 127 64), (48, 16, r.opcode), (36, 12, 8 * n), (32, 4, 1), (24, 8, code), (16, 1, 1)] [] 0 6 _ rfl
      (by omega) (by omega) (fld_lt ..) (by simp [Apart])
  · exact field [(64, 64, fld r.hdr 127 64), (48, 16, r.opcode), (36, 12, 8 * n)] _ 32 4 1 rfl (by omega) (by omega) (by omega) (by simp [Apart])

/-! ### The ground that is answered (R353, R446) -/

/-- The lower of two fields, where there are two. -/
def lowerField (o y : Option Nat) : Option Nat := match o, y with
  | none, y => y
  | some x, some y => some (if fieldOffset y < fieldOffset x then y else x)
  | some x, none => some x

theorem firstField_eq (code : Nat) (l : List (Nat × Option Nat)) :
    firstField code l = ((l.filter (fun e => e.1 == code)).map (·.2)).foldl lowerField none := by
  rw [List.foldl_map]
  rfl

/-- The lower of two is one of them, and below each that is a field. -/
theorem lowerField_spec (o y : Option Nat) : (lowerField o y = o ∨ lowerField o y = y) ∧
    ∀ n, o = some n ∨ y = some n → ∃ m, lowerField o y = some m ∧ fieldOffset m ≤ fieldOffset n := by
  cases o with
  | none => exact ⟨.inr rfl, fun n h => ⟨n, by simpa [lowerField] using h, le_rfl⟩⟩
  | some a =>
    cases y with
    | none => exact ⟨.inl rfl, fun n h => ⟨n, by simpa [lowerField] using h, le_rfl⟩⟩
    | some b =>
      by_cases less : fieldOffset b < fieldOffset a
      · have lower : lowerField (some a) (some b) = some b := congrArg some (if_pos less)
        refine ⟨.inr lower, fun n h => ⟨b, lower, ?_⟩⟩
        rcases h with h | h <;> cases h
        · exact less.le
        · exact le_rfl
      · have lower : lowerField (some a) (some b) = some a := congrArg some (if_neg less)
        refine ⟨.inl lower, fun n h => ⟨a, lower, ?_⟩⟩
        rcases h with h | h <;> cases h
        · exact le_rfl
        · exact not_lt.mp less

theorem foldl_lowerField (l : List (Option Nat)) (o : Option Nat) : l.foldl lowerField o ∈ o :: l ∧
    ∀ n, some n ∈ o :: l → ∃ m, l.foldl lowerField o = some m ∧ fieldOffset m ≤ fieldOffset n := by
  induction l generalizing o with
  | nil => exact ⟨List.mem_singleton_self o, fun n h => ⟨n, (List.mem_singleton.mp h).symm, le_rfl⟩⟩
  | cons a r ih =>
    obtain ⟨one, below⟩ := lowerField_spec o a
    obtain ⟨mem, least⟩ := ih (lowerField o a)
    refine ⟨?_, fun n h => ?_⟩
    · rcases List.mem_cons.mp mem with first | later
      · rw [List.foldl_cons, first]
        rcases one with one | one <;> simp [one]
      · exact List.mem_cons_of_mem _ (List.mem_cons_of_mem _ later)
    · simp only [List.mem_cons] at h
      rcases or_assoc.mpr h with here | later
      · obtain ⟨k, at_, le⟩ := below n (here.imp Eq.symm Eq.symm)
        obtain ⟨m, found, le'⟩ := least k (List.mem_cons.mpr (.inl at_.symm))
        exact ⟨m, found, le'.trans le⟩
      · exact least n (List.mem_cons_of_mem _ later)

/-- The field that is named is one that is refused with that code, and no such field begins before it. -/
theorem firstField_spec {code : Nat} {l : List (Nat × Option Nat)} (h : ∃ y ∈ l, y.1 = code) : (code, firstField code l) ∈ l ∧
    ∀ n, (code, some n) ∈ l → ∃ m, firstField code l = some m ∧ fieldOffset m ≤ fieldOffset n := by
  have mem : ∀ o, o ∈ (l.filter (fun e => e.1 == code)).map (·.2) ↔ (code, o) ∈ l := fun o => by simp
  obtain ⟨one, least⟩ := foldl_lowerField ((l.filter (fun e => e.1 == code)).map (·.2)) none
  rw [← firstField_eq] at one least
  refine ⟨?_, fun n hn => least n (List.mem_cons_of_mem _ ((mem _).mpr hn))⟩
  rcases List.mem_cons.mp one with none_ | some_
  · obtain ⟨⟨c, o⟩, hy, rfl⟩ := h
    cases o with
    | none => rwa [none_]
    | some n =>
      obtain ⟨m, found, -⟩ := least n (List.mem_cons_of_mem _ ((mem _).mpr hy))
      rw [none_] at found
      cases found
  · exact (mem _).mp some_

/-- What the grounds that hold answer: code and field. -/
def holding (l : List Ground) : List (Nat × Option Nat) := (l.filter (·.1)).map (·.2)

theorem mem_holding {l : List Ground} {e : Nat × Option Nat} : e ∈ holding l ↔ (true, e) ∈ l := by simp [holding]

section
variable {s : State} {l : List Ground} (r : Rpc) (run : State → State) (normal : s.porter.recovery = false)
include normal

theorem judge_eq : s.judge r l run = match ((holding l).map (·.1)).dedup with
    | [] => run s
    | [c] => s.refuse r c (firstField c (holding l))
    | cs => s.draw.2.refuse r (cs.getD (s.draw.1.toNat % cs.length) 1) (firstField (cs.getD (s.draw.1.toNat % cs.length) 1) (holding l)) := by
  unfold State.judge
  simp only [normal, Bool.false_and, Bool.false_eq_true, if_false]
  rfl

/-- Where every ground that holds is one, it is answered. -/
theorem judge_one {x : Ground} (hx : x ∈ l) (holds : x.1 = true) (only : ∀ y ∈ l, y.1 = true → y = x) : s.judge r l run = s.refuse r x.2.1 x.2.2 := by
  have there : x.2 ∈ holding l := mem_holding.mpr (by rwa [← holds])
  have same : ∀ e ∈ holding l, e = x.2 := fun e he => congrArg (·.2) (only (true, e) (mem_holding.mp he) rfl)
  have codes : (holding l).map (·.1) = List.replicate (holding l).length x.2.1 :=
    List.eq_replicate_iff.mpr ⟨List.length_map .., fun c hc => by
      obtain ⟨e, he, rfl⟩ := List.mem_map.mp hc
      rw [same e he]⟩
  have field : firstField x.2.1 (holding l) = x.2.2 := congrArg (·.2) (same _ (firstField_spec ⟨x.2, there, rfl⟩).1)
  rw [judge_eq r run normal, codes, List.replicate_dedup (List.length_pos_of_mem there).ne']
  dsimp only
  rw [field]

/-- Where a ground holds, the code of one is answered, with the field that is first for it. -/
theorem judge_refuses (holds : ∃ x ∈ l, x.1 = true) : ∃ c k, (∃ e ∈ holding l, e.1 = c) ∧
    s.judge r l run = (s.setClock { s.clock with free := k }).refuse r c (firstField c (holding l)) := by
  have code : ∀ c, c ∈ ((holding l).map (·.1)).dedup → ∃ e ∈ holding l, e.1 = c := fun c hc => List.mem_map.mp (List.mem_dedup.mp hc)
  rw [judge_eq r run normal]
  split
  · next none_ =>
    obtain ⟨⟨b, e⟩, hx, rfl⟩ := holds
    have there := List.mem_dedup.mpr (List.mem_map_of_mem (f := (·.1)) (mem_holding.mpr hx))
    rw [none_] at there
    cases there
  · next c one => exact ⟨c, s.clock.free, code c (by rw [one]; exact List.mem_singleton_self c), rfl⟩
  · next some_ _ =>
    refine ⟨_, s.clock.free + 1, code _ ?_, rfl⟩
    rw [List.getD_eq_getElem _ _ (Nat.mod_lt _ (List.length_pos_of_ne_nil some_))]
    exact List.getElem_mem _

end

theorem judge_recovery {s : State} {r : Rpc} (l : List Ground) (run : State → State) (down : s.porter.recovery = true)
    (other : ¬(r.opcode = 0x0011 ∧ fld (r.slot 0) 15 0 = 8)) : s.judge r l run = s.refuse r 5 := by
  have denied : (s.porter.recovery && !(decide (r.opcode = 0x0011) && decide (fld (r.slot 0) 15 0 = 8))) = true := by
    rw [down, Bool.true_and, Bool.not_eq_true', ← Bool.decide_and, decide_eq_false other]
  unfold State.judge
  rw [if_pos (by simpa using denied)]
  rfl

/-! ### Sessions (R351 to R354, R436) -/

theorem refuse_detail (s : State) (r : Rpc) (code : Nat) {n : Nat} (hn : n < 4096) : s.refuse r code (some n) = s.reply r code (BitVec.ofNat 64 (8 * n)) [] ∧
    s.refuse r code (some (atByte n)) = s.reply r code (BitVec.ofNat 64 n) [] ∧ s.refuse r code none = s.reply r code (BitVec.allOnes 64) [] := by
  have slot : fieldOffset n = 8 * n := if_pos hn
  have within : fieldOffset (atByte n) = n := by
    unfold fieldOffset atByte
    rw [if_neg (by omega), Nat.add_sub_cancel_left]
  refine ⟨?_, ?_, rfl⟩
  · unfold State.refuse detailOf
    rw [Option.map_some, slot]
    rfl
  · unfold State.refuse detailOf
    rw [Option.map_some, within]
    rfl

theorem rpcSessionOpen_opens {s : State} {n port : Nat} {gid : BitVec 128} (fresh : kget s.rpc.sessions n = none) (hp : port < 16)
    (up : (7, port) ∉ s.porter.removed) (idle : s.begun n = false) (fuses : s.porter.recovery = true → port = 0 ∧ gid ∈ Config.fuseGids) :
    exec (.rpcSessionOpen n gid port) s = .next (s.setRpc { s.rpc with sessions := kset s.rpc.sessions n { gid := gid, port := port } }) := by
  refine congrArg Host.Outcome.next (if_neg ?_)
  simp only [fresh, idle, Option.isSome_none, Bool.false_or, Bool.or_eq_true, decide_eq_true_eq, not_or, not_le, List.contains_eq_mem, up, not_false_eq_true, hp,
    true_and, Bool.and_eq_true, bne_iff_ne, Bool.not_eq_true', decide_eq_false_iff_not, not_and, not_not]
  exact fuses

theorem sessionsAndReplies : Sys2Proof.Claims.SessionsAndReplies := by
  refine ⟨fun s n port gid => rpcSessionOpen_opens, fun s n x open_ => ?_, fun s n => ?_, fun s r code detail res x open_ hc short => ⟨fun err => ?_, fun sound => ?_⟩,
    fun s r code n hn => refuse_detail s r code hn, fun s r code detail res lost => ?_, fun s r l run normal => ⟨?_, ?_, fun holds => ?_⟩,
    fun s r l run down other => judge_recovery l run down other, fun s r normal known => ?_⟩
  · show Host.Outcome.next (match kget s.rpc.sessions n with
      | some x => s.setRpc { s.rpc with sessions := kset s.rpc.sessions n { x with err := true } }
      | none => s) = _
    rw [open_]
  · exact ⟨_, rfl, (kget_kdel ..).trans (if_pos rfl), rfl, fun k hk => (kget_kdel ..).trans (if_neg hk), rfl⟩
  · exact reply_discarded (fun y hy => by rw [open_] at hy; cases hy; exact err) code detail res
  · have sent := reply_rpc open_ sound code detail short
    obtain ⟨reqid, len, status, mark, part, version, low, high⟩ := replyHdr_fields r hc (show res.length + 1 ≤ 510 by omega)
    refine ⟨_, congrArg RpcSt.replies sent, rfl, rfl, reqid, len, status, mark, part, version, low, high, ?_⟩
    rw [sent]
    dsimp only
    by_cases fine : code = 0
    · subst fine
      rw [if_pos rfl, open_]
      show some x = some { x with err := false }
      rw [← sound]
    · rw [if_neg fine, kget_kset, if_pos rfl, show (code != 0) = true by simpa using fine]
  · exact reply_discarded (fun y hy => by rw [lost] at hy; cases hy) code detail res
  · exact fun free => s.judge_of_grounds r run normal free
  · exact fun x hx holds only => judge_one r run normal hx holds only
  · obtain ⟨c, k, some_, answered⟩ := judge_refuses r run normal holds
    obtain ⟨named, least⟩ := firstField_spec some_
    refine ⟨_, mem_holding.mp named, k, rfl, fun y hy on same n field => least n (mem_holding.mpr ?_), answered⟩
    obtain ⟨b, code, o⟩ := y
    obtain rfl : b = true := on
    obtain rfl : code = c := same
    obtain rfl : o = some n := field
    exact hy
  · have asked : exec (.badopRequest r) s = .next (s.judge r [(true, 1, if [0x0B, 0x0C, 0x0D, 0x11].contains r.opcode then some 0 else none)] id) :=
      congrArg Host.Outcome.next (if_neg known)
    rw [asked, judge_one r id normal (List.mem_singleton_self _) rfl (fun y hy _ => List.mem_singleton.mp hy)]
    dsimp only
    congr 2
    simp only [List.contains_eq_mem, decide_eq_true_eq]

end Sys2Proof.Machine
end

section
/-! SUPPORT. Host RDMA (R111, R358): an access of a region that grants it and whose range translates is performed on its spans. -/

namespace Sys2Proof.Machine

section
variable {s : State} {rkey : BitVec 32} {va : BitVec 64} {n bit part : Nat} {g : Region} {acc : Access} (f : Nat → List (Place × Nat) → State → State)
variable (region : s.regionOf rkey = some (part, g)) (base : g.base ≤ va.toNat) (len : va.toNat + n ≤ g.base + g.len) (granted : g.bits.getLsbD bit = true)
variable (aligned : bit = 2 → va.toNat % 8 = 0) (translated : (s.spans (ioTlb 1) 0 part acc (.glob va) (chunks va.toNat n)).page = none)
variable (own : (s.spans (ioTlb 1) 0 part acc (.glob va) (chunks va.toNat n)).viol = false)
include region base len granted aligned translated own

theorem rdma_performed (goes : isWrite acc = true → (∀ p, s.part? part = some p → p.halted = false) ∧ (∀ l, s.log? part = some l → l.full = false) ∧
      ∀ x ∈ (s.spans (ioTlb 1) 0 part acc (.glob va) (chunks va.toNat n)).ok, ∀ pa, s.behindWindow x.1 = .glob pa → s.logHeld pa = false) :
    s.rdma rkey va n bit acc f =
      f part (s.spans (ioTlb 1) 0 part acc (.glob va) (chunks va.toNat n)).ok (s.spans (ioTlb 1) 0 part acc (.glob va) (chunks va.toNat n)).s := by
  have inside : ¬(!g.bits.getLsbD bit || decide (va.toNat < g.base) || decide (g.base + g.len < va.toNat + n) || (decide (bit = 2) && va.toNat % 8 != 0)) = true := by
    simp [granted, base, len]
    exact aligned
  have runs : ¬(isWrite acc && ((s.part? part).map (·.halted)).getD false) = true := by
    rw [Bool.and_eq_true, not_and]
    intro wr
    cases h : s.part? part with
    | none => decide
    | some p => simp [(goes wr).1 p h]
  have room : ¬(isWrite acc && ((s.log? part).map (·.full)).getD false) = true := by
    rw [Bool.and_eq_true, not_and]
    intro wr
    cases h : s.log? part with
    | none => decide
    | some l => simp [(goes wr).2.1 l h]
  unfold State.rdma
  rw [region]
  dsimp only
  rw [if_neg inside, if_neg runs, if_neg room, translated]
  dsimp only
  rw [own, if_neg Bool.false_ne_true]
  refine if_neg ?_
  rw [Bool.and_eq_true, not_and, List.any_eq_true]
  rintro wr ⟨x, hx, held⟩
  split at held
  · next pa at_ =>
    rw [(goes wr).2.2 x hx pa at_] at held
    cases held
  · cases held

end

theorem hostRdma : Sys2Proof.Claims.HostRdma := by
  refine ⟨fun s rkey va n part g region base len => ⟨fun granted => ?_, fun data same granted runs room => ?_, fun cas x y q k t word aligned granted runs room => ?_⟩,
    fun s rkey va x y n data cas unknown => ?_, fun s n data => rfl⟩
  · intro sp translated own
    exact congrArg Host.Outcome.next (rdma_performed _ region base len granted (by omega) translated own (fun wr => absurd wr (by decide)))
  · intro sp translated own free
    subst same
    exact congrArg Host.Outcome.next (rdma_performed _ region base len granted (by omega) translated own (fun _ => ⟨runs, room, free⟩))
  · intro sp translated own free first a clean
    subst word
    refine congrArg Host.Outcome.next ((rdma_performed _ region base len granted (fun _ => aligned) translated own (fun _ => ⟨runs, room, free⟩)).trans ?_)
    dsimp only
    rw [show (s.spans (ioTlb 1) 0 part .engWrite (.glob va) (chunks va.toNat 8)).ok = (q, k) :: t from first]
    exact if_neg (by rw [clean]; exact Bool.false_ne_true)
  · have none_ : ∀ n bit acc f, s.rdma rkey va n bit acc f = s.rdmaAnswer 1 [] := fun n bit acc f => by
      unfold State.rdma
      rw [unknown]
    exact ⟨congrArg _ (none_ ..), congrArg _ (none_ ..), congrArg _ (none_ ..)⟩

end Sys2Proof.Machine
end

section
/-! SUPPORT. Accesses and interrupts of harts (R98, R117, R225, R258, R259, R340, R341, R421). -/

namespace Sys2Proof.Machine

/-! ### What comes of an access -/

section
variable {s w : State} {a : HartAcc} {pa : Nat} (settled : (s.hart a.hart).ending = none) (unasked : ∀ q ∈ s.tix.reqs, q.who ≠ .hart a.hart)

include settled unasked in
/-- The hart neither ends a transaction nor waits for a token. -/
theorem access_goes : ¬((s.hart a.hart).ending.isSome || s.tix.reqs.any (fun q => q.who == .hart a.hart)) = true := by
  rw [settled, Option.isSome_none, Bool.false_or, List.any_eq_true]
  rintro ⟨q, hq, same⟩
  exact unasked q hq (by simpa using same)

section
variable (memory : ∀ r b n, a.op ≠ .fence r b n)
include settled unasked memory

theorem access_barred (tx : (s.hart a.hart).ckpt.isSome = true) (load : a.op ≠ .load) (store : a.op ≠ .store) (fetch : a.op ≠ .fetch) :
    exec (.rv64MemoryAccess a) s = .next (s.abortHart a.hart 6 0) := by
  show execRv64MemoryAccess a s = _
  unfold execRv64MemoryAccess
  dsimp only
  rw [if_neg (access_goes settled unasked)]
  split
  · next h => exact absurd h (memory _ _ _)
  · exact if_pos (by simp [tx, load, store, fetch])

section
variable (open_ : (s.hart a.hart).ckpt = none ∨ a.op = .load ∨ a.op = .store)
include open_

theorem access_misaligned (off : a.va.toNat % a.size ≠ 0) (fetch : a.op ≠ .fetch) :
    exec (.rv64MemoryAccess a) s = .next (s.hartTrap a.hart (causeAlign a.op) a.va) := by
  show execRv64MemoryAccess a s = _
  unfold execRv64MemoryAccess
  dsimp only
  rw [if_neg (access_goes settled unasked)]
  split
  · next h => exact absurd h (memory _ _ _)
  · rw [if_neg (by rcases open_ with h | h | h <;> simp [h])]
    exact if_pos (by simp [off, fetch])

variable (aligned : a.va.toNat % a.size = 0)
include aligned

theorem access_wild (wild : (s.hart a.hart).wild (hartAcc a.op) a.va.toNat = true) :
    exec (.rv64MemoryAccess a) s = .next (s.hartTrap a.hart (causeAccess a.op) a.va) := by
  show execRv64MemoryAccess a s = _
  unfold execRv64MemoryAccess
  dsimp only
  rw [if_neg (access_goes settled unasked)]
  split
  · next h => exact absurd h (memory _ _ _)
  · rw [if_neg (by rcases open_ with h | h | h <;> simp [h]), if_neg (by simp [aligned])]
    exact if_pos wild

omit open_

variable (tame : (s.hart a.hart).wild (hartAcc a.op) a.va.toNat = false) (reached : s.hartXlate a.hart (hartAcc a.op) a.va.toNat = (.ok pa, w))
include tame reached

/-- An access outside transactions that no home holds back. -/
theorem access_plain (out : (s.hart a.hart).ckpt = none) (there : w.privAt a.hart pa = none) (own : inPriv pa = false) (room : w.logHeld pa = false)
    (tag : w.hartPart (s.hart a.hart) (hartAcc a.op) < 64 → w.tagBad (w.hartPart (s.hart a.hart) (hartAcc a.op)) pa = false) (fetch : a.op ≠ .fetch)
    (near : (s.hart a.hart).nodeRelease a = false) : exec (.rv64MemoryAccess a) s = .next (w.hartPlain a.hart a pa) := by
  have tagged : ¬(decide (w.hartPart (s.hart a.hart) (hartAcc a.op) < 64) && w.tagBad (w.hartPart (s.hart a.hart) (hartAcc a.op)) pa) = true := by
    rw [Bool.and_eq_true, decide_eq_true_eq]
    rintro ⟨low, bad⟩
    rw [tag low] at bad
    cases bad
  show execRv64MemoryAccess a s = _
  unfold execRv64MemoryAccess
  dsimp only
  rw [if_neg (access_goes settled unasked)]
  split
  · next h => exact absurd h (memory _ _ _)
  · rw [if_neg (by simp [out]), if_neg (by simp [aligned]), if_neg (by simp [tame]), reached]
    dsimp only
    rw [there]
    dsimp only
    rw [if_neg (by simp [own]), if_neg tagged, if_neg (by simpa using fetch), if_neg (by simp [out]), if_neg (by simp [room]), if_neg (by simp [near])]

/-- A transactional store to an Ostler's region goes to the write buffer (R259; log 85). -/
theorem access_buffered {core : Nat} (tx : (s.hart a.hart).ckpt.isSome = true) (store : a.op = .store) (there : w.privAt a.hart pa = some core)
    (room : (s.hart a.hart).bufFull pa = false) : exec (.rv64MemoryAccess a) s =
      .next ((w.modHart a.hart (fun k => k.buffer a.va.toNat pa a.size (k.src a).toNat)).hartDone a none) := by
  show execRv64MemoryAccess a s = _
  unfold execRv64MemoryAccess
  dsimp only
  rw [if_neg (access_goes settled unasked)]
  split
  · next h => exact absurd h (memory _ _ _)
  · rw [if_neg (by simp [store]), if_neg (by simp [aligned]), if_neg (by simp [tame]), reached]
    dsimp only
    rw [there]
    dsimp only
    rw [if_neg (by simp [store]), if_pos (by simp [tx, store]), if_neg (by simp [room])]

end
end

/-! ### Fences (R117) -/

section
variable {r b n : Bool} (fence : a.op = .fence r b n)
include settled unasked fence

theorem access_fence (near : (s.hart a.hart).ckpt.isSome = true ∨ (s.hart a.hart).nodeRelease a = false) :
    exec (.rv64MemoryAccess a) s = .next (s.hartDone a none) := by
  show execRv64MemoryAccess a s = _
  unfold execRv64MemoryAccess
  dsimp only
  rw [if_neg (access_goes settled unasked), fence]
  dsimp only
  split
  · rfl
  · next out => exact if_neg (by rw [near.resolve_left out]; exact Bool.false_ne_true)

section
variable (out : (s.hart a.hart).ckpt = none) (far : (s.hart a.hart).nodeRelease a = true)
include out far

/-- A fence outside transactions that is raised to NODE scope waits for its window. -/
theorem access_fence_waits {u : State} (waits : s.nodeWait a.hart (s.hart a.hart) = some u) : exec (.rv64MemoryAccess a) s = .next u := by
  show execRv64MemoryAccess a s = _
  unfold execRv64MemoryAccess
  dsimp only
  rw [if_neg (access_goes settled unasked), fence]
  dsimp only
  rw [if_neg (by simp [out]), if_pos far, waits]

/-- At the end of the wait it is done, and acquires where its successor set holds reads. -/
theorem access_fence_ends (ends : s.nodeWait a.hart (s.hart a.hart) = none) : exec (.rv64MemoryAccess a) s =
    .next (((if n then s.leaseAcquire else s).setHart a.hart { s.hart a.hart with relWin := none, sentPeer := false }).hartDone a none) := by
  show execRv64MemoryAccess a s = _
  unfold execRv64MemoryAccess
  dsimp only
  rw [if_neg (access_goes settled unasked), fence]
  dsimp only
  rw [if_neg (by simp [out]), if_pos far, ends]

end

end

end

theorem nodeRelease_fence {a : HartAcc} {r b n : Bool} (fence : a.op = .fence r b n) (k : Hart) : k.nodeRelease a = (k.sentPeer && b) := by
  unfold Hart.nodeRelease
  rw [fence]

theorem nodeWait_new {s : State} {h : Nat} {k : Hart} (new : k.relWin = none) :
    s.nodeWait h k = if s.clock.unsync then none else some (s.setHart h { k with relWin := some s.window }) := by
  unfold State.nodeWait
  rw [new]

theorem nodeWait_begun {s : State} {h m : Nat} {k : Hart} (begun : k.relWin = some m) : s.nodeWait h k = if s.holdOver m then none else some s := by
  unfold State.nodeWait
  rw [begun]

/-- Only a fence, and an atomic access with `rl`, is a release. -/
theorem nodeRelease_relaxed {a : HartAcc} (memory : ∀ r b n, a.op ≠ .fence r b n) (relaxed : (∀ op, a.op ≠ .amo op) ∧ a.op ≠ .sc ∨ a.rl = false) (k : Hart) :
    k.nodeRelease a = false := by
  unfold Hart.nodeRelease
  rw [Bool.and_eq_false_iff]
  right
  split
  · next h => exact absurd h (memory _ _ _)
  · next op h => exact relaxed.resolve_left (fun none_ => none_.1 op h)
  · next h => exact relaxed.resolve_left (fun none_ => none_.2 h)
  · rfl

/-! ### Accesses performed (R98, R117) -/

section
variable {w : State} {a : HartAcc} {pa : Nat} (plain : a.aq = false)
include plain

theorem hartPlain_load (op : a.op = .load) : let v := (w.touchTag (w.hartPart (w.hart a.hart) (hartAcc a.op)) pa).loadEffects none none pa
    v.loadPoison (.glob pa) a.size = false → w.hartPlain a.hart a pa = v.hartDone a (some (extLoad a (ofBytes (v.loadValue (.glob pa) a.size)))) := by
  intro v clean
  unfold State.hartPlain
  simp only [plain, Bool.false_and, Bool.false_eq_true, if_false, op]
  rw [← op]
  exact if_neg (by simp [v, clean])

theorem hartPlain_lr (op : a.op = .lr) : let v := (w.touchTag (w.hartPart (w.hart a.hart) (hartAcc a.op)) pa).atHome none (w.locate pa)
    v.anyPoison (w.locate pa) a.size = false → w.hartPlain a.hart a pa =
      (v.modHart a.hart (fun k => { k with resv := some (pa / 64) })).hartDone a (some (extLoad a (ofBytes (v.readBytes (w.locate pa) a.size)))) := by
  intro v clean
  unfold State.hartPlain
  simp only [plain, Bool.false_and, Bool.false_eq_true, if_false, op]
  rw [← op]
  exact if_neg (by simp [v, clean])

theorem hartPlain_store (op : a.op = .store) : w.hartPlain a.hart a pa =
    ((w.write (w.hartWriter a.hart (w.hart a.hart) 0 (some a.va.toNat)) none (.glob pa) (toBytes a.size ((w.hart a.hart).src a).toNat)).modHart a.hart (fun k =>
      { k with sentPeer := k.sentPeer || w.isPeer pa, relWin := if w.isPeer pa then none else k.relWin })).hartDone a none := by
  unfold State.hartPlain
  simp only [plain, Bool.false_and, Bool.false_eq_true, if_false, op]

theorem hartPlain_sc_lost (op : a.op = .sc) (lost : (w.hart a.hart).resv ≠ some (pa / 64)) :
    w.hartPlain a.hart a pa = (w.modHart a.hart (fun k => { k with resv := none, relWin := none })).hartDone a (some 1) := by
  unfold State.hartPlain
  simp only [plain, Bool.false_and, Bool.false_eq_true, if_false, op]
  exact if_neg (by simpa using lost)

theorem hartPlain_sc_held (op : a.op = .sc) (held : (w.hart a.hart).resv = some (pa / 64)) : w.hartPlain a.hart a pa =
    (((w.atHome none (w.locate pa)).write (w.hartWriter a.hart (w.hart a.hart) 0 (some a.va.toNat)) none (.glob pa)
      (toBytes a.size ((w.hart a.hart).src a).toNat)).modHart a.hart (fun k =>
        { k with resv := none, relWin := none, sentPeer := if a.rl then w.isPeer pa else k.sentPeer || w.isPeer pa })).hartDone a (some 0) := by
  unfold State.hartPlain
  simp only [plain, Bool.false_and, Bool.false_eq_true, if_false, op]
  exact if_pos (by simpa using held)

theorem hartPlain_amo {o : Aop} (op : a.op = .amo o) :
    let x := w.atomicAt (w.hartWriter a.hart (w.hart a.hart) 0 (some a.va.toNat)) (.glob pa) o (amoType a.size o a.uns) ((w.hart a.hart).reg a.rs.toNat).toNat 0
    x.2.2.1 = false → w.hartPlain a.hart a pa = ((x.2.2.2.touchTag (w.hartPart (w.hart a.hart) (hartAcc a.op)) pa).modHart a.hart (fun k =>
      { k with relWin := none, sentPeer := if a.rl then w.isPeer pa else k.sentPeer || w.isPeer pa })).hartDone a
        (some (extLoad { a with sext := true } x.1)) := by
  intro x clean
  unfold State.hartPlain
  simp only [plain, Bool.false_and, Bool.false_eq_true, if_false, op]
  exact if_neg (by simp [x, clean])

end

/-- A result goes to its register; the hart goes on, with its reservation. -/
theorem hartDone_result (s : State) (a : HartAcc) (x : BitVec 64) : let k := (s.hartDone a (some x)).hart a.hart
    k.resv = (s.hart a.hart).resv ∧ k.pc = (s.hart a.hart).pc + (if a.comp then 2 else 4) ∧ (a.fp = false → a.rd.toNat ≠ 0 → k.reg a.rd.toNat = x) := by
  intro k
  have done : k = { (if a.fp then (s.hart a.hart).fput (a.size == 8) a.rd.toNat x.toNat else (s.hart a.hart).put a.rd.toNat x) with
      pc := (if a.fp then (s.hart a.hart).fput (a.size == 8) a.rd.toNat x.toNat else (s.hart a.hart).put a.rd.toNat x).pc + (if a.comp then 2 else 4) } :=
    (State.hart_modHart ..).trans (if_pos rfl)
  cases fp : a.fp with
  | true =>
    rw [done, fp]
    exact ⟨rfl, rfl, fun h => absurd h (by decide)⟩
  | false =>
    rw [done, fp]
    simp only [Bool.false_eq_true, if_false]
    unfold Hart.put
    split
    · next zero => exact ⟨rfl, rfl, fun _ some_ => absurd zero some_⟩
    · next some_ => exact ⟨rfl, rfl, fun _ _ => (if_neg some_).trans (sget_sset_same ..)⟩

/-! ### Interrupts (R225, R340) -/

/-- The interrupts of a hart that are pending and enabled, in the order in which they are taken. -/
def State.dueOrder (s : State) (h : Nat) : List Nat := [11, 3, 7, 9, 1, 5].filter (fun n => (s.mip h &&& (s.hart h).mier).getLsbD n)

section
variable {s : State} {h : Nat}

/-- An interrupt that alone is enabled is taken where the mode and its enable bit permit. -/
theorem hartInterrupt_one {n : Nat} {due : Prop} [Decidable due] (order : s.dueOrder h = if due then [n] else [])
    (permitted : if (s.hart h).mideleg.getLsbD n = true then (s.hart h).mode = .u ∨ ((s.hart h).mode = .s ∧ (s.hart h).sie = true)
      else (s.hart h).mode ≠ .m ∨ (s.hart h).mie = true) :
    exec (.hartInterrupt h) s = .next (if due then s.hartTrap h (2 ^ 63 + n) 0 else s) := by
  have taken : s.interruptDue h = if due then some n else none := by
    unfold State.interruptDue
    extract_lets k p pending
    rw [show pending = if due then [n] else [] from order]
    by_cases is_due : due
    · rw [if_pos is_due, if_pos is_due]
      cases delegated : (s.hart h).mideleg.getLsbD n with
      | true =>
        rw [if_pos delegated] at permitted
        simp [k, delegated, permitted]
      | false =>
        rw [if_neg (by rw [delegated]; exact Bool.false_ne_true)] at permitted
        simp [k, delegated, permitted]
    · rw [if_neg is_due, if_neg is_due]
      rfl
  show execHartInterrupt h s = _
  unfold execHartInterrupt
  rw [taken]
  by_cases is_due : due
  · rw [if_pos is_due, if_pos is_due]
  · rw [if_neg is_due, if_neg is_due]

theorem hartInterrupt_none (order : ∀ n ∈ s.dueOrder h, (s.hart h).mode = .m ∧ (s.hart h).mie = false) : exec (.hartInterrupt h) s = .next s := by
  have idle : s.interruptDue h = none := by
    unfold State.interruptDue
    extract_lets k p pending
    have shut : ∀ n ∈ pending, k.mode = .m ∧ k.mie = false := order
    rw [List.find?_eq_none.mpr (fun n hn => by simp [shut n hn])]
    exact List.find?_eq_none.mpr (fun n hn => by simp [shut n hn])
  show execHartInterrupt h s = _
  unfold execHartInterrupt
  rw [idle]

/-- Where one interrupt is enabled, it alone can be due. -/
theorem dueOrder_one {n : Nat} (known : n ∈ [11, 3, 7, 9, 1, 5]) (m : (s.hart h).mier = BitVec.ofNat 64 (2 ^ n)) :
    s.dueOrder h = if (s.mip h).getLsbD n = true then [n] else [] := by
  have only : s.dueOrder h = [11, 3, 7, 9, 1, 5].filter (fun i => (s.mip h).getLsbD i && decide (i = n)) := List.filter_congr (fun i hi => by
    rw [m, BitVec.getLsbD_and, BitVec.getLsbD_ofNat, Nat.testBit_two_pow]
    have low : i < 64 := by
      simp only [List.mem_cons, List.not_mem_nil, or_false] at hi
      omega
    simp [low, eq_comm])
  rw [only]
  generalize (s.mip h).getLsbD = f
  simp only [List.mem_cons, List.not_mem_nil, or_false] at known
  rcases known with rfl | rfl | rfl | rfl | rfl | rfl <;> simp [List.filter_cons]

theorem dueOrder_nil (m : (s.hart h).mier = 0) : s.dueOrder h = [] := by
  unfold State.dueOrder
  rw [m]
  simp

end

theorem mip_ostler {s : State} {h : Nat} (ostler : 16 ≤ h) : (s.mip h).getLsbD 11 = (s.meip (h - 16) || (s.hart h).mipr.getLsbD 11) := by
  unfold State.mip ostlerCore
  rw [if_pos ostler]
  dsimp only
  rw [BitVec.getLsbD_or, Bool.or_comm]
  cases s.meip (h - 16) <;> rfl

theorem mip_app {s : State} {h p : Nat} (app : h < 16) (part : (s.hart h).part = some p) :
    (s.mip h).getLsbD 9 = (s.seip p || (s.hart h).mipr.getLsbD 9) := by
  unfold State.mip ostlerCore
  rw [if_neg (by omega)]
  dsimp only
  rw [part]
  rw [BitVec.getLsbD_or, Bool.or_comm, Option.map_some, Option.getD_some]
  cases s.seip p <;> rfl

theorem meip_iff {s : State} {c : Nat} : s.meip c = true ↔
    (s.core c).evHead ≠ (s.core c).evTail ∨ (s.core c).reqHead ≠ (s.core c).reqTail ∨ (s.core c).mapDone = true := by
  simp [State.meip, or_assoc]

/-- The cause of an access fault, and of a misaligned address (R326, R421). -/
theorem causeAccess_eq (op : HartOp) : causeAccess op = if op = .load ∨ op = .lr then 5 else if op = .fetch then 1 else 7 := by
  cases op <;> rfl

theorem causeAlign_eq {op : HartOp} (fetch : op ≠ .fetch) : causeAlign op = if op = .load ∨ op = .lr then 4 else 6 := by
  cases op with
  | fetch => exact absurd rfl fetch
  | _ => rfl

theorem hartAccesses : Sys2Proof.Claims.HartAccesses := by
  refine ⟨fun s w a pa => ?_, fun s w a pa core => ?_, fun s a r b n fence settled unasked near => ?_, fun s a r n => ?_, fun s a => ?_,
    fun s a out settled unasked off memory fetch => ?_, fun s a tx settled unasked memory load store fetch => ?_, fun s h => ⟨fun ostler enabled own permitted => ?_,
      fun p app part enabled permitted => ?_, fun masked => ?_, fun mode shut => ?_⟩⟩
  · intro h k out settled unasked aligned tame reached there own room tag part by_
    have goes : (∀ r b n, a.op ≠ .fence r b n) → a.op ≠ .fetch → (∀ op, a.op ≠ .amo op) ∧ a.op ≠ .sc ∨ a.rl = false →
        exec (.rv64MemoryAccess a) s = .next (w.hartPlain h a pa) := fun memory fetch relaxed =>
      access_plain settled unasked memory aligned tame reached out there own room tag fetch (nodeRelease_relaxed memory relaxed _)
    refine ⟨fun op plain => ?_, fun op plain => ?_, fun op plain => ?_, fun op plain relaxed lost => ?_, fun op plain relaxed held => ?_,
      fun o op plain relaxed => ?_⟩
    · intro v clean
      rw [goes (by simp [op]) (by simp [op]) (by simp [op]), hartPlain_load plain op clean]
    · intro v clean
      rw [goes (by simp [op]) (by simp [op]) (by simp [op]), hartPlain_lr plain op clean]
    · rw [goes (by simp [op]) (by simp [op]) (by simp [op]), hartPlain_store plain op]
    · obtain ⟨resv, pc, result⟩ := hartDone_result (w.modHart h (fun k => { k with resv := none, relWin := none })) a 1
      rw [State.hart_modHart, if_pos rfl] at resv pc
      refine ⟨_, (goes (by simp [op]) (by simp [op]) (.inr relaxed)).trans (congrArg _ (hartPlain_sc_lost plain op lost)), rfl, resv, result, pc⟩
    · refine ⟨_, _, (goes (by simp [op]) (by simp [op]) (.inr relaxed)).trans (congrArg _ (hartPlain_sc_held plain op held)), rfl, rfl, ?_, ?_⟩
      · rw [(hartDone_result ..).1, State.hart_modHart, if_pos rfl]
      · exact (hartDone_result ..).2.2
    · intro x clean
      refine ⟨_, ?_, (goes (by simp [op]) (by simp [op]) (.inr relaxed)).trans (congrArg _ (hartPlain_amo plain op clean))⟩
      exact State.modHart_mem ..
  · intro k tx settled unasked store aligned tame reached there room
    have kind : hartAcc a.op = .store := by rw [store]; rfl
    exact access_buffered settled unasked (by simp [store]) aligned (by rwa [kind]) (by rwa [kind]) tx store there room
  · refine access_fence settled unasked fence (near.imp_right (fun near => ?_))
    rw [nodeRelease_fence fence, Bool.and_eq_false_iff]
    exact near.symm
  · intro k fence settled unasked out sent done
    have far : k.nodeRelease a = true := by rw [nodeRelease_fence fence, sent]; rfl
    refine ⟨fun m at_ held => access_fence_waits settled unasked fence out far ?_, fun m at_ past => access_fence_ends settled unasked fence out far ?_,
      fun new unsync => access_fence_ends settled unasked fence out far ?_, fun new sync => access_fence_waits settled unasked fence out far ?_⟩
    · rw [nodeWait_begun at_, held, if_neg Bool.false_ne_true]
    · rw [nodeWait_begun at_, past, if_pos rfl]
    · rw [nodeWait_new new, unsync, if_pos rfl]
    · rw [nodeWait_new new, sync, if_neg Bool.false_ne_true]
  · intro k settled unasked open_ memory aligned wild
    rw [access_wild settled unasked memory open_ aligned wild, causeAccess_eq]
  · rw [access_misaligned settled unasked memory (.inl out) off fetch, causeAlign_eq fetch]
  · exact access_barred settled unasked memory tx load store fetch
  · refine (hartInterrupt_one (dueOrder_one (n := 11) (by decide) enabled) (by rw [own]; simpa using permitted)).trans ?_
    refine congrArg Host.Outcome.next (if_congr ?_ rfl rfl)
    rw [mip_ostler ostler, Bool.or_eq_true, meip_iff, or_assoc, or_assoc]
  · refine (hartInterrupt_one (dueOrder_one (n := 9) (by decide) enabled) permitted).trans ?_
    refine congrArg Host.Outcome.next (if_congr ?_ rfl rfl)
    rw [mip_app app part, Bool.or_eq_true]
  · exact hartInterrupt_none (by rw [dueOrder_nil masked]; simp)
  · exact hartInterrupt_none (fun _ _ => ⟨mode, shut⟩)

end Sys2Proof.Machine

namespace Sys2Proof
open Machine

/-- Settles O52: sessions and replies, host RDMA, and the accesses and interrupts of harts, each by the rules above. -/
theorem sessionsAndHosts : Obligations.SessionsAndHosts := ⟨sessionsAndReplies, hostRdma, hartAccesses⟩

end Sys2Proof
end

section
/-! SUPPORT. Stores to the local spaces as they are performed (R98, R236): which bytes the sectors of an instruction's writes name, and what
a local space holds afterwards. -/

namespace Sys2Proof.Machine

/-! ### The sectors of several writes (R98, R369) -/

/-- A place lies in its sector, at its offset there. -/
theorem Place.sector_add_inSector (p : Place) : p.sector.add p.inSector = p := by
  cases p <;> simp only [Place.sector, Place.inSector, Place.add, Nat.div_add_mod']

theorem mem_dedupPlaces {p : Place} {l : List Place} : p ∈ dedupPlaces l ↔ p ∈ l := by
  refine ⟨mem_of_mem_dedupPlaces, fun h => ?_⟩
  induction l with
  | nil => exact h
  | cons a r ih =>
    rw [dedupPlaces, List.mem_cons, List.mem_filter, bne_iff_ne]
    by_cases same : p = a
    · exact .inl same
    · exact .inr ⟨ih ((List.mem_cons.mp h).resolve_left same), same⟩

/-- The sectors that writes fall in name the bytes of these writes, each with the value that a write gives it. -/
theorem named_sectorsOf {l : List (Place × List Byte)} {q : Place} {x : Byte} :
    (∃ c ∈ sectorsOf l, ∃ e ∈ c.2, q = c.1.add e.1 ∧ e.2 = x) ↔ ∃ w ∈ l, ∃ n, n < w.2.length ∧ q = w.1.add n ∧ w.2.getD n 0 = x := by
  unfold sectorsOf
  simp only [List.mem_map, mem_dedupPlaces, List.mem_flatMap, List.mem_range]
  constructor
  · rintro ⟨-, ⟨sec, -, rfl⟩, e, he, rfl, rfl⟩
    obtain ⟨c, hc, rfl⟩ := List.mem_map.mp he
    obtain ⟨hc, here⟩ := List.mem_filter.mp hc
    obtain ⟨w, hw, hc⟩ := List.mem_flatMap.mp hc
    obtain ⟨n, hn, rfl⟩ := List.mem_map.mp hc
    refine ⟨w, hw, n, List.mem_range.mp hn, ?_, rfl⟩
    rw [← eq_of_beq here]
    exact Place.sector_add_inSector _
  · rintro ⟨w, hw, n, hn, rfl, rfl⟩
    have cell : (w.1.add n, w.2.getD n 0) ∈ l.flatMap (fun e => (List.range e.2.length).map (fun i => (e.1.add i, e.2.getD i 0))) :=
      List.mem_flatMap.mpr ⟨w, hw, List.mem_map.mpr ⟨n, List.mem_range.mpr hn, rfl⟩⟩
    refine ⟨_, ⟨_, ⟨_, ⟨w, hw, n, hn, rfl⟩, rfl⟩, rfl⟩, ((w.1.add n).inSector, w.2.getD n 0), ?_, (Place.sector_add_inSector _).symm, rfl⟩
    exact List.mem_map.mpr ⟨_, List.mem_filter.mpr ⟨cell, beq_self_eq_true _⟩, rfl⟩

/-- The sectors of writes to local spaces lie there. -/
theorem sectorsOf_local {l : List (Place × List Byte)} (h : ∀ w ∈ l, ∃ c off, w.1 = .aspc c off ∨ w.1 = .wspc c off)
    {e : Place × List (Nat × Byte)} (he : e ∈ sectorsOf l) : ∃ c off, e.1 = .aspc c off ∨ e.1 = .wspc c off := by
  obtain ⟨sec, hs, rfl⟩ := List.mem_map.mp he
  obtain ⟨cell, hc, rfl⟩ := List.mem_map.mp (mem_of_mem_dedupPlaces hs)
  obtain ⟨w, hw, hc⟩ := List.mem_flatMap.mp hc
  obtain ⟨n, -, rfl⟩ := List.mem_map.mp hc
  obtain ⟨c, off, at_ | at_⟩ := h w hw
  · exact ⟨c, _, .inl (by rw [at_]; rfl)⟩
  · exact ⟨c, _, .inr (by rw [at_]; rfl)⟩

/-! ### A byte through several writes -/

/-- A fold whose every step keeps a property, and of which some step brings it about unless it held at first, ends with it. -/
theorem foldl_ends_with {α β : Type} {P : β → Prop} {f : β → α → β} {l : List α} (keeps : ∀ b, ∀ a ∈ l, P b → P (f b a)) {b : β}
    (h : P b ∨ ∃ a ∈ l, ∀ c, P (f c a)) : P (l.foldl f b) := by
  induction l generalizing b with
  | nil => exact h.elim id (fun ⟨_, ha, _⟩ => absurd ha List.not_mem_nil)
  | cons a r ih =>
    have later := fun c x (hx : x ∈ r) => keeps c x (List.mem_cons_of_mem _ hx)
    rcases h with held | ⟨x, hx, brings⟩
    · exact ih later (.inl (keeps b a List.mem_cons_self held))
    · rcases List.mem_cons.mp hx with rfl | hx
      · exact ih later (.inl (brings b))
      · exact ih later (.inr ⟨x, hx, brings⟩)

/-- A byte put into a local space reads back, and every other byte stays (R98). -/
theorem rawByte_putByte_local {p : Place} (near : ∃ c off, p = .aspc c off ∨ p = .wspc c off) (s : State) (b : Byte) (q : Place) :
    (s.putByte p b).rawByte q = if q = p then b else s.rawByte q := by
  obtain ⟨c, off, rfl | rfl⟩ := near
  all_goals
    cases q with
    | glob pa => rfl
    | aspc d o =>
      simp only [State.putByte, State.rawByte, State.core_modCore, Place.aspc.injEq, reduceCtorEq, if_false]
      by_cases hd : d = c
      · simp [hd, sget_sset]
      · simp [hd]
    | wspc d o =>
      simp only [State.putByte, State.rawByte, State.core_modCore, Place.wspc.injEq, reduceCtorEq, if_false]
      by_cases hd : d = c
      · simp [hd, sget_sset]
      · simp [hd]

theorem rawByte_setPoison (s : State) (p : Place) (on : Bool) (q : Place) : (s.setPoison p on).rawByte q = s.rawByte q := by
  cases p with
  | glob pa => cases q <;> rfl
  | aspc c o | wspc c o =>
    cases q with
    | glob pa => rfl
    | aspc d o | wspc d o =>
      simp only [State.setPoison, State.rawByte, State.core_modCore]
      split <;> simp [*]

theorem rawByte_notice (s : State) (p q : Place) : (s.notice p).rawByte q = s.rawByte q := by
  cases q <;> rfl

theorem rawByte_fireReach (s : State) (gk : Nat) (g : Group) (o : MemOp) (home : Bool) (q : Place) :
    (s.fireReach gk g o home).rawByte q = s.rawByte q := by
  cases q with
  | glob pa =>
    have bytes : (s.fireReach gk g o home).mem.bytes = s.mem.bytes := (congrArg (fun t : State => t.mem.bytes) (fireReach_rest s gk g o home) :)
    simp only [State.rawByte, fireReach_isGone, bytes]
  | aspc c off => exact (congrArg (fun k : Core => sget k.a off) (fireReach_core s gk g o home c) :)
  | wspc c off => exact (congrArg (fun k : Core => sget k.w off) (fireReach_core s gk g o home c) :)

section
variable {gk : Nat} {g : Group} {o : MemOp} {q : Place} {x : Byte}

/-- A sector of local stores: a byte ends with a value that every write of it gives, if it had the value before or one of them names it. -/
theorem rawByte_storeSector_local {p : Place} (near : ∃ c off, p = .aspc c off ∨ p = .wspc c off) {s : State} {ws : List (Nat × Byte)}
    (agree : ∀ e ∈ ws, q = p.add e.1 → e.2 = x) (h : s.rawByte q = x ∨ ∃ e ∈ ws, q = p.add e.1) :
    (s.storeSector gk g o p ws).rawByte q = x := by
  have stored : s.storeSector gk g o p ws = (s.putSector p ws).notice p := by
    obtain ⟨c, off, rfl | rfl⟩ := near <;> rfl
  have within : ∀ n, ∃ c off, p.add n = .aspc c off ∨ p.add n = .wspc c off := fun n => by
    obtain ⟨c, off, rfl | rfl⟩ := near
    · exact ⟨c, _, .inl rfl⟩
    · exact ⟨c, _, .inr rfl⟩
  have put : ((ws.foldl (fun s e => s.putByte (p.add e.1) e.2) s).rawByte q) = x := by
    refine foldl_ends_with (P := fun t : State => t.rawByte q = x) (fun t e he held => ?_) (h.imp_right (fun ⟨e, he, named⟩ => ⟨e, he, fun t => ?_⟩))
    · rw [rawByte_putByte_local (within e.1)]
      split
      · next named => exact agree e he named
      · exact held
    · rw [rawByte_putByte_local (within e.1), if_pos named]
      exact agree e he named
  rw [stored, rawByte_notice, State.putSector]
  split
  · rw [rawByte_setPoison, put]
  · exact put

/-- The bytes that the accesses of a store write, in the order of its lanes (R236). -/
def MemOp.writes (o : MemOp) : List (Place × List Byte) := o.accs.map (fun a => (a.place, toBytes a.size a.data.toNat))

theorem performStore_eq (s : State) (gk : Nat) (g : Group) (o : MemOp) : s.performStore gk g o =
    (sectorsOf o.writes).foldl (fun s e => s.storeSector gk g o e.1 e.2) (s.fireReach gk g o false) := rfl

theorem named_writes : (∃ c ∈ sectorsOf o.writes, ∃ e ∈ c.2, q = c.1.add e.1 ∧ e.2 = x) ↔
    ∃ a ∈ o.accs, ∃ n, n < a.size ∧ q = a.place.add n ∧ (toBytes a.size a.data.toNat).getD n 0 = x := by
  rw [named_sectorsOf]
  simp only [MemOp.writes, List.mem_map, exists_exists_and_eq_and, length_toBytes]

/-- The local stores of an instruction: a byte ends with a value that every access gives it, if it had the value before or one of them names it. -/
theorem rawByte_performStore_local {s : State} (near : ∀ a ∈ o.accs, ∃ c off, a.place = .aspc c off ∨ a.place = .wspc c off)
    (agree : ∀ a ∈ o.accs, ∀ n, n < a.size → q = a.place.add n → (toBytes a.size a.data.toNat).getD n 0 = x)
    (h : s.rawByte q = x ∨ ∃ a ∈ o.accs, ∃ n, n < a.size ∧ q = a.place.add n) : (s.performStore gk g o).rawByte q = x := by
  have inSector : ∀ c ∈ sectorsOf o.writes, ∀ e ∈ c.2, q = c.1.add e.1 → e.2 = x := fun c hc e he at_ => by
    obtain ⟨a, ha, n, hn, here, value⟩ := named_writes.mp ⟨c, hc, e, he, at_, rfl⟩
    exact value.symm.trans (agree a ha n hn here)
  have nearby : ∀ c ∈ sectorsOf o.writes, ∃ k off, c.1 = .aspc k off ∨ c.1 = .wspc k off := fun c hc =>
    sectorsOf_local (fun w hw => by
      obtain ⟨a, ha, rfl⟩ := List.mem_map.mp hw
      exact near a ha) hc
  rw [performStore_eq]
  refine foldl_ends_with (P := fun t : State => t.rawByte q = x)
    (fun t c hc held => rawByte_storeSector_local (nearby c hc) (inSector c hc) (.inl held)) ?_
  rcases h with held | ⟨a, ha, n, hn, at_⟩
  · exact .inl ((rawByte_fireReach ..).trans held)
  · obtain ⟨c, hc, e, he, here, -⟩ := named_writes.mpr ⟨a, ha, n, hn, at_, rfl⟩
    exact .inr ⟨c, hc, fun t => rawByte_storeSector_local (nearby c hc) (inSector c hc) (.inr ⟨e, he, here⟩)⟩

end

end Sys2Proof.Machine

namespace Sys2Proof
open Machine

/-- Settles O26: a byte that no access names keeps its value, and one that is named takes the value on which all that name it agree. -/
theorem localStoreFrame : Obligations.LocalStoreFrame := by
  intro s gk g o near
  refine ⟨fun p away => ?_, fun p x agree named => rawByte_performStore_local near agree (.inr named)⟩
  exact rawByte_performStore_local near (fun a ha n hn at_ => absurd at_ (away a ha n hn)) (.inl rfl)

end Sys2Proof
end

section
/-! SUPPORT. Tile tokens and accumulator words at an issue (R263, R277 to R279): what TKACQ, TKREL, ACCLD, ACCST and ACCZ do under a grant, and
the words of an accumulator that a run of registers stands for. -/

namespace Sys2Proof.Machine

/-! ### An issue and the effect of one of its cores -/

/-- A group that an effect leaves with its lanes and without a stop passes the tests after the effect (R25, R27). -/
theorem issued_finish {s u : State} {h : Hdr} {i : Issue} {g : Group} (hi : s.issue? h = some i) (hg : u.group? i.gk = some g)
    (alive : g.exited = i.g.exited) (stop : g.stopEv = i.g.stopEv) : u.finish i.gk = u.setGroup i.gk g.releaseAll :=
  finish_goes_on hg (Group.ended_of_alive (alive ▸ issue?_alive hi)) (stop.trans (issue?_stopEv hi))

/-- The advance counts an issue of the core, and leaves what the matrix unit, the tokens and the transactions hold of it. -/
theorem issued_core (s : State) (i : Issue) (h : Hdr) (len opc c : Nat) : ((issued s i h len opc).core c).withCounts (s.core c) = s.core c :=
  (issued_frame s i h len opc).cores c

section
variable (s : State) (i : Issue) (h : Hdr) (len opc c : Nat)

theorem issued_acc : ((issued s i h len opc).core c).acc = (s.core c).acc := (congrArg Core.acc (issued_core s i h len opc c) :)
theorem issued_token : ((issued s i h len opc).core c).token = (s.core c).token := (congrArg Core.token (issued_core s i h len opc c) :)
theorem issued_tpoison : ((issued s i h len opc).core c).tpoison = (s.core c).tpoison := (congrArg Core.tpoison (issued_core s i h len opc c) :)

theorem issued_coreTile (t : Nat) : (issued s i h len opc).coreTile i t = s.coreTile i t := rfl

end

/-! ### Words of an accumulator (R278) -/

theorem accKey_eq (t l q : Nat) : accKey t l q = 4096 * t + 128 * l + q := by
  unfold accKey
  omega

theorem accKey_inj {t l l' q q' : Nat} (hq : q < 128) (hq' : q' < 128) (h : accKey t l q = accKey t l' q') : l = l' ∧ q = q' := by
  rw [accKey_eq, accKey_eq] at h
  omega

theorem mem_accPairs {t r : Nat} {m : LaneMask} {e : Nat × Nat} :
    e ∈ accPairs t r m ↔ ∃ l q, l < 32 ∧ m.getLsbD l = true ∧ q < 128 ∧ e = (accKey t l q, 32 * (r + q) + l) := by
  simp only [accPairs, List.mem_flatMap, List.mem_map, mem_lanesOf, List.mem_range]
  constructor
  · rintro ⟨l, ⟨low, lane⟩, q, hq, rfl⟩
    exact ⟨l, q, low, lane, hq, rfl⟩
  · rintro ⟨l, q, low, lane, hq, rfl⟩
    exact ⟨l, ⟨low, lane⟩, q, hq, rfl⟩

section
variable {t r : Nat} {m : LaneMask}

/-- Words that a run of registers puts into a tile: those of the rows of the lanes take their values. -/
theorem sget_ssets_accPairs (acc : SMap 32) (f : Nat × Nat → BitVec 32) {l q : Nat} (lane : m.getLsbD l = true) (hq : q < 128) :
    sget (ssets acc ((accPairs t r m).map (fun e => (e.1, f e)))) (accKey t l q) = f (accKey t l q, 32 * (r + q) + l) := by
  refine sget_ssets_mem _ _ _ _ (List.mem_map.mpr ⟨_, mem_accPairs.mpr ⟨l, q, maskOf_and_lane l lane, lane, hq, rfl⟩, rfl⟩) (fun e he same => ?_)
  obtain ⟨p, hp, rfl⟩ := List.mem_map.mp he
  obtain ⟨l', q', -, -, hq', rfl⟩ := mem_accPairs.mp hp
  obtain ⟨rfl, rfl⟩ := accKey_inj hq' hq same
  rfl

/-- Every other word of the accumulators stays. -/
theorem sget_ssets_accPairs_of_ne (acc : SMap 32) (f : Nat × Nat → BitVec 32) {n : Nat} (away : ∀ l q, m.getLsbD l = true → q < 128 → n ≠ accKey t l q) :
    sget (ssets acc ((accPairs t r m).map (fun e => (e.1, f e)))) n = sget acc n := by
  refine sget_ssets_other _ _ _ (fun e he same => ?_)
  obtain ⟨p, hp, rfl⟩ := List.mem_map.mp he
  obtain ⟨l, q, -, lane, hq, rfl⟩ := mem_accPairs.mp hp
  exact away l q lane hq same.symm

/-- Registers that the words of a tile are copied to: those of the run, in the lanes of the mask. -/
theorem sget_ssets_accPairs_regs (v : SMap 32) (f : Nat → BitVec 32) {p l : Nat} (low : l < 32) :
    sget (ssets v ((accPairs t r m).map (fun e => (e.2, f e.1)))) (32 * p + l) =
      if m.getLsbD l = true ∧ r ≤ p ∧ p < r + 128 then f (accKey t l (p - r)) else sget v (32 * p + l) := by
  split
  · next within =>
    obtain ⟨lane, above, below⟩ := within
    have here : (accKey t l (p - r), 32 * p + l) ∈ accPairs t r m := mem_accPairs.mpr ⟨l, p - r, low, lane, by omega, by rw [Nat.add_sub_cancel' above]⟩
    refine sget_ssets_mem _ _ _ _ (List.mem_map.mpr ⟨_, here, rfl⟩) (fun e he same => ?_)
    obtain ⟨x, hx, rfl⟩ := List.mem_map.mp he
    obtain ⟨l', q', low', -, -, rfl⟩ := mem_accPairs.mp hx
    dsimp only at same ⊢
    rw [show l' = l by omega, show q' = p - r by omega]
  · next without =>
    refine sget_ssets_other _ _ _ (fun e he same => without ?_)
    obtain ⟨x, hx, rfl⟩ := List.mem_map.mp he
    obtain ⟨l', q', low', lane, hq, rfl⟩ := mem_accPairs.mp hx
    dsimp only at same
    rw [show l' = l by omega] at lane
    exact ⟨lane, by omega, by omega⟩

end

/-- The group once the words of a tile stand in a run of its registers (R278). -/
def Group.loadTile (g : Group) (k : Core) (t r : Nat) (m : LaneMask) : Group := g.putV ((accPairs t r m).map (fun e => (e.2, sget k.acc e.1)))

theorem loadTile_vr (g : Group) (k : Core) (t r : Nat) (m : LaneMask) (p : Nat) {l : Nat} (low : l < 32) :
    (g.loadTile k t r m).vr p l = if m.getLsbD l = true ∧ r ≤ p ∧ p < r + 128 then sget k.acc (accKey t l (p - r)) else g.vr p l :=
  sget_ssets_accPairs_regs g.v (fun n => sget k.acc n) low

/-- No sector of an unpoisoned accumulator store is poisoned, and each word reads as it stands (R400, R401). -/
theorem accBad_of_clean {k : Core} (clean : k.tpoison = []) (l : List Nat) : k.accBad l = [] := by
  rw [Core.accBad, clean, List.filter_nil]

theorem accWord_of_clean {k : Core} (clean : k.tpoison = []) (n : Nat) : k.accWord n = sget k.acc n := by
  rw [Core.accWord, clean]
  rfl

/-! ### The instructions (R277 to R279) -/

theorem tileRoles {g : Group} (h : g.kind = .matrix ∨ g.kind = .general) : [RoleKind.matrix, .general].contains g.kind = true := by
  rcases h with h | h <;> rw [h] <;> rfl

section
variable {s : State} {h : Hdr} {o : TOps} {i : Issue} {t : Nat} (hi : s.issue? h = some i)

/-- A tile that is granted gives no fault (R263). -/
theorem tileFault_granted (granted : s.coreTile i o.tile.toNat = some t) : tileFault o.tile.toNat s i = [] := by
  rw [tileFault, granted, Option.isNone_some, Bool.and_false, if_neg Bool.false_ne_true]

/-- Under the token, neither does an access of its accumulator (R278). -/
theorem accFaults_held (granted : s.coreTile i o.tile.toNat = some t) (held : kget (s.core (coreOf i.gk)).token t = some i.gk) :
    accFaults o s i = [] := by
  have mine : s.holder i.gk t = some i.gk := held
  rw [accFaults, tileFault_granted granted, granted]
  simp [mine]

variable (free : i.g.acquiring = false) (granted : s.coreTile i o.tile.toNat = some t)
include hi free granted

section
variable (role : i.g.kind = .matrix ∨ i.g.kind = .general)
include role

/-- TKACQ of a token that is free, when the group's turn has come (R277). -/
theorem tkacq_takes (runs : i.exe ≠ 0) (unheld : kget (s.core (coreOf i.gk)).token t = none)
    (idle : (s.core (coreOf i.gk)).mq.any (fun m => m.onTile (i.g.tk i.gk) t) = false) (first : s.behind i t = false) :
    EffectIs (.tkacq h o) s i h 8 0xa4 (fun u => u.modCore (coreOf i.gk) (fun k => { k with token := kset k.token t i.gk })) := by
  have none_named := i.free_nil false
  have unheld : s.holder i.gk t = none := unheld
  show execTkacq h o s = _
  unfold execTkacq
  rw [perform_next _ _ _ _ hi (fun e => absurd e Bool.false_ne_true)
    (by rw [none_named.common (tileRoles role), tileFault_granted granted]; rfl) none_named.waits (fun _ _ => free)
    (by simp [granted, unheld, idle, first]), ← issued]
  simp only [issued_coreTile, granted, runs, if_false]

/-- TKACQ of a token that another group holds waits in its order (R277). -/
theorem tkacq_waits {other : Nat} (runs : i.exe ≠ 0) (elsewhere : kget (s.core (coreOf i.gk)).token t = some other) (ne : other ≠ i.gk) :
    exec (.tkacq h o) s = .next (s.stamped i.gk t) := by
  have none_named := i.free_nil false
  have elsewhere : s.holder i.gk t = some other := elsewhere
  show execTkacq h o s = _
  unfold execTkacq
  refine perform_held _ _ hi (fun e => absurd e Bool.false_ne_true)
    (by rw [none_named.common (tileRoles role), tileFault_granted granted]; rfl) none_named.waits (fun _ _ => free)
    (by simpa [granted, elsewhere] using ⟨runs, ne⟩)

/-- TKREL under the token (R277). -/
theorem tkrel_gives_back (runs : i.exe ≠ 0) (held : kget (s.core (coreOf i.gk)).token t = some i.gk) (out : i.exe &&& i.g.intx = 0) :
    EffectIs (.tkrel h o) s i h 8 0xa5 (fun u => (u.modCore (coreOf i.gk) (fun k => { k with token := kdel k.token t })).modGroup i.gk (fun g =>
      g.setEntry i.exe (fun _ => BitVec.ofNat 32 (i.pc + 8)))) := by
  have none_named := i.free_nil false
  have mine : (issued s i h 8 0xa5).holder i.gk t = some i.gk := by rw [State.holder, issued_token, held]
  show execTkrel h o s = _
  unfold execTkrel
  rw [perform_next _ _ _ _ hi (fun _ => out) (by rw [none_named.common (tileRoles role), tileFault_granted granted]; rfl) none_named.waits
    (fun _ _ => free) rfl, ← issued]
  simp only [issued_coreTile, granted, runs, if_false, mine, beq_self_eq_true, if_true]
  rfl

variable (held : kget (s.core (coreOf i.gk)).token t = some i.gk)
include held

/-- ACCLD under the token, of a tile without poison (R278). -/
theorem accld_copies (named : i.Free false (vrun o.ar 128) []) (clean : (s.core (coreOf i.gk)).tpoison = []) :
    ∃ u g, exec (.accld h o) s = .next u ∧ u.group? i.gk = some g ∧ Advanced i h 8 g ∧
      { g.withMoved i.g with v := i.g.v, oldv := i.g.oldv } = i.g ∧
      (∀ r l, l < 32 → g.vr r l = if i.exe.getLsbD l = true ∧ o.ar.toNat ≤ r ∧ r < o.ar.toNat + 128
        then sget (s.core (coreOf i.gk)).acc (accKey t l (r - o.ar.toNat)) else i.g.vr r l) ∧
      (∀ p, u.readByte p = s.readByte p) := by
  let g := (s.advance i h 8 0xa6).loadTile (s.core (coreOf i.gk)) t o.ar.toNat i.exe
  have run : exec (.accld h o) s = .next (((issued s i h 8 0xa6).setGroup i.gk g).setGroup i.gk g.releaseAll) := by
    show execAccld h o s = _
    unfold execAccld
    rw [perform_next _ _ _ _ hi (fun e => absurd e Bool.false_ne_true)
      (by rw [named.common (sp := { len := 8, opc := 0xa6, roles := [.matrix, .general], v := vrun o.ar 128, access := true }) (tileRoles role),
        accFaults_held granted held]; rfl)
      named.waits (fun _ _ => free) rfl, ← issued]
    have clean' := (issued_tpoison s i h 8 0xa6 (coreOf i.gk)).trans clean
    have none_ : flagIf (!([] : List Nat).isEmpty) fPOISON = 0 := rfl
    have same : ∀ x : Group, x.addFlags 0 = x := fun x => by simp [Group.addFlags, orFlags]
    simp only [issued_coreTile, granted, accBad_of_clean clean', accWord_of_clean clean', issued_acc, none_, same]
    rw [show (issued s i h 8 0xa6).accConsume (coreOf i.gk) i.g.part [] = issued s i h 8 0xa6 from rfl, State.modGroup_some (issued_advanced ..)]
    exact congrArg _ (issued_finish hi (g := g) (by rw [State.group_setGroup, if_pos rfl]; rfl) (advance_exited s i h 8 0xa6)
      (advance_stopEv s i h 8 0xa6))
  refine ⟨_, g.releaseAll, run, by rw [State.group_setGroup, if_pos rfl], advanced_of hi 8 0xa6 g rfl rfl (advance_rwait s i h 8 0xa6), ?_,
    fun r l low => ?_, (((issued_frame ..).setGroup _).setGroup _).bytes⟩
  · rw [withMoved_releaseAll]
    exact (congrArg (fun x : Group => { x with v := i.g.v, oldv := i.g.oldv }) (advance_moved s i h 8 0xa6) :)
  · have before : (s.advance i h 8 0xa6).vr r l = i.g.vr r l := congrArg (fun v => sget v (32 * r + l)) (advance_v ..)
    rw [Group.vr, Group.releaseAll_v, ← before]
    exact loadTile_vr (s.advance i h 8 0xa6) _ t o.ar.toNat i.exe r low

omit granted role held in
/-- An issue whose effect puts words into the accumulators of its core, and does nothing else. -/
theorem perform_putAcc (sp : Spec) {faults : State → Issue → List Flt} {effect : State → Issue → State} {l : List (Nat × BitVec 32)}
    (tx : sp.noTx = false) (hf : i.common sp ++ faults s i = []) (hw : ((i.exe != 0 || sp.always) && i.waitsReg sp) = false)
    (he : effect (issued s i h sp.len sp.opc) i = (issued s i h sp.len sp.opc).modCore (coreOf i.gk) (fun k => k.putAcc l)) :
    ∃ u, perform s h sp faults noHold effect = .next u ∧ (∀ p, u.readByte p = s.readByte p) ∧
      (u.core (coreOf i.gk)).acc = ssets (s.core (coreOf i.gk)).acc l := by
  refine ⟨_, perform_next sp faults noHold effect hi (fun e => absurd (tx.symm.trans e) Bool.false_ne_true) hf hw (fun _ _ => free) rfl, ?_⟩
  rw [← issued, he, issued_finish hi (g := s.advance i h sp.len sp.opc) ((State.group_modCore ..).trans (issued_advanced ..)) (advance_exited ..) (advance_stopEv ..)]
  refine ⟨fun p => ?_, ?_⟩
  · have put : SameBytes (issued s i h sp.len sp.opc) ((issued s i h sp.len sp.opc).modCore (coreOf i.gk) (fun k => k.putAcc l)) :=
      .modCore _ _ _ (fun _ => rfl)
    have tested : SameBytes ((issued s i h sp.len sp.opc).modCore (coreOf i.gk) (fun k => k.putAcc l))
        (((issued s i h sp.len sp.opc).modCore (coreOf i.gk) (fun k => k.putAcc l)).setGroup i.gk (s.advance i h sp.len sp.opc).releaseAll) :=
      ⟨rfl, rfl, fun _ => rfl, fun _ => rfl⟩
    exact ((put.trans tested).readByte p).trans ((issued_frame s i h sp.len sp.opc).bytes p)
  · rw [State.core_setGroup, State.core_modCore, if_pos rfl]
    exact congrArg (ssets · l) (issued_acc ..)

/-- ACCST under the token (R278). -/
theorem accst_copies (named : i.Free false (vrun o.ar 128) []) : ∃ u, exec (.accst h o) s = .next u ∧ (∀ p, u.readByte p = s.readByte p) ∧
    (u.core (coreOf i.gk)).acc = ssets (s.core (coreOf i.gk)).acc ((accPairs t o.ar.toNat i.exe).map (fun e => (e.1, sget i.g.v e.2))) := by
  show ∃ u, execAccst h o s = .next u ∧ _
  unfold execAccst
  refine perform_putAcc hi free { len := 8, opc := 0xa7, roles := [.matrix, .general], v := vrun o.ar 128, access := true } rfl ?_ named.waits ?_
  · rw [named.common (tileRoles role), accFaults_held granted held]
    rfl
  · rw [issued_coreTile, granted]

/-- ACCZ under the token (R278). -/
theorem accz_clears : ∃ u, exec (.accz h o) s = .next u ∧ (∀ p, u.readByte p = s.readByte p) ∧
    (u.core (coreOf i.gk)).acc = ssets (s.core (coreOf i.gk)).acc ((accPairs t 0 i.exe).map (fun e => (e.1, 0))) := by
  have none_named := i.free_nil false
  show ∃ u, execAccz h o s = .next u ∧ _
  unfold execAccz
  refine perform_putAcc hi free { len := 8, opc := 0xa8, roles := [.matrix, .general], access := true } rfl ?_ none_named.waits ?_
  · rw [none_named.common (tileRoles role), accFaults_held granted held]
    rfl
  · rw [issued_coreTile, granted]

end

omit granted in
/-- OPFENCE once no vector load or atomic of the group is in flight (R279). -/
theorem opfence_completes (role : i.g.kind = .matrix)
    (done : i.g.ops.any (fun p => (p.kind == .load || p.kind == .atomic) && !p.scalar) = false) :
    Completes s i (exec (.opfence h o) s) (fun g => Advanced i h 8 g ∧ g.oldv = [] ∧ { g.withMoved i.g with oldv := i.g.oldv } = i.g) := by
  have none_named := i.free_nil true
  have fence := perform_goes_on { len := 8, opc := 0xa9, roles := [.matrix], always := true, access := true } (faults := noFaults)
    (hold := fun s i => if i.g.ops.any (fun p => (p.kind == .load || p.kind == .atomic) && !p.scalar) then some s else none)
    (fun _ g => { g with oldv := [] }) hi (fun e => absurd e Bool.false_ne_true)
    (by rw [none_named.common (by rw [role]; rfl)]; rfl) none_named.waits (fun _ _ => free) (by rw [done, if_neg Bool.false_ne_true])
    (Group.ended_of_alive (by rw [advance_exited]; exact issue?_alive hi)) ((advance_stopEv s i h 8 0xa9).trans (issue?_stopEv hi))
  refine Completes.imp fence ?_
  rintro g rfl
  refine ⟨advanced_of hi 8 0xa9 _ rfl rfl (advance_rwait s i h 8 0xa9), by rw [Group.releaseAll_eq], ?_⟩
  rw [withMoved_releaseAll]
  exact (congrArg (fun x : Group => { x with oldv := i.g.oldv }) (advance_moved s i h 8 0xa9) :)

end

end Sys2Proof.Machine

namespace Sys2Proof
open Machine

/-- Settles O35: each instruction by its rule above. -/
theorem tileInstructions : Obligations.TileInstructions := by
  intro s h o i t hi runs free granted c
  refine ⟨fun role => ⟨tkacq_takes hi free granted role runs, fun other elsewhere ne => tkacq_waits hi free granted role runs elsewhere ne,
    tkrel_gives_back hi free granted role runs, fun held => ⟨accld_copies hi free granted role held, fun named => ?_, ?_⟩⟩,
    opfence_completes hi free⟩
  · obtain ⟨u, run, bytes, acc⟩ := accst_copies hi free granted role held named
    refine ⟨u, run, bytes, fun l q lane hq => ?_, fun n away => ?_⟩
    · rw [acc]
      exact sget_ssets_accPairs _ (fun e => sget i.g.v e.2) lane hq
    · rw [acc]
      exact sget_ssets_accPairs_of_ne _ (fun e => sget i.g.v e.2) away
  · obtain ⟨u, run, bytes, acc⟩ := accz_clears hi free granted role held
    refine ⟨u, run, bytes, fun l q lane hq => ?_, fun n away => ?_⟩
    · rw [acc]
      exact sget_ssets_accPairs (r := 0) _ (fun _ => 0) lane hq
    · rw [acc]
      exact sget_ssets_accPairs_of_ne _ (fun _ => 0) away

end Sys2Proof
end

section
/-! SUPPORT. Loads, stores and atomics at their issue (R233 to R244): outside a transaction, without a violation and without a stall, every
lane's access is launched at its place. -/

namespace Sys2Proof.Machine
open Claims

/-! ### Nothing stops the issue -/

/-- A fold that at each element appends to a list and touches nothing else maps that list. -/
theorem foldl_appends {α β γ : Type} {step : List β × γ → α → List β × γ} {f : α → β} (h : ∀ a e, step a e = (a.1 ++ [f e], a.2))
    (l : List α) (a : List β × γ) : l.foldl step a = (a.1 ++ l.map f, a.2) := by
  induction l generalizing a with
  | nil => rw [List.map_nil, List.append_nil, List.foldl_nil]
  | cons e r ih => rw [List.foldl_cons, ih, h, List.map_cons, List.append_assoc, List.singleton_append]

theorem accLanes_exe {o : MOps} {m : LaneMask} {l : Nat} (h : l ∈ accLanes o m) : m.getLsbD l = true := by
  unfold accLanes at h
  split at h
  · exact (mem_lanesOf.mp (List.mem_of_mem_take h)).2
  · exact (mem_lanesOf.mp h).2

theorem accLanes_zero (o : MOps) : accLanes o 0 = [] := by
  unfold accLanes
  rw [lanesOf_zero, List.take_nil, ite_self]

section
variable {s : State} {i : Issue} {o : MOps} {sp : MemSpace}

/-- Lanes that commit no violation give no fault (R420, R421). -/
theorem memFaults_nil {store : Bool} (v : List Nat)
    (tame : ∀ l ∈ accLanes o i.exe, ∀ n ∈ [1, 2, 3, 4, 5], s.violates i o sp store o.t.bytes l n = false) : memFaults o sp store v s i = [] := by
  have clean : ∀ n ∈ [1, 2, 3, 4, 5], (accLanes o i.exe).filter (fun l => s.violates i o sp store o.t.bytes l n) = [] := fun n hn =>
    List.filter_eq_nil_iff.mpr (fun l hl => ne_true_of_eq_false (tame l hl n hn))
  have none_found : [1, 2, 3, 4, 5].find? (fun n => maskOf ((accLanes o i.exe).filter (fun l => s.violates i o sp store o.t.bytes l n)) != 0) = none :=
    List.find?_eq_none.mpr (fun n hn => by
      rw [clean n hn]
      decide)
  unfold memFaults
  dsimp only
  rw [none_found, ite_self]

/-- No counter is full, and the binding entry of a peer is bound (R32, R78). -/
theorem memHold_none {load : Bool} (room : (if load then i.g.lc else i.g.sc) < 63)
    (bound : sp = .peer → bndBound (s.binding i o.peer.toNat) = true) : memHold o sp load s i = none := by
  unfold memHold
  dsimp only
  split
  · rfl
  · rw [if_neg (Nat.not_le.mpr room), if_neg]
    simp only [Bool.and_eq_true, beq_iff_eq, Bool.not_eq_true', not_and, Bool.not_eq_false]
    rintro ⟨peer, open_⟩
    exact absurd (bound peer) (ne_true_of_eq_false open_)

/-- Outside transactions no lane accesses memory through one (R249). -/
theorem txLanes_zero (out : sp = .global → i.exe &&& i.g.intx = 0) : txLanes o sp i = 0 := by
  unfold txLanes
  split
  · next global =>
    rw [List.filter_eq_nil_iff.mpr (fun l hl => ?_)]
    · rfl
    · have off := congrArg (fun m => BitVec.getLsbD m l) (out (eq_of_beq global))
      rw [BitVec.getLsbD_and, accLanes_exe hl, Bool.true_and] at off
      rw [off]
      simp
  · rfl

theorem places_of_none (acc : Access) (size : Nat) : (s.places { i with exe := 0 } o sp acc size).1 = [] := by
  unfold State.places
  dsimp only
  rw [accLanes_zero]
  split <;> rfl

theorem txHold_none {load : Bool} (out : sp = .global → i.exe &&& i.g.intx = 0) (room : (if load then i.g.lc else i.g.sc) < 63)
    (bound : sp = .peer → bndBound (s.binding i o.peer.toNat) = true) : txHold o sp load s i = none := by
  unfold txHold
  rw [memHold_none room bound, txLanes_zero out]
  dsimp only
  rw [places_of_none, List.any_nil, if_neg Bool.false_ne_true]

theorem txBad_zero (part : Nat) (l : List (Nat × BitVec 64 × Place)) : s.txBad part 0 l = false :=
  List.any_eq_false.mpr (fun e _ => by simp)

end

/-! ### The access in flight (R237) -/

section
variable (s : State) (i : Issue) (len opc : Nat) {op : MemOp}

/-- A load or an atomic is counted in `lc`. -/
theorem launch_read (h : op.kind = .load ∨ op.kind = .atomic) : s.launch i len opc op = s.modGroup i.gk (fun g => { g with
    nextOp := g.nextOp + 1, lc := g.lc + 1,
    ops := g.ops ++ [{ op with
      id := g.nextOp, exe := i.exe, next := BitVec.ofNat 32 (i.pc + len), opc := opc, at_ := i.pc,
      ords := ssets [] (op.accs.map (fun a => (a.lane, BitVec.ofNat 16 (s.regionOrd g a.lane)))) }] }) := by
  have read : (op.kind == .load || op.kind == .atomic) = true := by simpa using h
  simp only [State.launch, read, if_true]

/-- A store or a release is counted in `sc`. -/
theorem launch_write (h : op.kind = .store ∨ op.kind = .release) : s.launch i len opc op = s.modGroup i.gk (fun g => { g with
    nextOp := g.nextOp + 1, sc := g.sc + 1,
    ops := g.ops ++ [{ op with
      id := g.nextOp, exe := i.exe, next := BitVec.ofNat 32 (i.pc + len), opc := opc, at_ := i.pc,
      ords := ssets [] (op.accs.map (fun a => (a.lane, BitVec.ofNat 16 (s.regionOrd g a.lane)))) }] }) := by
  have write : (op.kind == .load || op.kind == .atomic) = false := by rcases h with h | h <;> rw [h] <;> rfl
  simp only [State.launch, write, Bool.false_eq_true, if_false]

end

/-! ### The three shapes -/

theorem execLoad_launches {mk : Hdr → MOps → Instr} {opc : Nat} {sp : MemSpace} (run : ∀ h o s, exec (mk h o) s = execLoad opc sp h o s) :
    LoadLaunches mk opc sp := by
  intro s h o i hi named runs out free room bound tame pl w translated some_
  have tx : txLanes o sp i = 0 := txLanes_zero out
  rw [run]
  unfold execLoad
  extract_lets size scal v
  rw [perform_next _ _ _ _ hi (fun e => out (by simp only [Bool.and_eq_true, beq_iff_eq] at e; exact e.1))
    (by rw [named.common (allRoles _ _ rfl), memFaults_nil v tame]; rfl) named.waits (fun _ _ => free) (txHold_none out (load := true) room bound), ← issued,
    if_neg runs, translated, tx]
  simp only [List.isEmpty_nil, Bool.not_true, txBad_zero, Bool.false_eq_true, if_false]
  rw [foldl_appends (f := fun e => { lane := e.1, va := e.2.1, place := e.2.2, size := size })
    (fun a e => by split <;> simp)]
  dsimp only [List.nil_append, State.abortLanes]
  rw [if_neg (by simpa using some_), launch_read w i o.len opc (.inl rfl)]
  simp only [List.map_map, Function.comp_def]
  rfl

theorem execStore_launches {mk : Hdr → MOps → Instr} {opc : Nat} {sp : MemSpace} (run : ∀ h o s, exec (mk h o) s = execStore opc sp h o s) :
    StoreLaunches mk opc sp := by
  intro s h o i hi named runs out free room bound tame pl w translated some_
  have tx : txLanes o sp i = 0 := txLanes_zero (fun _ => out)
  rw [run]
  unfold execStore
  extract_lets size scal v
  rw [perform_next _ _ _ _ hi (fun _ => out) (by rw [named.common (allRoles _ _ rfl), memFaults_nil v tame]; rfl) named.waits (fun _ _ => free)
    (txHold_none (fun _ => out) (load := false) room bound), ← issued,
    if_neg runs, translated, tx]
  simp only [List.isEmpty_nil, Bool.not_true, txBad_zero, Bool.false_eq_true, if_false]
  rw [foldl_appends (f := fun e => {
      lane := e.1, va := e.2.1, place := e.2.2, size := size,
      data := BitVec.ofNat 64 ((if scal then (i.g.sr o.b.toNat).toNat else i.g.vread o.t o.b.toNat e.1) % 2 ^ (8 * size)) })
    (fun a e => by split <;> simp)]
  dsimp only [List.nil_append, State.abortLanes]
  rw [if_neg (by simpa using some_), launch_write w i o.len opc (by dsimp only; split <;> simp)]
  simp only [List.map_map, Function.comp_def]
  rfl

theorem execAtomic_launches {mk : Hdr → MOps → Instr} {opc : Nat} {sp : MemSpace} (near : sp ≠ .peer)
    (run : ∀ h o s, exec (mk h o) s = execAtomic opc sp h o s) : AtomicLaunches mk opc sp := by
  intro s h o i hi step named runs out free room tame pl w translated
  rw [run]
  unfold execAtomic
  extract_lets size scal cas b v
  rw [perform_next _ _ _ _ hi (fun _ => out) (by rw [named.common (allRoles _ _ rfl), memFaults_nil v tame]; rfl) named.waits (fun _ _ => free)
    (memHold_none (load := true) room (fun peer => absurd peer near)), ← issued,
    if_neg runs, translated]
  simp only [List.isEmpty_nil, Bool.not_true, Bool.false_eq_true, if_false]
  rw [launch_read w i o.len opc (.inr rfl)]
  have swaps : (!decide cas) = decide (o.aop ≠ .cas) := (decide_not ..).symm
  simp only [List.map_map, Function.comp_def, swaps, decide_eq_true_eq]
  rfl

/-! ### PREF and FENCE (R116, R241, R242) -/

section
variable {s : State} {h : Hdr} {o : MOps} {i : Issue} (hi : s.issue? h = some i)
include hi

/-- An issue whose effect is one of the caches alone: its group, but for TRIG, moves past it, and cores, teams and partitions stay. -/
theorem issued_cacheEffect_finish {u : State} {len opc : Nat} (touched : CacheEffect (issued s i h len opc) u) :
    ∃ g, (u.finish i.gk).group? i.gk = some g ∧ (g.withMoved i.g).unrung = i.g.unrung ∧ Advanced i h len g ∧
      (∀ k, k ≠ i.gk → ((u.finish i.gk).group? k).map Group.unrung = (s.group? k).map Group.unrung) ∧ (u.finish i.gk).teams = s.teams ∧
      (u.finish i.gk).parts = s.parts ∧ ∀ c, ((u.finish i.gk).core c).withCounts (s.core c) = s.core c := by
  have frame := issued_frame s i h len opc
  obtain ⟨g, hg, same⟩ := touched.group (issued_advanced s i h len opc)
  have exited : g.exited = i.g.exited := (congrArg Group.exited same).trans (advance_exited s i h len opc)
  have stop : g.stopEv = i.g.stopEv := (congrArg Group.stopEv same).trans (advance_stopEv s i h len opc)
  rw [issued_finish hi hg exited stop]
  refine ⟨g.releaseAll, by rw [State.group_setGroup, if_pos rfl], ?_, ?_, fun k other => ?_, touched.teams, touched.parts, fun c => ?_⟩
  · rw [withMoved_releaseAll]
    exact (congrArg (fun x : Group => (x.withMoved i.g).unrung) same :).trans (congrArg Group.unrung (advance_moved s i h len opc) :)
  · exact advanced_of hi len opc g (congrArg Group.pcv same :) (congrArg Group.epcv same :) ((congrArg Group.rwait same).trans (advance_rwait s i h len opc))
  · rw [State.group_setGroup, if_neg other, touched.groups, frame.groups k other]
  · rw [State.core_setGroup, State.core, touched.cores]
    exact frame.cores c

/-- PREF fetches lines into the caches and does nothing else (R241). -/
theorem pref_fetches (named : i.Free false (addrV o .global) (addrS o)) (free : i.exe ≠ 0 → i.g.acquiring = false) :
    ∃ u : State, exec (.pref h o) s = .next (u.finish i.gk) ∧ CacheEffect (issued s i h o.len 0x97) u := by
  show ∃ u : State, execPref h o s = .next (u.finish i.gk) ∧ _
  unfold execPref
  extract_lets v
  refine ⟨_, perform_next { len := o.len, opc := 0x97, v := v, s := if o.am = .vec then [] else [o.a.toNat], access := true } _ _ _ hi
    (fun e => absurd e Bool.false_ne_true) (by rw [named.common (allRoles _ _ rfl)]; rfl) named.waits (fun _ => free) rfl, ?_⟩
  refine .foldl (fun t l => ?_) _ _
  dsimp only
  refine .ite (.refl t) ?_
  have translated := coreXlate_cacheEffect t (coreOf i.gk) i.g.part .pref (effAddr i.g o .global 1 l).toNat
  split
  · next w reached => rwa [reached] at translated
  · next pa w reached =>
    rw [reached] at translated
    refine translated.trans (.ite (.refl w) (.foldl (fun u j => ?_) _ _))
    have sector := CacheEffect.ite (c := u.isPeer pa = true) (loadEffects_cacheEffect u none none ((pa / 256 * 4 + j) * 64))
      ((conflict_cacheEffect u none ((pa / 256 * 4 + j) * 64) false).trans (l2Fill_cacheEffect _ ((pa / 256 * 4 + j) / 4)))
    exact .ite (.refl u) (.ite sector (coreLoad_cacheEffect ..))

end

theorem fenceWaits_iff {g : Group} {ord : Ord} :
    g.fenceWaits ord = true ↔ ∃ p ∈ g.ops, p.kind = .load ∨ p.kind = .atomic ∨ p.kind = .snapshot ∨ ord ≠ .acq := by
  simp only [Group.fenceWaits, List.any_eq_true, Bool.or_eq_true, beq_iff_eq, bne_iff_ne, or_assoc]

/-- The window for which a FENCE at NODE scope waits (R116). -/
def fenceWindow (o : MOps) (s : State) (i : Issue) : Option State :=
  if o.scope = .node ∧ o.ord ≠ .acq ∧ s.clock.unsync = false then
    match i.g.fenceWin with
    | none => some (s.modGroup i.gk (fun g => { g with fenceWin := some s.window }))
    | some n => if s.clock.now < (n + 2) * s.clock.winLen + 128 then some s else none
  else none

/-- What keeps a FENCE from issuing (R242): accesses in flight that it orders, and then its window. -/
def fenceHold (o : MOps) (s : State) (i : Issue) : Option State :=
  if i.exe = 0 then none else if i.g.fenceWaits o.ord then some s else fenceWindow o s i

/-- What a FENCE does as it issues (R91, R242). -/
def State.fenced (s : State) (o : MOps) (gk : Nat) : State :=
  let u := s.modGroup gk (fun g => { g with fenceWin := none })
  if o.scope = .node ∧ o.ord ≠ .rel then u.leaseAcquire else u

theorem exec_fence (h : Hdr) (o : MOps) (s : State) : exec (.fence h o) s =
    perform s h { len := 8, opc := 0x98, noTx := true } noFaults (fenceHold o) (fun s i => if i.exe = 0 then s else s.fenced o i.gk) := by
  show execFence h o s = _
  simp only [execFence, Bool.and_eq_true, decide_eq_true_eq, bne_iff_ne, Bool.not_eq_true', and_assoc] <;> rfl

section
variable {s : State} {h : Hdr} {o : MOps} {i : Issue} (hi : s.issue? h = some i) (out : i.exe &&& i.g.intx = 0)
include hi out

/-- A FENCE that nothing keeps back issues (R242). -/
theorem fence_issues (clear : fenceHold o s i = none) :
    EffectIs (.fence h o) s i h 8 0x98 (fun u => if i.exe = 0 then u else u.fenced o i.gk) := by
  have none_named := i.free_nil false
  rw [EffectIs, exec_fence, perform_next _ _ _ _ hi (fun _ => out) (by rw [none_named.common (allRoles _ _ rfl)]; rfl) none_named.waits
    (fun e => absurd e Bool.false_ne_true) clear]
  rfl

/-- A FENCE that something keeps back stalls (R205, R242). -/
theorem fence_stalls {u : State} (kept : fenceHold o s i = some u) : exec (.fence h o) s = .next u := by
  have none_named := i.free_nil false
  rw [exec_fence]
  exact perform_held _ _ hi (fun _ => out) (by rw [none_named.common (allRoles _ _ rfl)]; rfl) none_named.waits
    (fun e => absurd e Bool.false_ne_true) kept

/-- A FENCE of no lane only moves on (R24). -/
theorem fence_of_none (idle : i.exe = 0) : Claims.MovesPast (exec (.fence h o) s) s i h 8 := by
  have run : exec (.fence h o) s = _ := fence_issues hi out (if_pos idle)
  dsimp only at run
  rw [run, if_pos idle]
  exact issued_finish_movesPast hi 8 0x98

section
variable (runs : i.exe ≠ 0)
include runs

/-- A FENCE stalls behind an access in flight that it orders (R242). -/
theorem fence_behind (waits : ∃ p ∈ i.g.ops, p.kind = .load ∨ p.kind = .atomic ∨ p.kind = .snapshot ∨ o.ord ≠ .acq) :
    exec (.fence h o) s = .next s :=
  fence_stalls hi out (by rw [fenceHold, if_neg runs, if_pos (fenceWaits_iff.mpr waits)])

variable (past : ∀ p ∈ i.g.ops, p.kind ≠ .load ∧ p.kind ≠ .atomic ∧ p.kind ≠ .snapshot ∧ o.ord = .acq)
include past

omit hi out in
/-- Without such an access its window alone keeps it (R116). -/
theorem fenceHold_past : fenceHold o s i = fenceWindow o s i := by
  have clear : ¬i.g.fenceWaits o.ord = true := fun waits => by
    obtain ⟨p, hp, kept⟩ := fenceWaits_iff.mp waits
    obtain ⟨load, atomic, snapshot, acq⟩ := past p hp
    simp [load, atomic, snapshot, acq] at kept
  rw [fenceHold, if_neg runs, if_neg clear]

/-- A FENCE whose accesses are performed issues, at NODE scope once its window has passed (R116, R242). -/
theorem fence_past (passed : o.scope ≠ .node ∨ o.ord = .acq ∨ s.clock.unsync = true ∨
    ∃ n, i.g.fenceWin = some n ∧ (n + 2) * s.clock.winLen + 128 ≤ s.clock.now) : EffectIs (.fence h o) s i h 8 0x98 (fun u => u.fenced o i.gk) := by
  have clear : fenceHold o s i = none := by
    rw [fenceHold_past runs past, fenceWindow]
    rcases passed with far | acq | unsync | ⟨n, begun, ended⟩
    · exact if_neg (fun e => far e.1)
    · exact if_neg (fun e => e.2.1 acq)
    · exact if_neg (fun e => ne_true_of_eq_false e.2.2 unsync)
    · rw [begun]
      dsimp only
      rw [if_neg (Nat.not_lt.mpr ended), ite_self]
  have run : exec (.fence h o) s = _ := fence_issues hi out clear
  rw [EffectIs, run]
  dsimp only
  rw [if_neg runs]

/-- A FENCE at NODE scope begins to wait with the window in which it could first issue (R116). -/
theorem fence_begins (far : o.scope = .node) (orders : o.ord ≠ .acq) (sync : s.clock.unsync = false) (new : i.g.fenceWin = none) :
    exec (.fence h o) s = .next (s.modGroup i.gk (fun g => { g with fenceWin := some (s.clock.now / s.clock.winLen) })) :=
  fence_stalls hi out (by
    rw [fenceHold_past runs past, fenceWindow, if_pos ⟨far, orders, sync⟩, new]
    rfl)

end

end

end Sys2Proof.Machine

namespace Sys2Proof
open Machine

theorem launches : Claims.Launches :=
  ⟨execLoad_launches (fun _ _ _ => rfl), execLoad_launches (fun _ _ _ => rfl), execLoad_launches (fun _ _ _ => rfl), execLoad_launches (fun _ _ _ => rfl),
    execStore_launches (fun _ _ _ => rfl), execStore_launches (fun _ _ _ => rfl), execStore_launches (fun _ _ _ => rfl),
    execAtomic_launches (by decide) (fun _ _ _ => rfl), execAtomic_launches (by decide) (fun _ _ _ => rfl)⟩

/-- PREF (R241). -/
theorem pref_keeps {s : State} {h : Hdr} {o : MOps} {i : Issue} (hi : s.issue? h = some i) (named : i.Free false (Claims.addrV o .global) (Claims.addrS o))
    (free : i.exe ≠ 0 → i.g.acquiring = false) :
    ∃ t g, exec (.pref h o) s = .next t ∧ t.group? i.gk = some g ∧ (g.withMoved i.g).unrung = i.g.unrung ∧ Advanced i h o.len g ∧
      (∀ k, k ≠ i.gk → (t.group? k).map Group.unrung = (s.group? k).map Group.unrung) ∧ t.teams = s.teams ∧ t.parts = s.parts ∧
      (∀ c, (t.core c).withCounts (s.core c) = s.core c) := by
  obtain ⟨u, run, touched⟩ := pref_fetches hi named free
  obtain ⟨g, rest⟩ := issued_cacheEffect_finish hi touched
  exact ⟨_, g, run, rest⟩

/-- Settles O23: the three shapes of an access, the prefetch by its effect on the caches, the fence by what keeps it. -/
theorem accessesLaunch : Obligations.AccessesLaunch := by
  refine ⟨launches, fun s h o i hi named free => pref_keeps hi named free, fun s h o i hi out => ⟨fence_of_none hi out, fence_behind hi out, ?_⟩⟩
  intro past
  exact ⟨fun runs => fence_past hi out runs, fun runs => fence_begins hi out runs⟩

end Sys2Proof
end
